-- ==== Sys2Proof/Word.lean ====
section
/-! DEFINITION. The machine's words: the 64-bit register and the byte (R11, R17), and the places that
split a word into bytes, least significant byte first. -/

namespace Sys2Proof

/-- A 64-bit register, address or k-register (R17, R34). -/
abbrev Word := BitVec 64

/-- One byte of memory (R11). -/
abbrev Byte := BitVec 8

/-- The whole contents of a lane-file or queue entry: 1,024 bytes (R21, R25). -/
abbrev Lanes := BitVec 8192

/-- A predicate register: 1,024 bits (R20). -/
abbrev Pred := BitVec 1024

end Sys2Proof
end

