-- ==== Sys2Proof/Machine/Numbers.lean ====
section
/-! DEFINITION. Numbers to the bit: exact values, the flags a helper records, and the rounding helpers
of R73 to R85 for integers, the IEEE formats, the narrow formats, PICOT8 and block scaling. -/

namespace Sys2Proof.Machine

/-- Rounding modes of ACR.RM (R39): to nearest even, to zero, down, up, and mediant. -/
inductive RMode where
  | rne | rz | rd | ru | rm
  deriving DecidableEq, Repr

/-- The mode a legal ACR.RM names. -/
def RMode.ofBits : Nat → RMode
  | 0 => .rne
  | 1 => .rz
  | 2 => .rd
  | 3 => .ru
  | _ => .rm

/-- What a helper records (R73): the flags as EVAL orders them (bit 5 SAT, 4 NV, 3 DZ, 2 OF, 1 UF, 0 NX)
and the counts it adds to SATCNT and UNDCNT. -/
structure Fx where
  flags : BitVec 6
  sat : Nat
  und : Nat
  deriving DecidableEq, Repr

def Fx.none : Fx := { flags := 0, sat := 0, und := 0 }
def Fx.nx : Fx := { flags := 1, sat := 0, und := 0 }
def Fx.uf : Fx := { flags := 2, sat := 0, und := 0 }
def Fx.of_ : Fx := { flags := 4, sat := 0, und := 0 }
def Fx.dz : Fx := { flags := 8, sat := 0, und := 0 }
def Fx.nv : Fx := { flags := 16, sat := 0, und := 0 }
def Fx.satF : Fx := { flags := 32, sat := 0, und := 0 }
def Fx.countSat : Fx := { flags := 0, sat := 1, und := 0 }
def Fx.countUnd : Fx := { flags := 0, sat := 0, und := 1 }

/-- Two records together. -/
def Fx.and (a b : Fx) : Fx := { flags := a.flags ||| b.flags, sat := a.sat + b.sat, und := a.und + b.und }

/-- A record if a condition holds. -/
def Fx.when (c : Bool) (a : Fx) : Fx := if c then a else Fx.none

/-- An exact value: a NaN, a slash NaR, an infinity, or a finite magnitude num/den with a sign (the
sign of a zero included). -/
inductive Val where
  | nan (signalling : Bool)
  | nar
  | inf (neg : Bool)
  | fin (neg : Bool) (num den : Nat)
  deriving DecidableEq, Repr

/-- The finite value of an integer. -/
def Val.ofInt (x : Int) : Val := .fin (decide (x < 0)) x.natAbs 1

/-- The signed numerator of a finite value; 0 for the others. -/
def Val.num : Val → Int
  | .fin neg n _ => if neg then -(n : Int) else n
  | _ => 0

/-- The denominator of a finite value. -/
def Val.den : Val → Nat
  | .fin _ _ d => d
  | _ => 1

/-- The value with its sign inverted. -/
def Val.neg : Val → Val
  | .inf s => .inf (!s)
  | .fin s n d => .fin (!s) n d
  | v => v

/-- The magnitude of a value. -/
def Val.abs : Val → Val
  | .inf _ => .inf false
  | .fin _ n d => .fin false n d
  | v => v

/-- The sign of a value. -/
def Val.sign : Val → Bool
  | .inf s => s
  | .fin s _ _ => s
  | _ => false

def Val.isNan : Val → Bool
  | .nan _ => true
  | .nar => true
  | _ => false

def Val.isSig : Val → Bool
  | .nan s => s
  | _ => false

def Val.isInf : Val → Bool
  | .inf _ => true
  | _ => false

def Val.isZero : Val → Bool
  | .fin _ n _ => n == 0
  | _ => false

/-- A finite value with the sign and magnitude of num/den; `zneg` gives the sign of a zero. -/
def Val.ofFrac (num : Int) (den : Nat) (zneg : Bool) : Val :=
  if num = 0 then .fin zneg 0 1 else .fin (decide (num < 0)) num.natAbs den

/-- ⌊log2 (num/den)⌋ for a positive fraction. -/
def fracLog2 (num den : Nat) : Int :=
  let d : Int := (Nat.log2 num : Int) - (Nat.log2 den : Int)
  if 0 ≤ d then (if num < den * 2 ^ d.toNat then d - 1 else d)
  else (if num * 2 ^ (-d).toNat < den then d - 1 else d)

/-- num/den divided by 2^e, as a fraction of naturals. -/
def fracShift (num den : Nat) (e : Int) : Nat × Nat :=
  if 0 ≤ e then (num, den * 2 ^ e.toNat) else (num * 2 ^ (-e).toNat, den)

/-- A non-negative fraction rounded to an integer, with the exactness of the result. `neg` is the sign
the magnitude stands under. -/
def roundFrac (mode : RMode) (neg : Bool) (num den : Nat) : Nat × Bool :=
  let q := num / den
  let r := num % den
  let up : Bool :=
    match mode with
    | .rz => false
    | .rd => neg && decide (r ≠ 0)
    | .ru => !neg && decide (r ≠ 0)
    | _ => decide (den < 2 * r) || (decide (2 * r = den) && decide (q % 2 = 1))
  (if up then q + 1 else q, decide (r = 0))

/-- A positive fraction rounded to `prec` significant bits with least quantum exponent `qmin`: the
significand, the exponent of its unit, and exactness. -/
def roundPrec (mode : RMode) (neg : Bool) (num den prec : Nat) (qmin : Int) : Nat × Int × Bool :=
  let e0 := fracLog2 num den - (prec : Int) + 1
  let e := if e0 < qmin then qmin else e0
  let (n', d') := fracShift num den e
  let (m, ex) := roundFrac mode neg n' d'
  (m, e, ex)

/-- A binary interchange format: fraction bits, bias, code of the largest finite magnitude, and the
place of the sign bit (R76, R79). -/
structure Fmt where
  frac : Nat
  bias : Nat
  maxCode : Nat
  signBit : Nat
  deriving DecidableEq, Repr

def fmtBF16 : Fmt := { frac := 7, bias := 127, maxCode := 0x7F7F, signBit := 15 }
def fmtF16 : Fmt := { frac := 10, bias := 15, maxCode := 0x7BFF, signBit := 15 }
def fmtF32 : Fmt := { frac := 23, bias := 127, maxCode := 0x7F7FFFFF, signBit := 31 }
def fmtF64 : Fmt := { frac := 52, bias := 1023, maxCode := 0x7FEFFFFFFFFFFFFF, signBit := 63 }
def fmtE4M3 : Fmt := { frac := 3, bias := 7, maxCode := 0x7E, signBit := 7 }
def fmtE5M2 : Fmt := { frac := 2, bias := 15, maxCode := 0x7B, signBit := 7 }
def fmtE2M1 : Fmt := { frac := 1, bias := 1, maxCode := 0x7, signBit := 3 }

/-- A magnitude code under a sign. -/
def Fmt.signed (f : Fmt) (neg : Bool) (code : Nat) : Nat := if neg then code + 2 ^ f.signBit else code

/-- The code of +∞ in an IEEE format. -/
def Fmt.infCode (f : Fmt) : Nat := f.maxCode + 1

/-- The canonical NaN of an IEEE format (R76). -/
def Fmt.nanCode (f : Fmt) : Nat := f.infCode + 2 ^ (f.frac - 1)

/-- The value of a finite magnitude code. -/
def Fmt.finite (f : Fmt) (neg : Bool) (mag : Nat) : Val :=
  let ex := mag / 2 ^ f.frac
  let m := mag % 2 ^ f.frac
  let sig := if ex = 0 then m else m + 2 ^ f.frac
  let e : Int := (if ex = 0 then 1 else (ex : Int)) - (f.bias : Int) - (f.frac : Int)
  if sig = 0 then .fin neg 0 1
  else if 0 ≤ e then .fin neg (sig * 2 ^ e.toNat) 1 else .fin neg sig (2 ^ (-e).toNat)

/-- The value of a code of an IEEE format (R76, R77). -/
def Fmt.ieeeValue (f : Fmt) (code : Nat) : Val :=
  let neg := decide (code / 2 ^ f.signBit % 2 = 1)
  let mag := code % 2 ^ f.signBit
  if mag = f.infCode then .inf neg
  else if f.infCode < mag then .nan (decide (mag / 2 ^ (f.frac - 1) % 2 = 0))
  else f.finite neg mag

/-- The value of a code of E4M3, E5M2 or E2M1 (R79). Only the formats of R76 have signalling NaNs, so every
NaN of a narrow format is quiet. DEDUCED, log 118. -/
def Fmt.narrowValue (f : Fmt) (code : Nat) : Val :=
  let neg := decide (code / 2 ^ f.signBit % 2 = 1)
  let mag := code % 2 ^ f.signBit
  if f.frac = 2 ∧ mag = 0x7C then .inf neg
  else if f.frac = 2 ∧ 0x7C < mag then .nan false
  else if f.frac = 3 ∧ mag = 0x7F then .nan false
  else f.finite neg mag

/-- The magnitude code of significand m in units of 2^e, with no limit above. -/
def Fmt.codeOf (f : Fmt) (m : Nat) (e : Int) : Nat :=
  (e + (f.frac : Int) + (f.bias : Int) - 1).toNat * 2 ^ f.frac + m

/-- The least quantum exponent of a format. -/
def Fmt.qmin (f : Fmt) : Int := 1 - (f.bias : Int) - (f.frac : Int)

/-- RM acts as RNE outside slash results (R39). -/
def RMode.plain (m : RMode) : RMode := if m = .rm then .rne else m

/-- A value rounded into an IEEE format (R78). -/
def roundIeee (f : Fmt) (v : Val) (mode : RMode) : Nat × Fx :=
  match v with
  | .nan s => (f.nanCode, Fx.when s .nv)
  | .nar => (f.nanCode, .none)
  | .inf neg => (f.signed neg f.infCode, .none)
  | .fin neg 0 _ => (f.signed neg 0, .none)
  | .fin neg num den =>
    let mode := mode.plain
    let (m, e, ex) := roundPrec mode neg num den (f.frac + 1) f.qmin
    let code := f.codeOf m e
    if f.maxCode < code then
      let toInf := mode = .rne ∨ (mode = .ru ∧ neg = false) ∨ (mode = .rd ∧ neg = true)
      (f.signed neg (if toInf then f.infCode else f.maxCode), Fx.and .of_ .nx)
    else if ex then (f.signed neg code, .none)
    else
      let (m2, e2, _) := roundPrec mode neg num den (f.frac + 1) (fracLog2 num den - (f.frac : Int))
      let tiny := decide ((Nat.log2 m2 : Int) + e2 < 1 - (f.bias : Int))
      (f.signed neg code, Fx.and .nx (Fx.when tiny .uf))

/-- A value rounded into E4M3, E5M2 or E2M1 (R81); always to nearest even. -/
def roundNarrow (f : Fmt) (v : Val) (satinf : Bool) : Nat × Fx :=
  let nan (s : Bool) : Nat × Fx :=
    if f.frac = 1 then (0, .nv)
    else (if f.frac = 3 then 0x7F else 0x7E, Fx.when s .nv)
  let beyond (neg : Bool) : Nat × Fx :=
    let fx := Fx.and .of_ (Fx.and .nx .countSat)
    if satinf ∧ f.frac = 2 then (f.signed neg 0x7C, fx)
    else if satinf ∧ f.frac = 3 then (f.signed neg 0x7F, fx)
    else (f.signed neg f.maxCode, fx)
  match v with
  | .nan s => nan s
  | .nar => nan false
  | .inf neg => if satinf ∧ f.frac = 2 then (f.signed neg 0x7C, .none) else beyond neg
  | .fin neg 0 _ => (f.signed neg 0, .none)
  | .fin neg num den =>
    let (m, e, ex) := roundPrec .rne neg num den (f.frac + 1) f.qmin
    let code := f.codeOf m e
    if f.maxCode < code then beyond neg
    else
      let fx := Fx.when (!ex) .nx
      if m = 0 then (f.signed neg 0, Fx.and fx (Fx.and .uf .countUnd))
      else (f.signed neg code, Fx.and fx (Fx.when (!ex && decide (code < 2 ^ f.frac)) .uf))

/-- The value of an E8M0 code (R80); 0xFF is a NaN. -/
def e8m0Value (code : Nat) : Val :=
  if code = 0xFF then .nan false
  else if 127 ≤ code then .fin false (2 ^ (code - 127)) 1 else .fin false 1 (2 ^ (127 - code))

/-- One PICOT8 term in 64ths, for a sign and exponent (R82). -/
def picotTerm (s e : Nat) : Int := if e = 7 then 0 else if s = 1 then -(2 ^ (6 - e) : Int) else 2 ^ (6 - e)

/-- The value of a PICOT8 code (R82): its two terms together, in 64ths. -/
def picotValue (code : Nat) : Val :=
  Val.ofFrac (picotTerm (code / 128 % 2) (code / 16 % 8) + picotTerm (code / 8 % 2) (code % 8)) 64 false

/-- The encodings with s1 = 0 and no zero term of sign 1 that R83 picks from, in ascending e1 then e2,
with their values in 64ths; of those with value zero only 0x77, as R83 takes zero with e1 = 7. -/
def picotCodes : List (Nat × Int) :=
  ((List.range 8).flatMap (fun e1 => (List.range 8).flatMap (fun e2 =>
    [(e1 * 16 + e2, picotTerm 0 e1 + picotTerm 0 e2),
     (e1 * 16 + 8 + e2, picotTerm 0 e1 + picotTerm 1 e2)]))).filter
    (fun c => (decide (c.1 % 16 ≠ 15)) && (decide (c.2 ≠ 0) || decide (c.1 = 0x77)))

/-- The first listed encoding nearest to num/den. -/
def picotNearest (num den : Nat) : List (Nat × Int) → Nat × Int → Nat × Int
  | [], best => best
  | c :: r, best =>
    if (c.2 * (den : Int) - 64 * (num : Int)).natAbs < (best.2 * (den : Int) - 64 * (num : Int)).natAbs
    then picotNearest num den r c else picotNearest num den r best

/-- A value rounded into PICOT8 (R83). -/
def picotRound (v : Val) : Nat × Fx :=
  let go (neg : Bool) (num den : Nat) (fx : Fx) : Nat × Fx :=
    let (code, val) := picotNearest num den picotCodes (0, 128)
    let fx := Fx.and fx (Fx.when (decide (val * (den : Int) ≠ 64 * (num : Int))) .nx)
    if val = 0 then (0x77, Fx.and fx (Fx.and .uf .countUnd))
    else if neg then ((code + 0x80) ^^^ (if code % 8 = 7 then 0 else 8), fx)
    else (code, fx)
  let beyond (neg : Bool) : Nat × Fx := go neg 2 1 (Fx.and .of_ (Fx.and .nx .countSat))
  match v with
  | .nan _ => (0x77, .nv)
  | .nar => (0x77, .nv)
  | .inf neg => beyond neg
  | .fin _ 0 _ => (0x77, .none)
  | .fin neg num den => if 2 * den < num then beyond neg else go neg num den .none

/-- Whether an integer tag is signed, and its width: codes 1 to 7 of R31. -/
def intTag (tag : Nat) : Option (Bool × Nat) :=
  match tag with
  | 1 => some (true, 8)
  | 2 => some (false, 8)
  | 3 => some (true, 16)
  | 4 => some (false, 16)
  | 5 => some (true, 32)
  | 6 => some (false, 32)
  | 7 => some (true, 64)
  | _ => none

/-- The smallest and largest value of an integer type (R74). -/
def intMin (signed : Bool) (w : Nat) : Int := if signed then -(2 ^ (w - 1) : Int) else 0
def intMax (signed : Bool) (w : Nat) : Int := if signed then 2 ^ (w - 1) - 1 else 2 ^ w - 1

/-- The integer that a code of width w holds. -/
def intValue (signed : Bool) (w code : Nat) : Int :=
  let c := code % 2 ^ w
  if signed ∧ 2 ^ (w - 1) ≤ c then (c : Int) - 2 ^ w else c

/-- The code of an integer, taken modulo 2^w (R74, wrap). -/
def intCode (w : Nat) (x : Int) : Nat := (x % (2 ^ w : Int)).toNat

/-- R74, sat: the value clamped to its type, with SAT where it was outside. -/
def intSat (signed : Bool) (w : Nat) (x : Int) : Int × Fx :=
  if intMax signed w < x then (intMax signed w, .satF)
  else if x < intMin signed w then (intMin signed w, .satF)
  else (x, .none)

/-- A value rounded to an integer type (R75). -/
def intRound (signed : Bool) (w : Nat) (v : Val) (mode : RMode) : Int × Fx :=
  match v with
  | .nan _ => (0, .nv)
  | .nar => (0, .nv)
  | .inf neg => (if neg then intMin signed w else intMax signed w, Fx.and .nv .countSat)
  | .fin neg num den =>
    let (m, ex) := roundFrac mode.plain neg num den
    let y : Int := if neg then -(m : Int) else m
    let fx := Fx.when (!ex) .nx
    if intMax signed w < y ∨ y < intMin signed w then
      (if neg then intMin signed w else intMax signed w, Fx.and fx (Fx.and .nv .countSat))
    else (y, fx)

/-- R85: the exponent of the largest finite value of a narrow tag. -/
def emax (tag : Nat) : Int :=
  match tag with
  | 0x08 => 8
  | 0x09 => 15
  | _ => 2

/-- R85, mx_scale: a block's scale code from its maximum. `top` is emax of the tag. -/
def mxScale (amax : Val) (top : Int) : Nat × Fx :=
  match amax with
  | .nan _ => (0xFF, .none)
  | .nar => (0xFF, .none)
  | .inf _ => (0xFF, .none)
  | .fin _ 0 _ => (0, .none)
  | .fin _ num den =>
    let e := fracLog2 num den - top
    if e < -127 then (0, .uf)
    else if 127 < e then (0xFE, .none)
    else ((e + 127).toNat, .none)

/-- A finite value times 2^e; the others unchanged. -/
def Val.scale (v : Val) (e : Int) : Val :=
  match v with
  | .fin neg n d => if 0 ≤ e then .fin neg (n * 2 ^ e.toNat) d else .fin neg n (d * 2 ^ (-e).toNat)
  | w => w

/-- R85, mx_value: an element's value under scale code X. -/
def mxValue (v : Val) (x : Nat) : Val := if x = 0xFF then .nan false else v.scale ((x : Int) - 127)

/-- The order of two values, where neither is a NaN: −∞ below everything, zeros equal. -/
def Val.lt (a b : Val) : Bool :=
  match a, b with
  | .inf s, .inf t => s && !t
  | .inf s, .fin .. => s
  | .fin .., .inf t => !t
  | .fin s n d, .fin t m e =>
    decide ((if s then -(n : Int) else n) * (e : Int) < (if t then -(m : Int) else m) * (d : Int))
  | _, _ => false

/-- The equality of two values, where neither is a NaN; −0 equals +0. -/
def Val.eqv (a b : Val) : Bool :=
  match a, b with
  | .inf s, .inf t => s == t
  | .fin s n d, .fin t m e =>
    decide ((if s then -(n : Int) else n) * (e : Int) = (if t then -(m : Int) else m) * (d : Int))
  | _, _ => false

/-- ⌊√n⌋, found bit by bit from bit k − 1 down. -/
def isqrtAux (n : Nat) : Nat → Nat → Nat
  | 0, r => r
  | k + 1, r => isqrtAux n k (if (r + 2 ^ k) * (r + 2 ^ k) ≤ n then r + 2 ^ k else r)

/-- ⌊√n⌋. -/
def isqrt (n : Nat) : Nat := isqrtAux n (Nat.log2 n / 2 + 1) 0

/-- √(num/den) to enough bits that rounding to any format of at most 53 bits is that of the exact root:
a fraction with denominator 2^k whose lowest bit is sticky. -/
def sqrtFrac (num den : Nat) : Nat × Nat :=
  let k := 70 + (Nat.log2 den + 1)
  let q := num * 4 ^ k / den
  let r := isqrt q
  let exact := decide (r * r = q) && decide (num * 4 ^ k % den = 0)
  (2 * r + (if exact then 0 else 1), 2 ^ (k + 1))

end Sys2Proof.Machine
end

