-- ==== Sys2Proof/Config.lean ====
section
/-! DEFINITION. What an implementation fixes, and the free values: what the manual leaves open. A free
value is an opaque constant: nothing in Lean can compute it, so a theorem about it holds for every
value it could have. -/

namespace Sys2Proof.Config

/-- FREE VALUE (DESIGN CHOICE, log 7). For each special function whose result R140 gives only within 1 ulp
(4 vtanh, 5 vsin, 6 vcos, 7 verf), each source tag and each source code: which of the values within
the bound the part returns. A given input always gives the same bits (R140). -/
opaque sfuPick (form tag code : Nat) : Nat

/-- FREE VALUE (DESIGN CHOICE, log 8). The extra core cycles of a result whose latency R96, R178 or R190 does not
fix; the argument is the counter State.free. -/
opaque latency (k : Nat) : Nat

/-- FREE VALUE (DESIGN CHOICE, log 10). SHA-384 of a list of bytes, as R418 and R419 use it. -/
opaque sha384 (bytes : List Byte) : BitVec 384

/-- FREE VALUE (DESIGN CHOICE, log 10). Whether the two signatures and the two key digests of the firmware image at a
physical address verify (R418); the argument is the image's bytes. -/
opaque signaturesVerify (bytes : List Byte) : Bool

/-- FREE VALUE (DESIGN CHOICE, log 10). The firmware image that the part comes with (R418). -/
opaque flash : List Byte

/-- FREE VALUE (DESIGN CHOICE, log 10). What the configuration record of an image says, whose layout R418 leaves open: the
interleaved HBM mode, PWRCAP, RETCFG and the enabled ports. -/
opaque interleaved (image : List Byte) : Bool
opaque powerCap (image : List Byte) : Nat
opaque retention (image : List Byte) : Word
opaque enabledPorts (image : List Byte) : Nat

/-- FREE VALUE (DESIGN CHOICE, log 10). The RSA signature that an SPDM response carries (R419). -/
opaque rsaSignature (transcript : List Byte) : BitVec 3072

/-- FREE VALUE (DESIGN CHOICE, log 10). The SLH-DSA signature that the opaque element of an SPDM response carries
(R419): 16,224 bytes, as R418 gives its length. -/
opaque slhSignature (transcript : List Byte) : List Byte

/-- FREE VALUE (DESIGN CHOICE, log 10). The certificate chain that a slot serves (R419). -/
opaque certificate (slot : Nat) : List Byte

/-- FREE VALUE (DESIGN CHOICE, log 10). The security version fused into the part: the reset value of SVNMIN (R406). -/
opaque fusedSvn : Nat

/-- FREE VALUE (DESIGN CHOICE, log 10). The measured contents of index 1, the ROM, and 4, the fuses (R419). -/
opaque measured (index : Nat) : List Byte

/-- FREE VALUE (DESIGN CHOICE, log 10). The configuration record of an image, which is measured under index 3 (R418,
R419). -/
opaque configurationRecord (image : List Byte) : List Byte

/-- FREE VALUE (DESIGN CHOICE, log 11, 137, 141). A value that the manual names and does not give: the word of a missing
launch record, a host's answer to the CXL that a port offers, a line of an ended member's registers. The argument is
the counter State.free. -/
opaque choice (k : Nat) : Nat

/-- FREE VALUE (DESIGN CHOICE, log 144). How a host completes a read through a port (R412): modulo 3, 0 with the bytes,
1 with unsupported request or completer abort, 2 with a poisoned completion. The arguments are the package clock, the
counter State.free and the address. -/
opaque hostCompletion (cyc k pa : Nat) : Nat

/-- FREE VALUE (DESIGN CHOICE, log 12). The zero code of tag 0x0A where an instruction without a format suffix needs
one: R95 gives 0x00 for E2M1 and 0x77 for PICOT8, and R32 says the tag does not record which. True is
0x77. -/
opaque zero0A : Bool

end Sys2Proof.Config
end

