-- ==== Sys2Proof/Syntax.lean ====
section
/-! DEFINITION. The syntax of Fuwen's instructions and events: one constructor of `Instr` per row of
spec/opcode_table.json. A row with an encoding carries its fields (R49, R50, R55); a row that names
an event of the part (a packet delivered, a timer, a host command) carries what tells one occurrence
of the event from another. `Slot` is an instruction with the P and C bits of its word (R48). -/

namespace Sys2Proof

/-- The value of an immediate field of `w` bits (R53): read from the word alone as a signed value, or,
after a literal prefix, the combined immediate of `24 + w` bits. -/
inductive Imm (w : Nat) where
  | short (v : BitVec w)
  | long (v : BitVec (24 + w))
  deriving DecidableEq, Repr

/-- Where an uncorrectable error is found (R274, R355 to R357). -/
inductive ErrorPlace where
  | scalar                     -- a g, f or p register, a k-register or the program counter (R357)
  | sfuBuffer                  -- the SFU result buffer (R357)
  | lane (entry : Nat)         -- a physical lane-file entry (R356)
  | row (row : Nat)            -- a physical Hoop row (R356)
  | queue (q index : Nat)      -- an operand-queue entry (R356)
  | memory (pa : Nat)          -- a word of memory (R355)
  | tlb                        -- a TLB entry (R357)
  | cache (pa : Nat)           -- a scalar data cache line (R357)
  | knot                       -- knot state or a hold buffer (R316, R357)
  deriving DecidableEq, Repr

/-- What trains at bring-up (R405). -/
inductive TrainUnit where
  | edge (index : Nat)         -- one of the 13 die-to-die edges (R2)
  | stack (index : Nat)        -- one of the 16 HBM stacks (R333)
  | hostPort (io : Nat)        -- the host port of I/O die 0 or 9
  deriving DecidableEq, Repr

/-- The instructions and events of the part: one constructor per row of the opcode table. In the
fields, `d`, `a` and `b` are register numbers, `imm` and `off` immediates, `pr` a predicate number,
`sel` a region, slice or selector, `tag` a tag code and `q` the qualifier of tag 0x0A. -/
inductive Instr where
  -- ALU, major 0x01, format S (R98, R99)
  | add (d : BitVec 6) (a : BitVec 6) (b : BitVec 6)
  | sub (d : BitVec 6) (a : BitVec 6) (b : BitVec 6)
  | and_ (d : BitVec 6) (a : BitVec 6) (b : BitVec 6)
  | or_ (d : BitVec 6) (a : BitVec 6) (b : BitVec 6)
  | xor_ (d : BitVec 6) (a : BitVec 6) (b : BitVec 6)
  | andn (d : BitVec 6) (a : BitVec 6) (b : BitVec 6)
  | orn (d : BitVec 6) (a : BitVec 6) (b : BitVec 6)
  | sll (d : BitVec 6) (a : BitVec 6) (b : BitVec 6)
  | srl (d : BitVec 6) (a : BitVec 6) (b : BitVec 6)
  | sra (d : BitVec 6) (a : BitVec 6) (b : BitVec 6)
  | rol (d : BitVec 6) (a : BitVec 6) (b : BitVec 6)
  | ror (d : BitVec 6) (a : BitVec 6) (b : BitVec 6)
  | slt (d : BitVec 6) (a : BitVec 6) (b : BitVec 6)
  | sltn (d : BitVec 6) (a : BitVec 6) (b : BitVec 6)
  | min (d : BitVec 6) (a : BitVec 6) (b : BitVec 6)
  | max (d : BitVec 6) (a : BitVec 6) (b : BitVec 6)
  | minn (d : BitVec 6) (a : BitVec 6) (b : BitVec 6)
  | maxn (d : BitVec 6) (a : BitVec 6) (b : BitVec 6)
  | mul (d : BitVec 6) (a : BitVec 6) (b : BitVec 6)
  | mulh (d : BitVec 6) (a : BitVec 6) (b : BitVec 6)
  | mulhn (d : BitVec 6) (a : BitVec 6) (b : BitVec 6)
  | div (d : BitVec 6) (a : BitVec 6) (b : BitVec 6)
  | divn (d : BitVec 6) (a : BitVec 6) (b : BitVec 6)
  | rem (d : BitVec 6) (a : BitVec 6) (b : BitVec 6)
  | remn (d : BitVec 6) (a : BitVec 6) (b : BitVec 6)
  | clz (d : BitVec 6) (a : BitVec 6)
  | ctz (d : BitVec 6) (a : BitVec 6)
  | popc (d : BitVec 6) (a : BitVec 6)
  | bext (d : BitVec 6) (a : BitVec 6) (b : BitVec 6)
  | bdep (d : BitVec 6) (a : BitVec 6) (b : BitVec 6)
  | sext (d : BitVec 6) (a : BitVec 6) (n : BitVec 6)
  | zext (d : BitVec 6) (a : BitVec 6) (n : BitVec 6)
  -- Immediates and constants, majors 0x02 to 0x0A (R100 to R102)
  | addi (d : BitVec 6) (a : BitVec 6) (imm : Imm 12)
  | andi (d : BitVec 6) (a : BitVec 6) (imm : Imm 12)
  | ori (d : BitVec 6) (a : BitVec 6) (imm : Imm 12)
  | xori (d : BitVec 6) (a : BitVec 6) (imm : Imm 12)
  | slli (d : BitVec 6) (a : BitVec 6) (sh : BitVec 6)
  | srli (d : BitVec 6) (a : BitVec 6) (sh : BitVec 6)
  | srai (d : BitVec 6) (a : BitVec 6) (sh : BitVec 6)
  | rori (d : BitVec 6) (a : BitVec 6) (sh : BitVec 6)
  | slti (d : BitVec 6) (a : BitVec 6) (imm : Imm 12)
  | sltni (d : BitVec 6) (a : BitVec 6) (imm : Imm 12)
  | lui (d : BitVec 6) (imm : Imm 12)
  | pcadd (d : BitVec 6) (imm : Imm 12)
  -- Branches and jumps, majors 0x0B to 0x12 (R103, R104)
  | beq (a : BitVec 6) (b : BitVec 6) (off : Imm 12)
  | bne (a : BitVec 6) (b : BitVec 6) (off : Imm 12)
  | blt (a : BitVec 6) (b : BitVec 6) (off : Imm 12)
  | bge (a : BitVec 6) (b : BitVec 6) (off : Imm 12)
  | bltn (a : BitVec 6) (b : BitVec 6) (off : Imm 12)
  | bgen (a : BitVec 6) (b : BitVec 6) (off : Imm 12)
  | jal (off : Imm 24)
  | jalr (d : BitVec 6) (a : BitVec 6) (imm : Imm 12)
  -- The counted loop, major 0x13 (R105)
  | loop (len : BitVec 6) (a : BitVec 6) (stg : BitVec 3) (rote : BitVec 1)
  | loopEndIteration
  -- SYS, major 0x14 (R109)
  | trap (a : BitVec 6)
  | eret
  | wfe
  | yield
  | halt
  | brk
  | nop
  | ifence
  -- KREG, major 0x15 (R114)
  | kread (d : BitVec 6) (k : BitVec 12)
  | kwrite (d : BitVec 6) (k : BitVec 12)
  | kset (d : BitVec 6) (k : BitVec 12)
  | kclr (d : BitVec 6) (k : BitVec 12)
  -- Scalar loads and stores, majors 0x16 and 0x17 (R177)
  | ldb (d : BitVec 6) (a : BitVec 6) (off : Imm 9)
  | ldh (d : BitVec 6) (a : BitVec 6) (off : Imm 9)
  | ldw (d : BitVec 6) (a : BitVec 6) (off : Imm 9)
  | ldd (d : BitVec 6) (a : BitVec 6) (off : Imm 9)
  | ldbn (d : BitVec 6) (a : BitVec 6) (off : Imm 9)
  | ldhn (d : BitVec 6) (a : BitVec 6) (off : Imm 9)
  | ldwn (d : BitVec 6) (a : BitVec 6) (off : Imm 9)
  | stb (d : BitVec 6) (a : BitVec 6) (off : Imm 9)
  | sth (d : BitVec 6) (a : BitVec 6) (off : Imm 9)
  | stw (d : BitVec 6) (a : BitVec 6) (off : Imm 9)
  | std (d : BitVec 6) (a : BitVec 6) (off : Imm 9)
  -- SCOPED, major 0x18 (R180)
  | ldacqb (d : BitVec 6) (a : BitVec 6) (scope : BitVec 3)
  | ldacqh (d : BitVec 6) (a : BitVec 6) (scope : BitVec 3)
  | ldacqw (d : BitVec 6) (a : BitVec 6) (scope : BitVec 3)
  | ldacqd (d : BitVec 6) (a : BitVec 6) (scope : BitVec 3)
  | strelb (d : BitVec 6) (a : BitVec 6) (scope : BitVec 3)
  | strelh (d : BitVec 6) (a : BitVec 6) (scope : BitVec 3)
  | strelw (d : BitVec 6) (a : BitVec 6) (scope : BitVec 3)
  | streld (d : BitVec 6) (a : BitVec 6) (scope : BitVec 3)
  -- Atomics, majors 0x19 to 0x1B (R181)
  | amoswap (d : BitVec 6) (a : BitVec 6) (b : BitVec 6) (scope : BitVec 3)
  | amoadd (d : BitVec 6) (a : BitVec 6) (b : BitVec 6) (scope : BitVec 3)
  | amoand (d : BitVec 6) (a : BitVec 6) (b : BitVec 6) (scope : BitVec 3)
  | amoor (d : BitVec 6) (a : BitVec 6) (b : BitVec 6) (scope : BitVec 3)
  | amoxor (d : BitVec 6) (a : BitVec 6) (b : BitVec 6) (scope : BitVec 3)
  | amomax (d : BitVec 6) (a : BitVec 6) (b : BitVec 6) (scope : BitVec 3)
  | amomin (d : BitVec 6) (a : BitVec 6) (b : BitVec 6) (scope : BitVec 3)
  | amomaxn (d : BitVec 6) (a : BitVec 6) (b : BitVec 6) (scope : BitVec 3)
  | amorswap (d : BitVec 6) (a : BitVec 6) (b : BitVec 6) (scope : BitVec 3)
  | amoradd (d : BitVec 6) (a : BitVec 6) (b : BitVec 6) (scope : BitVec 3)
  | amorand (d : BitVec 6) (a : BitVec 6) (b : BitVec 6) (scope : BitVec 3)
  | amoror (d : BitVec 6) (a : BitVec 6) (b : BitVec 6) (scope : BitVec 3)
  | amorxor (d : BitVec 6) (a : BitVec 6) (b : BitVec 6) (scope : BitVec 3)
  | amormax (d : BitVec 6) (a : BitVec 6) (b : BitVec 6) (scope : BitVec 3)
  | amormin (d : BitVec 6) (a : BitVec 6) (b : BitVec 6) (scope : BitVec 3)
  | amormaxn (d : BitVec 6) (a : BitVec 6) (b : BitVec 6) (scope : BitVec 3)
  | cas (d : BitVec 6) (a : BitVec 6) (b : BitVec 6) (scope : BitVec 3)
  -- FENCE, major 0x1C (R183)
  | fenceAcq (scope : BitVec 3)
  | fenceRel (scope : BitVec 3)
  | fenceAcqrel (scope : BitVec 3)
  -- BAR, major 0x1D (R208)
  | binit (a : BitVec 6) (n : BitVec 9)
  | barrive (d : BitVec 6) (n : BitVec 9)
  | bwait (d : BitVec 6) (a : BitVec 6) (n : BitVec 9)
  | bsync (d : BitVec 6) (n : BitVec 9)
  | bxch (d : BitVec 6) (n : BitVec 9)
  | btest (d : BitVec 6) (n : BitVec 9)
  | bbind (a : BitVec 6) (n : BitVec 9)
  -- HOST, major 0x1E (R214)
  | publish (d : BitVec 6) (a : BitVec 6)
  | pubwait (d : BitVec 6) (a : BitVec 6) (b : BitVec 6)
  -- FPU, major 0x1F (R116)
  | fadd (d : BitVec 5) (a : BitVec 5) (b : BitVec 5) (z : BitVec 1)
  | fsub (d : BitVec 5) (a : BitVec 5) (b : BitVec 5) (z : BitVec 1)
  | fmul (d : BitVec 5) (a : BitVec 5) (b : BitVec 5) (z : BitVec 1)
  | fdiv (d : BitVec 5) (a : BitVec 5) (b : BitVec 5) (z : BitVec 1)
  | fsqrt (d : BitVec 5) (a : BitVec 5) (z : BitVec 1)
  | fmadd (d : BitVec 5) (a : BitVec 5) (b : BitVec 5) (z : BitVec 1)
  | fmin (d : BitVec 5) (a : BitVec 5) (b : BitVec 5) (z : BitVec 1)
  | fmax (d : BitVec 5) (a : BitVec 5) (b : BitVec 5) (z : BitVec 1)
  | feq (d : BitVec 6) (a : BitVec 5) (b : BitVec 5) (z : BitVec 1)
  | flt (d : BitVec 6) (a : BitVec 5) (b : BitVec 5) (z : BitVec 1)
  | fle (d : BitVec 6) (a : BitVec 5) (b : BitVec 5) (z : BitVec 1)
  | fcvt (d : BitVec 6) (a : BitVec 6) (code : BitVec 6) (z : BitVec 1)
  | fmvg (d : BitVec 6) (a : BitVec 5) (z : BitVec 1)
  | fmvf (d : BitVec 5) (a : BitVec 6) (z : BitVec 1)
  | fclass (d : BitVec 6) (a : BitVec 5) (z : BitVec 1)
  | fsgnj (d : BitVec 5) (a : BitVec 5) (b : BitVec 5) (z : BitVec 1)
  -- Vector arithmetic, majors 0x20 to 0x26 (R136 to R144)
  | vadd (d : BitVec 6) (a : BitVec 6) (b : BitVec 6) (pr : BitVec 3)
  | vsub (d : BitVec 6) (a : BitVec 6) (b : BitVec 6) (pr : BitVec 3)
  | vmul (d : BitVec 6) (a : BitVec 6) (b : BitVec 6) (pr : BitVec 3)
  | vmulh (d : BitVec 6) (a : BitVec 6) (b : BitVec 6) (pr : BitVec 3)
  | vmin (d : BitVec 6) (a : BitVec 6) (b : BitVec 6) (pr : BitVec 3)
  | vmax (d : BitVec 6) (a : BitVec 6) (b : BitVec 6) (pr : BitVec 3)
  | vminn (d : BitVec 6) (a : BitVec 6) (b : BitVec 6) (pr : BitVec 3)
  | vmaxn (d : BitVec 6) (a : BitVec 6) (b : BitVec 6) (pr : BitVec 3)
  | vand (d : BitVec 6) (a : BitVec 6) (b : BitVec 6) (pr : BitVec 3)
  | vor (d : BitVec 6) (a : BitVec 6) (b : BitVec 6) (pr : BitVec 3)
  | vxor (d : BitVec 6) (a : BitVec 6) (b : BitVec 6) (pr : BitVec 3)
  | vandn (d : BitVec 6) (a : BitVec 6) (b : BitVec 6) (pr : BitVec 3)
  | vsll (d : BitVec 6) (a : BitVec 6) (b : BitVec 6) (pr : BitVec 3)
  | vsrl (d : BitVec 6) (a : BitVec 6) (b : BitVec 6) (pr : BitVec 3)
  | vsra (d : BitVec 6) (a : BitVec 6) (b : BitVec 6) (pr : BitVec 3)
  | vrol (d : BitVec 6) (a : BitVec 6) (b : BitVec 6) (pr : BitVec 3)
  | vfadd (d : BitVec 6) (a : BitVec 6) (b : BitVec 6) (pr : BitVec 3)
  | vfsub (d : BitVec 6) (a : BitVec 6) (b : BitVec 6) (pr : BitVec 3)
  | vfmul (d : BitVec 6) (a : BitVec 6) (b : BitVec 6) (pr : BitVec 3)
  | vfmin (d : BitVec 6) (a : BitVec 6) (b : BitVec 6) (pr : BitVec 3)
  | vfmax (d : BitVec 6) (a : BitVec 6) (b : BitVec 6) (pr : BitVec 3)
  | vfmacc (d : BitVec 6) (a : BitVec 6) (b : BitVec 6) (pr : BitVec 3)
  | vfnmacc (d : BitVec 6) (a : BitVec 6) (b : BitVec 6) (pr : BitVec 3)
  | vfdiv (d : BitVec 6) (a : BitVec 6) (b : BitVec 6) (pr : BitVec 3)
  | vfsqrt (d : BitVec 6) (a : BitVec 6) (pr : BitVec 3)
  | vfabs (d : BitVec 6) (a : BitVec 6) (pr : BitVec 3)
  | vfneg (d : BitVec 6) (a : BitVec 6) (pr : BitVec 3)
  | vabs (d : BitVec 6) (a : BitVec 6) (pr : BitVec 3)
  | vneg (d : BitVec 6) (a : BitVec 6) (pr : BitVec 3)
  | vnot (d : BitVec 6) (a : BitVec 6) (pr : BitVec 3)
  | vclz (d : BitVec 6) (a : BitVec 6) (pr : BitVec 3)
  | vpopc (d : BitVec 6) (a : BitVec 6) (pr : BitVec 3)
  | vceq (d : BitVec 3) (a : BitVec 6) (b : BitVec 6) (pr : BitVec 3)
  | vcne (d : BitVec 3) (a : BitVec 6) (b : BitVec 6) (pr : BitVec 3)
  | vclt (d : BitVec 3) (a : BitVec 6) (b : BitVec 6) (pr : BitVec 3)
  | vcle (d : BitVec 3) (a : BitVec 6) (b : BitVec 6) (pr : BitVec 3)
  | vcltn (d : BitVec 3) (a : BitVec 6) (b : BitVec 6) (pr : BitVec 3)
  | vclen (d : BitVec 3) (a : BitVec 6) (b : BitVec 6) (pr : BitVec 3)
  | vcflt (d : BitVec 3) (a : BitVec 6) (b : BitVec 6) (pr : BitVec 3)
  | vcfle (d : BitVec 3) (a : BitVec 6) (b : BitVec 6) (pr : BitVec 3)
  | vexp2 (d : BitVec 6) (a : BitVec 6) (pr : BitVec 3)
  | vrcp (d : BitVec 6) (a : BitVec 6) (pr : BitVec 3)
  | vrsq (d : BitVec 6) (a : BitVec 6) (pr : BitVec 3)
  | vlog2 (d : BitVec 6) (a : BitVec 6) (pr : BitVec 3)
  | vtanh (d : BitVec 6) (a : BitVec 6) (pr : BitVec 3)
  | vsin (d : BitVec 6) (a : BitVec 6) (pr : BitVec 3)
  | vcos (d : BitVec 6) (a : BitVec 6) (pr : BitVec 3)
  | verf (d : BitVec 6) (a : BitVec 6) (pr : BitVec 3)
  | vrsum (d : BitVec 6) (a : BitVec 6) (pr : BitVec 3)
  | vrfsum (d : BitVec 6) (a : BitVec 6) (pr : BitVec 3)
  | vrmax (d : BitVec 6) (a : BitVec 6) (pr : BitVec 3)
  | vrmin (d : BitVec 6) (a : BitVec 6) (pr : BitVec 3)
  | vramax (d : BitVec 6) (a : BitVec 6) (pr : BitVec 3)
  | vrand (d : BitVec 6) (a : BitVec 6) (pr : BitVec 3)
  | vror (d : BitVec 6) (a : BitVec 6) (pr : BitVec 3)
  | vrxor (d : BitVec 6) (a : BitVec 6) (pr : BitVec 3)
  -- Permutes and bits, majors 0x27 and 0x28 (R145, R146)
  | vgather (d : BitVec 6) (a : BitVec 6) (b : BitVec 6) (pr : BitVec 3)
  | vslideup (d : BitVec 6) (a : BitVec 6) (b : BitVec 6) (pr : BitVec 3)
  | vslidedn (d : BitVec 6) (a : BitVec 6) (b : BitVec 6) (pr : BitVec 3)
  | vcompress (d : BitVec 6) (a : BitVec 6) (pr : BitVec 3)
  | vexpand (d : BitVec 6) (a : BitVec 6) (pr : BitVec 3)
  | vzip (d : BitVec 6) (a : BitVec 6) (b : BitVec 6) (pr : BitVec 3)
  | vunzip (d : BitVec 6) (a : BitVec 6) (pr : BitVec 3)
  | vbcast (d : BitVec 6) (a : BitVec 6) (b : BitVec 6) (pr : BitVec 3)
  | vshlw (d : BitVec 6) (a : BitVec 6) (b : BitVec 6)
  | vshrw (d : BitVec 6) (a : BitVec 6) (b : BitVec 6)
  | vfunl (d : BitVec 6) (a : BitVec 6) (b : BitVec 6)
  | vfunr (d : BitVec 6) (a : BitVec 6) (b : BitVec 6)
  | vrevb (d : BitVec 6) (a : BitVec 6) (pr : BitVec 3)
  | vbswap (d : BitVec 6) (a : BitVec 6) (pr : BitVec 3)
  | vclzw (d : BitVec 6) (a : BitVec 6)
  | vpopw (d : BitVec 6) (a : BitVec 6)
  -- Conversion and quantisation, majors 0x29 to 0x2B (R218 to R234)
  | vcvt (d : BitVec 6) (a : BitVec 6) (q : BitVec 1) (tag : BitVec 5) (pr : BitVec 3)
  | vcvts (d : BitVec 6) (a : BitVec 6) (q : BitVec 1) (tag : BitVec 5) (pr : BitVec 3)
  | vpack (d : BitVec 6) (a : BitVec 6) (b : BitVec 6) (pr : BitVec 3)
  | vunpack (d : BitVec 6) (a : BitVec 6) (b : BitVec 6) (pr : BitVec 3)
  | vretag (d : BitVec 6) (a : BitVec 6) (tag : BitVec 5)
  | vdeq (d : BitVec 6) (a : BitVec 6) (b : BitVec 6) (pr : BitVec 3)
  | vqnt (d : BitVec 6) (a : BitVec 6) (b : BitVec 6) (pr : BitVec 3)
  | vround (d : BitVec 6) (a : BitVec 6) (pr : BitVec 3)
  | vbamax (d : BitVec 6) (a : BitVec 6) (q : BitVec 1) (tag : BitVec 5) (pr : BitVec 3)
  | vbscale (d : BitVec 6) (a : BitVec 6) (q : BitVec 1) (tag : BitVec 5) (pr : BitVec 3)
  | vbqnt (d : BitVec 6) (a : BitVec 6) (q : BitVec 1) (tag : BitVec 5) (pr : BitVec 3)
  | vdot4s (d : BitVec 6) (a : BitVec 6) (b : BitVec 6) (pr : BitVec 3)
  | vdot2f (d : BitVec 6) (a : BitVec 6) (b : BitVec 6) (pr : BitVec 3)
  | vsladd (d : BitVec 6) (a : BitVec 6) (b : BitVec 6) (pr : BitVec 3)
  | vslsub (d : BitVec 6) (a : BitVec 6) (b : BitVec 6) (pr : BitVec 3)
  | vslmul (d : BitVec 6) (a : BitVec 6) (b : BitVec 6) (pr : BitVec 3)
  | vsldiv (d : BitVec 6) (a : BitVec 6) (b : BitVec 6) (pr : BitVec 3)
  | vslmed (d : BitVec 6) (a : BitVec 6) (b : BitVec 6) (pr : BitVec 3)
  | vslcvt (d : BitVec 6) (a : BitVec 6) (b : BitVec 6) (pr : BitVec 3)
  | vslcanon (d : BitVec 6) (a : BitVec 6) (pr : BitVec 3)
  | vslcmp (d : BitVec 6) (a : BitVec 6) (b : BitVec 6) (pr : BitVec 3)
  -- Moves and length, majors 0x2C and 0x2D (R147 to R150)
  | vmv (d : BitVec 6) (a : BitVec 6) (pr : BitVec 3)
  | vsplat (d : BitVec 6) (a : BitVec 6) (pr : BitVec 3)
  | vextg (d : BitVec 6) (a : BitVec 6) (b : BitVec 6)
  | vinsg (d : BitVec 6) (a : BitVec 6) (b : BitVec 6)
  | vid (d : BitVec 6) (pr : BitVec 3)
  | vmovxRead (d : BitVec 6) (b : BitVec 6)
  | vmovxWrite (a : BitVec 6) (b : BitVec 6)
  | vmskv (d : BitVec 6) (a : BitVec 3)
  | vmvp (d : BitVec 3) (a : BitVec 6)
  | vsetvl (d : BitVec 6) (a : BitVec 6) (b : BitVec 6)
  | vcoll (d : BitVec 6) (a : BitVec 6) (b : BitVec 6)
  -- Vector memory, majors 0x2E to 0x30 (R184)
  | vldu (d : BitVec 6) (a : BitVec 6) (mk : BitVec 1) (mfc : BitVec 2)
  | vlds (d : BitVec 6) (a : BitVec 6) (b : BitVec 6) (mk : BitVec 1) (mfc : BitVec 2)
  | vldx (d : BitVec 6) (a : BitVec 6) (b : BitVec 6) (mk : BitVec 1) (mfc : BitVec 2)
  | vstu (d : BitVec 6) (a : BitVec 6) (mk : BitVec 1) (mfc : BitVec 2) (uo : BitVec 1)
  | vsts (d : BitVec 6) (a : BitVec 6) (b : BitVec 6) (mk : BitVec 1) (mfc : BitVec 2) (uo : BitVec 1)
  | vstx (d : BitVec 6) (a : BitVec 6) (b : BitVec 6) (mk : BitVec 1) (mfc : BitVec 2) (uo : BitVec 1)
  | vldtr (d : BitVec 6) (a : BitVec 6) (b : BitVec 6) (mk : BitVec 1) (mfc : BitVec 2)
  | vldwin (d : BitVec 6) (a : BitVec 6) (b : BitVec 6) (mk : BitVec 1) (mfc : BitVec 2)
  | vldz (d : BitVec 6) (a : BitVec 6) (b : BitVec 6) (mfc : BitVec 2)
  -- Copies, major 0x31 (R197)
  | cpy (d : BitVec 6) (a : BitVec 6) (b : BitVec 6)
  | cpyt (d : BitVec 6) (a : BitVec 6) (b : BitVec 6)
  | cpymc (d : BitVec 6) (a : BitVec 6) (b : BitVec 6)
  | cpyh (d : BitVec 6) (a : BitVec 6) (b : BitVec 6)
  | cpycancel (d : BitVec 6) (a : BitVec 6)
  -- Tensor maps, major 0x32 (R195)
  | tmset (a : BitVec 6) (n : BitVec 3)
  | tmwalk (d : BitVec 6) (n : BitVec 3)
  | tmstep (d : BitVec 6) (a : BitVec 6) (n : BitVec 3)
  -- Queue operations, major 0x33 (R213)
  | qlen (d : BitVec 6) (a : BitVec 6)
  | qflush (a : BitVec 6)
  | qpeek (d : BitVec 6) (a : BitVec 6)
  -- Hoop, majors 0x34 to 0x38 (R151)
  | hrank (sel : BitVec 9) (a : BitVec 6) (b : BitVec 6)
  | hranks (sel : BitVec 9) (a : BitVec 6) (b : BitVec 6)
  | hrankx (sel : BitVec 9) (a : BitVec 6) (b : BitVec 6)
  | hrankg (sel : BitVec 9) (a : BitVec 6) (b : BitVec 6)
  | hget (sel : BitVec 9) (a : BitVec 6)
  | hput (sel : BitVec 9) (a : BitVec 6)
  | hzero (sel : BitVec 9) (tag : BitVec 5)
  | hacc (sel : BitVec 9) (a : BitVec 6)
  | hbiasc (sel : BitVec 9) (a : BitVec 6)
  | hbiasr (sel : BitVec 9) (a : BitVec 6)
  | hscalc (sel : BitVec 9) (a : BitVec 6)
  | hrelu (sel : BitVec 9)
  | hclamp (sel : BitVec 9) (a : BitVec 6)
  | hrq (sel : BitVec 9) (a : BitVec 6) (tag : BitVec 5)
  | hsumsq (sel : BitVec 9) (a : BitVec 6)
  | hnorm (sel : BitVec 9) (a : BitVec 6)
  | hexp2 (sel : BitVec 9)
  | hrcp (sel : BitVec 9)
  | htanh (sel : BitVec 9)
  | hrsq (sel : BitVec 9)
  | hsave (sel : BitVec 9) (a : BitVec 6) (b : BitVec 6)
  | hrest (sel : BitVec 9) (a : BitVec 6) (b : BitVec 6)
  | vsave (a : BitVec 6) (b : BitVec 6)
  | vrest (a : BitVec 6) (b : BitVec 6)
  | hdmap (sel : BitVec 9) (a : BitVec 6)
  -- TASK, major 0x39 (R122)
  | tspawn (d : BitVec 6) (a : BitVec 6) (b : BitVec 6)
  | tend (a : BitVec 6)
  | tyield
  | tbank
  | gjoin
  | gleave
  | trec (d : BitVec 6) (a : BitVec 6)
  -- Events: steps of the part that no instruction word encodes.
  | queueTimeout (q : Nat)
  | watchdog (reason : Nat)
  | timer
  | takeInterrupt
  | trapEntry (cause : Nat) (eval : Word)
  | faultWindowClose
  | scalarResultWrite (d : Nat)
  | slashResult (d : Nat)
  | scalarLoadReply (tag : Nat)
  | atomicResponse (tag : Nat)
  | vectorGroupWrite (entry : Nat)
  | vectorLoadData (entry : Nat)
  | sfuCommit
  | hsfuCommit
  | latchCommit
  | hoopRowLand (row : Nat)
  | freezeBegin (va : Word)
  | lateReplyArrival
  | correctedError (words : Nat)
  | correctionFreezeEnd
  | freezeTimeout
  | uncorrectableError (place : ErrorPlace)
  | bankSwitch
  | preempt
  | contextSave (area : Nat)
  | contextRestore (area : Nat)
  | wfeWake
  | barrierWaitRelease
  | bxchArrival
  | binitTeamComplete (n : Nat)
  | gjoinRendezvous
  | tyieldRendezvous (othersReady : Bool)
  | pubwaitSatisfied
  | publishAck (io : Nat)
  | gangBroadcastExecute
  | gangFail (member : Nat) (row : Nat) (timeout : Bool)
  | copyLineLand (id : Nat) (line : Nat)
  | copyComplete (id : Nat)
  | cpytStart (id : Nat)
  | cpyhStart (id : Nat)
  | lineWrite (src dst : Nat)
  | partialWrite (src dst : Nat)
  | readRequest (src dst : Nat)
  | atomicPacket (src dst : Nat)
  | readReply (src dst : Nat)
  | atomicOrErrorReply (src dst : Nat)
  | orderAcknowledgement (src dst : Nat)
  | knotAdvance (src dst : Nat)
  | knotFrame (src dst : Nat)
  | beacon (src dst : Nat)
  | cutAdvance (src dst : Nat)
  | removalNotice (src dst : Nat)
  | reservedKindFlit (src dst : Nat)
  | heldPacketRelease (src dst : Nat)
  | beaconSend (die : Nat)
  | forwardEntryLeave (cluster : Nat) (index : Nat)
  | atomicReplyTimeout (tag : Nat)
  | knotReset
  | cutRequest (die : Nat)
  | granulePreserve (index : Nat)
  | snapshotCopierStream (index : Nat)
  | snapshotComplete
  | freqSwitchFreeze
  | freqSwitchResume
  | retentionEntry (die bank : Nat)
  | retentionExit (die bank : Nat)
  | scrub (pa : Nat)
  | tinvAsn (io asn : Nat)
  | tinvVpn (io asn vpn : Nat)
  | tinvAll (io : Nat)
  | tinvVpnEveryAsn (io vpn : Nat)
  | invalidationComplete (io : Nat)
  | pans (io : Nat) (value : Word)
  | prtailWrite (io : Nat) (value : Word)
  | notify (io : Nat) (value : Word)
  | slotMap (io q : Nat)
  | slotUnmap (io q : Nat)
  | slotWritebackComplete (io q : Nat)
  | takeRecord (io q : Nat)
  | aliasRetire (io index : Nat)
  | taskPlace (handle : Nat) (cores : List Nat) (bank : Nat) (lfBase hBase : Nat)
  | taskPromote (handle : Nat)
  | strandStart (handle member : Nat)
  | memberStop (handle member : Nat)
  | addressSpaceDestroy (root : Nat)
  | level3
  | clock (half : Bool)
  | remove (die : Nat)
  | reset
  | fwload (pa : Nat)
  | snapshot (pa : Nat)
  | svnset (version : Nat)
  | wake (value : Word)
  | registerWrite (pa : Nat) (value : Word)
  | powerWindow (watts : Nat)
  | powerOn
  | perstPackage
  | perstLink
  | firmwareVerify
  | linkTraining (unit : TrainUnit) (ok : Bool)
  | level2Entry
  | getVersion (io : Nat)
  | getCapabilities (io : Nat)
  | negotiateAlgorithms (io : Nat)
  | getDigests (io : Nat)
  | getCertificate (io slot : Nat)
  | challenge (io slot : Nat)
  | getMeasurements (io index : Nat)
  | hostWrite (io pa : Nat) (data : List Byte) (relaxed poisoned : Bool)
  | hostRead (io pa len : Nat)
  | hostCompletionTimeout (tag : Nat)
  | rdmaWriteInbound (io : Nat) (rkey : Nat) (pa : Nat) (data : List Byte)
  | rdmaReadInbound (io : Nat) (rkey : Nat) (pa len : Nat)
  | rdmaNak (id : Nat)
  | illegalOpcode (word : BitVec 32) (offset : Nat)
  | fetchFault (va : Word)
  | spawnRecordAccept (io : Nat)
  | fconsWrite (io q : Nat) (value : BitVec 32)
  | rconsWrite (io q : Nat) (value : BitVec 32)
  | d3hot (io : Nat) (enter : Bool)
  | autoNegotiation (io port : Nat) (up : Bool)
  | priorityFlowControl (io port : Nat) (pause : Bool)
  deriving DecidableEq, Repr

/-- One instruction with the P and C bits of its word (R48): P issues it with the next one, C closes
its convoy. -/
structure Slot where
  p : Bool
  c : Bool
  instr : Instr
  deriving DecidableEq, Repr

end Sys2Proof
end

