-- ==== Sys2Proof/Machine/Store.lean ====
section
/-! DEFINITION. Sparse stores in one canonical form: a list of (key, value) pairs, keys strictly
rising, no value equal to the default that an unlisted key reads as. Memory is the store of bytes
with default 0. -/

namespace Sys2Proof.Machine

/-- The value at key `a`; `dflt` where no pair names it. -/
def Sparse.get {β : Type} (dflt : β) : List (Nat × β) → Nat → β
  | [], _ => dflt
  | (k, v) :: r, a => if a < k then dflt else if a = k then v else Sparse.get dflt r a

/-- The store with `v` at key `a`; writing the default removes the pair. -/
def Sparse.set {β : Type} [DecidableEq β] (dflt : β) : List (Nat × β) → Nat → β → List (Nat × β)
  | [], a, v => if v = dflt then [] else [(a, v)]
  | (k, w) :: r, a, v =>
    if a < k then (if v = dflt then (k, w) :: r else (a, v) :: (k, w) :: r)
    else if a = k then (if v = dflt then r else (a, v) :: r)
    else (k, w) :: Sparse.set dflt r a v

/-- Every key of the store is at or above `lo`, keys rise strictly, no value is the default. -/
def Sparse.wfFrom {β : Type} [DecidableEq β] (dflt : β) : Nat → List (Nat × β) → Bool
  | _, [] => true
  | lo, (k, v) :: r => decide (lo ≤ k) && decide (v ≠ dflt) && Sparse.wfFrom dflt (k + 1) r

/-- The canonical form of a store. -/
def Sparse.wf {β : Type} [DecidableEq β] (dflt : β) (l : List (Nat × β)) : Bool := Sparse.wfFrom dflt 0 l

/-- Physical memory: bytes by physical address. An unlisted byte reads as 0, since die SRAM, I/O-die
SRAM and HBM are written zero at bring-up (R403). DESIGN CHOICE, log 1. -/
abbrev Memory := List Host.Cell

/-- The canonical form of memory. DESIGN CHOICE, log 1. -/
def Memory.wf (m : Memory) : Bool := Sparse.wf (0 : Byte) m

/-- The byte at physical address `pa`. DESIGN CHOICE, log 1, 50. -/
def Memory.read (m : Memory) (pa : Nat) : Byte := Sparse.get (0 : Byte) m pa

/-- Memory with byte `v` at physical address `pa`. -/
def Memory.write (m : Memory) (pa : Nat) (v : Byte) : Memory := Sparse.set (0 : Byte) m pa v

/-- The `n` bytes from `pa` upward, as a little-endian number (R11, R13). -/
def Memory.readLE (m : Memory) (pa : Nat) : Nat → Nat
  | 0 => 0
  | n + 1 => (Memory.read m pa).toNat + 256 * Memory.readLE m (pa + 1) n

/-- Memory with the low `n` bytes of `x` stored little-endian from `pa` upward. -/
def Memory.writeLE (m : Memory) (pa : Nat) : Nat → Nat → Memory
  | 0, _ => m
  | n + 1, x => Memory.writeLE (Memory.write m pa (BitVec.ofNat 8 x)) (pa + 1) n (x / 256)

/-- The `n` bytes from `pa` upward, lowest address first. -/
def Memory.readBytes (m : Memory) (pa : Nat) : Nat → List Byte
  | 0 => []
  | n + 1 => Memory.read m pa :: Memory.readBytes m (pa + 1) n

/-- Memory with a list of bytes stored from `pa` upward. -/
def Memory.writeBytes (m : Memory) (pa : Nat) : List Byte → Memory
  | [] => m
  | b :: r => Memory.writeBytes (Memory.write m pa b) (pa + 1) r

/-- A strictly rising list of naturals with `a` added: a set in one canonical form. -/
def insertNat (a : Nat) : List Nat → List Nat
  | [] => [a]
  | k :: r => if a < k then a :: k :: r else if a = k then k :: r else k :: insertNat a r

/-- The first value listed under key `a` in a plain association list. -/
def assoc {β : Type} (a : Nat) : List (Nat × β) → Option β
  | [] => none
  | (k, v) :: r => if a = k then some v else assoc a r

/-- An association list with `v` under key `a`, in place where the key is already listed. -/
def assocSet {β : Type} (a : Nat) (v : β) : List (Nat × β) → List (Nat × β)
  | [] => [(a, v)]
  | (k, w) :: r => if a = k then (a, v) :: r else (k, w) :: assocSet a v r

/-- An association list without key `a`. -/
def assocErase {β : Type} (a : Nat) : List (Nat × β) → List (Nat × β)
  | [] => []
  | (k, w) :: r => if a = k then assocErase a r else (k, w) :: assocErase a r

/-- The list with the element at index `i` replaced by `f` of it. -/
def modifyNth {β : Type} (f : β → β) : List β → Nat → List β
  | [], _ => []
  | x :: r, 0 => f x :: r
  | x :: r, i + 1 => x :: modifyNth f r i

end Sys2Proof.Machine
end

