-- ==== Sys2Proof/Machine/State.lean ====
section
/-! DEFINITION. The whole state of the package as plain data: one core in focus with its two resident
contexts (R15), every other core of the package, the memories, the fabric between the dies, the I/O
dies' queues and tables, and the management block; the ways a step can stop; and the state after a
package reset (R403). -/

namespace Sys2Proof.Machine

/-- Why the machine stops. -/
inductive Fault where
  /-- Raised by a context save or restore whose save area lies, in part, at physical addresses that R332
  leaves unbacked outside the die-SRAM windows: the manual gives these engines no effect there. Safe: the run ends.
  DESIGN CHOICE, log 23. -/
  | unbackedEngineAccess (pa : Nat)
  deriving DecidableEq, Repr

/-- An instruction without a meaning. -/
inductive Refusal where
  /-- Raised by an arm of the dispatch whose instruction has no meaning yet. Safe: the run ends. -/
  | notModelled (mnemonic : String)
  deriving DecidableEq, Repr

/-- One lane-file or operand-queue entry (R21, R25), with its format tag and its poison (R356). -/
structure Entry where
  tag : BitVec 5
  data : Lanes
  poison : Bool
  deriving DecidableEq, Repr

/-- The entry that a strand start leaves: zero, tag RAW (R24). -/
def Entry.zero : Entry := { tag := 0, data := 0, poison := false }

/-- One Hoop row: 64 cells of 64 bits under one tag (R27), with its poison (R356). Cell `i` is bits
64i+63 to 64i of `cells`. -/
structure Row where
  tag : BitVec 5
  cells : BitVec 4096
  poison : Bool
  deriving DecidableEq, Repr

/-- The row that a strand start leaves: zero, tag RAW (R30). -/
def Row.zero : Row := { tag := 0, cells := 0, poison := false }

/-- What a shadow result writes at its commit (R245, R258). -/
inductive ShadowKind where
  | sfuEntry (entry : Nat)      -- a VSFU result into a logical entry
  | sfuQueue (queue : Nat)      -- a VSFU result pushed into a queue
  | bamax (entry : Nat)         -- `vbamax`: its entry, AMAXK and the latch
  | bamaxQueue (queue : Nat)    -- `vbamax` into a queue port: the push, AMAXK and the latch
  | bamaxPeer                   -- `vbamax` in a gang member above 0: AMAXK and the latch
  | bscale                      -- `vbscale`: the latch
  | hsfu (row : Nat)            -- an HSFU result into a logical row
  deriving DecidableEq, Repr

/-- A shadow result in flight: live, with the core cycle of its commit, or held, with the cycles that
remain (R245 to R247). DEDUCED, log 31. -/
structure Shadow where
  kind : ShadowKind
  at_ : Nat                     -- commit cycle while live; REM while held
  tag : BitVec 5
  flags : BitVec 6              -- NV, DZ, OF, UF, NX and SAT, as R73 orders them
  sat : Nat                     -- counts that the commit adds to SATCNT
  und : Nat                     -- counts that the commit adds to UNDCNT
  data : Lanes                  -- the entry or row as it stands after the commit
  lmask : BitVec 32             -- latch codes the commit writes
  amax : BitVec 32              -- the value AMAXK takes
  codes : BitVec 256            -- the 32 latch codes, one byte each
  poison : Bool                 -- part of the data is an entry's old, poisoned data (R356)
  deriving DecidableEq, Repr

/-- What a scoreboard entry holds back. Entries and rows are logical. -/
inductive Res where
  | g (n : Nat) | f (n : Nat) | p (n : Nat) | lane (e : Nat) | row (r : Nat) | queue (q : Nat)
  /-- The entry is still being read: a later writer waits (R135, R142). DEDUCED, log 123. -/
  | read (e : Nat)
  | vl | acr | satcnt | undcnt | amaxk | vstart | hcur
  | pipeVA | pipeVS | pipeVM | pipeHR | pipeHE0 | pipeHE1 | slash
  | window | hold
  deriving DecidableEq, Repr

/-- One scoreboard entry: the resource is busy until core cycle `due`. For a lane entry or predicate
written in element groups, `groups` holds the cycle of each group and `width` the element bits (R265);
`fresh` marks an entry or row whose dirty bit this write sets when it lands, `clears` one whose bit a save clears
when it reads it (R24, R30, R172), and `vary` a result whose time the members of a gang need not share (R270).
DEDUCED, log 114. -/
structure Busy where
  res : Res
  due : Nat
  fresh : Bool
  groups : List Nat
  width : Nat
  clears : Bool := false
  vary : Bool := false
  deriving DecidableEq, Repr

/-- What an unanswered access is. DESIGN CHOICE, log 43. -/
inductive PendKind where
  | load | atomic | spawn
  /-- DESIGN CHOICE, log 74. -/
  | released                    -- a release that is done, whose write is to come (R123, R124, R214, R286)
  | dropped                     -- its pair has trapped: the reply is discarded when it arrives
  deriving DecidableEq, Repr

/-- A cached translation: one run of granules (R341). -/
structure Tlb where
  asn : Nat
  vbase : Nat                   -- the run's first VPN
  run : Nat
  pbase : Nat                   -- the run's first physical granule
  snap : Bool
  mt : Nat
  dty : Bool
  g : Bool
  x : Bool
  w : Bool
  r : Bool
  deriving DecidableEq, Repr

/-- The answer to an access: the bytes returned, R313's reply byte 8, the poisoned words among them, and
the knot entries the reply raises (R280). DEDUCED, log 67. -/
structure Answer where
  value : Nat
  byte8 : Nat
  poison : List Nat
  raised : List (Nat × BitVec 12)
  deriving DecidableEq, Repr

/-- A scalar load, atomic, `tspawn`, `tend` or `publish` of this context whose answer is still to come
(R96, R178, R181). Where `issued` is not set, its pair issues again until the answer is there. DESIGN CHOICE, log 73. -/
structure Pending where
  kind : PendKind
  tag : Nat                     -- the transaction tag of R306
  va : Nat
  pa : Nat                      -- the first byte asked for
  size : Nat                    -- bytes asked for
  overlay : List (Nat × Byte × Byte) -- bytes, with the bits known, that the forwarding buffer supplied at issue (R277)
  fill : Option Tlb             -- the translation, for a load that fills a cache line
  since : Nat                   -- package cycle of issue (R313, R412)
  answer : Option Answer
  dest : Nat := 0               -- the g register that takes the result
  first : Nat := 0              -- the first byte the instruction reads, and how many
  width : Nat := 8
  signed : Bool := false
  scope : Option Nat := none    -- the scope of an acquiring form
  op : Nat := 0                 -- an atomic's operation and operands (R181)
  operand : Word := 0
  expected : Word := 0
  issued : Bool := false        -- its pair has issued: the answer is taken when it arrives (R242)
  deriving DecidableEq, Repr

/-- What a fault request says of a parked access (R347). -/
structure Park where
  va : Nat
  ea : Nat                      -- the entry that stopped the walk
  level : Nat
  malformed : Bool
  access : Nat                  -- 0 read, 1 write, 2 fetch, 3 rmw
  agent : Nat                   -- 0 control core, 1 VM or HCTX pipe
  deriving DecidableEq, Repr

/-- What a trap taken in the present step says (R44), for the pair rules of R61 and R242. -/
structure TrapRec where
  cause : Nat
  eval : Word
  late : Bool                   -- recognised at the close of a fault window or hold (R242)
  park : Option Park            -- the fault request of a TRANSLATION fault (R254)
  row : Bool := false           -- a row fault of a restartable form: the rows below it stand (R158)
  deriving DecidableEq, Repr

/-- A wait of R255 that can be long. -/
inductive WaitKind where
  | wfe
  | bwait                       -- for PHASE to leave a value
  | flip                        -- `bsync` or `bxch` after its arrival
  | puts                        -- `bxch` for the puts tagged to its barrier (R211)
  | pubwait
  | binit
  | gjoin
  | tyield
  deriving DecidableEq, Repr

/-- What a context's stalled pair waits for: the kind, the g register to write, the barrier or the counter's
address, the phase or value waited for, and whether it is the pair's second instruction that waits. -/
structure WaitRec where
  kind : WaitKind
  dest : Nat
  place : Nat
  value : Nat
  second : Bool
  deriving DecidableEq, Repr

/-- An instruction of the open convoy (R62): its place in words from the convoy's first word, its word and what
it decodes to, and the logical lane-file entries that its names reached when it issued. -/
structure Issued where
  off : Nat
  word : BitVec 32
  instr : Instr
  reads : List Nat
  writes : List Nat
  whole : List Nat := []        -- those of `reads` that it reads whole (R134, R159)
  deriving DecidableEq, Repr

/-- The counted loop's `first`, kept beside LC (R107). -/
abbrev LoopFirst := Word

/-- One resident context: every register of its bank (R15), its place in its program, and what is in
flight for it. DESIGN CHOICE, log 22. -/
structure Ctx where
  -- registers (R17, R20)
  g : Vector Word 64
  f : Vector Word 32
  p : Vector Pred 8
  pc : Word
  -- k-registers (R34)
  vl : Word
  vstart : Word
  hcur : Word
  hshape : Word
  vwb : Word
  vrb : Word
  lc : Word
  acr : Word
  mfc : Vector Word 4
  amaxk : Word
  satcnt : Word
  undcnt : Word
  dirty : BitVec 256
  hdirty : BitVec 128
  team : Word
  taskh : Word
  tm : Vector Word 64
  estat : Word
  epc : Word
  ecause : Word
  eval : Word
  tvec : Word
  alloc : Word
  qto : Word
  sfshadow : Word
  ipend : Word
  imask : Word
  tcmp : Word
  -- state the manual names beside the k-registers
  rankStatus : Word             -- the rank status word (R162)
  latch : BitVec 256            -- the bypass latch L[0] to L[31] (R224)
  eventFlag : Bool              -- R112
  first : LoopFirst             -- the active loop's first address (R107)
  bank : Nat                    -- BANK (R34)
  root : Nat                    -- the translation root (R335)
  asn : Nat                     -- the address-space number (R335)
  -- what the context is doing
  holds : Bool                  -- the bank holds a context (R43)
  halted : Bool                 -- after `halt` (R113)
  parked : Option Nat           -- parked on the fault request of this TAG (R254)
  stopped : Bool                -- placed but not started, pre-empted, or at a rendezvous: it issues nothing
  wait : Option WaitRec         -- what its stalled pair waits for (R255)
  follower : Bool               -- a gang follower: issues only broadcast pairs (R127)
  bind : Option (Nat × Nat)     -- the pending `bbind`: barrier and mode (R209)
  live : List Shadow            -- the live half of the SFU result buffer, program order (R245)
  held : List Shadow            -- the held half (R245)
  board : List Busy             -- results and occupancies of issued instructions (R96, R135, R155)
  pending : List Pending        -- loads, atomics and spawns without an answer yet
  remoteError : Option (Nat × Word × Bool)  -- a REMOTE_ERROR to take: register, EVAL, APPLIED (R182)
  sfuTrap : Option Word         -- an ARITH trap of a committed shadow result to take, its EVAL (R143)
  convoy : List Issued          -- the instructions of the open convoy, oldest first (R62)
  convoyStart : Word            -- the convoy's first word
  convoyWords : Nat             -- words of the open convoy fetched so far
  chained : Bool                -- the convoy's first chaining instruction has issued (R65)
  replayed : Bool               -- the convoy is a replay (R67)
  skip1 : Bool                  -- the next pair's first instruction took effect before a trap (R111)
  skip2 : Bool                  -- its second instruction did
  snapLane : List (Nat × Entry) -- entries as they stood before the open convoy wrote them (R67)
  snapPred : Vector Pred 8      -- predicates as they stood at the start of the open convoy
  snapDirty : BitVec 256        -- DIRTY, ACR, SATCNT and UNDCNT as they stood there
  snapCounts : Word × Word × Word
  snapVs : Word                 -- VSTART as it stood there
  stall : Nat                   -- one more than the core cycle in which the next pair's stall began; 0 for none (R243)
  stallReason : Nat             -- R243; 11 for a queue stall under R26
  saveArea : Nat                -- the context save area the scheduler assigned (R256)
  saved : Bool                  -- the area holds an image of this context (R256)
  stallQueue : Nat := 0         -- the queue that a queue stall waits for (R26)
  fences : List Nat := []       -- releasing fences that are still to take effect, by mechanism (R294)
  cut : Option Nat := none      -- the elements from here on are not processed: a broken chain, a gang's fault (R67, R273)
  resume : Bool := false        -- the held half goes live with the first resumed pair (R247)
  atYield : Bool := false       -- the last pair issued `yield`, a pre-emption point (R113, R255)
  parkedWith : Bool := false    -- parked with its gang, whose other members have fault requests out (R273)
  back : Bool := false          -- an answered fault request: issue comes back to the bank (R254)
  deriving DecidableEq, Repr

/-- The context has no access under way, but for a spawn that it has left behind. -/
def Ctx.idle (c : Ctx) : Bool := c.pending.all (fun q => q.kind == .dropped || (q.kind == .spawn && q.issued))

/-- One named barrier as its arrivals see it (R207). -/
structure BarObj where
  count : Nat
  arrived : Nat
  phase : BitVec 16
  status : BitVec 16
  last : BitVec 16
  knot : Vector (BitVec 12) 16  -- what the arrivals of its phases knew (R298)
  deriving DecidableEq, Repr

/-- The object of a barrier that no `binit` has initialised. -/
def BarObj.zero : BarObj :=
  { count := 0, arrived := 0, phase := 0, status := 0, last := 0, knot := Vector.replicate 16 0 }

/-- Barrier n of a core: INIT, its scope, its object where the scope is core, and each bank's arrival
record (R207). `owner` is the task whose `binit` initialised it (R381). -/
structure Barrier where
  init : Bool
  team : Bool
  owner : Word
  obj : BarObj
  rec0 : Option (BitVec 16)
  rec1 : Option (BitVec 16)
  deriving DecidableEq, Repr

/-- A barrier that no `binit` has initialised. -/
def Barrier.none : Barrier :=
  { init := false, team := false, owner := 0,
    obj := BarObj.zero, rec0 := .none, rec1 := .none }

/-- A memory or register range of a copy (R198). -/
inductive Space where
  | memory (va : Nat)
  | lanes (member entry : Nat)
  | queue (member q : Nat)
  deriving DecidableEq, Repr

/-- A copy from its issue until its status is written (R197 to R206). -/
structure Copy where
  id : Nat
  form : Nat                    -- fn6[2:0]: 0 cpy, 1 cpyt, 2 cpymc, 3 cpyh
  bank : Nat
  dest : Nat                    -- the g register that receives the status
  src : Space
  dst : Space
  dstWord : Word                -- the destination operand, for report items (R387)
  lines : Nat                   -- granted lines (R200)
  mask : Nat                    -- members that receive, for `cpymc`
  time : Nat                    -- TIME (R203)
  eq : Nat
  iod : Nat
  tag : BitVec 5
  bound : Option (Nat × Nat)    -- barrier and mode (R209)
  root : Nat
  asn : Nat
  handle : Word
  member : Nat
  owner : Nat                   -- the core that issued it, as 24 × die + core
  started : Bool
  headCyc : Nat                 -- the package cycle in which it reached the head of its engine queue (R203)
  late : Bool
  landed : List Nat             -- lines landed so far
  status : BitVec 16            -- status bits gathered so far (R201)
  stopped : Bool                -- a line met XLAT, PERM or REMOTE
  waitXlat : Option Nat         -- waits on the fault request of this TAG (R349)
  ended : Bool                  -- its strand has ended (R384)
  discard : Bool                -- lands in quarantine (R385)
  early : Nat                   -- lines landed before its strand ended
  staged : List (Nat × Entry)   -- queue entries being assembled, by entry number (R264)
  pushed : Nat                  -- queue entries made present so far
  issuedAt : Nat := 0           -- the package cycle of its issue (R263)
  deriving DecidableEq, Repr

/-- A line of the scalar data cache (R179, R334). -/
structure CacheLine where
  bank : Nat
  asn : Nat
  g : Bool
  vbase : Nat
  run : Nat
  line : Nat                    -- physical address bits 51:6
  data : BitVec 512
  deriving DecidableEq, Repr

/-- The freezes of one core that are in force (R249), that of a package frequency change apart. -/
structure Freeze where
  late : Option Word            -- a late reply, with the access's virtual address (R250)
  lateSince : Nat               -- package cycle of the first late cycle
  correctUntil : Nat            -- package cycle in which the corrections' 12-cycle parts end; 0 for none
  later : List (Nat × Nat) := [] -- replies that a bank in retention makes late: the core cycle due, the package cycle of arrival (R252)
  deriving DecidableEq, Repr

/-- A freeze is in force (R248). -/
def Freeze.inForce (f : Freeze) : Bool := f.late.isSome || decide (f.correctUntil ≠ 0)

/-- What the running strand's registers held before the instructions that an open fault window lets issue, so that
a fault leaves none of their effects (R242). `ctx` and `lane` stand before the pair whose window is open; a partner
that stands is included, and `skip` is the SKIP bit it sets. DEDUCED, log 126. -/
structure Undo where
  bank : Nat
  pair : Word
  skip : Nat
  ctx : Ctx
  lane : Vector Entry 256
  gs : List Nat                 -- the registers, predicates and entries written since
  fs : List Nat
  ps : List Nat
  entries : List Nat
  due : Option Nat              -- the core cycle in which the window closes, where it is known
  deriving DecidableEq, Repr

/-- What one core holds beside its contexts (R15). -/
structure Core where
  die : Nat
  idx : Nat
  lane : Vector Entry 256
  hoop : Vector Row 128
  queues : Vector (List Entry) 4
  knotv : Vector (BitVec 12) 16
  bars : List (Nat × Barrier)   -- barriers that are not in their reset state, by number
  running : Nat                 -- the running bank
  copies : List Copy            -- live copies of both banks, issue order
  l1 : List Tlb
  gather : List Tlb
  unit : Option Tlb             -- the gather TLB's unit-stride register (R343)
  stream : List Tlb
  cache : List CacheLine
  quarLanes : List (Nat × Nat)  -- quarantined physical entries, with the copy (R385)
  quarQueues : List (Nat × Nat) -- quarantined queues, with the copy
  clock : Nat                   -- core cycles so far: package cycles but the frozen ones (R251)
  freeze : Freeze
  nextId : Nat                  -- the next transaction tag or copy number
  undo : Option Undo := none    -- of the running strand's open window (R242)
  fabricated : List (Nat × Nat) := [] -- requests, by bank and tag, that a fabricated reply has answered (R313)
  copyTurn : Nat × Nat × Nat := (0, 0, 0) -- the package cycle in which lines last moved, the copy, and how many (R263)
  deriving DecidableEq, Repr

/-- A core out of focus: its contexts by bank role and its shared part. -/
structure Peer where
  ctx : Ctx
  other : Ctx
  core : Core
  deriving DecidableEq, Repr

/-- What a packet asks or tells (R307). A write's bytes are listed by physical address. -/
inductive Payload where
  -- `masks` lists the bytes of which only some bits are written (R288)
  | write (bytes : List (Nat × Byte)) (poison : List Nat) (full : Bool) (masks : List (Nat × Byte))
  | readReq (pa size : Nat) (acquire : Bool)
  | atomic (pa va op : Nat) (operand expected : Word) (scope : Nat)
  | readReply (answer : Answer)
  | atomicReply (va : Nat) (answer : Answer)
  | ack
  | knotAdvance
  | beacon (v : List (BitVec 12))
  | cutAdvance (number : Nat)
  | removal (die : Nat)
  deriving DecidableEq, Repr

/-- A packet in flight or held (R306, R307): its stamp, the entries it waits for (pairs, or a frame when
`frame` is set), its transaction tag and the strand it belongs to. -/
structure Packet where
  src : Nat
  dst : Nat
  stamp : BitVec 12
  deps : List (Nat × BitVec 12)
  frame : Bool
  snap : Bool
  ackReq : Bool
  tag : Nat
  owner : Nat                   -- the core that sent it, 24 × die + core; 240 for an I/O die's own
  bank : Nat
  handle : Word
  payload : Payload
  deriving DecidableEq, Repr

/-- An entry of a cluster's forwarding buffer (R277). -/
structure FwdEntry where
  core : Nat                    -- 24 × die + core of the writer
  bank : Nat
  handle : Word
  home : Nat
  bytes : List (Nat × Byte)
  poison : List Nat
  snap : Bool
  knot : Vector (BitVec 12) 16  -- KNOTV at issue
  seen : List (Nat × Nat)       -- strands that have locally observed it (R293), as core and bank
  order : Option Nat            -- the ordered multi-home vector store it belongs to (R312)
  cyc : Nat                     -- package cycle of entry
  masks : List (Nat × Byte) := [] -- the bytes of which it holds only some bits, with those bits (R288)
  loose : Option Nat := none    -- the unordered vector store it belongs to (R296)
  fences : Nat := 0             -- releasing fences that must take effect before it leaves (R294)
  deriving DecidableEq, Repr

/-- The preserve state of a listed granule (R323). -/
inductive Preserve where
  | pending | copying | done
  deriving DecidableEq, Repr

/-- What one die holds for the causal fabric (R303, R310, R321). -/
structure Die where
  v : Vector (BitVec 12) 16
  sent : List (Nat × List (Nat × BitVec 12))     -- send records S_d,e, by destination then entry
  beacons : List (Nat × BitVec 12)               -- V_e[d] from the latest beacon of e (R305)
  frozenBy : List (Nat × BitVec 12)              -- removed dies, with the frozen value of V_e[r] (R315)
  hold : List Packet                             -- the hold buffer, arrival order (R310)
  cut : Option (BitVec 12)                       -- c_d once the die has cut (R321)
  cutSeen : List Nat                             -- dies whose cut advance is delivered (R324)
  retaining : List (Nat × Nat)                   -- SRAM banks in retention, with the package cycle in which entry completes (R252)
  waking : List (Nat × Nat) := []                -- SRAM banks that leave retention, with the package cycle in which exit completes
  touched : List (Nat × Nat) := []               -- the latest access to each SRAM bank while retention is enabled (R417)
  unacked : List (Nat × Nat)                     -- ordered stores awaiting acknowledgement: store, tag
  deriving DecidableEq, Repr

/-- A fault request that the pager has not answered (R347). -/
structure FaultReq where
  tag : Nat
  agent : Nat
  core : Nat                    -- 24 × die + core of the requester
  bank : Nat
  copy : Nat                    -- the copy's id, for agents 2 and 3
  bytes : List Byte             -- the 32-byte record
  deriving DecidableEq, Repr

/-- A pending invalidation (R345). -/
structure Tinv where
  mode : Nat
  asn : Nat
  vpn : Nat
  deriving DecidableEq, Repr

/-- A resident slot's state (R367). -/
inductive SlotState where
  | mapped | unmapping (kept : Bool)
  deriving DecidableEq, Repr

/-- A resident work-queue slot (R367). -/
structure QSlot where
  queue : Nat
  state : SlotState
  head : Nat
  tail : Nat
  ridx : Nat
  fidx : Nat
  notified : Nat                -- package cycle of its mapping or latest notify
  ready : Nat                   -- package cycle in which its mapping is done
  deriving DecidableEq, Repr

/-- A resolved range of a task (R370, R374, R375). -/
structure Range where
  base : Nat
  len : Nat
  ren : Bool
  reg : Nat
  resolved : Nat
  deriving DecidableEq, Repr

/-- The states of a task (R377). -/
inductive TaskState where
  | taken | ready | placed | running | saving | stopping
  deriving DecidableEq, Repr

/-- A live task (R369 to R386). -/
structure Task where
  handle : Word
  queue : Nat
  index : Nat
  darning : Bool
  words : List Word             -- the launch record, 8 words (R369)
  header : List Byte            -- the program image's header, 64 bytes (R371)
  stack : Word                  -- the doubleword at ARGB + 56 (R372)
  reads : List Range
  writes : List Range
  after : List Word             -- handles it is ordered after
  afterAlias : List Nat         -- alias numbers whose retirement it waits on
  state : TaskState
  cls : Nat                     -- its present class (R379)
  since : Nat                   -- package cycle it became READY
  seq : Nat                     -- place within its class
  order : Nat                   -- the order in which tasks were taken
  cores : List Nat              -- its members' cores once placed
  bank : Nat
  allocWord : Word
  saves : List Nat              -- its members' save areas
  started : List Nat            -- members whose strand has started
  ended : List Nat              -- members that have ended or stopped
  yielded : List Nat            -- members at the rendezvous of `tyield`
  joined : List Nat             -- members at `gjoin`
  gang : Bool                   -- the team is joined (R127)
  faultAt : Option Nat          -- virtual address of its fault entry, once one is taken (R382)
  faultRecord : List Byte       -- the 64 bytes of the fault record
  cause : Nat
  faultMember : Nat
  darnHandle : Word
  exits : List Word             -- exit words by member
  taken : Nat                   -- CYC when taken
  nitems : Nat
  ridx : Nat
  deriving DecidableEq, Repr

/-- A tile alias (R375). -/
structure Alias where
  id : Nat
  queue : Nat
  base : Nat
  len : Nat
  buffer : Nat
  writer : Word
  readers : List Word
  superseded : Bool
  deriving DecidableEq, Repr

/-- A `tspawn` on its way to the I/O die (R123, R368). DEDUCED, log 87. -/
structure SpawnReq where
  core : Nat
  bank : Nat
  dest : Nat
  queue : Nat
  group : Nat
  words : List Word
  handle : Word                 -- the strand that waits for the answer, and its request's tag
  tag : Nat
  deriving DecidableEq, Repr

/-- A report item waiting for room in its ring (R387). -/
structure ReportItem where
  queue : Nat
  bytes : List Byte
  handle : Word
  deriving DecidableEq, Repr

/-- A completed task whose report items may still come (R386). -/
structure Finished where
  handle : Word
  cores : List Nat              -- its members' cores, by member
  queue : Nat
  record : Nat                  -- virtual address of its completion record
  state : Word                  -- STATE as last written
  open_ : Nat                   -- items still to come
  deriving DecidableEq, Repr

/-- One I/O die: dies 0 and 9 (R3). -/
structure IODie where
  done : BitVec 32              -- TSTAT.DONE (R345)
  prbase : Word
  prsize : Word
  prhead : BitVec 32
  prtail : Word
  tinv : List Tinv
  faults : List FaultReq        -- open requests whose record is written
  faultQueue : List FaultReq    -- requests held while the ring is full
  nextTag : Nat
  slots : List QSlot
  scan : Nat
  mapNext : Nat                 -- package cycle from which the next mapping may start (R367)
  tasks : List Task
  aliases : List Alias
  bobbin : List Copy            -- the time-sorted buffer and the running copies (R351)
  stream : List Tlb             -- the bobbin engine's stream TLB (R341)
  spawns : List SpawnReq
  reports : List ReportItem
  finished : List Finished
  portUp : Bool                 -- the host port is trained
  cxl : Bool                    -- CXL negotiated
  d3hot : Bool
  dirtyPort : Bool              -- the port carried a write since its last flush (R413)
  links : List Nat              -- scale-out ports that are up
  paused : List Nat             -- scale-out ports paused by priority flow control
  spdm : List Byte              -- the SPDM transcript so far (R419)
  msix : List Nat               -- MSI-X vectors raised, oldest first
  responses : List (List Byte)  -- answers given to the host and to peers, oldest first
  served : List (Nat × Nat) := [] -- by class, the queue whose task was placed last (R379)
  deriving DecidableEq, Repr

/-- What a snapshot preserves as one: a listed granule, or one of its 4 KiB parts where interleave spreads
it over several homes (R323, R333). DESIGN CHOICE, log 51. -/
structure SnapUnit where
  granule : Nat                 -- the granule's place in the list
  base : Nat
  size : Nat
  state : Preserve
  slot : Memory                 -- the reserve slot's bytes, by physical address
  slotPoison : List Nat
  streamed : Bool
  deriving DecidableEq, Repr

/-- A snapshot in progress (R321 to R324). DESIGN CHOICE, log 51. -/
structure Snap where
  number : Nat
  desc : Nat                    -- physical address of the descriptor
  units : List SnapUnit
  preserved : Nat
  lost : Nat
  deriving DecidableEq, Repr

/-- The management controller (R406, R407, R416, R418). -/
structure Mgmt where
  level : Nat
  dies : Word
  completed : BitVec 32
  result : Nat
  busy : Bool
  half : Bool                   -- CLKST current state HALF
  wantHalf : Bool               -- CLKST requested state
  pwrcap : Word
  retcfg : Word
  retSince : Nat := 0           -- the package cycle of the latest RETCFG write, from which idle cycles count (R417)
  elogbase : Word
  eloghead : BitVec 32
  svnmin : Nat
  image : Option (List Byte)    -- the installed firmware image; none for the one the part came with
  nextImage : Option (List Byte)  -- an image that FWLOAD has verified, for the next package reset
  romDone : Bool                -- the ROM has looked at the image (R404)
  firmware : Bool               -- the running firmware verified
  ports : Nat                   -- enabled ports, from the configuration record (R418)
  removing : Option Nat         -- the die that a running REMOVE takes out
  overCap : Nat                 -- consecutive windows above PWRCAP
  underCap : Nat                -- consecutive windows below 90 % of PWRCAP
  switchTo : Option Bool        -- a frequency change in progress: the new state is HALF
  switchAt : Nat                -- its T
  switching : Bool              -- every core is frozen for it (R318, R249)
  thenLevel3 : Bool             -- the change is that of LEVEL3
  knotPhase : Nat               -- 0: no knot reset; else its phase (R316)
  trained : List Nat            -- die-to-die edges and stacks trained: edge e, stack 16 + s, ports 32, 41
  failed : List Nat             -- those that failed
  deriving DecidableEq, Repr

/-- An action the environment has put before the machine: an event of the part, or the choice of the
core that acts next. DESIGN CHOICE, log 5. -/
inductive Act where
  | event (i : Instr)
  | focus (core : Nat)
  deriving DecidableEq, Repr

/-- A team barrier: one object for the team (R207, R209). DEDUCED, log 76. -/
structure TeamBar where
  n : Nat
  handle : Word
  members : List Nat            -- members that have issued `binit`
  left : List Nat               -- members whose `binit` has still to complete or to trap
  config : Word
  usable : Bool
  failed : Bool
  obj : BarObj
  deriving DecidableEq, Repr

/-- An instruction as it was fetched: its word, its word's address, what it decodes to, and whether a literal
prefix stands before it. -/
structure Issue where
  addr : Word
  word : BitVec 32
  slot : Slot
  pre : Bool := false
  deriving DecidableEq, Repr

/-- A pair that a gang's sequencer has broadcast and its members have still to execute (R268). -/
structure Broadcast where
  handle : Word
  slots : List Issue            -- the pair's one or two instructions
  pair : Word                   -- address of the pair's first word
  next : Word                   -- address after the pair
  snap : List (Nat × Peer)      -- the members as they stood before the instruction executing (R271)
  deriving DecidableEq, Repr

/-- What the package holds beside its cores. -/
structure Pkg where
  mem : Memory
  poisoned : List Nat           -- poisoned 8-byte words, by physical address / 8, rising (R355)
  cyc : Nat                     -- CYC (R37)
  dies : Vector Die 10
  net : List Packet             -- packets on links, each route in order
  fwd : List (Nat × List FwdEntry)  -- forwarding buffers by cluster 6 × (die − 1) + cluster
  l2 : List (Nat × List Tlb)    -- L2 TLBs by cluster
  teamBars : List TeamBar
  gangs : List Broadcast
  io0 : IODie
  io9 : IODie
  mgmt : Mgmt
  interleave : Bool             -- HBM mode (R333)
  snap : Option Snap
  snaps : Nat                   -- snapshots started
  lastPublish : List (Nat × Bool)  -- counters with a publish the host has not acknowledged (R214)
  nextSeq : Nat                 -- the next copy's number, and the order of tasks
  deriving DecidableEq, Repr

/-- The machine. `ctx` is the running bank's context of the core in focus and `other` the other bank's;
`wordAddr` is the address of the word that is executing, `npc` the address issue goes to next, `pairAddr`
the address of the pair; `trap` says that the present pair has trapped; `agenda` is what the environment
has put before the machine; `free` counts the free values drawn so far (the model's own field). -/
structure State where
  ctx : Ctx
  other : Ctx
  core : Core
  peers : List (Nat × Peer)
  pkg : Pkg
  wordAddr : Word
  npc : Word
  second : Bool                 -- the instruction executing is its pair's second
  pairAddr : Word
  trap : Option TrapRec
  stalled : Bool                -- the present pair could not issue
  taken : Bool                  -- the present pair transferred control (R107)
  switch : Bool                 -- the present pair passes issue to the other bank (R126)
  curWord : BitVec 32           -- the instruction word executing, as fetched (R16, R56)
  /-- DESIGN CHOICE, log 5. -/
  agenda : List Act
  /-- The present pair may not leave a load or an atomic behind it (R242). DESIGN CHOICE, log 73. -/
  sync : Bool := false
  /-- DESIGN CHOICE, log 115. -/
  free : Nat
  deriving DecidableEq, Repr

/-- A bypass latch whose 32 codes are all 0x7F, as a strand starts with (R224). DESIGN CHOICE, log 3. -/
def latchStart : BitVec 256 := 0x7F7F7F7F7F7F7F7F7F7F7F7F7F7F7F7F7F7F7F7F7F7F7F7F7F7F7F7F7F7F7F7F

/-- A context after package reset: every register at the Reset value of its map (R17, R20, R34 to R46);
`bank` 1 has an empty allocation, and neither bank holds a context (R42, R43). The latch, which has no reset
value, holds what a strand starts with. DESIGN CHOICE, log 3. -/
def Ctx.reset (die bank : Nat) : Ctx where
  g := Vector.replicate 64 0
  f := Vector.replicate 32 0
  p := Vector.replicate 8 0
  pc := 0
  vl := 0
  vstart := 0
  hcur := 0
  hshape := if bank = 0 then 0x4080 else 0x4000
  vwb := 0
  vrb := 0
  lc := 0
  acr := 0
  mfc := Vector.replicate 4 0
  amaxk := 0
  satcnt := 0
  undcnt := 0
  dirty := 0
  hdirty := 0
  team := BitVec.ofNat 64 (die * 4096 + 32)
  taskh := 0
  tm := Vector.replicate 64 0
  estat := 0x81
  epc := 0
  ecause := 0
  eval := 0
  tvec := 0
  alloc := if bank = 0 then 0xF80010000 else 0
  qto := 0x100000
  sfshadow := 0
  ipend := 0
  imask := 0
  tcmp := 0xFFFFFFFFFFFFFFFF
  rankStatus := 0
  latch := latchStart
  eventFlag := false
  first := 0
  bank := bank
  root := 0
  asn := 0
  holds := false
  halted := false
  parked := none
  stopped := false
  wait := none
  follower := false
  bind := none
  live := []
  held := []
  board := []
  pending := []
  remoteError := none
  sfuTrap := none
  convoy := []
  convoyStart := 0
  convoyWords := 0
  chained := false
  replayed := false
  skip1 := false
  skip2 := false
  snapLane := []
  snapPred := Vector.replicate 8 0
  snapDirty := 0
  snapCounts := (0, 0, 0)
  snapVs := 0
  stall := 0
  stallReason := 0
  saveArea := 0
  saved := false

/-- The shared part of a core after package reset: zero entries and rows with tag RAW, empty queues,
knot vector zero, no barrier initialised (R24, R27, R303, R403). DESIGN CHOICE, log 4. -/
def Core.reset (die idx : Nat) : Core where
  die := die
  idx := idx
  lane := Vector.replicate 256 Entry.zero
  hoop := Vector.replicate 128 Row.zero
  queues := Vector.replicate 4 []
  knotv := Vector.replicate 16 0
  bars := []
  running := 0
  copies := []
  l1 := []
  gather := []
  unit := none
  stream := []
  cache := []
  quarLanes := []
  quarQueues := []
  clock := 0
  freeze := { late := none, lateSince := 0, correctUntil := 0 }
  nextId := 0

/-- A core after package reset. -/
def Peer.reset (k : Nat) : Peer :=
  { ctx := Ctx.reset (k / 24) 0, other := Ctx.reset (k / 24) 1, core := Core.reset (k / 24) (k % 24) }

/-- A die's fabric state after package reset (R303). DESIGN CHOICE, log 4. -/
def Die.reset : Die :=
  { v := Vector.replicate 16 0, sent := [], beacons := [], frozenBy := [], hold := [], cut := none,
    cutSeen := [], retaining := [], unacked := [] }

/-- An I/O die after package reset (R345, R403): no queue is resident. DESIGN CHOICE, log 4. -/
def IODie.reset : IODie :=
  { done := 0, prbase := 0, prsize := 6, prhead := 0, prtail := 0, tinv := [], faults := [],
    faultQueue := [], nextTag := 0, slots := [], scan := 0, mapNext := 0, tasks := [], aliases := [], bobbin := [], stream := [],
    spawns := [], reports := [], finished := [], portUp := false, cxl := false, d3hot := false,
    dirtyPort := false, links := [], paused := [], spdm := [], msix := [],
    responses := [] }

/-- The management controller after package reset (R404, R406): Level 0, where the ROM verifies the
firmware. DESIGN CHOICE, log 4. -/
def Mgmt.reset : Mgmt :=
  { level := 0, dies := 0x3FF, completed := 0, result := 0, busy := false, half := true,
    wantHalf := false, pwrcap := 2800, retcfg := 0, elogbase := 0, eloghead := 0,
    svnmin := Config.fusedSvn, image := none, nextImage := none, romDone := false, firmware := false,
    ports := 0, removing := none, overCap := 0, underCap := 0, switchTo := none, switchAt := 0,
    switching := false, thenLevel3 := false, knotPhase := 0, trained := [], failed := [] }

/-- The package after package reset (R403): CYC 0, memories zero, knot state zero, every core without
a context. DESIGN CHOICE, log 4. -/
def Pkg.reset : Pkg :=
  { mem := [], poisoned := [], cyc := 0, dies := Vector.replicate 10 Die.reset, net := [], fwd := [],
    l2 := [], teamBars := [], gangs := [], io0 := IODie.reset, io9 := IODie.reset, mgmt := Mgmt.reset,
    interleave := false, snap := none, snaps := 0, lastPublish := [], nextSeq := 0 }

/-- The machine right after package reset (R403), with core 0 of die 1 in focus; every other core is
in its own reset state, which `peers` need not list. DESIGN CHOICE, log 1, 3, 115. -/
def State.reset : State :=
  { ctx := Ctx.reset 1 0, other := Ctx.reset 1 1, core := Core.reset 1 0, peers := [], pkg := Pkg.reset,
    wordAddr := 0, npc := 0, second := false, pairAddr := 0, trap := none, stalled := false, taken := false, switch := false,
    curWord := 0, agenda := [], free := 0 }

end Sys2Proof.Machine
end

