-- ==== Sys2Proof/Machine/Phys.lean ====
section
/-! DEFINITION. Physical memory and the knot fabric under the agents that use them: the physical address
map and the home of each byte (R332, R333), poisoned words (R355), writes that perform at their home with
the copy-on-write of a snapshot (R322 to R324), knot counters (R304), stamped packets and the advance of
a package-scope release (R278, R279, R305, R309), the error log (R408) and the fault ring (R347). -/

namespace Sys2Proof.Machine

/-! ### The physical address space (R332 to R334) -/

/-- R333: the HBM stack of a physical address. -/
def Pkg.stackOf (p : Pkg) (pa : Nat) : Nat := if p.interleave then pa / 4096 % 16 else pa / (48 * 2 ^ 30)

def isHbm (pa : Nat) : Bool := decide (pa < 0x00C000000000)
/-- A die-SRAM window, its unbacked rest included. -/
def inSramWindow (pa : Nat) : Bool := decide (0x010000000000 ≤ pa ∧ pa < 0x010A00000000)
/-- The records and registers of the I/O dies. -/
def isIoRegion (pa : Nat) : Bool := decide (0x020000000000 ≤ pa ∧ pa < 0x020100000000)
/-- DESIGN CHOICE, log 50. -/
def isHostWindow (pa : Nat) : Bool := decide (0x100000000000 ≤ pa ∧ pa < 0x200000000000)
/-- DESIGN CHOICE, log 50, 116. -/
def isFleetWindow (pa : Nat) : Bool := decide (0x200000000000 ≤ pa ∧ pa < 0x300000000000)

/-- Bytes of SRAM that die d holds (R332). -/
def sramBytes (d : Nat) : Nat := if d = 0 ∨ d = 9 then 64 * 2 ^ 20 else 192 * 2 ^ 20

/-- The start of die d's SRAM window. -/
def sramBase (d : Nat) : Nat := 0x010000000000 + d * 2 ^ 32

/-- Backed die SRAM. -/
def isSram (pa : Nat) : Bool :=
  inSramWindow pa && decide (pa % 2 ^ 32 < sramBytes ((pa - 0x010000000000) / 2 ^ 32))

/-- R332: the home of a byte; none for an unbacked address. -/
def Pkg.homeOf (p : Pkg) (pa : Nat) : Option Nat :=
  if isHbm pa then some (1 + p.stackOf pa / 2)
  else if inSramWindow pa then (if isSram pa then some ((pa - 0x010000000000) / 2 ^ 32) else none)
  else if isIoRegion pa then some (if pa < 0x020080000000 then 0 else 9)
  else if isHostWindow pa then some (if pa < 0x180000000000 then 0 else 9)
  else if isFleetWindow pa then some (if pa / 2 ^ 43 % 2 = 0 then 0 else 9)
  else none

/-- R332: whether the range of a physical address accepts a memory type. -/
def mtAccepted (pa mt : Nat) : Bool :=
  if isHbm pa || isSram pa then decide (mt ≤ 1)
  else if isIoRegion pa then decide (mt = 2)
  else if isHostWindow pa then decide (mt = 3)
  else if isFleetWindow pa then decide (mt = 4)
  else false

/-! ### Retention (R252, R417) -/

/-- R319: the SRAM bank of an address in a die's SRAM. -/
def sramBank (pa : Nat) : Nat := pa / 64 % 512

/-- R252: an access to a bank, and how long it waits in package cycles: one in retention ends its entry and then leaves,
which takes 2,048 cycles each. DESIGN CHOICE, log 72. -/
def Die.touch (x : Die) (cyc bank : Nat) : Die × Nat :=
  let ready := match assoc bank x.retaining with
    | some e => Nat.max e cyc + 2048
    | none => (assoc bank x.waking).getD 0
  ({ x with retaining := assocErase bank x.retaining
            waking := if cyc < ready then assocSet bank ready x.waking else x.waking
            touched := assocSet bank cyc x.touched }, ready - cyc)

/-- Retention concerns the die now. -/
def Pkg.dozes (p : Pkg) (d : Nat) : Bool :=
  decide (p.mgmt.retcfg.toNat / 2 ^ 63 = 1) || !(p.dies.getD d Die.reset).retaining.isEmpty || !(p.dies.getD d Die.reset).waking.isEmpty

/-- R252: an access to the SRAM at an address, and how long it waits for its bank. -/
def Pkg.touchSram (p : Pkg) (pa : Nat) : Pkg × Nat :=
  let d := (pa - 0x010000000000) / 2 ^ 32
  if isSram pa && p.dozes d then
    let (x, w) := (p.dies.getD d Die.reset).touch p.cyc (sramBank pa)
    ({ p with dies := p.dies.setIfInBounds d x }, w)
  else (p, 0)

/-- The bank of an address is awake. -/
def Pkg.awake (p : Pkg) (pa : Nat) : Bool := (p.touchSram pa).2 == 0

/-! ### Poison (R355) -/

/-- Some of the n bytes from pa on lie in a poisoned word. -/
def Pkg.poisonedAt (p : Pkg) (pa n : Nat) : Bool :=
  p.poisoned.any (fun w => decide (pa / 8 ≤ w ∧ w ≤ (pa + n - 1) / 8))

/-- The poisoned words among the n bytes from pa on. -/
def Pkg.poisonIn (p : Pkg) (pa n : Nat) : List Nat :=
  p.poisoned.filter (fun w => decide (pa / 8 ≤ w ∧ w ≤ (pa + n - 1) / 8))

/-- Whether a list of bytes covers the whole 8-byte word w. -/
def coversWord (bytes : List (Nat × Byte)) (w : Nat) : Bool :=
  (List.range 8).all (fun i => bytes.any (fun b => b.1 == 8 * w + i))

/-- R355: the poisoned words after a write: whole words written lose their mark, and words written as
poisoned gain it. -/
def poisonAfter (old : List Nat) (bytes : List (Nat × Byte)) (poison : List Nat) : List Nat :=
  poison.foldl (fun l w => insertNat w l) (old.filter (fun w => !coversWord bytes w))

/-- Bytes stored at their addresses. -/
def Memory.writeCells (m : Memory) : List (Nat × Byte) → Memory
  | [] => m
  | (a, b) :: r => Memory.writeCells (m.write a b) r

/-- Consecutive bytes with their addresses. -/
def bytesAt (pa : Nat) : List Byte → List (Nat × Byte)
  | [] => []
  | b :: r => (pa, b) :: bytesAt (pa + 1) r

/-- The low n bytes of x from pa upward, little-endian. -/
def wordBytes (pa : Nat) : Nat → Nat → List (Nat × Byte)
  | 0, _ => []
  | n + 1, x => (pa, BitVec.ofNat 8 x) :: wordBytes (pa + 1) n (x / 256)

/-! ### Writes at their home (R289, R322 to R324) -/

/-- The cells of a memory within n bytes from base. -/
def cellsIn (m : Memory) (base n : Nat) : Memory :=
  m.filter (fun c => decide (base ≤ c.1 ∧ c.1 < base + n))

/-- Whether one of the bytes lies in the unit. -/
def SnapUnit.touches (u : SnapUnit) (bytes : List (Nat × Byte)) : Bool :=
  bytes.any (fun b => decide (u.base ≤ b.1 ∧ b.1 < u.base + u.size))

/-- R323: the unit copied into a reserve slot. -/
def SnapUnit.keep (u : SnapUnit) (m : Memory) (poisoned : List Nat) : SnapUnit :=
  { u with state := .done
           slot := cellsIn m u.base u.size
           slotPoison := poisoned.filter (fun w => decide (u.base / 8 ≤ w ∧ w < (u.base + u.size) / 8)) }

/-- R322 to R324: what a write does to the reserve. A post-cut write with SNAP copies each unit it meets
that is still PENDING; a pre-cut write of a unit that is DONE writes the slot as well. -/
def Snap.atWrite (sn : Snap) (m : Memory) (poisoned : List Nat) (bytes : List (Nat × Byte)) (poison : List Nat)
    (snap preCut : Bool) : Snap :=
  let kept := if preCut || !snap then [] else sn.units.filter (fun u => u.state == .pending && u.touches bytes)
  { sn with
    preserved := sn.preserved + ((kept.map (fun u => u.granule)).foldl (fun l g => insertNat g l) []).length
    units := sn.units.map (fun u =>
      if u.touches bytes then
        if preCut then
          if u.state == .done then
            let b := bytes.filter (fun b => decide (u.base ≤ b.1 ∧ b.1 < u.base + u.size))
            { u with slot := u.slot.writeCells b, slotPoison := poisonAfter u.slotPoison b
                        (poison.filter (fun w => decide (u.base / 8 ≤ w ∧ w < (u.base + u.size) / 8))) }
          else u
        else if snap && u.state == .pending then u.keep m poisoned
        else u
      else u) }

/-- A write performs at its home: the bytes are stored, words written whole lose their poison, words in
`poison` gain it, and a running snapshot keeps what R323 says. DEDUCED, log 70. -/
def Pkg.homeWrite (p : Pkg) (bytes : List (Nat × Byte)) (poison : List Nat) (snap preCut : Bool) : Pkg :=
  let q := (p.touchSram ((bytes.headD (0, 0)).1)).1
  { q with mem := p.mem.writeCells bytes
           poisoned := poisonAfter p.poisoned bytes poison
           snap := p.snap.map (fun sn => sn.atWrite p.mem p.poisoned bytes poison snap preCut) }

/-- Bytes as they stand once the masked ones, of which only some bits are written, are laid over memory (R288). -/
def Memory.masked (m : Memory) (bytes masks : List (Nat × Byte)) : List (Nat × Byte) :=
  if masks.isEmpty then bytes
  else bytes.map (fun b => match assoc b.1 masks with
    | some k => (b.1, (m.read b.1 &&& ~~~k) ||| (b.2 &&& k))
    | none => b)

/-- The same for bytes of which some are written in part: their words keep their poison (R288, R355). -/
def Pkg.homeStore (p : Pkg) (bytes masks : List (Nat × Byte)) (poison : List Nat) (snap preCut : Bool) : Pkg :=
  p.homeWrite (p.mem.masked bytes masks)
    (poison ++ p.poisoned.filter (fun w => masks.any (fun k => k.1 / 8 == w))) snap preCut

/-- n bytes at a physical address, little-endian. -/
def Pkg.readAt (p : Pkg) (pa n : Nat) : Nat := p.mem.readLE pa n

/-! ### Knot counters (R303, R304) -/

/-- R304: a is after b. -/
def cntAbove (a b : BitVec 12) : Bool := decide (1 ≤ (a - b).toNat ∧ (a - b).toNat ≤ 2047)

/-- The later of two counters. -/
def cntMax (a b : BitVec 12) : BitVec 12 := if cntAbove b a then b else a

/-- a is at or after b. -/
def cntGe (a b : BitVec 12) : Bool := a == b || cntAbove a b

/-- A knot vector. -/
abbrev Knot := Vector (BitVec 12) 16

/-- Entry by entry, the later counter. -/
def Knot.join (a b : Knot) : Knot := Vector.zipWith cntMax a b

/-- Entry j raised to c. -/
def Knot.raise (a : Knot) (j : Nat) (c : BitVec 12) : Knot := a.setIfInBounds j (cntMax (a.getD j 0) c)

/-- Entries 0 to 9 of a vector. -/
def Knot.entries (a : Knot) : List (Nat × BitVec 12) := (List.range 10).map (fun j => (j, a.getD j 0))

/-- The vector with each listed entry raised. -/
def Knot.raiseAll (a : Knot) (l : List (Nat × BitVec 12)) : Knot := l.foldl (fun k e => Knot.raise k e.1 e.2) a

/-- Die d's fabric state. -/
def Pkg.die (p : Pkg) (d : Nat) : Die := p.dies.getD d Die.reset

/-- A physical-address engine's write of n bytes of x: bytes at unbacked addresses are not written.
The writer is an I/O die. DEDUCED, log 70. -/
def Pkg.engineWrite (p : Pkg) (pa n x : Nat) : Pkg :=
  p.homeWrite ((wordBytes pa n x).filter (fun b => (p.homeOf b.1).isSome)) [] false
    (p.die (if p.homeOf pa = some 9 then 9 else 0)).cut.isNone

/-- Die d's fabric state replaced. -/
def Pkg.setDie (p : Pkg) (d : Nat) (x : Die) : Pkg := { p with dies := p.dies.setIfInBounds d x }

/-- Whether die r has been removed, as MGMT.DIES shows (R315, R406). -/
def Pkg.removed (p : Pkg) (r : Nat) : Bool := decide (p.mgmt.dies.toNat / 2 ^ (16 + r) % 2 = 1)

/-- R315: the home of a byte has been removed. -/
def Pkg.homeGone (p : Pkg) (pa : Nat) : Bool :=
  match p.homeOf pa with
  | some h => p.removed h
  | none => false

/-- The send record of die d for destination e (R303). -/
def Die.record (x : Die) (e : Nat) : List (Nat × BitVec 12) := (assoc e x.sent).getD []

/-- R278 and R309: the dependency entries of a packet from d to e for a strand that knows `kn`. -/
def Die.candidates (x : Die) (d e : Nat) (kn : Knot) : List (Nat × BitVec 12) :=
  (Knot.entries kn).filter (fun j => j.1 != d && j.1 != e && cntAbove j.2 ((assoc j.1 (x.record e)).getD 0))

/-- R309: the send record after the entries `l` went to e. -/
def Die.noteSent (x : Die) (e : Nat) (l : List (Nat × BitVec 12)) : Die :=
  let r := l.foldl (fun r j => assocSet j.1 (cntMax ((assoc j.1 r).getD 0) j.2) r) (x.record e)
  { x with sent := assocSet e r x.sent }

/-- R314 and R315: what a request draws when its home has been removed. -/
def errorAnswer (code : Nat) : Answer := { value := 0, byte8 := 1 + 16 * code, poison := [], raised := [] }

/-- A packet sent from die d to die e (R278, R306 to R309): stamped with V_d[d], carrying the entries of
`kn` that e may lack (`plain` packets, replies to relaxed loads, beacons and removal notices, carry none).
A packet for a removed die is answered with code 3 and a write for it is lost (R315): both come back as a
packet of die d to itself. DEDUCED, log 67. -/
def Pkg.send (p : Pkg) (d e owner bank : Nat) (handle : Word) (kn : Knot) (plain : Bool) (payload : Payload)
    (snap ack : Bool) (tag : Nat) : Pkg :=
  let x := p.die d
  let base : Packet :=
    { src := d, dst := e, stamp := x.v.getD d 0, deps := [], frame := false, snap := snap, ackReq := ack
      tag := tag, owner := owner, bank := bank, handle := handle, payload := payload }
  if (assoc e x.frozenBy).isSome then
    match payload with
    | .readReq _ _ _ => { p with net := p.net ++ [{ base with dst := d, payload := .readReply (errorAnswer 3) }] }
    | .atomic _ va _ _ _ _ => { p with net := p.net ++ [{ base with dst := d, payload := .atomicReply va (errorAnswer 3) }] }
    | .write .. => { p with net := p.net ++ [{ base with dst := d }] }
    | _ => p
  else
    let l := if plain then [] else x.candidates d e kn
    let x := x.noteSent e ((d, x.v.getD d 0) :: l)
    { p.setDie d x with net := p.net ++ [{ base with deps := l, frame := decide (2 < l.length) }] }

/-- V_d raised by a delivered stamp (R278). -/
def Pkg.raiseV (p : Pkg) (d src : Nat) (c : BitVec 12) : Pkg :=
  let x := p.die d
  if d = src then p else p.setDie d { x with v := Knot.raise x.v src c }

/-- R278: a packet from die d to die e where its route is empty and its entries, those of `kn`, are met there, so that
it is delivered as it is sent: the record and the stamp that it leaves. DESIGN CHOICE, log 127. -/
def Pkg.hop (p : Pkg) (d e : Nat) (kn : Option Knot) : Pkg :=
  if d = e then p
  else
    let x := p.die d
    let c := x.v.getD d 0
    (p.setDie d (x.noteSent e ((d, c) :: kn.elim [] (x.candidates d e)))).raiseV e d c

/-- A request from die d to die e for a strand that knows `kn`, and its plain reply, both delivered as they are sent. -/
def Pkg.trip (p : Pkg) (d e : Nat) (kn : Knot) : Pkg := (p.hop d e (some kn)).hop e d none

/-- R305: whether die d may advance its own counter. DEDUCED, log 68. -/
def Pkg.canAdvance (p : Pkg) (d : Nat) : Bool :=
  let x := p.die d
  let v := x.v.getD d 0 + 1
  (List.range 10).all (fun e => e == d || (assoc e x.frozenBy).isSome
    || decide ((v - (assoc e x.beacons).getD 0).toNat < 2047))

/-- R279: die d advances its counter and sends a knot advance to each of the other nine dies, with the
pairs that a strand knowing `kn` would send. -/
def Pkg.advance (p : Pkg) (d : Nat) (kn : Knot) (mk : Payload) : Pkg :=
  let x := p.die d
  let p := p.setDie d { x with v := x.v.setIfInBounds d (x.v.getD d 0 + 1) }
  (List.range 10).foldl (fun p e => if e = d then p else p.send d e 240 0 0 kn false mk false false 0) p

/-- A package-scope release by die d's own logic, which has observed all that the die has delivered. -/
def Pkg.ioRelease (p : Pkg) (d : Nat) : Pkg := p.advance d (p.die d).v .knotAdvance

/-! ### The I/O dies -/

/-- The I/O die with number 0 or 9. -/
def Pkg.io (p : Pkg) (io : Nat) : IODie := if io = 9 then p.io9 else p.io0

/-- The I/O die replaced. -/
def Pkg.setIo (p : Pkg) (io : Nat) (x : IODie) : Pkg := if io = 9 then { p with io9 := x } else { p with io0 := x }

/-- An MSI-X vector raised at a port (R409). -/
def Pkg.msi (p : Pkg) (io v : Nat) : Pkg := p.setIo io { p.io io with msix := (p.io io).msix ++ [v] }

/-- R408: an error-log entry, which raises MSI-X vector 1. DESIGN CHOICE, log 4. -/
def Pkg.log (p : Pkg) (code die detail : Nat) : Pkg :=
  let size := p.mgmt.elogbase.toNat % 16
  let base := p.mgmt.elogbase.toNat / 4096 * 4096
  let i := p.mgmt.eloghead.toNat
  let a := base + 32 * (i % 2 ^ size)
  let p := p.engineWrite a 8 (code + 2 ^ 16 * die)
  let p := p.engineWrite (a + 8) 8 detail
  let p := p.engineWrite (a + 16) 8 p.cyc
  let p := p.engineWrite (a + 24) 8 0
  { p with mgmt := { p.mgmt with eloghead := p.mgmt.eloghead + 1 } }.msi 0 1

/-- The I/O die that takes a requester's faults (R347). -/
def faultIo (die : Nat) : Nat := if die ≤ 4 then 0 else 9

/-- R347: the 32 bytes of a fault request. -/
def faultBytes (tag asn die core bank eq : Nat) (k : Park) : List Byte :=
  let le (n x : Nat) : List Byte := (wordBytes 0 n x).map (fun b => b.2)
  le 8 (k.va % 2 ^ 56) ++ le 8 k.ea ++ le 4 tag ++ le 2 (asn % 4096)
    ++ le 1 (k.access % 4 + 4 * (k.level % 4) + (if k.malformed then 16 else 0)) ++ le 1 k.agent ++ le 1 die
    ++ le 1 core ++ le 1 (bank % 2 + 16 * (eq % 16)) ++ le 5 0

/-- R347: while the ring has room and the die may release, the oldest waiting request is written, PRHEAD
advances as a package-scope release, and the pager interrupt is raised. -/
def Pkg.writeFaults (p : Pkg) (io : Nat) : Nat → Pkg
  | 0 => p
  | n + 1 =>
    let x := p.io io
    match x.faultQueue with
    | [] => p
    | r :: rest =>
      let size := x.prsize.toNat
      if (x.prhead - x.prtail.truncate 32).toNat < 2 ^ size ∧ p.canAdvance io = true then
        let a := x.prbase.toNat + 32 * (x.prhead.toNat % 2 ^ size)
        let p := p.homeWrite ((bytesAt a r.bytes).filter (fun b => (p.homeOf b.1).isSome)) [] false
          (p.die io).cut.isNone
        let p := p.ioRelease io
        let x := { p.io io with prhead := x.prhead + 1, faultQueue := rest, faults := x.faults ++ [r] }
        ((p.setIo io x).msi io 0).writeFaults io n
      else p

/-- A fault request posted (R347): it takes the next TAG of its I/O die and waits for the ring. The answer
is the TAG. -/
def Pkg.postFault (p : Pkg) (asn core bank copy eq : Nat) (engine : Bool) (k : Park) : Pkg × Nat :=
  let die := core / 24
  let io := faultIo die
  let x := p.io io
  let tag := x.nextTag % 2 ^ 32
  let r : FaultReq :=
    { tag := tag, agent := k.agent, core := core, bank := bank, copy := copy
      bytes := faultBytes tag asn die (if engine then 0xFF else core % 24) bank eq k }
  let p := p.setIo io { x with nextTag := x.nextTag + 1, faultQueue := x.faultQueue ++ [r] }
  (p.writeFaults io 64, tag)

end Sys2Proof.Machine
end

