-- ==== Sys2Proof/Machine/Ops.lean ====
section
/-! DEFINITION. The named operations over registers and core state that every instruction shares:
register reads and writes (R17, R20), fields of the status and allocation registers (R39, R42), lane-file
entries, Hoop rows and operand queues (R22, R25, R27), the commit and capture of shadow results (R245,
R246), and taking a trap (R44) and coming back from one (R111). -/

namespace Sys2Proof.Machine

/-- What a meaning answers. -/
abbrev Out := Host.Outcome State Fault Refusal

/-- Bits h to l of a word, as a natural (R13). -/
def bits (x : Word) (h l : Nat) : Nat := x.toNat / 2 ^ l % 2 ^ (h - l + 1)

/-- The word with bits h to l replaced by the low bits of v. -/
def setBits (x : Word) (h l v : Nat) : Word :=
  BitVec.ofNat 64 (x.toNat - bits x h l * 2 ^ l + v % 2 ^ (h - l + 1) * 2 ^ l)

/-- Bit k of a word. -/
def bit (x : Word) (k : Nat) : Bool := x.getLsbD k

/-- The word with bit k set to b. -/
def setBit (x : Word) (k : Nat) (b : Bool) : Word :=
  if b then x ||| (1#64 <<< k) else x &&& ~~~(1#64 <<< k)

/-- A word from a natural, modulo 2^64. -/
def word (n : Nat) : Word := BitVec.ofNat 64 n

/-- A word from an integer, modulo 2^64. -/
def wordI (x : Int) : Word := BitVec.ofInt 64 x

/-! ### General, floating and predicate registers -/

/-- g[r]: g0 reads as zero (R17). -/
def State.gr (s : State) (r : BitVec 6) : Word := if r = 0 then 0 else s.ctx.g[r.toNat]'r.isLt

/-- g[r] := v; a write to g0 is discarded (R17). -/
def State.setGr (s : State) (r : BitVec 6) (v : Word) : State :=
  if r = 0 then s else { s with ctx := { s.ctx with g := s.ctx.g.set r.toNat v r.isLt } }

/-- g[n] for a register number n; 0 for g0 and beyond g63. -/
def Ctx.gAt (c : Ctx) (n : Nat) : Word := if n = 0 then 0 else c.g.getD n 0

/-- A context with g[n] := v; g0 is discarded (R17). -/
def Ctx.setG (c : Ctx) (n : Nat) (v : Word) : Ctx :=
  if n = 0 then c else { c with g := c.g.setIfInBounds n v }

/-- f[r], all 64 bits (R17). -/
def State.fr (s : State) (r : BitVec 5) : Word := s.ctx.f[r.toNat]'r.isLt

/-- f[r] := v. -/
def State.setFr (s : State) (r : BitVec 5) (v : Word) : State :=
  { s with ctx := { s.ctx with f := s.ctx.f.set r.toNat v r.isLt } }

/-- p[r]: p0 reads as all ones (R20). -/
def State.pr (s : State) (r : BitVec 3) : Pred := if r = 0 then BitVec.allOnes 1024 else s.ctx.p[r.toNat]'r.isLt

/-- p[r] := v; a write to p0 is discarded (R20). -/
def State.setPr (s : State) (r : BitVec 3) (v : Pred) : State :=
  if r = 0 then s else { s with ctx := { s.ctx with p := s.ctx.p.set r.toNat v r.isLt } }

/-- The core cycle of the core in focus (R251). -/
def State.now (s : State) : Nat := s.core.clock

/-- The core in focus, as 24 × die + core. -/
def State.coreNo (s : State) : Nat := 24 * s.core.die + s.core.idx

/-- The cluster of a core, as 6 × (die − 1) + cluster (R3, R378). -/
def clusterOf (core : Nat) : Nat := 6 * (core / 24 - 1) + core % 24 / 4

/-- R2: die hops between two dies of the mesh. -/
def dieHops (a b : Nat) : Nat :=
  (if a % 5 ≤ b % 5 then b % 5 - a % 5 else a % 5 - b % 5) + (if a / 5 = b / 5 then 0 else 1)

/-- R268: the broadcast lag of a gang on these cores, the sequencer's first. -/
def lagOf (cores : List Nat) : Nat :=
  let lead := cores.headD 0
  if cores.all (fun k => clusterOf k == clusterOf lead) then 2
  else if cores.all (fun k => k / 24 == lead / 24) then 4
  else 4 + 18 * cores.foldl (fun h k => Nat.max h (dieHops (lead / 24) (k / 24))) 0

/-! ### Fields of ACR, ESTAT and ALLOC (R39, R42) -/

def Ctx.rm (c : Ctx) : RMode := RMode.ofBits (bits c.acr 2 0)
def Ctx.rat (c : Ctx) : Bool := bit c.acr 3
def Ctx.satinf (c : Ctx) : Bool := bit c.acr 4
/-- The enables as EVAL orders the flags: SATE above TE. -/
def Ctx.enables (c : Ctx) : BitVec 6 := BitVec.ofNat 6 (bits c.acr 21 16)
/-- The level: true is system (R16). -/
def Ctx.system (c : Ctx) : Bool := bit c.estat 7
def Ctx.ie (c : Ctx) : Bool := bit c.estat 1
def Ctx.lfBase (c : Ctx) : Nat := bits c.alloc 7 0
def Ctx.lfSize (c : Ctx) : Nat := bits c.alloc 16 8
def Ctx.hBase (c : Ctx) : Nat := bits c.alloc 23 17
def Ctx.hRows (c : Ctx) : Nat := bits c.alloc 31 24
def Ctx.owns (c : Ctx) (q : Nat) : Bool := bit c.alloc (32 + q)
def Ctx.rows (c : Ctx) : Nat := bits c.hshape 7 0
def Ctx.cols (c : Ctx) : Nat := bits c.hshape 14 8
/-- VL and VSTART as counts (R38). -/
def Ctx.vln (c : Ctx) : Nat := bits c.vl 10 0
def Ctx.vsn (c : Ctx) : Nat := bits c.vstart 10 0
/-- This member's index and team size (R41). -/
def Ctx.member (c : Ctx) : Nat := bits c.team 4 0
def Ctx.teamSize (c : Ctx) : Nat := bits c.team 9 5
def Ctx.gang (c : Ctx) : Bool := bit c.team 10
def Ctx.seqr (c : Ctx) : Bool := bit c.team 11

/-- VL := n. -/
def State.setVl (s : State) (n : Nat) : State := { s with ctx := { s.ctx with vl := word n } }
/-- VSTART := n. -/
def State.setVs (s : State) (n : Nat) : State := { s with ctx := { s.ctx with vstart := word n } }
/-- HCUR := n. -/
def State.setHcur (s : State) (n : Nat) : State := { s with ctx := { s.ctx with hcur := word n } }

/-- A counter that stops at 2^64 − 1 (R36). -/
def countUp (x : Word) (n : Nat) : Word := if 2 ^ 64 ≤ x.toNat + n then BitVec.allOnes 64 else x + word n

/-- R73: recorded flags ORed into ACR.FL and SATF, counts added to SATCNT and UNDCNT. -/
def Ctx.record (c : Ctx) (fx : Fx) : Ctx :=
  { c with acr := c.acr ||| (fx.flags.zeroExtend 64 <<< 8)
           satcnt := countUp c.satcnt fx.sat
           undcnt := countUp c.undcnt fx.und }

/-- The same on the running context. -/
def State.record (s : State) (fx : Fx) : State := { s with ctx := s.ctx.record fx }

/-- The recorded flags whose enable is set (R73). -/
def Ctx.enabled (c : Ctx) (fx : Fx) : Bool := fx.flags &&& c.enables != 0

/-! ### Lane-file entries, rows and queues, by logical number -/

/-- The entry at logical number e of a context on a core (R22). -/
def Core.entry (k : Core) (c : Ctx) (e : Nat) : Entry := k.lane.getD (c.lfBase + e) Entry.zero

/-- Logical entry e of the running context. -/
def State.entry (s : State) (e : Nat) : Entry := s.core.entry s.ctx e

/-- The entry written, without its DIRTY bit. -/
def Core.putEntry (k : Core) (c : Ctx) (e : Nat) (v : Entry) : Core :=
  { k with lane := k.lane.setIfInBounds (c.lfBase + e) v }

/-- Logical entry e := v, setting its DIRTY bit (R24). -/
def State.setEntry (s : State) (e : Nat) (v : Entry) : State :=
  { s with core := s.core.putEntry s.ctx e v
           ctx := { s.ctx with dirty := s.ctx.dirty ||| (1#256 <<< e) } }

/-- Logical row r of the running context (R27). -/
def State.row (s : State) (r : Nat) : Row := s.core.hoop.getD (s.ctx.hBase + r) Row.zero

/-- Logical row r := v, setting its HDIRTY bit (R30). -/
def State.setRow (s : State) (r : Nat) (v : Row) : State :=
  { s with core := { s.core with hoop := s.core.hoop.setIfInBounds (s.ctx.hBase + r) v }
           ctx := { s.ctx with hdirty := s.ctx.hdirty ||| (1#128 <<< r) } }

/-- Queue q's entries, oldest first. -/
def State.queue (s : State) (q : Nat) : List Entry := s.core.queues.getD q []

/-- Queue q's entries replaced. -/
def State.setQueue (s : State) (q : Nat) (l : List Entry) : State :=
  { s with core := { s.core with queues := s.core.queues.setIfInBounds q l } }

/-- A push at the tail (R25), which sets the event flag of the owner (R112). -/
def State.push (s : State) (q : Nat) (v : Entry) : State :=
  let s := s.setQueue q (s.queue q ++ [v])
  if s.ctx.owns q then { s with ctx := { s.ctx with eventFlag := true } }
  else if s.other.owns q && s.other.holds then { s with other := { s.other with eventFlag := true } }
  else s

/-- Element i of width w in a lane entry's data. -/
def elem (w : Nat) (d : Lanes) (i : Nat) : Nat := (d.extractLsb' (w * i) w).toNat

/-- The data with element i of width w replaced. -/
def setElem (w : Nat) (d : Lanes) (i x : Nat) : Lanes :=
  let m : Lanes := (BitVec.allOnes w).zeroExtend 8192 <<< (w * i)
  (d &&& ~~~m) ||| ((BitVec.ofNat w x).zeroExtend 8192 <<< (w * i))

/-- Cell c of a row. -/
def Row.cell (r : Row) (c : Nat) : Nat := (r.cells.extractLsb' (64 * c) 64).toNat

/-- The cells with cell c replaced. -/
def setCell (d : BitVec 4096) (c x : Nat) : BitVec 4096 :=
  let m : BitVec 4096 := (BitVec.allOnes 64).zeroExtend 4096 <<< (64 * c)
  (d &&& ~~~m) ||| ((BitVec.ofNat 64 x).zeroExtend 4096 <<< (64 * c))

/-! ### Shadow results (R245 to R247) -/

/-- A shadow result's commit (R143, R170, R226, R229): its entry, row or queue push, its tag, its flags
and counts, the latch codes and AMAXK; an enabled flag leaves an ARITH trap to take, whose EVAL has bit 6
set for an SFU source and bit 7 for `vbamax`. DEDUCED, log 31, 33. -/
def State.commitHere (s : State) (r : Shadow) : State :=
  let fx : Fx := { flags := r.flags, sat := r.sat, und := r.und }
  let trap := s.ctx.enabled fx
  let s := s.record fx
  let latch := (List.range 32).foldl (fun l b =>
    if r.lmask.getLsbD b then
      (l &&& ~~~(0xFF#256 <<< (8 * b))) ||| (r.codes &&& (0xFF#256 <<< (8 * b)))
    else l) s.ctx.latch
  let s := { s with ctx := { s.ctx with latch := latch } }
  let e : Entry := { tag := r.tag, data := r.data, poison := r.poison }
  let s :=
    match r.kind with
    | .sfuEntry n => s.setEntry n e
    | .sfuQueue q => s.push q e
    | .bamax n =>
      let s1 := s.setEntry n e
      { s1 with ctx := { s1.ctx with amaxk := r.amax.zeroExtend 64 } }
    | .bamaxQueue q =>
      let s1 := s.push q e
      { s1 with ctx := { s1.ctx with amaxk := r.amax.zeroExtend 64 } }
    | .bamaxPeer => { s with ctx := { s.ctx with amaxk := r.amax.zeroExtend 64 } }
    | .bscale => s
    | .hsfu n => s.setRow n { tag := r.tag, cells := r.data.truncate 4096, poison := r.poison }
  let src : Word :=
    match r.kind with
    | .bamax _ => 0x80
    | .bamaxQueue _ => 0x80
    | .bamaxPeer => 0x80
    | _ => 0x40
  let ev : Word := r.flags.zeroExtend 64 ||| src ||| (s.ctx.sfuTrap.getD 0)
  if trap then { s with ctx := { s.ctx with sfuTrap := some ev } } else s

/-- The commit of a shadow result, on the running strand's registers and, under an open window, on what a fault of
the window would take them back to (R242). -/
def State.commit (s : State) (r : Shadow) : State :=
  let t := s.commitHere r
  match s.core.undo with
  | none => t
  | some u =>
    if u.bank = s.ctx.bank then
      let b := { s with ctx := u.ctx, core := { s.core with lane := u.lane } }.commitHere r
      { t with core := { t.core with undo := some { u with ctx := b.ctx, lane := b.core.lane } } }
    else t

/-- A shadow result placed after those that commit no later than it. -/
def insertShadow (r : Shadow) : List Shadow → List Shadow
  | [] => [r]
  | x :: l => if r.at_ < x.at_ then r :: x :: l else x :: insertShadow r l

/-- Every live result whose commit cycle is at or before core cycle t commits, in commit-cycle then
program order (R247). -/
def State.commitUpTo (s : State) (t : Nat) : State :=
  match s.ctx.live with
  | [] => s
  | l =>
    let due := (l.filter (fun r => decide (r.at_ ≤ t))).foldl (fun a r => insertShadow r a) []
    let s := { s with ctx := { s.ctx with live := l.filter (fun r => decide (t < r.at_)) } }
    due.foldl State.commit s

/-- R246: the bit of SFSHADOW that names a held result; one with more cycles left than its mask has bits, as the
lag of a gang can give, has the mask's highest. DESIGN CHOICE, log 135. -/
def Shadow.maskBit (r : Shadow) : Nat :=
  match r.kind with
  | .hsfu _ => 32 + Nat.min (r.at_ - 1) 15
  | .bscale => 16 + Nat.min (r.at_ - 1) 10
  | _ => 48 + Nat.min (r.at_ - 1) 15

/-- The word of SFSHADOW for a held half (R246). -/
def shadowWord (held : List Shadow) : Word := held.foldl (fun w r => setBit w r.maskBit true) 0

/-- R247: the held half goes live as its first resumed pair issues, to commit REM cycles later. -/
def State.resumed (s : State) : State :=
  if s.ctx.resume then
    { s with ctx := { s.ctx with
        live := s.ctx.live ++ s.ctx.held.map (fun r => { r with at_ := r.at_ + s.now }), held := [], resume := false } }
  else s

/-- R246: at user level every live result that has not committed moves to the held half with its
remaining count; at system level every live result commits at once. DEDUCED, log 25. -/
def State.capture (s : State) : State :=
  let s := s.resumed.commitUpTo s.now
  if s.ctx.system then
    let s := s.ctx.live.foldl State.commit { s with ctx := { s.ctx with live := [] } }
    { s with ctx := { s.ctx with sfuTrap := none } }
  else
    let held := s.ctx.held ++ s.ctx.live.map (fun r => { r with at_ := r.at_ - s.now })
    let w := shadowWord held
    { s with ctx := { s.ctx with live := [], held := held, sfshadow := w, sfuTrap := none
                                 estat := setBit s.ctx.estat 3 (w != 0) } }

/-! ### Taking a trap and returning -/

/-- The cycle by which everything a context has issued has completed (the drain of R244). -/
def Ctx.drained (c : Ctx) (t : Nat) : Nat :=
  c.board.foldl (fun m b => if m < b.due then b.due else m) t

/-- R44 and R244 to R246: taking a trap or interrupt with a cause and an EVAL. The shadow is captured;
EPC is the pair's first word; PPL and PIE take PL and IE; IE is cleared and PL is system; LC.POS names
EPC's place in an active loop (R108); issue goes on at TVEC + 64 × cause. BSW starts clear; REPLAY
keeps what a replay that has not begun to issue needs, and SKIP1 and SKIP2 what an earlier trap of the same
pair recorded; the pair rules of R61 and R67 add theirs. A TRANSLATION fault sets BSW and posts its fault request, on which the bank parks (R254, R347); one
that is OUT_OF_RANGE has its answer, code 1, at once (R348). DESIGN CHOICE, log 22. DEDUCED, log 25, 26. -/
def State.takeTrap (s : State) (cause : Nat) (eval : Word) (late : Bool := false)
    (park : Option Park := none) : State :=
  let s := s.capture
  let c := s.ctx
  let es := c.estat
  let es := setBit (setBit es 0 (bit c.estat 7)) 2 (bit c.estat 1)
  let es := setBit (setBit es 1 false) 7 true
  let es := setBit (setBit (setBit (setBit es 4 (c.replayed && c.convoy.isEmpty)) 6 false) 8 c.skip1) 9 c.skip2
  let es := setBit es 6 (cause == 0x06)
  let lc := if bit c.lc 42 then setBits c.lc 48 43 ((s.pairAddr - c.first).toNat / 4) else c.lc
  let c := if cause = 0x06 ∧ park = none then c.setG 62 1 else c
  let (pkg, tag) := match park with
    | some k =>
      let (q, t) := s.pkg.postFault c.asn s.coreNo c.bank 0 0 false k
      (q, some t)
    | none => (s.pkg, none)
  { s with pkg := pkg
           ctx := { c with epc := s.pairAddr, ecause := word cause, eval := eval, estat := es, lc := lc
                           skip1 := false, skip2 := false
                           parked := tag, wait := none }
           taken := true
           npc := c.tvec + word (64 * cause)
           trap := some { cause := cause, eval := eval, late := late, park := park } }

/-- The answer of a meaning that traps. -/
def trapOut (s : State) (cause : Nat) (eval : Word) : Out := .next (s.takeTrap cause eval)

/-- A trap recognised at the close of a fault window or trap-enable hold (R242). -/
def trapLate (s : State) (cause : Nat) (eval : Word) : Out := .next (s.takeTrap cause eval true)

/-- A row fault of a restartable form that holds no window (R158). -/
def trapRow (s : State) (cause : Nat) (eval : Word) : Out :=
  let t := s.takeTrap cause eval
  .next { t with trap := t.trap.map (fun r => { r with row := true }) }

/-- A TRANSLATION fault that parks (R254). -/
def trapPark (s : State) (late : Bool) (eval : Word) (k : Park) : Out :=
  .next (s.takeTrap 0x06 eval late (some k))

/-- The pair cannot issue yet: nothing changes but the reason of R243 it waits for. -/
def stallOut (s : State) (reason : Nat) : Out :=
  .next { s with stalled := true, ctx := { s.ctx with stallReason := reason } }

/-- The same for a queue that is empty or full (R26). -/
def queueOut (s : State) (q : Nat) : Out :=
  .next { s with stalled := true, ctx := { s.ctx with stallReason := 11, stallQueue := q } }

/-- Stalls that R243, R26 or neither counts. -/
def stallKind (reason : Nat) : Nat := if 1 ≤ reason ∧ reason ≤ 10 then 0 else if reason = 11 then 1 else 2

/-- The field `stall` of a pair that stalls in core cycle t for a reason: a stall of another kind begins anew. -/
def Ctx.stallFrom (c : Ctx) (t reason : Nat) : Nat :=
  if c.stall ≠ 0 ∧ stallKind c.stallReason = stallKind reason then c.stall else t + 1

/-- The core cycles that the next pair has stalled by cycle t (R243). -/
def Ctx.stallTime (c : Ctx) (t : Nat) : Nat := t + 1 - c.stall

/-- The running context's pair waits (R255), and what for is kept. -/
def State.waitFor (s : State) (k : WaitKind) (dest place value : Nat) : State :=
  { s with ctx := { s.ctx with
      wait := some { kind := k, dest := dest, place := place, value := value, second := s.second } } }

/-- The wait of the running context's stalled pair is over. -/
def State.waited (s : State) : State := { s with ctx := { s.ctx with wait := none } }

/-- A wait that an event ends: its instruction has completed, and its pair issues without it (R111). -/
def State.waitOver (s : State) (w : WaitRec) : State :=
  { s with ctx := { s.ctx with wait := none, skip1 := s.ctx.skip1 || !w.second, skip2 := s.ctx.skip2 || w.second } }

/-- Why a meaning does not complete: a trap that leaves no effect, a trap recognised at the close of a
fault window with the state its progress leaves (R67, R242), a row fault of a restartable form that holds no
window, with the rows below it done (R158), a TRANSLATION fault with the state that an
element fault leaves and its fault request, a stall with its reason (R243; 12 for a wait of R255), a queue stall
(R26), a stall that leaves something under way, or a stop of the machine. -/
inductive Stop where
  | trap (cause : Nat) (eval : Word)
  | late (t : State) (cause : Nat) (eval : Word)
  | row (t : State) (cause : Nat) (eval : Word)
  | park (t : Option State) (eval : Word) (k : Park)
  | wait (reason : Nat)
  | queue (q : Nat)
  | waitIn (t : State) (reason : Nat)
  | stop (r : Fault)
  deriving DecidableEq, Repr

/-- A part of a meaning: it yields a value, or says why it stops. -/
abbrev M (α : Type) := Except Stop α

/-- The outcome of a meaning: a trap without progress is taken on the state before the instruction. -/
def finish (s : State) (m : M State) : Out :=
  match m with
  | .ok t => .next t
  | .error (.trap c e) => trapOut s c e
  | .error (.late t c e) => trapLate t c e
  | .error (.row t c e) => trapRow t c e
  | .error (.park none e k) => trapPark s false e k
  | .error (.park (some t) e k) => trapPark t true e k
  | .error (.wait r) => stallOut s r
  | .error (.queue q) => queueOut s q
  | .error (.waitIn t r) => stallOut t r
  | .error (.stop r) => .fault r

/-- ECAUSE codes (R45). -/
def cIllegalOpcode := 0x01
def cIllegalPair := 0x02
def cIllegalConvoy := 0x03
def cTagMismatch := 0x04
def cMisaligned := 0x05
def cTranslation := 0x06
def cPermission := 0x07
def cPoison := 0x08
def cArith := 0x09
def cUserTrap := 0x0A
def cQueueTimeout := 0x0B
def cFreezeTimeout := 0x0C
def cBarrierFault := 0x0D
def cRemoteError := 0x0E
def cGangFail := 0x0F
def cPrivilege := 0x10
def cBreak := 0x11
def cWatchdog := 0x12

/-- R111 and R247: the return from a handler. PL and IE come back from PPL and PIE; an active loop's
`first` is rebuilt from LC.POS; the held results go back to the live half with the first resumed pair; issue goes
on at EPC, whose pair issues only the instruction with a clear SKIP bit. DESIGN CHOICE, log 22. DEDUCED, log 25, 26. -/
def State.returnFrom (s : State) : State :=
  let c := s.ctx
  let es := setBit (setBit c.estat 7 (bit c.estat 0)) 1 (bit c.estat 2)
  let first := if bit c.lc 42 then c.epc - word (4 * bits c.lc 48 43) else c.first
  let back := bit c.estat 3
  { s with
    ctx := { c with estat := setBit (setBit (if back then setBit es 3 false else es) 8 false) 9 false
                    skip1 := bit c.estat 8, skip2 := bit c.estat 9
                    first := first
                    resume := back
                    sfshadow := if back then 0 else c.sfshadow
                    replayed := bit c.estat 4 }
    taken := true
    npc := c.epc }

/-- The core in focus is frozen (R248, R249). -/
def State.frozen (s : State) : Bool := s.core.freeze.inForce || s.pkg.mgmt.switching

/-! ### Other cores -/

/-- Core k of the package as it stands, unless it is the one in focus. -/
def State.peer (s : State) (k : Nat) : Peer :=
  match assoc k s.peers with
  | some p => p
  | none => Peer.reset k

/-- The contexts and shared part of any core, the one in focus included. -/
def State.coreAt (s : State) (k : Nat) : Peer :=
  if k = s.coreNo then { ctx := s.ctx, other := s.other, core := s.core } else s.peer k

/-- A core's contexts and shared part replaced. -/
def State.setCoreAt (s : State) (k : Nat) (p : Peer) : State :=
  if k = s.coreNo then { s with ctx := p.ctx, other := p.other, core := p.core }
  else { s with peers := Sparse.set (Peer.reset k) s.peers k p }

/-- The context of a core's bank b. -/
def Peer.bankCtx (p : Peer) (b : Nat) : Ctx := if p.ctx.bank = b then p.ctx else p.other

/-- A core with bank b's context replaced. -/
def Peer.setBankCtx (p : Peer) (b : Nat) (c : Ctx) : Peer :=
  if p.ctx.bank = b then { p with ctx := c } else { p with other := c }

/-- The focus moved to core k. DESIGN CHOICE, log 6. -/
def State.focusOn (s : State) (k : Nat) : State :=
  if k = s.coreNo then s
  else
    let p := s.peer k
    let me : Peer := { ctx := s.ctx, other := s.other, core := s.core }
    { s with peers := Sparse.set (Peer.reset s.coreNo) s.peers s.coreNo me
             ctx := p.ctx, other := p.other, core := p.core
             trap := none, stalled := false }

/-- The two banks of the core in focus exchanged (R253). -/
def State.swapBanks (s : State) : State :=
  { s with ctx := { s.other with back := false }, other := s.ctx, core := { s.core with running := s.other.bank } }

/-- A context that could issue when its bank runs (R253): it holds a strand and is neither parked, halted nor
stopped. -/
def Ctx.ready (c : Ctx) : Bool := c.holds && !c.stopped && c.parked.isNone && !c.parkedWith && !c.halted

/-- Every context of a set of cores, both banks, with its event flag set (R112). -/
def Peer.setFlags (p : Peer) : Peer :=
  { p with ctx := { p.ctx with eventFlag := true }, other := { p.other with eventFlag := true } }

/-- R46: TIMER set in a bank whose TCMP a cycle has reached; where the source is enabled, the event flag is set
with it and a halted bank resumes. -/
def Ctx.timerAt (c : Ctx) (cyc : Nat) : Ctx :=
  if c.tcmp.toNat ≤ cyc then
    if bit c.ipend 0 then c
    else
      let c := { c with ipend := setBit c.ipend 0 true }
      if bit c.imask 0 then { c with eventFlag := true, halted := false } else c
  else c

/-- R46: TIMER is set in the cycle in which CYC first reaches CMP: between cycles `old` and `cyc`. -/
def Ctx.timerPast (c : Ctx) (old cyc : Nat) : Ctx := if old < c.tcmp.toNat then c.timerAt cyc else c

/-- The same in both banks of a core. -/
def Peer.timerPast (p : Peer) (old cyc : Nat) : Peer :=
  { p with ctx := p.ctx.timerPast old cyc, other := p.other.timerPast old cyc }

/-- R249 and R252: the package cycles for which late replies hold the core still while its clock, now at `clock`, moves
on by n. -/
def Freeze.extra (f : Freeze) (cyc clock n : Nat) : Nat :=
  f.later.foldl (fun e r =>
    if clock < r.1 ∧ r.1 ≤ clock + n then Nat.max e (r.2 - (cyc + (r.1 - clock))) else e) 0

/-- Package time passes by n cycles: CYC advances (R37), with every bank's timer (R46); and core time with it
unless the core in focus is frozen (R251). Replies that are late for a bank in retention stop core time for longer
(R252). The time in which another core is in focus is no core time of this one. DESIGN CHOICE, log 6. -/
def State.pass (s : State) (n : Nat) : State :=
  let old := s.pkg.cyc
  let still := if s.frozen then 0 else s.core.freeze.extra old s.core.clock n
  let cyc := old + n + still
  let f := s.core.freeze
  { s with pkg := { s.pkg with cyc := cyc }
           core := if s.frozen then s.core
                   else { s.core with clock := s.core.clock + n
                                      freeze := { f with later := f.later.filter (fun r => decide (s.core.clock + n < r.1)) } }
           ctx := s.ctx.timerPast old cyc, other := s.other.timerPast old cyc
           peers := s.peers.map (fun (p : Nat × Peer) => (p.1, p.2.timerPast old cyc)) }

/-- R398: every live result has committed: the wait that a switch of banks includes. DEDUCED, log 142. -/
def State.shadowsDone (s : State) : State :=
  match s.ctx.live with
  | [] => s
  | l =>
    let t := l.foldl (fun n r => Nat.max n r.at_) s.now
    (s.pass (t - s.now)).commitUpTo t

/-- Core time reaches cycle t: the shadow results due by then commit. -/
def State.reach (s : State) (t : Nat) : State :=
  (if s.now < t then s.pass (t - s.now) else s).commitUpTo (if s.now < t then t else s.now)

end Sys2Proof.Machine
end

