-- ==== Sys2Proof/Machine/Slash.lean ====
section
/-! DEFINITION. Floating-slash values (R86 to R92): decoding, the exact result of an operation, the
candidates of a continued fraction, and the rounding into SL32 and SL64. -/

namespace Sys2Proof.Machine

/-- The payload width W of a slash size (R86): 26 for SL32, 57 for SL64. -/
def slashW (wide : Bool) : Nat := if wide then 57 else 26

/-- bitlen(n) for n ≥ 1, and 1 for 0: bitlen(max(n, 1)). -/
def bitlen1 (n : Nat) : Nat := Nat.log2 n + 1

/-- R88, slash_fits, with the denominator bound that `vslcvt` adds (R234): 0 means no bound. DEDUCED, log 32. -/
def slashFits (w bound h k : Nat) : Bool :=
  decide (bitlen1 h + bitlen1 k ≤ w) && (decide (bound = 0) || decide (k ≤ bound))

/-- The numerator, denominator, B and S of a slash word (R86). -/
def slashFields (wide : Bool) (code : Nat) : Nat × Nat × Nat × Nat :=
  let w := slashW wide
  let b := code / 2 ^ w % 2 ^ (if wide then 6 else 5)
  let s := code / 2 ^ (if wide then 63 else 31) % 2
  let pay := code % 2 ^ w
  (pay / 2 ^ (w - b), pay % 2 ^ (w - b), b, s)

/-- R87, slash_decode. -/
def slashDecode (wide : Bool) (code : Nat) : Val × Fx :=
  let (num, den, b, s) := slashFields wide code
  if b = 0 ∨ slashW wide ≤ b then (.nar, .nv)
  else if den = 0 ∧ num = 0 then (.nar, .none)
  else if den = 0 then (.inf (decide (s = 1)), .none)
  else if num = 0 then (.fin false 0 1, .none)
  else (.fin (decide (s = 1)) num den, .none)

/-- R88, slash_encode: the word of a reduced representable fraction. -/
def slashEncode (wide : Bool) (neg : Bool) (h k : Nat) : Nat :=
  let w := slashW wide
  let b := bitlen1 h
  (if neg ∧ h ≠ 0 then 2 ^ (if wide then 63 else 31) else 0) + b * 2 ^ w + h * 2 ^ (w - b) + k

/-- The canonical NaR and infinities (R87). -/
def slashNar (wide : Bool) : Nat := 2 ^ slashW wide
def slashInf (wide neg : Bool) : Nat :=
  (if neg then 2 ^ (if wide then 63 else 31) else 0) + 2 ^ slashW wide + 2 ^ (slashW wide - 1)

/-- The partial quotients of p/q, at most `fuel` of them. -/
def cfRat : Nat → Nat → Nat → List Nat
  | 0, _, _ => []
  | fuel + 1, p, q => if q = 0 then [] else (p / q) :: cfRat fuel q (p % q)

/-- The partial quotients of (√S + m)/d, at most `fuel` of them; `root` is ⌊√S⌋. -/
def cfSurd (s root : Nat) : Nat → Int → Int → List Nat
  | 0, _, _ => []
  | fuel + 1, m, d =>
    if d = 0 then []
    else
      let c := ((root : Int) + m) / d
      let m' := c * d - m
      c.toNat :: cfSurd s root fuel m' (((s : Int) - m' * m') / d)

/-- The largest j from 1 to c, found bit by bit from bit b − 1 down, whose semiconvergent
(h2 + j·h1)/(k2 + j·k1) fits; 0 where none does. -/
def slashLargestJ (w bd c h1 k1 h2 k2 : Nat) : Nat → Nat → Nat
  | 0, j => j
  | b + 1, j =>
    let j' := j + 2 ^ b
    slashLargestJ w bd c h1 k1 h2 k2 b
      (if j' ≤ c ∧ slashFits w bd (h2 + j' * h1) (k2 + j' * k1) = true then j' else j)

/-- R91, cf_bracket, over a list of partial quotients: the largest candidate below, the smallest above,
and the number m of quotients the unit computes. Even indices lie below the value and odd ones above. -/
def cfBracket (w bd : Nat) : List Nat → Bool → Nat × Nat → Nat × Nat → Nat × Nat → Option (Nat × Nat) →
    Nat → (Nat × Nat) × Option (Nat × Nat) × Nat
  | [], _, _, _, lo, hi, m => (lo, hi, m)
  | c :: r, odd, (h1, k1), (h2, k2), lo, hi, m =>
    let j := slashLargestJ w bd c h1 k1 h2 k2 58 0
    let cand := (h2 + j * h1, k2 + j * k1)
    let lo := if j ≠ 0 ∧ odd = false then cand else lo
    let hi := if j ≠ 0 ∧ odd = true then some cand else hi
    let conv := (h2 + c * h1, k2 + c * k1)
    if slashFits w bd conv.1 conv.2 then cfBracket w bd r (!odd) conv (h1, k1) lo hi (m + 1)
    else (lo, hi, m + 1)

/-- A positive real that a slash result rounds: a fraction, or the square root of one. -/
inductive SlashReal where
  | rat (p q : Nat)
  | sqrt (p q : Nat)
  deriving DecidableEq, Repr

/-- How the real compares with h/k: the two sides of the cross-multiplied comparison. -/
def SlashReal.sides (x : SlashReal) (h k : Nat) : Nat × Nat :=
  match x with
  | .rat p q => (p * k, h * q)
  | .sqrt p q => (p * k * k, h * h * q)

/-- The real's partial quotients. -/
def SlashReal.quotients : SlashReal → List Nat
  | .rat p q => cfRat 80 p q
  | .sqrt p q => cfSurd (p * q) (isqrt (p * q)) 80 0 q

/-- R90 for a positive real that does not fit: the code, what is recorded, and m of R91. -/
def slashChoose (wide : Bool) (bd : Nat) (x : SlashReal) (neg : Bool) (mode : RMode) : Nat × Fx × Nat :=
  let w := slashW wide
  let tiny := 2 ^ (w - 1) - 1
  let (lt, rt) := x.sides 1 tiny
  let fx := Fx.and .nx (Fx.when (decide (lt < rt)) .uf)
  let (lo, hi?, m) := cfBracket w bd x.quotients false (1, 0) (0, 1) (0, 1) none 0
  let up := decide (mode = .ru ∧ neg = false) || decide (mode = .rd ∧ neg = true)
  match hi? with
  | none =>
    let fx := Fx.and fx .of_
    if mode = .rne ∨ mode = .rm ∨ up = true then (slashInf wide neg, fx, m)
    else (slashEncode wide neg tiny 1, fx, m)
  | some hi =>
    let pick : Nat × Nat :=
      match mode with
      | .rz => lo
      | .rd => if up then hi else lo
      | .ru => if up then hi else lo
      | .rne =>
        let (a, b) := x.sides (lo.1 * hi.2 + hi.1 * lo.2) (2 * lo.2 * hi.2)
        if a < b then lo else if b < a then hi
        else if hi.2 < lo.2 then hi else lo
      | .rm =>
        let (a, b) := x.sides (lo.1 + hi.1) (lo.2 + hi.2)
        if a < b then lo else if b < a then hi
        else if hi.2 < lo.2 then hi else lo
    (slashEncode wide neg pick.1 pick.2, fx, m)

/-- R90, slash_round under a denominator bound, with the m of R91 (0 where the reduced exact result
fits). DEDUCED, log 32. -/
def slashRoundB (wide : Bool) (bd : Nat) (v : Val) (mode : RMode) : Nat × Fx × Nat :=
  match v with
  | .nan s => (slashNar wide, Fx.when s .nv, 0)
  | .nar => (slashNar wide, .none, 0)
  | .inf neg => (slashInf wide neg, .none, 0)
  | .fin neg num den =>
    let g := Nat.gcd num den
    let p := num / g
    let q := den / g
    if slashFits (slashW wide) bd p q then (slashEncode wide neg p q, .none, 0)
    else slashChoose wide bd (.rat p q) neg mode

/-- R90, slash_round. -/
def slashRound (wide : Bool) (v : Val) (mode : RMode) : Nat × Fx × Nat := slashRoundB wide 0 v mode

/-- R89: the operations with an exact slash result. -/
inductive SlashOp where
  | add | sub | mul | div
  deriving DecidableEq, Repr

/-- R89, slash_exact. -/
def slashExact (op : SlashOp) (a b : Val) : Val × Fx :=
  let addv (a b : Val) : Val × Fx :=
    match a, b with
    | .inf s, .inf t => if s = t then (.inf s, .none) else (.nar, .nv)
    | .inf s, _ => (.inf s, .none)
    | _, .inf t => (.inf t, .none)
    | x, y => (Val.ofFrac (x.num * y.den + y.num * x.den) (x.den * y.den) false, .none)
  if a.isNan || b.isNan then (.nar, .none)
  else
    match op with
    | .add => addv a b
    | .sub => addv a b.neg
    | .mul =>
      match a, b with
      | .inf s, y => if y.isZero then (.nar, .nv) else (.inf (s != y.sign), .none)
      | x, .inf t => if x.isZero then (.nar, .nv) else (.inf (x.sign != t), .none)
      | x, y => (Val.ofFrac (x.num * y.num) (x.den * y.den) false, .none)
    | .div =>
      match a, b with
      | .inf _, .inf _ => (.nar, .nv)
      | .inf s, y => if y.isZero then (.inf s, .dz) else (.inf (s != y.sign), .none)
      | _, .inf _ => (.fin false 0 1, .none)
      | x, y =>
        if y.isZero then (if x.isZero then (.nar, .nv) else (.inf x.sign, .dz))
        else
          (Val.ofFrac ((if y.sign then -1 else 1) * x.num * y.den) (x.den * y.num.natAbs) false, .none)

/-- R120, the square root of a slash value; m of R91 with it. -/
def slashSqrt (wide : Bool) (v : Val) (mode : RMode) : Nat × Fx × Nat :=
  match v with
  | .nan _ => (slashNar wide, .none, 0)
  | .nar => (slashNar wide, .none, 0)
  | .inf neg => if neg then (slashNar wide, .nv, 0) else (slashInf wide false, .none, 0)
  | .fin neg num den =>
    if num = 0 then (slashEncode wide false 0 1, .none, 0)
    else if neg then (slashNar wide, .nv, 0)
    else
      let g := Nat.gcd num den
      let p := num / g
      let q := den / g
      let rp := isqrt p
      let rq := isqrt q
      if rp * rp = p ∧ rq * rq = q then slashRound wide (.fin false rp rq) mode
      else slashChoose wide 0 (.sqrt p q) false mode

end Sys2Proof.Machine
end

