-- ==== Sys2Proof/Machine/Operands.lean ====
section
/-! DEFINITION. Operand forms: immediates and branch targets (R51, R53), the names of the lane file and
the queue ports (R21 to R25), format tags with their widths, values and zero codes (R31 to R33, R95), and
the roundings of R78 by tag. -/

namespace Sys2Proof.Machine

/-! ### Immediates (R53) -/

/-- The signed value of an immediate field, or of the combined immediate. -/
def immInt {w : Nat} : Imm w → Int
  | .short v => v.toInt
  | .long v => v.toInt

/-- The immediate as a 64-bit word, sign-extended (R100). -/
def immWord {w : Nat} (i : Imm w) : Word := wordI (immInt i)

/-- The target of a branch or jump at the word executing (R51). -/
def State.target {w : Nat} (s : State) (off : Imm w) : Word := s.wordAddr + wordI (4 * immInt off)

/-- The EVAL of an instruction word at fault: the word, and its byte offset from EPC (R16, R56). -/
def State.wordEval (s : State) : Word :=
  s.curWord.zeroExtend 64 ||| word ((s.wordAddr - s.pairAddr).toNat % 16 * 2 ^ 32)

/-! ### Names of the lane file (R21) -/

/-- What a v name reaches. -/
inductive VRef where
  | entry (e : Nat)
  | queue (q : Nat)
  deriving DecidableEq, Repr

/-- R21: the mapping of a v name under the window and the ring. -/
def Ctx.vref (c : Ctx) (n : Nat) : VRef :=
  if n < 48 then .entry ((bits c.vwb 7 0 + n) % 240)
  else if n < 60 then .entry (bits c.vrb 7 0 + (n - 48 + bits c.vrb 11 8) % 12)
  else .queue (n - 60)

/-- The name v[n] in the running context. -/
def State.vref (s : State) (n : BitVec 6) : VRef := s.ctx.vref n.toNat

/-- R356: the EVAL of poisoned register data, by kind and number. -/
def poisonEval (kind n : Nat) : Word := word (2 ^ 63 + kind * 256 + n % 256)

/-- R22 and R25: access to a name's entry or queue. -/
def State.checkRef (s : State) : VRef → M Unit
  | .entry e => if s.ctx.lfSize ≤ e then .error (.trap cPermission (word e)) else .ok ()
  | .queue q => if s.ctx.owns q then .ok () else .error (.trap cPermission (word (0x10000 + q)))

/-- A source read by name: an entry as it stands, or the oldest entry of a queue, which pops (R25, R26). -/
def State.takeRef (s : State) (r : VRef) : M (Entry × State) := do
  s.checkRef r
  match r with
  | .entry e =>
    let v := s.entry e
    if v.poison then .error (.trap cPoison (poisonEval 0 e)) else .ok (v, s)
  | .queue q =>
    match s.queue q with
    | [] => .error (.queue q)
    | v :: rest => if v.poison then .error (.trap cPoison (poisonEval 2 q)) else .ok (v, s.setQueue q rest)

/-- v[n] read as a source. -/
def State.takeV (s : State) (n : BitVec 6) : M (Entry × State) := s.takeRef (s.vref n)

/-- The tag a source by name would show, without popping; RAW for an empty queue. -/
def State.tagOf (s : State) (r : VRef) : BitVec 5 :=
  match r with
  | .entry e => (s.entry e).tag
  | .queue q => ((s.queue q).headD Entry.zero).tag

/-- The queue slots that a context's VSFU results, in flight or held, have reserved (R142). DEDUCED, log 33, 82. -/
def Ctx.reserved (c : Ctx) (q : Nat) : Nat :=
  ((c.live ++ c.held).filter (fun r => r.kind == .sfuQueue q || r.kind == .bamaxQueue q)).length

/-- The same in the running context. -/
def State.reserved (s : State) (q : Nat) : Nat := s.ctx.reserved q

/-- R26: room for a push. -/
def State.checkRoom (s : State) : VRef → M Unit
  | .entry _ => .ok ()
  | .queue q => if 8 ≤ (s.queue q).length + s.reserved q then .error (.queue q) else .ok ()

/-- A whole result written to a name: an entry with its DIRTY bit, or a push. -/
def State.putRef (s : State) (r : VRef) (v : Entry) : State :=
  match r with
  | .entry e => s.setEntry e v
  | .queue q => s.push q v

/-! ### Format tags (R31) -/

def tRAW : BitVec 5 := 0x00
def tI8 : BitVec 5 := 0x01
def tI64 : BitVec 5 := 0x07
def tN32 : BitVec 5 := 0x06
def tI32 : BitVec 5 := 0x05
def tE4M3 : BitVec 5 := 0x08
def tE5M2 : BitVec 5 := 0x09
def tNarrow : BitVec 5 := 0x0A
def tBF16 : BitVec 5 := 0x0B
def tF16 : BitVec 5 := 0x0C
def tF32 : BitVec 5 := 0x0D
def tF64 : BitVec 5 := 0x0E
def tSL32 : BitVec 5 := 0x0F
def tSL64 : BitVec 5 := 0x10
def tE8M0 : BitVec 5 := 0x11
def tBIT : BitVec 5 := 0x12

/-- A reserved tag code (R31). -/
def tagReserved (t : BitVec 5) : Bool := decide (0x13 ≤ t.toNat)

/-- The element width of a tag in bits, as R131 counts it: RAW and BIT elements are 64 bits, tag 0x0A one
byte. DEDUCED, log 53. -/
def tagWidth (t : BitVec 5) : Nat :=
  match t.toNat with
  | 0x01 => 8 | 0x02 => 8 | 0x03 => 16 | 0x04 => 16 | 0x05 => 32 | 0x06 => 32 | 0x07 => 64
  | 0x08 => 8 | 0x09 => 8 | 0x0A => 8 | 0x0B => 16 | 0x0C => 16 | 0x0D => 32 | 0x0E => 64
  | 0x0F => 32 | 0x10 => 64 | 0x11 => 8
  | _ => 64

/-- VLMAX of an element width in bits (R33): 16 for 64-bit elements and 1,024 for bytes. DEDUCED, log 13. -/
def vlmax (w : Nat) : Nat := if w = 64 then 16 else 8192 / w

/-- The elements below n that a run may process (R67, R273). -/
def Ctx.upTo (c : Ctx) (n : Nat) : Nat := match c.cut with | some i => Nat.min n i | none => n

/-- R130: the element count of an instruction of element width w. DEDUCED, log 13. -/
def State.count (s : State) (w : Nat) : Nat := Nat.min s.ctx.vln (vlmax w)

def isInt (t : BitVec 5) : Bool := (intTag t.toNat).isSome
def isIeee (t : BitVec 5) : Bool := decide (0x0B ≤ t.toNat ∧ t.toNat ≤ 0x0E)
def isSlash (t : BitVec 5) : Bool := decide (t.toNat = 0x0F ∨ t.toNat = 0x10)
def isFp8 (t : BitVec 5) : Bool := decide (t.toNat = 0x08 ∨ t.toNat = 0x09)

/-- The binary format of an IEEE tag. -/
def tagFmt (t : BitVec 5) : Fmt :=
  match t.toNat with
  | 0x08 => fmtE4M3
  | 0x09 => fmtE5M2
  | 0x0A => fmtE2M1
  | 0x0B => fmtBF16
  | 0x0C => fmtF16
  | 0x0D => fmtF32
  | _ => fmtF64

/-- Whether an integer tag is signed. -/
def tagSigned (t : BitVec 5) : Bool := ((intTag t.toNat).getD (false, 64)).1

/-- The value of a code under a tag; `picot` reads tag 0x0A as PICOT8 (R32). Reading a slash word can
raise NV (R87); RAW, BIT and E8M0 words have their own values. -/
def valueOf (t : BitVec 5) (picot : Bool) (code : Nat) : Val × Fx :=
  if isInt t then (Val.ofInt (intValue (tagSigned t) (tagWidth t) code), .none)
  else if isIeee t then ((tagFmt t).ieeeValue code, .none)
  else if isFp8 t then ((tagFmt t).narrowValue code, .none)
  else if t = tNarrow then (if picot then (picotValue code, .none) else (fmtE2M1.narrowValue (code % 16), .none))
  else if isSlash t then slashDecode (t = tSL64) code
  else if t = tE8M0 then (e8m0Value code, .none)
  else (.fin false code 1, .none)

/-- R78, round_to, with the governing SATINF bit; `picot` writes tag 0x0A as PICOT8. -/
def roundTo (t : BitVec 5) (picot : Bool) (v : Val) (mode : RMode) (satinf : Bool) : Nat × Fx :=
  match intTag t.toNat with
  | some (sg, w) => let (x, fx) := intRound sg w v mode; (intCode w x, fx)
  | none =>
    if isFp8 t then roundNarrow (tagFmt t) v satinf
    else if t = tNarrow then (if picot then picotRound v else roundNarrow fmtE2M1 v satinf)
    else if isSlash t then (let (c, fx, _) := slashRound (t = tSL64) v mode; (c, fx))
    else roundIeee (tagFmt t) v mode

/-- The zero code of a tag (R95); `picot` for tag 0x0A. -/
def zeroCode (t : BitVec 5) (picot : Bool) : Nat :=
  if t = tNarrow then (if picot then 0x77 else 0)
  else if t = tSL32 then 0x04000001
  else if t = tSL64 then 0x0200000000000001
  else 0

/-- The zero code where an instruction names no format suffix. DESIGN CHOICE, log 12. -/
def zeroOf (t : BitVec 5) : Nat := zeroCode t Config.zero0A

/-- An entry's data with every element of width w equal to x. -/
def splat (w x : Nat) : Lanes :=
  (List.range (8192 / w)).foldl (fun d i => d ||| ((BitVec.ofNat w x).zeroExtend 8192 <<< (w * i))) 0

/-- The data of a fresh queue entry of a tag with a given zero code: every element that code (R130). -/
def filled (t : BitVec 5) (z : Nat) : Lanes := if z = 0 then 0 else splat (tagWidth t) z

/-- The same where an instruction names no format suffix. DESIGN CHOICE, log 12. -/
def zeroData (t : BitVec 5) : Lanes := filled t (zeroOf t)

end Sys2Proof.Machine
end

