-- ==== Sys2Proof/Machine/Alu.lean ====
section
/-! DEFINITION. The ALU family and the immediate forms (R98 to R102): one meaning per instruction. -/

namespace Sys2Proof.Machine

/-- 1 or 0, as the set forms write it. -/
def flagWord (b : Bool) : Word := if b then 1 else 0

/-- R98: an ALU form of two registers. -/
def alu2 (f : Word → Word → Word) (d a b : BitVec 6) (s : State) : Out := .next (s.setGr d (f (s.gr a) (s.gr b)))

/-- R98: an ALU form of one register. -/
def alu1 (f : Word → Word) (d a : BitVec 6) (s : State) : Out := .next (s.setGr d (f (s.gr a)))

/-- R100: an immediate form. -/
def aluImm (f : Word → Word → Word) (d a : BitVec 6) (i : Imm 12) (s : State) : Out :=
  .next (s.setGr d (f (s.gr a) (immWord i)))

/-- The shift amount of a register operand: its low six bits. -/
def shamt (b : Word) : Nat := bits b 5 0

/-- Leading zeros of a value of w bits (R98, R138). -/
def clzNat (w x : Nat) : Nat := if x = 0 then w else w - 1 - Nat.log2 x

/-- Trailing zeros of the low bits of x, at most `fuel`. -/
def ctzAux : Nat → Nat → Nat
  | 0, _ => 0
  | fuel + 1, x => if x % 2 = 1 then 0 else 1 + ctzAux fuel (x / 2)

/-- The number of set bits among the low `fuel` bits of x. -/
def popAux : Nat → Nat → Nat
  | 0, _ => 0
  | fuel + 1, x => x % 2 + popAux fuel (x / 2)

/-- R98, bext: the bits of a at the set positions of m, packed from bit 0. -/
def bextAux : Nat → Nat → Nat → Nat
  | 0, _, _ => 0
  | fuel + 1, a, m =>
    if m % 2 = 1 then a % 2 + 2 * bextAux fuel (a / 2) (m / 2) else bextAux fuel (a / 2) (m / 2)

/-- R98, bdep: the low bits of a placed at the set positions of m. -/
def bdepAux : Nat → Nat → Nat → Nat
  | 0, _, _ => 0
  | fuel + 1, a, m =>
    if m % 2 = 1 then a % 2 + 2 * bdepAux fuel (a / 2) (m / 2) else 2 * bdepAux fuel a (m / 2)

/-- R99: division towards zero with its corners. -/
def divSigned (a b : Word) : Word :=
  if b = 0 then BitVec.allOnes 64
  else if a.toInt = -(2 ^ 63) ∧ b.toInt = -1 then a
  else wordI (a.toInt.tdiv b.toInt)
def divUnsigned (a b : Word) : Word := if b = 0 then BitVec.allOnes 64 else word (a.toNat / b.toNat)
def remSigned (a b : Word) : Word :=
  if b = 0 then a
  else if a.toInt = -(2 ^ 63) ∧ b.toInt = -1 then 0
  else wordI (a.toInt.tmod b.toInt)
def remUnsigned (a b : Word) : Word := if b = 0 then a else word (a.toNat % b.toNat)

/-- R98, sext and zext: A extended from bit n. -/
def extSigned (a : Word) (n : BitVec 6) : Word := wordI (intValue true (n.toNat + 1) a.toNat)
def extZero (a : Word) (n : BitVec 6) : Word := word (a.toNat % 2 ^ (n.toNat + 1))

def execAdd (d a b : BitVec 6) (s : State) : Out := alu2 (fun x y => x + y) d a b s
def execSub (d a b : BitVec 6) (s : State) : Out := alu2 (fun x y => x - y) d a b s
def execAnd (d a b : BitVec 6) (s : State) : Out := alu2 (fun x y => x &&& y) d a b s
def execOr (d a b : BitVec 6) (s : State) : Out := alu2 (fun x y => x ||| y) d a b s
def execXor (d a b : BitVec 6) (s : State) : Out := alu2 (fun x y => x ^^^ y) d a b s
def execAndn (d a b : BitVec 6) (s : State) : Out := alu2 (fun x y => x &&& ~~~y) d a b s
def execOrn (d a b : BitVec 6) (s : State) : Out := alu2 (fun x y => x ||| ~~~y) d a b s
def execSll (d a b : BitVec 6) (s : State) : Out := alu2 (fun x y => x <<< shamt y) d a b s
def execSrl (d a b : BitVec 6) (s : State) : Out := alu2 (fun x y => x >>> shamt y) d a b s
def execSra (d a b : BitVec 6) (s : State) : Out := alu2 (fun x y => x.sshiftRight (shamt y)) d a b s
def execRol (d a b : BitVec 6) (s : State) : Out := alu2 (fun x y => x.rotateLeft (shamt y)) d a b s
def execRor (d a b : BitVec 6) (s : State) : Out := alu2 (fun x y => x.rotateRight (shamt y)) d a b s
def execSlt (d a b : BitVec 6) (s : State) : Out := alu2 (fun x y => flagWord (x.slt y)) d a b s
def execSltn (d a b : BitVec 6) (s : State) : Out := alu2 (fun x y => flagWord (x.ult y)) d a b s
def execMin (d a b : BitVec 6) (s : State) : Out := alu2 (fun x y => if x.slt y then x else y) d a b s
def execMax (d a b : BitVec 6) (s : State) : Out := alu2 (fun x y => if x.slt y then y else x) d a b s
def execMinn (d a b : BitVec 6) (s : State) : Out := alu2 (fun x y => if x.ult y then x else y) d a b s
def execMaxn (d a b : BitVec 6) (s : State) : Out := alu2 (fun x y => if x.ult y then y else x) d a b s
def execMul (d a b : BitVec 6) (s : State) : Out := alu2 (fun x y => x * y) d a b s
def execMulh (d a b : BitVec 6) (s : State) : Out := alu2 (fun x y => wordI (x.toInt * y.toInt / 2 ^ 64)) d a b s
def execMulhn (d a b : BitVec 6) (s : State) : Out := alu2 (fun x y => word (x.toNat * y.toNat / 2 ^ 64)) d a b s
def execDiv (d a b : BitVec 6) (s : State) : Out := alu2 divSigned d a b s
def execDivn (d a b : BitVec 6) (s : State) : Out := alu2 divUnsigned d a b s
def execRem (d a b : BitVec 6) (s : State) : Out := alu2 remSigned d a b s
def execRemn (d a b : BitVec 6) (s : State) : Out := alu2 remUnsigned d a b s
def execClz (d a : BitVec 6) (s : State) : Out := alu1 (fun x => word (clzNat 64 x.toNat)) d a s
def execCtz (d a : BitVec 6) (s : State) : Out := alu1 (fun x => word (ctzAux 64 x.toNat)) d a s
def execPopc (d a : BitVec 6) (s : State) : Out := alu1 (fun x => word (popAux 64 x.toNat)) d a s
def execBext (d a b : BitVec 6) (s : State) : Out := alu2 (fun x y => word (bextAux 64 x.toNat y.toNat)) d a b s
def execBdep (d a b : BitVec 6) (s : State) : Out := alu2 (fun x y => word (bdepAux 64 x.toNat y.toNat)) d a b s
def execSext (d a n : BitVec 6) (s : State) : Out := alu1 (fun x => extSigned x n) d a s
def execZext (d a n : BitVec 6) (s : State) : Out := alu1 (fun x => extZero x n) d a s

def execAddi (d a : BitVec 6) (i : Imm 12) (s : State) : Out := aluImm (fun x y => x + y) d a i s
def execAndi (d a : BitVec 6) (i : Imm 12) (s : State) : Out := aluImm (fun x y => x &&& y) d a i s
def execOri (d a : BitVec 6) (i : Imm 12) (s : State) : Out := aluImm (fun x y => x ||| y) d a i s
def execXori (d a : BitVec 6) (i : Imm 12) (s : State) : Out := aluImm (fun x y => x ^^^ y) d a i s
def execSlli (d a sh : BitVec 6) (s : State) : Out := alu1 (fun x => x <<< sh.toNat) d a s
def execSrli (d a sh : BitVec 6) (s : State) : Out := alu1 (fun x => x >>> sh.toNat) d a s
def execSrai (d a sh : BitVec 6) (s : State) : Out := alu1 (fun x => x.sshiftRight sh.toNat) d a s
def execRori (d a sh : BitVec 6) (s : State) : Out := alu1 (fun x => x.rotateRight sh.toNat) d a s
def execSlti (d a : BitVec 6) (i : Imm 12) (s : State) : Out := aluImm (fun x y => flagWord (x.slt y)) d a i s
def execSltni (d a : BitVec 6) (i : Imm 12) (s : State) : Out := aluImm (fun x y => flagWord (x.ult y)) d a i s

/-- R102: g[d] := I × 2^28. -/
def execLui (d : BitVec 6) (i : Imm 12) (s : State) : Out := .next (s.setGr d (immWord i <<< 28))
/-- R102: g[d] := address of the word + I; a prefix's own address plays no part. -/
def execPcadd (d : BitVec 6) (i : Imm 12) (s : State) : Out := .next (s.setGr d (s.wordAddr + immWord i))

end Sys2Proof.Machine
end

