-- ==== Sys2Proof/Machine/Control.lean ====
section
/-! DEFINITION. Control transfer (R103, R104), the counted loop (R105 to R108) and the system instructions
(R109 to R113). -/

namespace Sys2Proof.Machine

/-- Fields of LC (R106). -/
def Ctx.lcOn (c : Ctx) : Bool := bit c.lc 42
def Ctx.lcLen (c : Ctx) : Nat := bits c.lc 37 32
def Ctx.lcStg (c : Ctx) : Nat := bits c.lc 40 38
def Ctx.lcCount (c : Ctx) : Nat := bits c.lc 31 0

/-- Whether an address lies in the active loop's body (R108). -/
def Ctx.inBody (c : Ctx) (a : Word) : Bool := decide ((a - c.first).toNat < 4 * c.lcLen)

/-- A taken transfer to t: a target outside the body of an active loop abandons it (R108). -/
def State.transfer (s : State) (t : Word) : State :=
  let off := s.ctx.lcOn && !s.ctx.inBody t
  { s with npc := t, taken := true
           ctx := if off then { s.ctx with lc := setBit s.ctx.lc 42 false } else s.ctx }

/-- R103: a branch on a condition. -/
def branch (cond : Word → Word → Bool) (a b : BitVec 6) (off : Imm 12) (s : State) : Out :=
  .next (if cond (s.gr a) (s.gr b) then s.transfer (s.target off) else s)

def execBeq (a b : BitVec 6) (off : Imm 12) (s : State) : Out := branch (fun x y => x == y) a b off s
def execBne (a b : BitVec 6) (off : Imm 12) (s : State) : Out := branch (fun x y => x != y) a b off s
def execBlt (a b : BitVec 6) (off : Imm 12) (s : State) : Out := branch (fun x y => x.slt y) a b off s
def execBge (a b : BitVec 6) (off : Imm 12) (s : State) : Out := branch (fun x y => !x.slt y) a b off s
def execBltn (a b : BitVec 6) (off : Imm 12) (s : State) : Out := branch (fun x y => x.ult y) a b off s
def execBgen (a b : BitVec 6) (off : Imm 12) (s : State) : Out := branch (fun x y => !x.ult y) a b off s

/-- R104: g1 := address of the word + 4; issue goes on at the target. -/
def execJal (off : Imm 24) (s : State) : Out :=
  .next ((s.setGr 1 (s.wordAddr + 4)).transfer (s.target off))

/-- R104: g[a] is read before the link is written; a target that is not a multiple of 4 traps MISALIGNED
and writes no link. -/
def execJalr (d a : BitVec 6) (i : Imm 12) (s : State) : Out :=
  let t := s.gr a + immWord i
  if bits t 1 0 ≠ 0 then trapOut s cMisaligned t
  else .next ((s.setGr d (s.wordAddr + 4)).transfer t)

/-- R107, start_iteration: the stage predicates shift up by one, p4 takes ones while COUNT is above 0, and
COUNT falls by one. -/
def Ctx.startIteration (c : Ctx) : Ctx :=
  let n := c.lcStg
  let ones := BitVec.allOnes 1024
  let p4 := c.p[4]
  let p5 := c.p[5]
  let p6 := c.p[6]
  let p := if 4 ≤ n then c.p.set 7 p6 else c.p
  let p := if 3 ≤ n then p.set 6 p5 else p
  let p := if 2 ≤ n then p.set 5 p4 else p
  let p := if 1 ≤ n then p.set 4 (if 0 < c.lcCount then ones else 0) else p
  { c with p := p, lc := if 0 < c.lcCount then setBits c.lc 31 0 (c.lcCount - 1) else c.lc }

/-- R107, end_iteration: the ring rotates where ROTE is set; while source iterations or filled stages
remain the body runs again from `first`, else the loop ends and issue goes on after the body. -/
def State.endIteration (s : State) : State :=
  let c := s.ctx
  let c := if bit c.lc 41 then { c with vrb := setBits c.vrb 11 8 ((bits c.vrb 11 8 + 11) % 12) } else c
  let n := c.lcStg
  let filled := (decide (2 ≤ n) && c.p[4] != 0) || (decide (3 ≤ n) && c.p[5] != 0)
    || (decide (4 ≤ n) && c.p[6] != 0)
  if 0 < c.lcCount ∨ filled = true then
    { s with ctx := c.startIteration, npc := c.first, taken := true }
  else
    { s with ctx := { c with lc := setBit c.lc 42 false }, npc := c.first + word (4 * c.lcLen), taken := true }

/-- R107: `loop`. A trip count of 0 skips the body; otherwise LC takes the loop, the stage predicates are
cleared, and the first iteration starts. -/
def execLoop (len a : BitVec 6) (stg : BitVec 3) (rote : BitVec 1) (s : State) : Out :=
  let t := bits (s.gr a) 31 0
  let after := s.wordAddr + 4
  if t = 0 then
    .next { s with ctx := { s.ctx with lc := setBit s.ctx.lc 42 false }
                   npc := after + word (4 * len.toNat), taken := true }
  else
    let lc := word (2 ^ 42 + rote.toNat * 2 ^ 41 + stg.toNat * 2 ^ 38 + len.toNat * 2 ^ 32 + t)
    let p := (List.range stg.toNat).foldl (fun p i => p.setIfInBounds (4 + i) 0) s.ctx.p
    let c := { s.ctx with lc := lc, p := p, first := after }
    .next { s with ctx := c.startIteration }

/-- The event: the pair holding the body's last word completed without a taken transfer (R107). With no
active loop nothing happens. -/
def execLoopEndIteration (s : State) : Out :=
  if s.ctx.lcOn then
    let t := s.endIteration
    .next { t with ctx := { t.ctx with pc := t.npc } }
  else .next s

/-! ### System instructions (R109 to R113) -/

/-- The system-only instructions (R111, R113). -/
def isSystemOnly : Instr → Bool
  | .eret => true
  | .halt => true
  | _ => false

/-- A system-only instruction: at user level it traps PRIVILEGE and has no other effect (R16). -/
def systemOnly (s : State) (o : Out) : Out := if s.ctx.system then o else trapOut s cPrivilege s.wordEval

/-- R110: USER_TRAP with EVAL = g[a]. -/
def execTrap (a : BitVec 6) (s : State) : Out := trapOut s cUserTrap (s.gr a)

/-- R111. -/
def execEret (s : State) : Out := systemOnly s (.next s.returnFrom)

/-- R112: completes when the event flag is set, and clears it; else the pair waits. -/
def execWfe (s : State) : Out :=
  if s.ctx.eventFlag then .next { s.waited with ctx := { s.waited.ctx with eventFlag := false } }
  else stallOut (s.waitFor .wfe 0 0 0) 12

/-- R112: the event. A stalled `wfe` completes; it may do so with no event behind it. -/
def execWfeWake (s : State) : Out :=
  .next (match s.ctx.wait with
    | none => s
    | some w =>
      if w.kind == .wfe && !s.frozen then
        let t := s.waitOver w
        { t with ctx := { t.ctx with eventFlag := false } }
      else s)

/-- R113: a pre-emption point, otherwise nothing. -/
def execYield (s : State) : Out := .next s

/-- R113: issue stops until an interrupt source that is pending and enabled resumes the context at the
word after the `halt`. -/
def execHalt (s : State) : Out := systemOnly s (.next { s with ctx := { s.ctx with halted := true } })

/-- R110: BREAK with EVAL = 0. -/
def execBrk (s : State) : Out := trapOut s cBreak 0

/-- R113: nothing. -/
def execNop (s : State) : Out := .next s

/-- R113: later fetches see the strand's earlier stores. Every fetch of this model reads memory as a load
of the strand would, so there are no fetched words to discard. DEDUCED, log 24. -/
def execIfence (s : State) : Out := .next s

end Sys2Proof.Machine
end

