-- ==== Sys2Proof/Machine/Translate.lean ====
section
/-! DEFINITION. Translation: page-table entries and leaves (R336, R337), the walk (R338, R339), the TLBs
(R341), and what an agent makes of a translation fault (R346 to R348). -/

namespace Sys2Proof.Machine

/-- What an access does, as a walk and a fault request name it (R338, R347). -/
inductive Acc where
  | read | write | fetch | rmw
  deriving DecidableEq, Repr

/-- The code of an access in a fault request (R347). -/
def Acc.code : Acc → Nat
  | .read => 0
  | .write => 1
  | .fetch => 2
  | .rmw => 3

/-- Why a translation fails. -/
inductive XFault where
  | outOfRange
  | missing (level ea : Nat)
  | malformed (level ea : Nat)
  | denied
  | wait                        -- the entry's home is not ready for the walker yet
  deriving DecidableEq, Repr

/-- A translation: the physical address, and the run it came from. -/
structure Trans where
  pa : Nat
  tlb : Tlb
  deriving DecidableEq, Repr

/-- Bits h to l of a natural. -/
def nbits (x h l : Nat) : Nat := x / 2 ^ l % 2 ^ (h - l + 1)

/-- R336 and R337: an entry of levels 0 to 2 that is malformed. -/
def tableMalformed (e : Nat) : Bool := decide (nbits e 63 52 ≠ 0 ∨ nbits e 12 1 ≠ 0)

/-- R337: a leaf that is malformed for a VPN. -/
def leafMalformed (e vpn : Nat) : Bool :=
  let run := nbits e 14 11
  decide (nbits e 63 52 ≠ 0 ∨ nbits e 15 15 ≠ 0 ∨ 5 ≤ nbits e 9 7 ∨ nbits e 51 16 % 2 ^ run ≠ vpn % 2 ^ run)

/-- The run that a leaf gives to a VPN. -/
def leafTlb (e asn vpn : Nat) (dty : Bool) : Tlb :=
  let run := nbits e 14 11
  { asn := asn, vbase := vpn / 2 ^ run * 2 ^ run, run := run, pbase := nbits e 51 16 / 2 ^ run * 2 ^ run
    snap := decide (nbits e 10 10 = 1), mt := nbits e 9 7, dty := dty, g := decide (nbits e 4 4 = 1)
    x := decide (nbits e 3 3 = 1), w := decide (nbits e 2 2 = 1), r := decide (nbits e 1 1 = 1) }

/-- Whether a run permits an access (R338). -/
def Tlb.permits (t : Tlb) : Acc → Bool
  | .read => t.r
  | .write => t.w
  | .fetch => t.x
  | .rmw => t.r && t.w

/-- Whether an access needs DTY. -/
def Acc.dirties : Acc → Bool
  | .write => true
  | .rmw => true
  | _ => false

/-- The physical address a run gives to a virtual address (R338). -/
def Tlb.address (t : Tlb) (va : Nat) : Nat := t.pbase * 65536 + (va - t.vbase * 65536)

/-- The checks of R338 on the physical address. -/
def Pkg.reachable (p : Pkg) (t : Tlb) (va : Nat) : Bool :=
  (p.homeOf (t.address va)).isSome && mtAccepted (t.address va) t.mt

/-- R338: the levels of a walk from table `t` on; `ok` says that the home of an entry is ready, and `die` and `kn` are
the walker's die and what its strand knows. DEDUCED, log 55. -/
def Pkg.walkFrom (p : Pkg) (asn va : Nat) (k : Acc) (ok : Nat → Bool) (die : Nat) (kn : Knot) :
    Nat → Nat → Nat → Except XFault (Trans × Pkg)
  | 0, _, _ => .error .denied
  | n + 1, lvl, t =>
    let ea := t + 8 * (va / 2 ^ (46 - 10 * lvl) % 1024)
    let e := if (p.homeOf ea).isSome then p.readAt ea 8 else 0
    let p := if ok ea then p.trip die ((p.homeOf ea).getD die) kn else p
    if ok ea = false then .error .wait
    else if e % 2 = 0 then .error (.missing lvl ea)
    else if lvl < 3 then
      if tableMalformed e then .error (.malformed lvl ea)
      else p.walkFrom asn va k ok die kn n (lvl + 1) (nbits e 51 13 * 2 ^ 13)
    else
      let vpn := va / 65536
      if leafMalformed e vpn then .error (.malformed lvl ea)
      else
        let dty := decide (nbits e 6 6 = 1) || k.dirties
        let r := leafTlb e asn vpn dty
        if r.permits k = false then .error .denied
        else if p.reachable r va = false then .error .denied
        else
          let e1 := if nbits e 5 5 = 0 then e + 32 else e
          let e2 := if nbits e 6 6 = 0 ∧ k.dirties = true then e1 + 64 else e1
          let p := if e2 = e then p else p.homeWrite (wordBytes ea 8 e2) [] false (p.die die).cut.isNone
          .ok ({ pa := r.address va, tlb := r }, p)

/-- R338: a walk of a virtual address through a root. -/
def Pkg.walk (p : Pkg) (root asn va : Nat) (k : Acc) (ok : Nat → Bool) (die : Nat) (kn : Knot) :
    Except XFault (Trans × Pkg) :=
  if 2 ^ 56 ≤ va then .error .outOfRange else p.walkFrom asn va k ok die kn 4 0 root

/-! ### TLBs (R341) -/

/-- Whether an entry covers a VPN of an address space. -/
def Tlb.covers (t : Tlb) (asn vpn : Nat) : Bool :=
  (t.g || t.asn == asn) && decide (t.vbase ≤ vpn ∧ vpn < t.vbase + 2 ^ t.run)

/-- R339: the entry of a TLB that serves an access: one that permits it and, for a write, holds DTY.
DESIGN CHOICE, log 54. -/
def tlbFind (l : List Tlb) (asn vpn : Nat) (k : Acc) : Option Tlb :=
  l.find? (fun t => t.covers asn vpn && t.permits k && (!k.dirties || t.dty))

/-- A TLB of n entries with a run filled in: entries for the same VPN give way to it, and the oldest one
where the TLB is full. DESIGN CHOICE, log 54. -/
def tlbFill (n : Nat) (l : List Tlb) (t : Tlb) : List Tlb :=
  (t :: l.filter (fun x => !x.covers t.asn t.vbase)).take n

/-- Which TLB an access of the core in focus goes through (R341). -/
inductive TlbKind where
  | l1 | gather | stream
  deriving DecidableEq, Repr

def Core.tlb (c : Core) : TlbKind → List Tlb
  | .l1 => c.l1
  | .gather => c.unit.toList ++ c.gather
  | .stream => c.stream

/-- DESIGN CHOICE, log 54. -/
def Core.fill (c : Core) (t : Tlb) : TlbKind → Core
  | .l1 => { c with l1 := tlbFill 256 c.l1 t }
  | .gather => { c with gather := tlbFill 256 c.gather t }
  | .stream => { c with stream := tlbFill 32 c.stream t }

/-- The L2 TLB of a cluster. -/
def Pkg.l2Of (p : Pkg) (cl : Nat) : List Tlb := (assoc cl p.l2).getD []

def Pkg.fillL2 (p : Pkg) (cl : Nat) (t : Tlb) : Pkg := { p with l2 := assocSet cl (tlbFill 4096 (p.l2Of cl) t) p.l2 }

/-! ### The readiness of a home -/

/-- Whether an entry of a forwarding buffer concerns a strand: it issued it or has locally observed it
(R277, R293). DESIGN CHOICE, log 34. -/
def FwdEntry.concerns (e : FwdEntry) (core bank : Nat) : Bool :=
  (e.core == core && e.bank == bank) || e.seen.contains (core, bank)

/-- The forwarding buffer of a cluster, oldest entry first. -/
def Pkg.buffer (p : Pkg) (cl : Nat) : List FwdEntry := (assoc cl p.fwd).getD []

/-- The forwarding buffer replaced. -/
def Pkg.setBuffer (p : Pkg) (cl : Nat) (l : List FwdEntry) : Pkg :=
  { p with fwd := if l.isEmpty then assocErase cl p.fwd else assocSet cl l p.fwd }

/-- Nothing sent from die d to die e is still on its way or held (R278). -/
def Pkg.routeEmpty (p : Pkg) (d e : Nat) : Bool :=
  !(p.net.any (fun k => k.src == d && k.dst == e)) && !((p.die e).hold.any (fun k => k.src == d))

/-- Die e has delivered every entry that a strand knowing `kn` knows of (R278, R292). -/
def Pkg.knows (p : Pkg) (e : Nat) (kn : Knot) : Bool :=
  (Knot.entries kn).all (fun j => j.1 == e || cntGe ((p.die e).v.getD j.1 0) j.2)

/-- A request that a strand of die d knowing `kn` would send to die e would be served at once: the packets of the
route and of the way back are delivered, and die e has delivered every entry the strand knows of (R278, R292). -/
def Pkg.homeReady (p : Pkg) (d e : Nat) (kn : Knot) : Bool :=
  (d == e || (p.routeEmpty d e && p.routeEmpty e d)) && p.knows e kn

/-- The bytes from pa on are ready for a direct access by the running strand: their home is, and no entry
of the forwarding buffer that concerns the strand holds one of them. -/
def State.readyAt (s : State) (pa n : Nat) : Bool :=
  match s.pkg.homeOf pa with
  | none => true
  | some h =>
    s.pkg.homeReady s.core.die h s.core.knotv
      && (h == s.core.die || !((s.pkg.buffer (clusterOf s.coreNo)).any (fun e =>
          e.concerns s.coreNo s.ctx.bank && e.bytes.any (fun b => decide (pa ≤ b.1 ∧ b.1 < pa + n)))))

/-! ### Translation for a context -/

/-- A virtual address translated for an access of the running context (R335, R338 to R342). DESIGN CHOICE, log 54. -/
def State.translate (s : State) (which : TlbKind) (va : Nat) (k : Acc) : Except XFault (Trans × State) :=
  let asn := s.ctx.asn
  let vpn := va / 65536
  if 2 ^ 56 ≤ va then .error .outOfRange
  else
    match tlbFind (s.core.tlb which) asn vpn k with
    | some t => if s.pkg.reachable t va then .ok ({ pa := t.address va, tlb := t }, s) else .error .denied
    | none =>
      let cl := clusterOf s.coreNo
      match tlbFind (s.pkg.l2Of cl) asn vpn k with
      | some t =>
        if s.pkg.reachable t va then
          .ok ({ pa := t.address va, tlb := t }, { s with core := s.core.fill t which })
        else .error .denied
      | none =>
        match s.pkg.walk s.ctx.root asn va k (fun ea => s.readyAt ea 8) s.core.die s.core.knotv with
        | .error x => .error x
        | .ok (t, p) =>
          .ok (t, { s with pkg := p.fillL2 cl t.tlb, core := s.core.fill t.tlb which })

/-- The fault request of a translation that fails (R347). -/
def parkOf (va level ea : Nat) (malformed : Bool) (k : Acc) (agent : Nat) : Park :=
  { va := va, ea := ea, level := level, malformed := malformed, access := k.code, agent := agent }

/-- R346: what a control-core access does about a failed translation, precisely at its pair. -/
def xstop {α : Type} (va : Nat) (k : Acc) : XFault → M α
  | .outOfRange => .error (.trap cTranslation (word va))
  | .missing l ea => .error (.park none (word va) (parkOf va l ea false k 0))
  | .malformed l ea => .error (.park none (word va) (parkOf va l ea true k 0))
  | .denied => .error (.trap cPermission (word va))
  | .wait => .error (.wait 1)

/-- R189 and R346: what an access with a fault window does about a failed translation: a fault recognised in
the window (R242), on the state that the access's progress leaves. -/
def xlate {α : Type} (t : State) (va : Nat) (k : Acc) (agent : Nat) : XFault → M α
  | .outOfRange => .error (.late t cTranslation (word va))
  | .missing l ea => .error (.park (some t) (word va) (parkOf va l ea false k agent))
  | .malformed l ea => .error (.park (some t) (word va) (parkOf va l ea true k agent))
  | .denied => .error (.late t cPermission (word va))
  | .wait => .error (.wait 1)

end Sys2Proof.Machine
end

