-- ==== Sys2Proof/Machine/Strand.lean ====
section
/-! DEFINITION. How a strand reaches memory: the forwarding buffer of its cluster (R277, R312), the scalar
data cache (R179, R334), its stores and direct reads, and the local effects of acquires and releases
(R279, R280, R290, R294). -/

namespace Sys2Proof.Machine

/-! ### Tasks and teams, as the memory rules use them -/

/-- The I/O die that homes a task's queue (R364), from its handle (R368). -/
def handleIo (h : Word) : Nat := if bits h 47 32 < 32768 then 0 else 9

/-- The live task of a handle. -/
def Pkg.task (p : Pkg) (h : Word) : Option Task := (p.io (handleIo h)).tasks.find? (fun t => t.handle == h)

/-- The live task of a handle replaced. -/
def Pkg.setTask (p : Pkg) (h : Word) (f : Task → Task) : Pkg :=
  let io := handleIo h
  let x := p.io io
  p.setIo io { x with tasks := x.tasks.map (fun t => if t.handle == h then f t else t) }

/-- The cores of the running strand's team, by member; the strand's own core where no task is known. -/
def State.teamCores (s : State) : List Nat :=
  match s.pkg.task s.ctx.taskh with
  | some t => if t.cores.isEmpty then [s.coreNo] else t.cores
  | none => [s.coreNo]

/-- R290: a team that spans dies uses the package mechanism. -/
def State.teamSpans (s : State) : Bool := s.teamCores.any (fun k => k / 24 != s.core.die)

/-- R290: the scope whose mechanism a scope code uses: 3 for a team on one die, 5 for one on several. -/
def State.mechanism (s : State) (scope : Nat) : Nat :=
  if scope = 4 then (if s.teamSpans then 5 else 3) else scope

/-! ### Leaving the forwarding buffer (R277, R312) -/

/-- Two entries hold a common byte. -/
def FwdEntry.meets (x e : FwdEntry) : Bool := x.bytes.any (fun b => e.bytes.any (fun c => c.1 == b.1))

/-- The earlier entry x leaves before e: it is of the same strand, but for another element of one unordered store
(R277, R296), or it holds a byte of e (R289). DESIGN CHOICE, log 128. -/
def FwdEntry.before (x e : FwdEntry) : Bool :=
  x.meets e || (x.core == e.core && x.bank == e.bank && !(x.loose.isSome && x.loose == e.loose))

/-- Entry i of a cluster's buffer may leave: no entry that goes before it is still there, no releasing fence holds it
(R294), its own die has delivered what its strand knew, where that die is its home (R292), and where it belongs to an
ordered store on several homes, every earlier element on another home is acknowledged. -/
def Pkg.mayLeave (p : Pkg) (l : List FwdEntry) (i : Nat) : Bool :=
  match l[i]? with
  | none => false
  | some e =>
    !((l.take i).any (fun x => x.before e)) && e.fences == 0
      && (e.home != e.core / 24 || p.knows e.home e.knot)
      && (match e.order with
          | none => true
          | some n => (p.die (e.core / 24)).unacked.all (fun u => u.1 != n || u.2 == e.home))

/-- Entry i of a cluster's buffer leaves as a write packet; an element of an ordered store whose home is
the strand's own die performs there. -/
def Pkg.leave (p : Pkg) (cl i : Nat) : Pkg :=
  let l := p.buffer cl
  match l[i]? with
  | none => p
  | some e =>
    let d := e.core / 24
    let p := p.setBuffer cl (l.eraseIdx i)
    if e.home = d then p.homeStore e.bytes e.masks e.poison e.snap (p.die d).cut.isNone
    else
    let ack := e.order.isSome
    let p := if ack then
        let x := p.die d
        p.setDie d { x with unacked := x.unacked ++ [(e.order.getD 0, e.home)] }
      else p
    p.send d e.home e.core e.bank e.handle e.knot false
      (.write e.bytes e.poison (decide (e.bytes.length = 64) && e.masks.isEmpty) e.masks) e.snap ack (e.order.getD 0)

/-- Whether each entry must leave for those that `f` picks to have left: it is one of them, or goes before one. -/
def neededOf (f : FwdEntry → Bool) : List FwdEntry → List Bool
  | [] => []
  | e :: r =>
    let t := neededOf f r
    (f e || (r.zip t).any (fun x => x.2 && e.before x.1)) :: t

/-- The entries that a release of a strand waits for, by the mechanism of its scope (R277, R290): at die scope or
wider those that concern it, else its own whose home is its die; none at strand scope. Those behind a releasing fence
that is still to take effect are later than it (R294). -/
def releases (m core bank : Nat) (e : FwdEntry) : Bool :=
  e.fences == 0 && (if m = 0 then false
    else if m < 3 then e.core == core && e.bank == bank && e.home == core / 24
    else e.concerns core bank)

/-- The first entry that must leave and may. -/
def Pkg.nextToLeave (p : Pkg) (cl : Nat) (f : FwdEntry → Bool) : Option Nat :=
  let l := p.buffer cl
  let n := neededOf f l
  (List.range l.length).find? (fun i => n.getD i false && p.mayLeave l i)

/-- R277: the drain of a release: entries leave until none that must leave may. -/
def Pkg.drain (p : Pkg) (cl : Nat) (f : FwdEntry → Bool) : Nat → Pkg
  | 0 => p
  | n + 1 =>
    match p.nextToLeave cl f with
    | none => p
    | some i => (p.leave cl i).drain cl f n

/-- Whether the drain is complete. -/
def Pkg.drained (p : Pkg) (cl : Nat) (f : FwdEntry → Bool) : Bool := !((p.buffer cl).any f)

/-! ### Release and acquire -/

/-- KNOTV of the core in focus replaced. -/
def State.setKnotv (s : State) (k : Knot) : State := { s with core := { s.core with knotv := k } }

/-- The advance of R279 on the core's die, which the strand's KNOTV follows. -/
def State.advanceDie (s : State) : State :=
  let d := s.core.die
  let p := s.pkg.advance d s.core.knotv .knotAdvance
  { s with pkg := p }.setKnotv (s.core.knotv.setIfInBounds d ((p.die d).v.getD d 0))

/-- R279 and R290: the drain and the advance of a release with a mechanism, as far as they can come, and whether they
are complete. DEDUCED, log 58. -/
def State.releaseGo (s : State) (m : Nat) : State × Bool :=
  let cl := clusterOf s.coreNo
  let f := releases m s.coreNo s.ctx.bank
  let t := { s with pkg := s.pkg.drain cl f (s.pkg.buffer cl).length }
  if t.pkg.drained cl f = false then (t, false)
  else if m < 5 then (t, true)
  else if t.pkg.canAdvance s.core.die = false then (t, false)
  else (t.advanceDie, true)

/-- R294: the running strand's oldest releasing fence has taken effect: its later writes go with the new counter. -/
def State.fenceDone (s : State) : State :=
  let cl := clusterOf s.coreNo
  let mine (e : FwdEntry) : Bool := e.core == s.coreNo && e.bank == s.ctx.bank && decide (0 < e.fences)
  { s with
    ctx := { s.ctx with fences := s.ctx.fences.drop 1 }
    pkg := s.pkg.setBuffer cl ((s.pkg.buffer cl).map (fun e =>
      if mine e then { e with fences := e.fences - 1, knot := Knot.join e.knot s.core.knotv } else e)) }

/-- R294: the running strand's releasing fences take effect in turn, as far as they can. -/
def State.fenceGo (s : State) : Nat → State
  | 0 => s
  | n + 1 =>
    match s.ctx.fences with
    | [] => s
    | m :: _ =>
      match s.releaseGo m with
      | (t, true) => t.fenceDone.fenceGo n
      | (t, false) => t

/-- A write that the forwarding buffer does not hold back waits for the strand's releasing fences (R294).
DESIGN CHOICE, log 59. -/
def State.fenced (s : State) : M State :=
  let t := s.fenceGo s.ctx.fences.length
  if t.ctx.fences.isEmpty then .ok t else .error (.waitIn t 1)

/-- R279 and R290: the waits, the drain and the advance of a release at a scope, before its own write.
DEDUCED, log 58. DESIGN CHOICE, log 59. -/
def State.release (s : State) (scope : Nat) : M State := do
  let s ← s.fenced
  match s.releaseGo (s.mechanism scope) with
  | (t, true) => .ok t
  | (t, false) => .error (.waitIn t 1)

/-- R179: an acquire at core scope or wider drops the context's lines of the scalar data cache.
DESIGN CHOICE, log 56. -/
def State.dropCache (s : State) : State :=
  { s with core := { s.core with cache := s.core.cache.filter (fun l => l.bank != s.ctx.bank) } }

/-- R293: the entries of the cluster's buffer become locally observed by the running strand: any of them
may have reached it through the release that an acquire synchronises with. DESIGN CHOICE, log 34. -/
def State.observeBuffer (s : State) : State :=
  let cl := clusterOf s.coreNo
  let me := (s.coreNo, s.ctx.bank)
  { s with pkg := s.pkg.setBuffer cl ((s.pkg.buffer cl).map (fun e =>
      if e.concerns s.coreNo s.ctx.bank then e else { e with seen := e.seen ++ [me] })) }

/-- R280 and R290: what an acquire at a scope does once its read has returned; `raised` is the knot vector
of the home that served it. DESIGN CHOICE, log 34. -/
def State.acquire (s : State) (scope : Nat) (raised : List (Nat × BitVec 12)) : State :=
  let m := s.mechanism scope
  if m = 0 then s
  else
    let s := s.dropCache.observeBuffer
    if m < 5 then s else s.setKnotv (Knot.raiseAll s.core.knotv raised)

/-- V of a die as an acquire served there takes it (R280). -/
def Pkg.vOf (p : Pkg) (d : Nat) : List (Nat × BitVec 12) := Knot.entries (p.die d).v

/-! ### The scalar data cache (R179, R334) -/

/-- A context's line that holds a physical address. DESIGN CHOICE, log 56. -/
def State.cacheLine (s : State) (pa : Nat) : Option CacheLine :=
  s.core.cache.find? (fun l => l.bank == s.ctx.bank && l.line == pa / 64)

/-- The bits of a byte that a write takes: all but where a mask names fewer. -/
def byteMask (masks : List (Nat × Byte)) (a : Nat) : Byte := (assoc a masks).getD 0xFF

/-- The 512 bits of a line with bytes stored. -/
def lineStore (d : BitVec 512) (line : Nat) (bytes masks : List (Nat × Byte)) : BitVec 512 :=
  bytes.foldl (fun d b =>
    if b.1 / 64 = line then
      let i := 8 * (b.1 % 64)
      let k := byteMask masks b.1
      (d &&& ~~~((k.zeroExtend 512 : BitVec 512) <<< i)) ||| (((b.2 &&& k).zeroExtend 512 : BitVec 512) <<< i)
    else d) d

/-- R179: a store updates the lines that are present. DESIGN CHOICE, log 56. -/
def State.cacheStore (s : State) (bytes : List (Nat × Byte)) (masks : List (Nat × Byte) := []) : State :=
  if s.core.cache.isEmpty then s
  else { s with core := { s.core with cache := s.core.cache.map (fun l =>
      if l.bank = s.ctx.bank then { l with data := lineStore l.data l.line bytes masks } else l) } }

/-- A line filled in; the cache holds 512 lines, and the oldest gives way. DESIGN CHOICE, log 56. -/
def State.cacheFill (s : State) (t : Tlb) (pa : Nat) (data : Nat) : State :=
  let l : CacheLine := { bank := s.ctx.bank, asn := t.asn, g := t.g, vbase := t.vbase, run := t.run
                         line := pa / 64, data := BitVec.ofNat 512 data }
  { s with core := { s.core with
      cache := (l :: s.core.cache.filter (fun x => !(x.bank == l.bank && x.line == l.line))).take 512 } }

/-! ### Stores and reads of the running strand -/

/-- An entry in the buffer holds one of the bytes. DEDUCED, log 58. -/
def State.buffered (s : State) (bytes : List (Nat × Byte)) : Bool :=
  (s.pkg.buffer (clusterOf s.coreNo)).any (fun e => e.bytes.any (fun b => bytes.any (fun c => c.1 == b.1)))

/-- Bytes of one home stored by the running strand: at once where the home is the strand's own die, else
through the forwarding buffer (R277). `order` names an ordered vector store on several homes (R312), whose
elements go through the buffer whatever their home, and `loose` an unordered one (R296); a store to bytes that the
buffer holds, one behind a releasing fence (R294) and one whose die has not yet delivered what the strand knows of
(R292) follow there. -/
def State.storeBytes (s : State) (bytes : List (Nat × Byte)) (poison : List Nat) (snap : Bool) (home : Nat)
    (order : Option Nat) (masks : List (Nat × Byte) := []) (loose : Option Nat := none) : State :=
  let s := s.cacheStore bytes masks
  if home = s.core.die ∧ order = none ∧ s.buffered bytes = false ∧ s.ctx.fences = []
      ∧ s.pkg.knows home s.core.knotv = true then
    { s with pkg := s.pkg.homeStore bytes masks poison snap (s.pkg.die home).cut.isNone }
  else
    let e : FwdEntry :=
      { core := s.coreNo, bank := s.ctx.bank, handle := s.ctx.taskh, home := home, bytes := bytes
        poison := poison, snap := snap, knot := s.core.knotv, seen := [], order := order, cyc := s.pkg.cyc
        masks := masks, loose := loose, fences := s.ctx.fences.length }
    let cl := clusterOf s.coreNo
    { s with pkg := s.pkg.setBuffer cl (s.pkg.buffer cl ++ [e]) }

/-- A buffered byte laid over what is known of it: the value and the bits known. -/
def laidOver (masks : List (Nat × Byte)) (o : List (Nat × Byte × Byte)) (b : Nat × Byte) : List (Nat × Byte × Byte) :=
  let k := byteMask masks b.1
  let (v, m) := (assoc b.1 o).getD (0, 0)
  assocSet b.1 ((v &&& ~~~k) ||| (b.2 &&& k), m ||| k) o

/-- R277: the newest buffered value of each of n bytes from pa on, with the bits that the buffer holds. -/
def Pkg.overlay (p : Pkg) (cl pa n : Nat) : List (Nat × Byte × Byte) :=
  (p.buffer cl).foldl (fun o e => e.bytes.foldl (fun o b =>
    if pa ≤ b.1 ∧ b.1 < pa + n then laidOver e.masks o b else o) o) []

/-- The bytes that an overlay gives whole. -/
def wholeBytes (o : List (Nat × Byte × Byte)) : List (Nat × Byte) :=
  (o.filter (fun b => b.2.2 == 0xFF)).map (fun b => (b.1, b.2.1))

/-- A byte with what an overlay holds of it. -/
def overByte (o : List (Nat × Byte × Byte)) (a : Nat) (b : Byte) : Byte :=
  match assoc a o with
  | some (v, k) => (v &&& k) ||| (b &&& ~~~k)
  | none => b

/-- R293: a read of n bytes from pa on observes the buffered writes it meets. -/
def State.observeBytes (s : State) (pa n : Nat) : State :=
  let cl := clusterOf s.coreNo
  let l := s.pkg.buffer cl
  if l.any (fun e => e.bytes.any (fun b => decide (pa ≤ b.1 ∧ b.1 < pa + n))) then
    { s with pkg := s.pkg.setBuffer cl (l.map (fun e =>
        if !e.concerns s.coreNo s.ctx.bank && e.bytes.any (fun b => decide (pa ≤ b.1 ∧ b.1 < pa + n)) then
          { e with seen := e.seen ++ [(s.coreNo, s.ctx.bank)] }
        else e)) }
  else s

/-- n bytes at pa with an overlay of buffered bytes, little-endian. -/
def overlaid (m : Memory) (o : List (Nat × Byte × Byte)) (pa : Nat) : Nat → Nat
  | 0 => 0
  | n + 1 => (overByte o pa (m.read pa)).toNat + 256 * overlaid m o (pa + 1) n

/-- The poisoned words of a read of n bytes that the buffer's own bytes do not hide. -/
def Pkg.readPoison (p : Pkg) (o : List (Nat × Byte × Byte)) (pa n : Nat) : Bool :=
  (p.poisonIn pa n).any (fun w => !(coversWord (wholeBytes o) w))

/-- A direct access of the running strand to a home whose way is clear (R278). -/
def State.trip (s : State) (home : Nat) : State :=
  if home = s.core.die then s else { s with pkg := s.pkg.trip s.core.die home s.core.knotv }

/-- R412: how a read at an address completes: 0 with the bytes, 1 with code 5 of R313, 2 with poison; the host decides for
its windows. DESIGN CHOICE, log 144. -/
def State.completion (s : State) (pa : Nat) : Nat × State :=
  if isHostWindow pa then (Config.hostCompletion s.pkg.cyc s.free pa % 3, { s with free := s.free + 1 }) else (0, s)

/-- R252: an access of the core in focus to SRAM. Where its own die's bank is in retention, the reply that is due `lag`
cycles on is late by what the bank takes to leave. -/
def State.touchSram (s : State) (pa lag : Nat) : State :=
  let (p, w) := s.pkg.touchSram pa
  let f := s.core.freeze
  let late := w != 0 && s.pkg.homeOf pa == some s.core.die
  { s with pkg := p
           core := if late then
               { s.core with freeze := { f with later := f.later ++ [(s.now + lag, s.pkg.cyc + lag + w)] } }
             else s.core }

/-- A direct read of n bytes by the running strand, for the accesses that reach their home at once: the
value, whether it carries poison, and the state that has observed it. An own-die SRAM reply is due `lag` cycles on. -/
def State.readDirect (s : State) (pa n : Nat) (lag : Nat := 20) : Nat × Bool × State :=
  let o := s.pkg.overlay (clusterOf s.coreNo) pa n
  let t := s.touchSram pa lag
  (overlaid s.pkg.mem o pa n, s.pkg.readPoison o pa n, if o.isEmpty then t else t.observeBytes pa n)

/-- R204: the bytes from pa on of a later access wait for a live copy of the context: a read for its
destination range, a write for either. Ranges are by virtual address, in the copy's own space. -/
def Copy.blocks (c : Copy) (asn va n : Nat) (write : Bool) : Bool :=
  let hits (a : Nat) : Bool := decide (a < va + n ∧ va < a + 64 * c.lines)
  c.asn == asn && decide (0 < c.lines)
    && ((match c.dst with | .memory a => hits a | _ => false)
        || (write && (match c.src with | .memory a => hits a | _ => false)))

/-- Whether an access of the running context must wait for one of its live copies (R204). -/
def State.interlocked (s : State) (va n : Nat) (write : Bool) : Bool :=
  let mine (c : Copy) : Bool := c.owner == s.coreNo && c.bank == s.ctx.bank && c.handle == s.ctx.taskh
  s.core.copies.any (fun c => mine c && c.blocks s.ctx.asn va n write)
    || s.pkg.io0.bobbin.any (fun c => mine c && c.blocks s.ctx.asn va n write)
    || s.pkg.io9.bobbin.any (fun c => mine c && c.blocks s.ctx.asn va n write)

/-- R204: the wait as a part of a meaning. -/
def State.interlock (s : State) (va n : Nat) (write : Bool) : M Unit :=
  if s.interlocked va n write then .error (.wait 1) else .ok ()

end Sys2Proof.Machine
end

