-- ==== Sys2Proof/Machine/Barrier.lean ====
section
/-! DEFINITION. Named barriers (R207 to R212, R298): their state, arrival and flip, the BAR instructions, and
the events that complete a wait. -/

namespace Sys2Proof.Machine

/-! ### Acting for another context -/

/-- The two contexts of the core in focus exchanged, the running bank unchanged. -/
def State.exchange (s : State) : State := { s with ctx := s.other, other := s.ctx }

/-- Something done for the context in bank b of core k, with the focus, the pair under way and the running
bank as before. -/
def State.inCtxWith {α : Type} (s : State) (k b : Nat) (f : State → State × α) : State × α :=
  let home := s.coreNo
  let t := s.focusOn k
  let (t, x) := if t.ctx.bank = b then f t else
    let (u, x) := f t.exchange
    (u.exchange, x)
  let t := t.focusOn home
  ({ t with trap := s.trap, stalled := s.stalled, taken := s.taken, npc := s.npc, wordAddr := s.wordAddr
            pairAddr := s.pairAddr, curWord := s.curWord }, x)

/-- A change made for the context in bank b of core k. -/
def State.inCtx (s : State) (k b : Nat) (f : State → State) : State :=
  (s.inCtxWith k b (fun t => (f t, ()))).1

/-- The bank of core k that holds a strand of a task. -/
def State.bankOf (s : State) (k : Nat) (h : Word) : Option Nat :=
  let p := s.coreAt k
  if p.ctx.holds ∧ p.ctx.taskh = h then some p.ctx.bank
  else if p.other.holds ∧ p.other.taskh = h then some p.other.bank
  else none

/-- A change made for every strand of a task on a list of cores. -/
def State.forMembers (s : State) (h : Word) (cores : List Nat) (f : State → State) : State :=
  cores.foldl (fun s k => match s.bankOf k h with
    | some b => s.inCtx k b f
    | none => s) s

/-! ### Barrier state (R207) -/

/-- Barrier n of the core in focus. -/
def State.bar (s : State) (n : Nat) : Barrier := (assoc n s.core.bars).getD Barrier.none

/-- Barrier n of the core in focus replaced. -/
def State.setBar (s : State) (n : Nat) (b : Barrier) : State :=
  { s with core := { s.core with bars := assocSet n b s.core.bars } }

/-- The team object of barrier n for the running strand's team. -/
def State.teamBar (s : State) (n : Nat) : Option TeamBar :=
  s.pkg.teamBars.find? (fun t => t.n == n && t.handle == s.ctx.taskh)

/-- A team object put in place of its earlier version. -/
def State.putTeamBar (s : State) (t : TeamBar) : State :=
  { s with pkg := { s.pkg with
      teamBars := s.pkg.teamBars.filter (fun x => !(x.n == t.n && x.handle == t.handle)) ++ [t] } }

/-- The object behind barrier n: the core's own, or the team's (R207). -/
def State.barObj (s : State) (n : Nat) : BarObj :=
  let b := s.bar n
  if b.team then (match s.teamBar n with | some t => t.obj | none => b.obj) else b.obj

/-- The object behind barrier n replaced. -/
def State.setBarObj (s : State) (n : Nat) (o : BarObj) : State :=
  let b := s.bar n
  if b.team then
    match s.teamBar n with
    | some t => s.putTeamBar { t with obj := o }
    | none => s
  else s.setBar n { b with obj := o }

/-- The running bank's arrival record. -/
def State.arrival (s : State) (n : Nat) : Option (BitVec 16) :=
  if s.ctx.bank = 0 then (s.bar n).rec0 else (s.bar n).rec1

/-- The running bank's arrival record replaced. -/
def State.setArrival (s : State) (n : Nat) (r : Option (BitVec 16)) : State :=
  let b := s.bar n
  s.setBar n (if s.ctx.bank = 0 then { b with rec0 := r } else { b with rec1 := r })

/-- The scope code of barrier n (R208). -/
def State.barScope (s : State) (n : Nat) : Nat := if (s.bar n).team then 4 else 1

/-- R212: a barrier fault. -/
def barFault {α : Type} (n : Nat) (reason : Nat) : M α := .error (.trap cBarrierFault (word (n + 0x10000 * reason)))

/-- R212: every form but `binit` and `btest` needs an initialised barrier. -/
def State.needBar (s : State) (n : Nat) : M Unit := if (s.bar n).init then .ok () else barFault n 1

/-- The event flags that a flip sets (R209, R112): both contexts of the core, or every member's. -/
def State.flipFlags (s : State) (n : Nat) : State :=
  let set (s : State) : State := { s with ctx := { s.ctx with eventFlag := true } }
  if (s.bar n).team then s.forMembers s.ctx.taskh s.teamCores set
  else { (set s) with other := { s.other with eventFlag := true } }

/-- R209, arrive, with its release done: an arrival, and the flip where it completes the phase. -/
def State.countArrival (s : State) (n : Nat) : State :=
  let o := s.barObj n
  let o := { o with arrived := o.arrived + 1, knot := Knot.join o.knot s.core.knotv }
  if o.arrived = o.count then
    (s.setBarObj n { o with last := o.status, status := 0, arrived := 0, phase := o.phase + 1 }).flipFlags n
  else s.setBarObj n o

/-- R209, arrive: a release at the barrier's scope, and the arrival. -/
def State.arrive (s : State) (n : Nat) : M State := do
  let t ← s.release (s.barScope n)
  .ok (t.countArrival n)

/-- The acquire of a completed wait (R298), which observes what every arrival knew. -/
def State.barAcquire (s : State) (n : Nat) : State := s.acquire (s.barScope n) (Knot.entries (s.barObj n).knot)

/-! ### BAR (R208 to R212) -/

/-- R208: the word of `btest`. -/
def State.barWord (s : State) (n : Nat) : Word :=
  let b := s.bar n
  let o := s.barObj n
  word ((if b.init then 2 ^ 63 else 0) + (if b.team then 2 ^ 62 else 0) + o.count * 2 ^ 32 + o.arrived * 2 ^ 16
    + o.phase.toNat)

/-- The live copies of the running strand that are bound to barrier n: those tagged as puts, or all. -/
def State.boundCopies (s : State) (n : Nat) (putsOnly : Bool) : List Copy :=
  (s.core.copies ++ s.pkg.io0.bobbin ++ s.pkg.io9.bobbin).filter (fun c =>
    c.owner == s.coreNo && c.bank == s.ctx.bank && c.handle == s.ctx.taskh
      && (match c.bound with
          | some (m, mode) => m == n && (!putsOnly || mode == 1)
          | none => false))

/-- R212, reason 3: a waiter, a live bound copy or a set arrival record. -/
def State.barBusy (s : State) (n : Nat) : Bool :=
  let waits (c : Ctx) : Bool := match c.wait with
    | some w => w.kind == .bwait && w.place == n
    | none => false
  let bound (c : Copy) : Bool := match c.bound with
    | some (m, _) => m == n
    | none => false
  let recorded (b : Barrier) : Bool := b.rec0.isSome || b.rec1.isSome
  if (s.bar n).team then
    -- one object: what any member of the team has on it counts
    s.teamCores.any (fun k =>
      let p := s.coreAt k
      let mine (c : Ctx) : Bool := c.holds && c.taskh == s.ctx.taskh
      recorded ((assoc n p.core.bars).getD Barrier.none) || (mine p.ctx && waits p.ctx && k != s.coreNo)
        || (mine p.other && waits p.other) || p.core.copies.any (fun c => c.handle == s.ctx.taskh && bound c))
      || (s.pkg.io0.bobbin ++ s.pkg.io9.bobbin).any (fun c => c.handle == s.ctx.taskh && bound c)
  else
    recorded (s.bar n) || waits s.other
      || (s.core.copies ++ s.pkg.io0.bobbin ++ s.pkg.io9.bobbin).any (fun c => c.owner == s.coreNo && bound c)

/-- A fresh object for a COUNT. -/
def BarObj.fresh (count : Nat) : BarObj := { BarObj.zero with count := count }

/-- R209: `binit` of a core barrier. -/
def State.initBar (s : State) (n count : Nat) (team : Bool) : State :=
  s.setBar n { init := true, team := team, owner := s.ctx.taskh, obj := BarObj.fresh count, rec0 := none, rec1 := none }

/-- R381: the task that initialised a barrier still lives. -/
def State.ownerLives (s : State) (h : Word) : Bool :=
  (s.pkg.task h).isSome || (s.other.holds && s.other.taskh == h)

/-- R208, R209, R212 and R381: `binit`. At team scope the member registers and waits until every member has
issued it. DEDUCED, log 76. -/
def execBinit (a : BitVec 6) (n : BitVec 9) (s : State) : Out :=
  finish s (do
    let n := n.toNat
    let v := s.gr a
    let count := bits v 15 0
    let scope := bits v 18 16
    let b := s.bar n
    if b.init ∧ b.owner ≠ s.ctx.taskh ∧ s.ownerLives b.owner = true then .error (.wait 12)
    else if count = 0 ∨ (scope ≠ 1 ∧ scope ≠ 4) ∨ bits v 63 19 ≠ 0 then barFault n 2
    else
      let m := s.ctx.member
      match (s.teamBar n).filter (fun t => t.left.contains m) with
      | some t =>
        let s1 := (s.putTeamBar { t with left := t.left.filter (fun x => x != m) }).waited
        if t.failed then .error (.late s1 cBarrierFault (word (n + 0x40000))) else .ok s1
      | none =>
        if s.barBusy n then barFault n 3
        else if scope = 1 then .ok (s.initBar n count false)
        else
          let fresh : TeamBar :=
            { n := n, handle := s.ctx.taskh, members := [m], left := [], config := v, usable := false
              failed := false, obj := BarObj.fresh count }
          let t := match s.teamBar n with
            | some t =>
              if t.usable then fresh
              else { t with members := insertNat m t.members, failed := t.failed || t.config != v }
            | none => fresh
          .error (.waitIn ((s.putTeamBar t).waitFor .binit 0 n 0) 12))

/-- R209: the event. Every member has issued `binit`: the barrier becomes usable in each, or each traps.
DEDUCED, log 76. -/
def execBinitTeamComplete (n : Nat) (s : State) : Out :=
  .next (match s.teamBar n with
    | none => s
    | some t =>
      if t.usable || decide (t.members.length < s.ctx.teamSize) then s
      else
        let s1 := s.putTeamBar { t with usable := true, left := t.members }
        if t.failed then s1
        else s1.forMembers s.ctx.taskh s.teamCores (fun s => s.initBar n t.obj.count true))

/-- R208: `barrive`. -/
def execBarrive (d : BitVec 6) (n : BitVec 9) (s : State) : Out :=
  finish s (do
    s.needBar n.toNat
    let phase := (s.barObj n.toNat).phase
    let t ← s.arrive n.toNat
    .ok (t.setGr d (phase.zeroExtend 64)))

/-- The end of a wait: the acquire, and LAST in g[d] (R208, R209). -/
def State.waitDone (s : State) (d : BitVec 6) (n : Nat) : State :=
  ((s.barAcquire n).setGr d ((s.barObj n).last.zeroExtend 64)).waited

/-- R208: `bwait`. -/
def execBwait (d a : BitVec 6) (n : BitVec 9) (s : State) : Out :=
  finish s (do
    s.needBar n.toNat
    if (s.barObj n.toNat).phase.toNat ≠ bits (s.gr a) 15 0 then .ok (s.waitDone d n.toNat)
    else .error (.waitIn (s.waitFor .bwait d.toNat n.toNat (bits (s.gr a) 15 0)) 12))

/-- R209: the wait of `bsync` and `bxch` on a recorded phase. -/
def syncWait (s : State) (d : BitVec 6) (n : Nat) : M State :=
  match s.arrival n with
  | none => .ok s
  | some t => if (s.barObj n).phase ≠ t then .ok ((s.setArrival n none).waitDone d n)
    else .error (.waitIn (s.waitFor .flip d.toNat n t.toNat) 12)

/-- R209 to R211: `bsync`, and `bxch` where `puts` holds: the arrival, held back for the strand's puts, and
the wait for the flip; a recorded arrival is not made twice. DEDUCED, log 77. -/
def bsyncForm (puts : Bool) (d : BitVec 6) (n : BitVec 9) (s : State) : Out :=
  finish s (do
    let n := n.toNat
    s.needBar n
    match s.arrival n with
    | some _ => syncWait s d n
    | none =>
      if puts ∧ (s.boundCopies n true).isEmpty = false then
        .error (.waitIn (s.waitFor .puts d.toNat n 0) 12)
      else do
        let phase := (s.barObj n).phase
        let t ← s.arrive n
        syncWait (t.setArrival n (some phase)) d n)

def execBsync (d : BitVec 6) (n : BitVec 9) (s : State) : Out := bsyncForm false d n s
def execBxch (d : BitVec 6) (n : BitVec 9) (s : State) : Out := bsyncForm true d n s

/-- R208: `btest`. -/
def execBtest (d : BitVec 6) (n : BitVec 9) (s : State) : Out := .next (s.setGr d (s.barWord n.toNat))

/-- R209: `bbind`. -/
def execBbind (a : BitVec 6) (n : BitVec 9) (s : State) : Out :=
  finish s (do
    s.needBar n.toNat
    .ok { s with ctx := { s.ctx with bind := some (n.toNat, bits (s.gr a) 0 0) } })

/-- R209 and R298: the event. A `bwait`, `bsync` or `bxch` of the running context that waits for a flip
completes after it. -/
def execBarrierWaitRelease (s : State) : Out :=
  .next (match s.ctx.wait with
    | none => s
    | some w =>
      let n := w.place
      let passed := decide ((s.barObj n).phase.toNat ≠ w.value)
      if passed && w.kind == .bwait then (s.waitDone (BitVec.ofNat 6 w.dest) n).waitOver w
      else if passed && w.kind == .flip then
        ((s.setArrival n none).waitDone (BitVec.ofNat 6 w.dest) n).waitOver w
      else s)

/-- R211: the event. A `bxch` that waits for its puts arrives once they have landed, and waits for the
flip. -/
def execBxchArrival (s : State) : Out :=
  .next (match s.ctx.wait with
    | none => s
    | some w =>
      let n := w.place
      if w.kind == .puts && (s.boundCopies n true).isEmpty then
        let phase := (s.barObj n).phase
        match s.arrive n with
        | .error (.waitIn t _) => t
        | .error _ => s
        | .ok t =>
          let t := t.setArrival n (some phase)
          { t with ctx := { t.ctx with wait := some { w with kind := .flip, value := phase.toNat } } }
      else s)

/-! ### What a core takes part in for its contexts -/

/-- R381: INIT is cleared on every barrier that a task initialised on a core. DEDUCED, log 111. -/
def Core.clearBars (c : Core) (h : Word) : Core :=
  { c with bars := c.bars.filter (fun b => !(b.2.init && b.2.owner == h)) }

end Sys2Proof.Machine
end

