-- ==== Sys2Proof/Machine/Sfu.lean ====
section
/-! DEFINITION. The special functions of R140 and R141. Irrational results are formed in fixed point with
320 fraction bits and a sticky bit below, far beyond the precision of the result tags; `vexp2`, `vrcp`,
`vrsq` and `vlog2` round them to nearest even, and for the forms that R140 bounds by 1 ulp the part's
choice among the values within the bound is a free value. -/

namespace Sys2Proof.Machine

/-- π, ln 2 and 2/√π in units of 2^−320. -/
def fixPi : Nat :=
  0x3243f6a8885a308d313198a2e03707344a4093822299f31d0082efa98ec4e6c89452821e638d01377
def fixLn2 : Nat :=
  0xb17217f7d1cf79abc9e3b39803f2f6af40f343267298b62d8a0d175b8baafa2be7b876206debac98
def fixTwoOverSqrtPi : Nat :=
  0x120dd750429b6d11ae3a914fed7fd8688281341d7587cea2e7342b06199cc416180eb39f0b24e1e22

/-- The power series Σ terms with term(k+1) = term(k)·x/2^320·num(k)/den(k), summed until `fuel` ends. -/
def fixSeries (x : Nat) (ratio : Nat → Nat × Nat) : Nat → Nat → Nat → Nat → Nat
  | 0, _, _, acc => acc
  | fuel + 1, k, term, acc =>
    if term = 0 then acc
    else
      let t := term * x / 2 ^ 320 * (ratio k).1 / (ratio k).2
      fixSeries x ratio fuel (k + 1) t (acc + t)

/-- The same series with alternating signs; the two sums of positive and negative terms. -/
def fixAlternating (x : Nat) (ratio : Nat → Nat × Nat) : Nat → Nat → Nat → Nat × Nat → Nat × Nat
  | 0, _, _, acc => acc
  | fuel + 1, k, term, acc =>
    if term = 0 then acc
    else
      let t := term * x / 2 ^ 320 * (ratio k).1 / (ratio k).2
      fixAlternating x ratio fuel (k + 1) t (if k % 2 = 0 then (acc.1, acc.2 + t) else (acc.1 + t, acc.2))

/-- e^y for a fixed-point y ≥ 0 below 1, as a fixed-point number. -/
def fixExp (y : Nat) : Nat := fixSeries y (fun k => (1, k + 1)) 100 0 (2 ^ 320) (2 ^ 320)

/-- A fraction in fixed point. -/
def toFix (num den : Nat) : Nat := num * 2 ^ 320 / den

/-- sin(π·num/den) for 0 ≤ num/den ≤ 1/2, in fixed point. -/
def fixSinPi (num den : Nat) : Nat :=
  let t := fixPi * num / den
  let t2 := t * t / 2 ^ 320
  let (p, n) := fixAlternating t2 (fun k => (1, (2 * k + 2) * (2 * k + 3))) 100 0 t (t, 0)
  p - n

/-- erf(num/den) for 0 ≤ num/den < 8, in fixed point: term k of the series is x^(2k+1)/(k!(2k+1)). -/
def fixErf (num den : Nat) : Nat :=
  let x := toFix num den
  let x2 := x * x / 2 ^ 320
  let rec go : Nat → Nat → Nat → Nat × Nat → Nat × Nat
    | 0, _, _, acc => acc
    | fuel + 1, k, pw, acc =>
      if pw = 0 then acc
      else
        let t := pw / (2 * k + 1)
        go fuel (k + 1) (pw * x2 / 2 ^ 320 / (k + 1))
          (if k % 2 = 0 then (acc.1 + t, acc.2) else (acc.1, acc.2 + t))
  let (p, n) := go 400 0 x (0, 0)
  (p - n) * fixTwoOverSqrtPi / 2 ^ 320

/-- ln(num/den) for 1 ≤ num/den < 2, in fixed point: 2·artanh((m − 1)/(m + 1)). -/
def fixLn (num den : Nat) : Nat :=
  let z := toFix (num - den) (num + den)
  let z2 := z * z / 2 ^ 320
  2 * fixSeries z2 (fun k => (2 * k + 1, 2 * k + 3)) 220 0 z z

/-- A fixed-point magnitude that is not exact, as a value between it and the next. -/
def stickyVal (neg : Bool) (fix : Nat) : Val := .fin neg (2 * fix + 1) (2 ^ 321)

/-- 2^A for a finite A, in fixed point with an exponent: the significand in [1, 2) and the power. -/
def exp2Val (neg : Bool) (num den : Nat) : Val :=
  -- beyond every tag's range the value is clamped, which rounds as the value itself does
  let (num, den) := if 1024 * den < num then (1024, 1) else (num, den)
  let k := num / den
  let r := num % den
  if r = 0 then (if neg then .fin false 1 (2 ^ k) else .fin false (2 ^ k) 1)
  else
    let (e, f) : Int × Nat := if neg then (-(k : Int) - 1, den - r) else ((k : Int), r)
    (stickyVal false (fixExp (fixLn2 * f / den))).scale e

/-- log2 A for a positive finite A. -/
def log2Val (num den : Nat) : Val :=
  let e := fracLog2 num den
  let (n, d) := fracShift num den e
  if n = d then Val.ofFrac e 1 false
  else
    let l := fixLn n d * 2 ^ 320 / fixLn2
    if 0 ≤ e then stickyVal false (e.toNat * 2 ^ 320 + l)
    else stickyVal true ((-e).toNat * 2 ^ 320 - l - 1)

/-- tanh A for a finite nonzero A. -/
def tanhVal (neg : Bool) (num den : Nat) : Val :=
  if 64 * den < num then stickyVal neg (2 ^ 320 - 1)
  else
    let y := toFix (2 * num) den
    let k := y / fixLn2
    let ex := fixExp (y % fixLn2) * 2 ^ k
    stickyVal neg ((ex - 2 ^ 320) * 2 ^ 320 / (ex + 2 ^ 320))

/-- sin(π·A) for a finite A, with its sign; none where A is an integer. -/
def sinPiVal (neg : Bool) (num den : Nat) : Option Val :=
  let r := num % (2 * den)
  let flip := decide (den < r)
  let r := if flip then r - den else r
  let s := neg != flip
  if r = 0 ∨ r = den then none
  else
    let r := if den < 2 * r then den - r else r
    if 2 * r = den then some (.fin s 1 1) else some (stickyVal s (fixSinPi r den))

/-- cos(π·A): sin(π·(A + 1/2)). -/
def cosPiVal (num den : Nat) : Option Val := sinPiVal false (2 * num + den) (2 * den)

/-- The forms of the unit (R140). -/
inductive SfuForm where
  | exp2 | rcp | rsq | log2 | tanh | sin | cos | erf
  deriving DecidableEq, Repr

def SfuForm.code : SfuForm → Nat
  | .exp2 => 0 | .rcp => 1 | .rsq => 2 | .log2 => 3 | .tanh => 4 | .sin => 5 | .cos => 6 | .erf => 7

/-- A result bounded by 1 ulp (R140): the free value picks among the codes within the bound: the two
neighbours of an inexact value; an exact value and its two neighbours otherwise. NX where the result
differs from the exact value, with the overflow and underflow flags of R78. DESIGN CHOICE, log 7. -/
def within1 (f : Fmt) (v : Val) (pick : Nat) : Nat × Fx :=
  let (lo, fxlo) := roundIeee f v .rd
  let (hi, fxhi) := roundIeee f v .ru
  if lo = hi then
    let mag := lo % 2 ^ f.signBit
    let neg := decide (lo ≠ mag)
    if pick % 3 = 0 then (lo, .none)
    else if pick % 3 = 1 ∧ mag ≠ 0 then (f.signed neg (mag - 1), .nx)
    else (f.signed neg (mag + 1), .nx)
  else if pick % 2 = 0 then (lo, fxlo) else (hi, fxhi)

/-- One element through the special-function unit: R140 with the special values of R141. DESIGN CHOICE, log 7. -/
def sfu (form : SfuForm) (tag : Nat) (f : Fmt) (code : Nat) : Nat × Fx :=
  let one := f.bias * 2 ^ f.frac
  let nan : Nat × Fx := (f.nanCode, .nv)
  let pick := Config.sfuPick form.code tag code
  match f.ieeeValue code with
  | .nan s => (f.nanCode, Fx.when s .nv)
  | .nar => (f.nanCode, .none)
  | .inf neg =>
    match form with
    | .exp2 => if neg then (0, .none) else (f.infCode, .none)
    | .rcp => (f.signed neg 0, .none)
    | .rsq => if neg then nan else (0, .none)
    | .log2 => if neg then nan else (f.infCode, .none)
    | .tanh => (f.signed neg one, .none)
    | .erf => (f.signed neg one, .none)
    | .sin => nan
    | .cos => nan
  | .fin neg num den =>
    match form with
    | .exp2 => if num = 0 then (one, .none) else roundIeee f (exp2Val neg num den) .rne
    | .rcp =>
      if num = 0 then (f.signed neg f.infCode, .dz) else roundIeee f (.fin neg den num) .rne
    | .rsq =>
      if num = 0 then (f.signed neg f.infCode, .dz)
      else if neg then nan
      else roundIeee f (let (n, d) := sqrtFrac den num; .fin false n d) .rne
    | .log2 =>
      if num = 0 then (f.signed true f.infCode, .dz)
      else if neg then nan
      else roundIeee f (log2Val num den) .rne
    | .tanh => if num = 0 then (f.signed neg 0, .none) else within1 f (tanhVal neg num den) pick
    | .erf =>
      if num = 0 then (f.signed neg 0, .none)
      else within1 f (if 8 * den ≤ num then stickyVal neg (2 ^ 320 - 1)
        else stickyVal neg (fixErf num den)) pick
    | .sin =>
      match sinPiVal neg num den with
      | none => (f.signed neg 0, .none)
      | some v => within1 f v pick
    | .cos =>
      match cosPiVal num den with
      | none => (0, .none)
      | some v => within1 f v pick

end Sys2Proof.Machine
end

