-- ==== Sys2Proof/Machine/Arith.lean ====
section
/-! DEFINITION. Floating and slash arithmetic by tag: the forms of R117, R118 and R120 that the FPU and
the vector unit share, on codes, with the flags they record. -/

namespace Sys2Proof.Machine

/-- The canonical NaN or NaR of a floating tag. -/
def nanOf (t : BitVec 5) : Nat :=
  if isSlash t then slashNar (t = tSL64) else if t = tE4M3 then 0x7F else if t = tE5M2 then 0x7E
  else (tagFmt t).nanCode

/-- The sign of an exact zero sum (R77): the common sign of two zeros, else −0 only under RD. -/
def zeroSign (a b : Bool) (mode : RMode) : Bool := if a = b then a else decide (mode = .rd)

/-- The exact sum of two finite values, with the sign of a zero. -/
def Val.addFin (a b : Val) (mode : RMode) : Val :=
  Val.ofFrac (a.num * b.den + b.num * a.den) (a.den * b.den)
    (if a.isZero && b.isZero then zeroSign a.sign b.sign mode else decide (mode = .rd))

/-- The exact product of two finite values. -/
def Val.mulFin (a b : Val) : Val := Val.ofFrac (a.num * b.num) (a.den * b.den) (a.sign != b.sign)

/-- R117: IEEE addition, multiplication and division of exact values, before rounding: the exact
result, or a NaN, with the flag the case raises. -/
def ieeeAdd (a b : Val) (mode : RMode) : Val × Fx :=
  match a, b with
  | .inf s, .inf t => if s = t then (.inf s, .none) else (.nan false, .nv)
  | .inf s, _ => (.inf s, .none)
  | _, .inf t => (.inf t, .none)
  | x, y => (x.addFin y mode, .none)

def ieeeMul (a b : Val) : Val × Fx :=
  match a, b with
  | .inf s, y => if y.isZero then (.nan false, .nv) else (.inf (s != y.sign), .none)
  | x, .inf t => if x.isZero then (.nan false, .nv) else (.inf (x.sign != t), .none)
  | x, y => (x.mulFin y, .none)

def ieeeDiv (a b : Val) : Val × Fx :=
  match a, b with
  | .inf _, .inf _ => (.nan false, .nv)
  | .inf s, y => (.inf (s != y.sign), .none)
  | x, .inf t => (.fin (x.sign != t) 0 1, .none)
  | x, y =>
    if y.isZero then
      (if x.isZero then (.nan false, .nv) else (.inf (x.sign != y.sign), .dz))
    else (Val.ofFrac ((if y.sign then -1 else 1) * x.num * y.den) (x.den * y.num.natAbs)
            (x.sign != y.sign), .none)

/-- R117: a NaN among the operands gives the canonical NaN, with NV where one is signalling. -/
def nanCase (l : List Val) : Option Fx :=
  if l.any Val.isNan then some (Fx.when (l.any Val.isSig) .nv) else none

/-- The arithmetic forms with two operands. -/
inductive FpOp where
  | add | sub | mul | div
  deriving DecidableEq, Repr

/-- The slash operation of a form. -/
def FpOp.slash : FpOp → SlashOp
  | .add => .add | .sub => .sub | .mul => .mul | .div => .div

/-- An arithmetic form on two codes of tag t: one rounding (R117, R120). -/
def fpArith (op : FpOp) (t : BitVec 5) (x y : Nat) (mode : RMode) : Nat × Fx :=
  let (a, fa) := valueOf t false x
  let (b, fb) := valueOf t false y
  let f0 := fa.and fb
  if isSlash t then
    let (v, f1) := slashExact op.slash a b
    let (c, f2) := roundTo t false v mode false
    (c, f0.and (f1.and f2))
  else
    match nanCase [a, b] with
    | some f => (nanOf t, f)
    | none =>
      let (v, f1) := match op with
        | .add => ieeeAdd a b mode
        | .sub => ieeeAdd a b.neg mode
        | .mul => ieeeMul a b
        | .div => ieeeDiv a b
      let (c, f2) := roundTo t false v mode false
      (c, f1.and f2)

/-- The number n of R91 for a rounding that computes m partial quotients. -/
def halfUp (m : Nat) : Nat := (m + 1) / 2

/-- R91: n of an arithmetic form on two slash words. -/
def slashArithSteps (op : FpOp) (wide : Bool) (x y : Nat) (mode : RMode) : Nat :=
  halfUp (slashRound wide (slashExact op.slash (slashDecode wide x).1 (slashDecode wide y).1).1 mode).2.2

/-- R91: n of a fused form on three slash words. -/
def slashFusedSteps (negp wide : Bool) (x y z : Nat) (mode : RMode) : Nat :=
  let p := (slashExact .mul (slashDecode wide x).1 (slashDecode wide y).1).1
  halfUp (slashRound wide (slashExact .add (if negp then p.neg else p) (slashDecode wide z).1).1 mode).2.2

/-- R91: n of a square root of a slash word. -/
def slashSqrtSteps (wide : Bool) (x : Nat) (mode : RMode) : Nat := halfUp (slashSqrt wide (slashDecode wide x).1 mode).2.2

/-- The fused forms: a·b + d, or d − a·b where `negp` holds, rounded once (R117, R120). -/
def fpFused (negp : Bool) (t : BitVec 5) (x y z : Nat) (mode : RMode) : Nat × Fx :=
  let (a, fa) := valueOf t false x
  let (b, fb) := valueOf t false y
  let (d, fd) := valueOf t false z
  let f0 := fa.and (fb.and fd)
  if isSlash t then
    let (p, f1) := slashExact .mul a b
    let (v, f2) := slashExact .add (if negp then p.neg else p) d
    let (c, f3) := roundTo t false v mode false
    (c, f0.and (f1.and (f2.and f3)))
  else
    let zinf := (a.isInf && b.isZero) || (a.isZero && b.isInf)
    match nanCase [a, b, d] with
    | some f => (nanOf t, if zinf then f.and .nv else f)
    | none =>
      let (p, f1) := ieeeMul a b
      if p.isNan then (nanOf t, f1)
      else
        let (v, f2) := ieeeAdd (if negp then p.neg else p) d mode
        let (c, f3) := roundTo t false v mode false
        (c, f1.and (f2.and f3))

/-- The square root (R117, R120). -/
def fpSqrt (t : BitVec 5) (x : Nat) (mode : RMode) : Nat × Fx :=
  let (a, fa) := valueOf t false x
  if isSlash t then (let (c, f, _) := slashSqrt (t = tSL64) a mode; (c, fa.and f))
  else
    match a with
    | .nan s => (nanOf t, Fx.when s .nv)
    | .nar => (nanOf t, .none)
    | .inf neg => if neg then (nanOf t, .nv) else ((tagFmt t).infCode, .none)
    | .fin neg num den =>
      if num = 0 then ((tagFmt t).signed neg 0, .none)
      else if neg then (nanOf t, .nv)
      else (let (n, d) := sqrtFrac num den; roundTo t false (.fin false n d) mode false)

/-- R118 and 754-2019 minimumNumber and maximumNumber: −0 below +0. -/
def fpMinMax (max : Bool) (t : BitVec 5) (x y : Nat) : Nat × Fx :=
  let (a, fa) := valueOf t false x
  let (b, fb) := valueOf t false y
  let f0 := (fa.and fb).and (Fx.when (a.isSig || b.isSig) .nv)
  let canon (v : Val) (c : Nat) : Nat := if isSlash t then (roundTo t false v .rne false).1 else c
  if a.isNan && b.isNan then (nanOf t, f0)
  else if a.isNan then (canon b y, f0)
  else if b.isNan then (canon a x, f0)
  else
    let less := a.lt b || (a.isZero && b.isZero && a.sign && !b.sign)
    if less != max then (canon a x, f0) else (canon b y, f0)

/-- The comparisons of R118. -/
inductive FpCmp where
  | eq | lt | le
  deriving DecidableEq, Repr

/-- A comparison of two codes: false for an unordered pair; `eq` raises NV only for a signalling NaN,
the others for any NaN. -/
def fpCompare (op : FpCmp) (t : BitVec 5) (x y : Nat) : Bool × Fx :=
  let (a, fa) := valueOf t false x
  let (b, fb) := valueOf t false y
  let f0 := fa.and fb
  let nan := a.isNan || b.isNan
  match op with
  | .eq => (!nan && a.eqv b, f0.and (Fx.when (a.isSig || b.isSig) .nv))
  | .lt => (!nan && a.lt b, f0.and (Fx.when nan .nv))
  | .le => (!nan && (a.lt b || a.eqv b), f0.and (Fx.when nan .nv))

/-- R118, fclass: one bit, and bit 11 with it for a non-canonical slash word. -/
def fpClass (t : BitVec 5) (x : Nat) : Nat :=
  if isSlash t then
    let v := (valueOf t false x).1
    let base := match v with
      | .inf s => if s then 1 else 128
      | .fin s n _ => if n = 0 then 16 else if s then 2 else 64
      | _ => 1024
    let canonical := (slashRound (t = tSL64) v .rne).1 = x
    base + (if canonical then 0 else 2048)
  else
    let f := tagFmt t
    match f.ieeeValue x with
    | .inf s => if s then 1 else 128
    | .nan s => if s then 256 else 512
    | .nar => 512
    | .fin s n _ =>
      let sub := decide (x % 2 ^ f.signBit < 2 ^ f.frac)
      if n = 0 then (if s then 8 else 16)
      else if sub then (if s then 4 else 32)
      else if s then 2 else 64

/-- R118, fsgnj: the magnitude of x with the sign of y, on raw slash fields under RAT = 1. -/
def fpSgnj (t : BitVec 5) (x y : Nat) : Nat :=
  if isSlash t then
    let (num, den, b, _) := slashFields (t = tSL64) x
    let s := (slashFields (t = tSL64) y).2.2.2
    let neg := decide (s = 1)
    if b = 0 ∨ slashW (t = tSL64) ≤ b then nanOf t
    else if den = 0 ∧ num = 0 then nanOf t
    else if den = 0 then slashInf (t = tSL64) neg
    else (slashRound (t = tSL64) (.fin neg num den) .rne).1
  else
    let f := tagFmt t
    x % 2 ^ f.signBit + y / 2 ^ f.signBit % 2 * 2 ^ f.signBit

/-- The sum of two signed fractions over a common denominator. -/
def fracAdd (x y : Int × Nat) : Int × Nat :=
  if x.2 = y.2 then (x.1 + y.1, x.2)
  else if x.2 % y.2 = 0 then (x.1 + y.1 * (x.2 / y.2 : Nat), x.2)
  else if y.2 % x.2 = 0 then (x.1 * (y.2 / x.2 : Nat) + y.1, y.2)
  else
    let g := Nat.gcd x.2 y.2
    (x.1 * (y.2 / g : Nat) + y.1 * (x.2 / g : Nat), x.2 / g * y.2)

/-- R93 and R144: the exact sum of values with its special cases: a NaN, both infinities, or the finite
sum, whose zero takes the sign `zneg`. -/
def sumVals (slash : Bool) (l : List Val) (zneg : Bool) : Val × Fx :=
  if l.any Val.isNan then (if slash then .nar else .nan false, Fx.when (l.any Val.isSig) .nv)
  else if l.any (fun v => v == .inf false) && l.any (fun v => v == .inf true) then
    (if slash then .nar else .nan false, .nv)
  else
    match l.find? Val.isInf with
    | some v => (v, .none)
    | none =>
      let (n, d) := l.foldl (fun a v => fracAdd a (v.num, v.den)) ((0 : Int), 1)
      (Val.ofFrac n d zneg, .none)

/-- The exact product of a step (R93): inf × 0 is invalid. -/
def stepProduct (p : Val × Val) : Val × Fx :=
  if p.1.isNan || p.2.isNan then (.nan (p.1.isSig || p.2.isSig), .none)
  else ieeeMul p.1 p.2

/-- R93, hoop_step on a floating cell: one exact sum, one rounding; an exact zero is −0 only under RD. -/
def hoopStepF (t : BitVec 5) (c : Nat) (prods : List (Val × Val)) (mode : RMode) : Nat × Fx :=
  let ps := prods.map stepProduct
  let bad := ps.any (fun p => p.2.flags != 0)
  let (v, f1) := sumVals false ((valueOf t false c).1 :: ps.map (fun p => p.1)) (decide (mode = .rd))
  let (r, f2) := roundTo t false v mode false
  (r, (Fx.when bad .nv).and (f1.and f2))

/-- R93, hoop_step on an integer cell of w bits: one exact sum, one saturation. -/
def hoopStepI (w : Nat) (c : Int) (prods : List (Int × Int)) : Int × Fx :=
  intSat true w (prods.foldl (fun a p => a + p.1 * p.2) c)

end Sys2Proof.Machine
end

