-- ==== Sys2Proof/Machine/Flags.lean ====
section
/-! DEFINITION. Flags and element progress: the loop over the elements of a vector operation with the
flags each records (R73, R130), the element fault of an enabled flag (R133), and the scalar completion
under the trap enables (R39, R121). -/

namespace Sys2Proof.Machine

/-- What a run over elements leaves: the data with the processed elements written, what they recorded,
and the element whose enabled flag stopped the run, with its flags. -/
structure ElemRun where
  data : Lanes
  fx : Fx
  stop : Option (Nat × BitVec 6)
  deriving DecidableEq, Repr

/-- R130: elements i, i + 1, … (`fuel` of them) in ascending order. A masked element is skipped (R95);
an element that records an enabled flag ends the run unwritten (R133). -/
def elemLoop (w : Nat) (active : Nat → Bool) (op : Nat → Nat × Fx) (en : BitVec 6) :
    Nat → Nat → Lanes → Fx → ElemRun
  | 0, _, d, fx => { data := d, fx := fx, stop := none }
  | fuel + 1, i, d, fx =>
    if active i then
      let (x, f) := op i
      if f.flags &&& en ≠ 0 then { data := d, fx := fx, stop := some (i, f.flags) }
      else elemLoop w active op en fuel (i + 1) (setElem w d i x) (fx.and f)
    else elemLoop w active op en fuel (i + 1) d fx

/-- Whether element i is unmasked under a V-format pred field (R20, R95). -/
def State.active (s : State) (pr : BitVec 3) (i : Nat) : Bool := (s.pr pr).getLsbD i

/-- The run written to its destination. A lane entry keeps the elements that were not processed; a queue
receives a fresh entry whose other elements are zero codes, and on an element fault nothing is popped or
pushed. `s0` is the state before the instruction and `s` the one after its sources popped. DEDUCED, log 19, 20. -/
def writeRun (s0 s : State) (r : VRef) (tag : BitVec 5) (full : Bool) (run : ElemRun) : M State :=
  let old := match r with | .entry e => (s.entry e).poison | .queue _ => false
  let v : Entry := { tag := tag, data := run.data, poison := old && !full }
  match run.stop with
  | none => .ok (((s.putRef r v).record run.fx).setVs 0)
  | some (i, fl) =>
    let base := match r with | .entry e => s0.setEntry e v | .queue _ => s0
    .error (.late ((base.record run.fx).setVs i) cArith (fl.zeroExtend 64))

/-- R130 over the elements below n that `act` selects: an elementwise operation into vd with result tag
`tag` and elements of w bits; `s` is the state after the queue sources popped, and `all` says that no
element below n is left out; `z` is the zero code of the tag. -/
def elementwiseZ (z : Nat) (s0 s : State) (d : BitVec 6) (act : Nat → Bool) (all : Bool) (tag : BitVec 5) (w n : Nat)
    (op : Nat → Nat × Fx) : M State := do
  let r := s.vref d
  s.checkRef r
  s.checkRoom r
  let i := s.ctx.vsn
  let start := match r with | .entry e => (s.entry e).data | .queue _ => filled tag z
  let n := s.ctx.upTo n
  let full := decide (i = 0) && all && decide (n * w = 8192)
  writeRun s0 s r tag full (elemLoop w act op s.ctx.enables (n - i) i start .none)

/-- The same where the instruction names no format suffix. -/
def elementwiseN (s0 s : State) (d : BitVec 6) (act : Nat → Bool) (all : Bool) (tag : BitVec 5) (w n : Nat)
    (op : Nat → Nat × Fx) : M State := elementwiseZ (zeroOf tag) s0 s d act all tag w n op

/-- The same with the element count of the width (R33). -/
def elementwiseOn (s0 s : State) (d : BitVec 6) (act : Nat → Bool) (all : Bool) (tag : BitVec 5) (w : Nat)
    (op : Nat → Nat × Fx) : M State := elementwiseN s0 s d act all tag w (s.count w) op

/-- R130 under a pred field. -/
def elementwise (s0 s : State) (d : BitVec 6) (pr : BitVec 3) (tag : BitVec 5) (w : Nat)
    (op : Nat → Nat × Fx) : M State := elementwiseOn s0 s d (s.active pr) (pr == 0) tag w op

/-- R38: VSTART at or beyond the element count: nothing is written and VSTART becomes 0. DEDUCED, log 19. -/
def State.nothing (s : State) (w : Nat) : Bool := decide (s.count w ≤ s.ctx.vsn)

/-- A tag outside the accepted set (R131), by operand position. DEDUCED, log 62. -/
def tagTrap {α : Type} (pos : Nat) (t : BitVec 5) : M α := .error (.trap cTagMismatch (word (0x100 * pos + t.toNat)))

/-- R131: the operand's tag must satisfy a test. DEDUCED, log 62. -/
def needTag (ok : Bool) (pos : Nat) (t : BitVec 5) : M Unit := if ok then .ok () else tagTrap pos t

/-- R39 and R121: a scalar operation completes: its flags are recorded, or an enabled one traps ARITH
with the destination unchanged. `done` is the state with the result written. -/
def scalarDone (s done : State) (fx : Fx) : Out :=
  if s.ctx.enabled fx then trapLate s cArith (fx.flags.zeroExtend 64) else .next (done.record fx)

end Sys2Proof.Machine
end

