-- ==== Sys2Proof/Machine/Vint.lean ====
section
/-! DEFINITION. Elementwise vector arithmetic: the frame of a unary and a binary elementwise instruction
(R130, R131), the integer and logical forms (R136), the floating forms (R137), the unary forms (R138) and
the compares (R139). -/

namespace Sys2Proof.Machine

/-- R38: VSTART at or beyond VL, whatever the width. -/
def State.idle (s : State) : Bool := decide (s.ctx.vln ≤ s.ctx.vsn)

/-- A unary elementwise instruction: `ok` accepts the source tag, `res` gives the result tag. -/
def vunary (d a : BitVec 6) (pr : BitVec 3) (ok : BitVec 5 → Bool) (op : BitVec 5 → Nat → Nat × Fx)
    (s : State) : Out :=
  finish s (do
    if s.idle then return s.setVs 0
    let (ea, s1) ← s.takeV a
    let t := ea.tag
    let w := tagWidth t
    if s.nothing w then return s.setVs 0
    needTag (ok t) 0 t
    elementwise s s1 d pr t w (fun i => op t (elem w ea.data i)))

/-- A binary elementwise instruction whose sources carry one tag, or whose vb satisfies `okb` (R131). -/
def vbinary (d a b : BitVec 6) (pr : BitVec 3) (ok : BitVec 5 → Bool) (okb : BitVec 5 → BitVec 5 → Bool)
    (op : BitVec 5 → Nat → Nat → Nat × Fx) (s : State) : Out :=
  finish s (do
    if s.idle then return s.setVs 0
    let (ea, s1) ← s.takeV a
    let (eb, s2) ← s1.takeV b
    let t := ea.tag
    let w := tagWidth t
    if s.nothing w then return s.setVs 0
    needTag (ok t) 0 t
    needTag (okb t eb.tag) 1 eb.tag
    elementwise s s2 d pr t w (fun i => op t (elem w ea.data i) (elem w eb.data i)))

/-- The two vector sources carry the same tag (R131). -/
def sameTag (t u : BitVec 5) : Bool := t == u

/-- An integer form on the values of its elements, wrapped to the width (R74, R136). -/
def vintOp (f : Int → Int → Int) (t : BitVec 5) (x y : Nat) : Nat × Fx :=
  let w := tagWidth t
  (intCode w (f (intValue (tagSigned t) w x) (intValue (tagSigned t) w y)), .none)

/-- A choice between two elements read as signed or unsigned, whatever the tag. -/
def vpick (signed max : Bool) (t : BitVec 5) (x y : Nat) : Nat × Fx :=
  let w := tagWidth t
  let less := decide (intValue signed w x < intValue signed w y)
  (if less != max then x else y, .none)

def vint (d a b : BitVec 6) (pr : BitVec 3) (op : BitVec 5 → Nat → Nat → Nat × Fx) (s : State) : Out :=
  vbinary d a b pr isInt sameTag op s

def execVadd (d a b : BitVec 6) (pr : BitVec 3) (s : State) : Out := vint d a b pr (vintOp (fun x y => x + y)) s
def execVsub (d a b : BitVec 6) (pr : BitVec 3) (s : State) : Out := vint d a b pr (vintOp (fun x y => x - y)) s
def execVmul (d a b : BitVec 6) (pr : BitVec 3) (s : State) : Out := vint d a b pr (vintOp (fun x y => x * y)) s
def execVmulh (d a b : BitVec 6) (pr : BitVec 3) (s : State) : Out :=
  vint d a b pr (fun t x y => vintOp (fun p q => p * q / 2 ^ tagWidth t) t x y) s
def execVmin (d a b : BitVec 6) (pr : BitVec 3) (s : State) : Out := vint d a b pr (vpick true false) s
def execVmax (d a b : BitVec 6) (pr : BitVec 3) (s : State) : Out := vint d a b pr (vpick true true) s
def execVminn (d a b : BitVec 6) (pr : BitVec 3) (s : State) : Out := vint d a b pr (vpick false false) s
def execVmaxn (d a b : BitVec 6) (pr : BitVec 3) (s : State) : Out := vint d a b pr (vpick false true) s

/-- The tags of the logical forms: every tag but RAW and the reserved codes (R136). DEDUCED, log 14. -/
def logicalTag (t : BitVec 5) : Bool := decide (t ≠ tRAW) && !tagReserved t

def vlogic (d a b : BitVec 6) (pr : BitVec 3) (f : Nat → Nat → Nat) (s : State) : Out :=
  vbinary d a b pr logicalTag sameTag (fun _ x y => (f x y, .none)) s

def execVand (d a b : BitVec 6) (pr : BitVec 3) (s : State) : Out := vlogic d a b pr (fun x y => x &&& y) s
def execVor (d a b : BitVec 6) (pr : BitVec 3) (s : State) : Out := vlogic d a b pr (fun x y => x ||| y) s
def execVxor (d a b : BitVec 6) (pr : BitVec 3) (s : State) : Out := vlogic d a b pr (fun x y => x ^^^ y) s
def execVandn (d a b : BitVec 6) (pr : BitVec 3) (s : State) : Out :=
  vlogic d a b pr (fun x y => x ^^^ (x &&& y)) s

/-- The shifts (R136): vb carries any integer tag of the same width, and the amount is taken modulo w. -/
def vshift (d a b : BitVec 6) (pr : BitVec 3) (f : Nat → Nat → Nat → Nat) (s : State) : Out :=
  vbinary d a b pr isInt (fun t u => isInt u && decide (tagWidth t = tagWidth u))
    (fun t x y => (f (tagWidth t) x (y % tagWidth t), .none)) s

def execVsll (d a b : BitVec 6) (pr : BitVec 3) (s : State) : Out :=
  vshift d a b pr (fun w x k => x * 2 ^ k % 2 ^ w) s
def execVsrl (d a b : BitVec 6) (pr : BitVec 3) (s : State) : Out := vshift d a b pr (fun _ x k => x / 2 ^ k) s
def execVsra (d a b : BitVec 6) (pr : BitVec 3) (s : State) : Out :=
  vshift d a b pr (fun w x k => intCode w (intValue true w x / 2 ^ k)) s
def execVrol (d a b : BitVec 6) (pr : BitVec 3) (s : State) : Out :=
  vshift d a b pr (fun w x k => x * 2 ^ k % 2 ^ w + x / 2 ^ (w - k)) s

/-! ### Floating forms (R137) -/

/-- The tags of VFLTA: the IEEE tags of R76, and with RAT = 1 the slash tags. -/
def State.floatTag (s : State) (t : BitVec 5) : Bool := isIeee t || (s.ctx.rat && isSlash t)

def vflt (d a b : BitVec 6) (pr : BitVec 3) (op : BitVec 5 → Nat → Nat → Nat × Fx) (s : State) : Out :=
  vbinary d a b pr s.floatTag sameTag op s

def execVfadd (d a b : BitVec 6) (pr : BitVec 3) (s : State) : Out :=
  vflt d a b pr (fun t x y => fpArith .add t x y s.ctx.rm) s
def execVfsub (d a b : BitVec 6) (pr : BitVec 3) (s : State) : Out :=
  vflt d a b pr (fun t x y => fpArith .sub t x y s.ctx.rm) s
def execVfmul (d a b : BitVec 6) (pr : BitVec 3) (s : State) : Out :=
  vflt d a b pr (fun t x y => fpArith .mul t x y s.ctx.rm) s
def execVfmin (d a b : BitVec 6) (pr : BitVec 3) (s : State) : Out := vflt d a b pr (fpMinMax false) s
def execVfmax (d a b : BitVec 6) (pr : BitVec 3) (s : State) : Out := vflt d a b pr (fpMinMax true) s
def execVfdiv (d a b : BitVec 6) (pr : BitVec 3) (s : State) : Out :=
  vflt d a b pr (fun t x y => fpArith .div t x y s.ctx.rm) s

/-- The fused forms also read vd, whose tag must be that of va (R137). -/
def vfused (negp : Bool) (d a b : BitVec 6) (pr : BitVec 3) (s : State) : Out :=
  finish s (do
    if s.idle then return s.setVs 0
    let (ea, s1) ← s.takeV a
    let (eb, s2) ← s1.takeV b
    let (ed, s3) ← s2.takeV d
    let t := ea.tag
    let w := tagWidth t
    if s.nothing w then return s.setVs 0
    needTag (s.floatTag t) 0 t
    needTag (t == eb.tag) 1 eb.tag
    needTag (t == ed.tag) 2 ed.tag
    elementwise s s3 d pr t w (fun i =>
      fpFused negp t (elem w ea.data i) (elem w eb.data i) (elem w ed.data i) s.ctx.rm))

def execVfmacc (d a b : BitVec 6) (pr : BitVec 3) (s : State) : Out := vfused false d a b pr s
def execVfnmacc (d a b : BitVec 6) (pr : BitVec 3) (s : State) : Out := vfused true d a b pr s

/-! ### Unary forms (R138) -/

def execVfsqrt (d a : BitVec 6) (pr : BitVec 3) (s : State) : Out :=
  vunary d a pr s.floatTag (fun t x => fpSqrt t x s.ctx.rm) s

/-- The tags of `vfabs` and `vfneg`. -/
def absTag (t : BitVec 5) : Bool := isIeee t || isFp8 t || isSlash t

/-- The sign bit of an element of width w. -/
def signBitOf (w x : Nat) : Nat := x / 2 ^ (w - 1) % 2

def execVfabs (d a : BitVec 6) (pr : BitVec 3) (s : State) : Out :=
  vunary d a pr absTag (fun t x => (x % 2 ^ (tagWidth t - 1), .none)) s

/-- The sign inverted; a slash zero or NaR keeps S = 0. -/
def execVfneg (d a : BitVec 6) (pr : BitVec 3) (s : State) : Out :=
  vunary d a pr absTag (fun t x =>
    let w := tagWidth t
    let m := x % 2 ^ (w - 1)
    let stay := isSlash t && (match (slashDecode (t = tSL64) x).1 with
      | .nar => true
      | .fin _ n _ => n == 0
      | _ => false)
    (if stay then m else m + (1 - signBitOf w x) * 2 ^ (w - 1), .none)) s

def execVabs (d a : BitVec 6) (pr : BitVec 3) (s : State) : Out :=
  vunary d a pr isInt (fun t x =>
    let w := tagWidth t
    let v := intValue (tagSigned t) w x
    (intCode w (if v < 0 then -v else v), .none)) s
def execVneg (d a : BitVec 6) (pr : BitVec 3) (s : State) : Out :=
  vunary d a pr isInt (fun t x => (intCode (tagWidth t) (-(x : Int)), .none)) s
def execVnot (d a : BitVec 6) (pr : BitVec 3) (s : State) : Out :=
  vunary d a pr (fun t => isInt t || t == tBIT) (fun t x => (2 ^ tagWidth t - 1 - x, .none)) s
def execVclz (d a : BitVec 6) (pr : BitVec 3) (s : State) : Out :=
  vunary d a pr isInt (fun t x => (clzNat (tagWidth t) x, .none)) s
def execVpopc (d a : BitVec 6) (pr : BitVec 3) (s : State) : Out :=
  vunary d a pr isInt (fun t x => (popAux (tagWidth t) x, .none)) s

/-! ### Compares (R139) -/

/-- What a run of compares leaves: the predicate, the flags, and the stopping element. -/
def cmpLoop (active : Nat → Bool) (op : Nat → Bool × Fx) (en : BitVec 6) :
    Nat → Nat → Pred → Fx → Pred × Fx × Option (Nat × BitVec 6)
  | 0, _, p, fx => (p, fx, none)
  | fuel + 1, i, p, fx =>
    if active i then
      let (r, f) := op i
      if f.flags &&& en ≠ 0 then (p, fx, some (i, f.flags))
      else
        let p := if r then p ||| (1#1024 <<< i) else p &&& ~~~(1#1024 <<< i)
        cmpLoop active op en fuel (i + 1) p (fx.and f)
    else cmpLoop active op en fuel (i + 1) p fx

/-- A compare: bit i of p[d] for every processed i; the other bits keep their value. -/
def vcompare (d : BitVec 3) (a b : BitVec 6) (pr : BitVec 3) (ok : BitVec 5 → Bool)
    (op : BitVec 5 → Nat → Nat → Bool × Fx) (s : State) : Out :=
  finish s (do
    if s.idle then return s.setVs 0
    let (ea, s1) ← s.takeV a
    let (eb, s2) ← s1.takeV b
    let t := ea.tag
    let w := tagWidth t
    if s.nothing w then return s.setVs 0
    needTag (ok t) 0 t
    needTag (t == eb.tag) 1 eb.tag
    let i := s.ctx.vsn
    let (p, fx, stop) := cmpLoop (s.active pr) (fun i => op t (elem w ea.data i) (elem w eb.data i))
      s.ctx.enables (s.ctx.upTo (s.count w) - i) i (s.pr d) .none
    match stop with
    | none => .ok (((s2.setPr d p).record fx).setVs 0)
    | some (k, fl) => .error (.late (((s.setPr d p).record fx).setVs k) cArith (fl.zeroExtend 64)))

/-- The tags of the equality compares: integer, IEEE, E4M3, E5M2 and slash. -/
def eqTag (t : BitVec 5) : Bool := isInt t || isIeee t || isFp8 t || isSlash t
def orderTag (t : BitVec 5) : Bool := isIeee t || isFp8 t || isSlash t

/-- Equality: integers compare as bits, the others by value. -/
def vequal (t : BitVec 5) (x y : Nat) : Bool × Fx := if isInt t then (x == y, .none) else fpCompare .eq t x y

def execVceq (d : BitVec 3) (a b : BitVec 6) (pr : BitVec 3) (s : State) : Out := vcompare d a b pr eqTag vequal s
def execVcne (d : BitVec 3) (a b : BitVec 6) (pr : BitVec 3) (s : State) : Out :=
  vcompare d a b pr eqTag (fun t x y => let (r, f) := vequal t x y; (!r, f)) s

/-- An integer order, read as signed or unsigned whatever the tag. -/
def vorder (signed le : Bool) (t : BitVec 5) (x y : Nat) : Bool × Fx :=
  let p := intValue signed (tagWidth t) x
  let q := intValue signed (tagWidth t) y
  (if le then decide (p ≤ q) else decide (p < q), .none)

def execVclt (d : BitVec 3) (a b : BitVec 6) (pr : BitVec 3) (s : State) : Out :=
  vcompare d a b pr isInt (vorder true false) s
def execVcle (d : BitVec 3) (a b : BitVec 6) (pr : BitVec 3) (s : State) : Out :=
  vcompare d a b pr isInt (vorder true true) s
def execVcltn (d : BitVec 3) (a b : BitVec 6) (pr : BitVec 3) (s : State) : Out :=
  vcompare d a b pr isInt (vorder false false) s
def execVclen (d : BitVec 3) (a b : BitVec 6) (pr : BitVec 3) (s : State) : Out :=
  vcompare d a b pr isInt (vorder false true) s
def execVcflt (d : BitVec 3) (a b : BitVec 6) (pr : BitVec 3) (s : State) : Out :=
  vcompare d a b pr orderTag (fpCompare .lt) s
def execVcfle (d : BitVec 3) (a b : BitVec 6) (pr : BitVec 3) (s : State) : Out :=
  vcompare d a b pr orderTag (fpCompare .le) s

end Sys2Proof.Machine
end

