-- ==== Sys2Proof/Machine/Vperm.lean ====
section
/-! DEFINITION. The special-function instructions (R140 to R143), reductions (R144), permutes (R145), bit
instructions (R146), moves and indirect access (R147, R148), and the length instructions (R149, R150). In a
gang the instructions that cross elements act on the gang vector (R271). -/

namespace Sys2Proof.Machine

/-! ### The gang vector (R271) -/

/-- The members of the gang this core belongs to, as they stood when the instruction began; none outside
a gang. -/
def State.gangMembers (s : State) : List Peer :=
  if s.ctx.gang then
    match s.pkg.gangs.find? (fun b => b.handle == s.ctx.taskh) with
    | some b => b.snap.map (fun m => m.2)
    | none => []
  else []

/-- The context of the member that is executing, within a member's snapshot. -/
def Peer.gangCtx (p : Peer) (h : Word) : Ctx := if p.ctx.taskh == h then p.ctx else p.other

/-- What a source name reads in every member: the entry of each, in member order; outside a gang only the
executing core's own. -/
def State.crossSources (s : State) (own : Entry) (n : BitVec 6) : List Entry :=
  match s.gangMembers with
  | [] => [own]
  | l => l.map (fun p =>
      let c := p.gangCtx s.ctx.taskh
      match c.vref n.toNat with
      | .entry e => p.core.entry c e
      | .queue q => (p.core.queues.getD q []).headD Entry.zero)

/-- The number of members whose elements a crossing instruction sees: the gang's, or 1. -/
def State.crossSize (s : State) : Nat := match s.gangMembers with | [] => 1 | l => l.length

/-- The gang-vector index of local element 0. -/
def State.crossBase (s : State) (w : Nat) : Nat := match s.gangMembers with | [] => 0 | _ => s.ctx.member * vlmax w

/-- R268 and R271: the broadcast lag that a crossing instruction adds to its times; 0 outside a gang.
DESIGN CHOICE, log 35. -/
def State.crossLag (s : State) : Nat :=
  if s.ctx.gang then
    match s.pkg.gangs.find? (fun b => b.handle == s.ctx.taskh) with
    | some b => lagOf (b.snap.map (fun m => m.1))
    | none => 0
  else 0

/-- Element i of the gang vector; the zero code of the tag beyond its end. -/
def crossElem (srcs : List Entry) (w : Nat) (t : BitVec 5) (i : Nat) : Nat :=
  match srcs[i / vlmax w]? with
  | some e => elem w e.data (i % vlmax w)
  | none => zeroOf t

/-- Whether element i of the gang vector is unmasked, by each member's own predicate. -/
def State.crossActive (s : State) (pr : BitVec 3) (w i : Nat) : Bool :=
  match s.gangMembers with
  | [] => s.active pr i
  | l =>
    match l[i / vlmax w]? with
    | some p => pr == 0 || ((p.gangCtx s.ctx.taskh).p.getD pr.toNat 0).getLsbD (i % vlmax w)
    | none => false

/-- Whether element i of the gang vector lies below the local count of its member. DEDUCED, log 113. -/
def State.crossInside (s : State) (w i : Nat) : Bool := decide (i % vlmax w < s.count w)

/-- One more than the highest gang-vector index an instruction processes. DEDUCED, log 113. -/
def State.crossCount (s : State) (w : Nat) : Nat := (s.crossSize - 1) * vlmax w + s.count w

/-! ### VSFU (R140 to R143) -/

/-- The tags of the special-function unit. -/
def sfuTag (t : BitVec 5) : Bool := t == tBF16 || t == tF16 || t == tF32

/-- R143: the result is formed at issue and posted, to commit 16 core cycles later. DEDUCED, log 31. -/
def vsfu (form : SfuForm) (d a : BitVec 6) (pr : BitVec 3) (s : State) : Out :=
  finish s (do
    if s.idle then return s.setVs 0
    let (ea, s1) ← s.takeV a
    let t := ea.tag
    let w := tagWidth t
    if s.nothing w then return s.setVs 0
    needTag (sfuTag t) 0 t
    let r := s1.vref d
    s1.checkRef r
    s1.checkRoom r
    let n := s.count w
    let (start, old) := match r with
      | .entry e => ((s1.entry e).data, (s1.entry e).poison)
      | .queue _ => (zeroData t, false)
    let full := decide (s.ctx.vsn = 0) && pr == 0 && decide (n * w = 8192)
    let run := elemLoop w (s.active pr) (fun i => sfu form t.toNat (tagFmt t) (elem w ea.data i)) 0
      (n - s.ctx.vsn) s.ctx.vsn start .none
    let kind := match r with | .entry e => ShadowKind.sfuEntry e | .queue q => ShadowKind.sfuQueue q
    let post : Shadow := { kind := kind, at_ := s.now + 16, tag := t, flags := run.fx.flags, sat := run.fx.sat
                           und := run.fx.und, data := run.data, lmask := 0, amax := 0, codes := 0
                           poison := old && !full }
    .ok ({ s1 with ctx := { s1.ctx with live := s1.ctx.live ++ [post] } }.setVs 0))

def execVexp2 (d a : BitVec 6) (pr : BitVec 3) (s : State) : Out := vsfu .exp2 d a pr s
def execVrcp (d a : BitVec 6) (pr : BitVec 3) (s : State) : Out := vsfu .rcp d a pr s
def execVrsq (d a : BitVec 6) (pr : BitVec 3) (s : State) : Out := vsfu .rsq d a pr s
def execVlog2 (d a : BitVec 6) (pr : BitVec 3) (s : State) : Out := vsfu .log2 d a pr s
def execVtanh (d a : BitVec 6) (pr : BitVec 3) (s : State) : Out := vsfu .tanh d a pr s
def execVsin (d a : BitVec 6) (pr : BitVec 3) (s : State) : Out := vsfu .sin d a pr s
def execVcos (d a : BitVec 6) (pr : BitVec 3) (s : State) : Out := vsfu .cos d a pr s
def execVerf (d a : BitVec 6) (pr : BitVec 3) (s : State) : Out := vsfu .erf d a pr s

/-! ### Reductions (R144) -/

/-- The processed elements of va over the gang vector, as codes. -/
def State.reduced (s : State) (srcs : List Entry) (pr : BitVec 3) (w : Nat) (t : BitVec 5) : List Nat :=
  ((List.range (s.crossSize * vlmax w)).filter (fun i =>
    s.crossInside w i && decide (s.ctx.vsn ≤ i % vlmax w) && decide (i % vlmax w < s.ctx.upTo (i % vlmax w + 1))
      && s.crossActive pr w i)).map (crossElem srcs w t)

/-- A reduction into g[d]: `op` forms the result and what it records from the processed codes. -/
def vreduce (d a : BitVec 6) (pr : BitVec 3) (ok : BitVec 5 → Bool)
    (op : BitVec 5 → List Nat → Word × Fx) (s : State) : Out :=
  finish s (do
    if s.idle then return s.setVs 0
    let (ea, s1) ← s.takeV a
    let t := ea.tag
    let w := tagWidth t
    if s.nothing w then return s.setVs 0
    needTag (ok t) 0 t
    let (r, fx) := op t (s.reduced (s.crossSources ea a) pr w t)
    if s.ctx.enabled fx then .error (.late (s.setVs 0) cArith (fx.flags.zeroExtend 64))
    else .ok (((s1.setGr d r).record fx).setVs 0))

/-- An integer result as R144 writes it: sign-extended for I tags, zero-extended for N. -/
def intResult (t : BitVec 5) (code : Nat) : Word := wordI (intValue (tagSigned t) (tagWidth t) code)

def execVrsum (d a : BitVec 6) (pr : BitVec 3) (s : State) : Out :=
  vreduce d a pr isInt (fun t l =>
    (wordI (l.foldl (fun x c => x + intValue (tagSigned t) (tagWidth t) c) 0), .none)) s

/-- The exact sum rounded once; an exact zero is −0 only under RD or when every element is −0. -/
def execVrfsum (d a : BitVec 6) (pr : BitVec 3) (s : State) : Out :=
  vreduce d a pr s.floatTag (fun t l =>
    if l = [] then (word (zeroCode t false), .none)
    else
      let vs := l.map (fun c => valueOf t false c)
      let f0 := vs.foldl (fun f v => f.and v.2) Fx.none
      let allNeg := vs.all (fun v => v.1.isZero && v.1.sign)
      let (v, f1) := sumVals (isSlash t) (vs.map (fun v => v.1)) (allNeg || decide (s.ctx.rm = .rd))
      let (c, f2) := roundTo t false v s.ctx.rm s.ctx.satinf
      (word c, f0.and (f1.and f2))) s

/-- The tags of `vrmax`, `vrmin` and `vramax`: integer, IEEE and slash. -/
def maxTag (t : BitVec 5) : Bool := isInt t || isIeee t || isSlash t

/-- The maximum or minimum of the processed elements; the Empty value otherwise. -/
def vextreme (max : Bool) (t : BitVec 5) (l : List Nat) : Word × Fx :=
  let w := tagWidth t
  let sg := tagSigned t
  if isInt t then
    match l.map (intValue sg w) with
    | [] => (wordI (if max then intMin sg w else intMax sg w), .none)
    | x :: r => (wordI (r.foldl (fun a b => if decide (a < b) = max then b else a) x), .none)
  else
    match l with
    | [] => (word (if isSlash t then slashInf (t = tSL64) max else (tagFmt t).signed max (tagFmt t).infCode), .none)
    | x :: r =>
      let (c, fx) := r.foldl (fun a b => let (c, f) := fpMinMax max t a.1 b; (c, a.2.and f)) (fpMinMax max t x x)
      (word c, fx)

def execVrmax (d a : BitVec 6) (pr : BitVec 3) (s : State) : Out := vreduce d a pr maxTag (vextreme true) s
def execVrmin (d a : BitVec 6) (pr : BitVec 3) (s : State) : Out := vreduce d a pr maxTag (vextreme false) s

/-- max |A|: the exact integer, or the greatest magnitude as R118 orders numbers. DEDUCED, log 21. -/
def execVramax (d a : BitVec 6) (pr : BitVec 3) (s : State) : Out :=
  vreduce d a pr maxTag (fun t l =>
    if isInt t then
      (word (l.foldl (fun m c => Nat.max m (intValue (tagSigned t) (tagWidth t) c).natAbs) 0), .none)
    else if l = [] then (0, .none)
    else vextreme true t (l.map (fun c => c % 2 ^ (tagWidth t - 1)))) s

def bitTag (t : BitVec 5) : Bool := isInt t || t == tBIT

/-- AND, OR and XOR of all elements, zero-extended. -/
def vrbits (f : Nat → Nat → Nat) (empty : Word) (d a : BitVec 6) (pr : BitVec 3) (s : State) : Out :=
  vreduce d a pr bitTag (fun _ l =>
    match l with
    | [] => (empty, .none)
    | x :: r => (word (r.foldl f x), .none)) s

def execVrand (d a : BitVec 6) (pr : BitVec 3) (s : State) : Out :=
  vrbits (fun x y => x &&& y) (BitVec.allOnes 64) d a pr s
def execVror (d a : BitVec 6) (pr : BitVec 3) (s : State) : Out := vrbits (fun x y => x ||| y) 0 d a pr s
def execVrxor (d a : BitVec 6) (pr : BitVec 3) (s : State) : Out := vrbits (fun x y => x ^^^ y) 0 d a pr s

/-! ### Permutes (R145) -/

/-- The tags of the permute network: every tag but RAW and the reserved codes. -/
def permTag (t : BitVec 5) : Bool := decide (t ≠ tRAW) && !tagReserved t

/-- A permute of va: `act` selects the elements written among those processed, by gang-vector index, and
`pick` names the source element of each; both see the element count and the width. A whole-entry form (R134) writes
the destination elements that R145 processes, from VSTART upward. DEDUCED, log 113, 121. -/
def vpermute (d a : BitVec 6) (pr : BitVec 3) (act : Nat → Nat → Bool) (pick : Nat → Nat → Nat)
    (needStart0 : Bool) (s : State) : Out :=
  finish s (do
    if s.idle then return s.setVs 0
    let (ea, s1) ← s.takeV a
    let t := ea.tag
    let w := tagWidth t
    if s.nothing w then return s.setVs 0
    if needStart0 && decide (s.ctx.vsn ≠ 0) then return s.setVs 0
    needTag (permTag t) 0 t
    let srcs := s.crossSources ea a
    let base := s.crossBase w
    elementwiseOn s s1 d (fun i => act w (base + i)) (pr == 0 && !needStart0) t w
      (fun i => (crossElem srcs w t (pick w (base + i)), .none)))

/-- vd[i] := va[vb[i]], the index read as unsigned; vb carries an integer tag of va's width. The destination elements
are those from VSTART upward (R134, R145). DEDUCED, log 121. -/
def execVgather (d a b : BitVec 6) (pr : BitVec 3) (s : State) : Out :=
  finish s (do
    if s.idle then return s.setVs 0
    let (ea, s1) ← s.takeV a
    let (eb, s2) ← s1.takeV b
    let t := ea.tag
    let w := tagWidth t
    if s.nothing w then return s.setVs 0
    needTag (permTag t) 0 t
    needTag (isInt eb.tag && tagWidth eb.tag == w) 1 eb.tag
    let srcs := s.crossSources ea a
    elementwise s s2 d pr t w (fun i => (crossElem srcs w t (elem w eb.data i), .none)))

def execVslideup (d a b : BitVec 6) (pr : BitVec 3) (s : State) : Out :=
  let off := (s.gr b).toNat
  vpermute d a pr (fun w i => s.crossActive pr w i && decide (off ≤ i)) (fun _ i => i - off) false s
def execVslidedn (d a b : BitVec 6) (pr : BitVec 3) (s : State) : Out :=
  let off := (s.gr b).toNat
  vpermute d a pr (fun w i => s.crossActive pr w i) (fun _ i => i + off) false s
def execVbcast (d a b : BitVec 6) (pr : BitVec 3) (s : State) : Out :=
  let k := (s.gr b).toNat
  vpermute d a pr (fun w i => s.crossActive pr w i) (fun _ _ => k) false s

/-- The selected elements of the gang vector, in order (R145). -/
def State.selected (s : State) (pr : BitVec 3) (w : Nat) : List Nat :=
  (List.range (s.crossSize * vlmax w)).filter (fun i => s.crossInside w i && s.crossActive pr w i)

def execVcompress (d a : BitVec 6) (pr : BitVec 3) (s : State) : Out :=
  vpermute d a pr (fun w i => decide (i < (s.selected pr w).length)) (fun w i => (s.selected pr w).getD i 0)
    true s
def execVexpand (d a : BitVec 6) (pr : BitVec 3) (s : State) : Out :=
  vpermute d a pr (fun w i => s.crossActive pr w i)
    (fun w i => ((s.selected pr w).filter (fun j => decide (j < i))).length) true s

/-- Even elements from va, odd ones from vb. -/
def execVzip (d a b : BitVec 6) (pr : BitVec 3) (s : State) : Out :=
  finish s (do
    if s.idle then return s.setVs 0
    let (ea, s1) ← s.takeV a
    let (eb, s2) ← s1.takeV b
    let t := ea.tag
    let w := tagWidth t
    if s.nothing w then return s.setVs 0
    needTag (permTag t) 0 t
    needTag (t == eb.tag) 1 eb.tag
    let sa := s.crossSources ea a
    let sb := s.crossSources eb b
    let base := s.crossBase w
    elementwise s s2 d pr t w (fun i =>
      (if (base + i) % 2 = 0 then crossElem sa w t ((base + i) / 2) else crossElem sb w t ((base + i) / 2), .none)))

def execVunzip (d a : BitVec 6) (pr : BitVec 3) (s : State) : Out :=
  vpermute d a pr (fun w i => s.crossActive pr w i)
    (fun w i =>
      let h := (s.crossCount w + 1) / 2
      if i < h then 2 * i else 2 * (i - h) + 1) false s

/-! ### Bits (R146) -/

/-- A whole-entry form of one source: the result's tag and data from the source's. DEDUCED, log 19. -/
def vwhole (d a : BitVec 6) (ok : BitVec 5 → Bool) (op : Entry → BitVec 5 × Lanes) (s : State) : Out :=
  finish s (do
    let (ea, s1) ← s.takeV a
    needTag (ok ea.tag) 0 ea.tag
    let r := s1.vref d
    s1.checkRef r
    s1.checkRoom r
    let (t, x) := op ea
    .ok (s1.putRef r { tag := t, data := x, poison := false }))

def execVshlw (d a b : BitVec 6) (s : State) : Out :=
  vwhole d a permTag (fun e => (e.tag, e.data <<< bits (s.gr b) 12 0)) s
def execVshrw (d a b : BitVec 6) (s : State) : Out :=
  vwhole d a permTag (fun e => (e.tag, e.data >>> bits (s.gr b) 12 0)) s

/-- The funnel shifts, which also read vd, of the same tag. -/
def vfunnel (f : Nat → Nat → Nat → Nat) (d a b : BitVec 6) (s : State) : Out :=
  finish s (do
    let (ea, s1) ← s.takeV a
    let (ed, s2) ← s1.takeV d
    needTag (permTag ea.tag) 0 ea.tag
    needTag (ea.tag == ed.tag) 2 ed.tag
    let r := s2.vref d
    s2.checkRoom r
    let x := f ed.data.toNat ea.data.toNat (bits (s.gr b) 12 0)
    .ok (s2.putRef r { tag := ea.tag, data := BitVec.ofNat 8192 x, poison := false }))

def execVfunl (d a b : BitVec 6) (s : State) : Out :=
  vfunnel (fun vd va k => (vd * 2 ^ 8192 + va) / 2 ^ (8192 - k)) d a b s
def execVfunr (d a b : BitVec 6) (s : State) : Out :=
  vfunnel (fun vd va k => (va * 2 ^ 8192 + vd) / 2 ^ k) d a b s

/-- The low `n` digits of x in base 2^k, reversed. -/
def revDigits (k : Nat) : Nat → Nat → Nat → Nat
  | 0, _, acc => acc
  | n + 1, x, acc => revDigits k n (x / 2 ^ k) (acc * 2 ^ k + x % 2 ^ k)

def execVrevb (d a : BitVec 6) (pr : BitVec 3) (s : State) : Out :=
  vunary d a pr permTag (fun t x => (revDigits 1 (tagWidth t) x 0, .none)) s
def execVbswap (d a : BitVec 6) (pr : BitVec 3) (s : State) : Out :=
  vunary d a pr permTag (fun t x => (revDigits 8 (tagWidth t / 8) x 0, .none)) s
def execVclzw (d a : BitVec 6) (s : State) : Out :=
  vwhole d a permTag (fun e => (tI64, BitVec.ofNat 8192 (clzNat 8192 e.data.toNat))) s
def execVpopw (d a : BitVec 6) (s : State) : Out :=
  vwhole d a permTag (fun e => (tI64, BitVec.ofNat 8192 (popAux 8192 e.data.toNat))) s

/-! ### Moves and indirect access (R147, R148) -/

def execVmv (d a : BitVec 6) (pr : BitVec 3) (s : State) : Out :=
  vunary d a pr (fun _ => true) (fun _ x => (x, .none)) s

/-- The tag that `vsplat` and `vinsg` keep: the destination's, or RAW for a queue port. -/
def State.keptTag (s : State) (r : VRef) : BitVec 5 :=
  match r with
  | .entry e => (s.entry e).tag
  | .queue _ => tRAW

def execVsplat (d a : BitVec 6) (pr : BitVec 3) (s : State) : Out :=
  finish s (do
    if s.idle then return s.setVs 0
    let r := s.vref d
    s.checkRef r
    let t := s.keptTag r
    let w := tagWidth t
    if s.nothing w then return s.setVs 0
    elementwise s s d pr t w (fun _ => ((s.gr a).toNat % 2 ^ w, .none)))

/-- g[d] := element k of va: sign-extended for I tags, zero-extended otherwise; 0 beyond the end. -/
def execVextg (d a b : BitVec 6) (s : State) : Out :=
  finish s (do
    let (ea, s1) ← s.takeV a
    let t := ea.tag
    let w := tagWidth t
    needTag (permTag t) 0 t
    let k := (s.gr b).toNat
    let x := if s.crossSize * vlmax w ≤ k then 0 else crossElem (s.crossSources ea a) w t k
    .ok (s1.setGr d (if isInt t then intResult t x else word x)))

/-- Element k of vd := the low bits of g[a]; the other elements and the tag stay. A queue port receives a
fresh RAW entry. -/
def execVinsg (d a b : BitVec 6) (s : State) : Out :=
  finish s (do
    let r := s.vref d
    s.checkRef r
    s.checkRoom r
    let t := s.keptTag r
    let w := tagWidth t
    let k := (s.gr b).toNat
    let base := s.crossBase w
    let mine := decide (base ≤ k) && decide (k < base + vlmax w)
    match r with
    | .entry e =>
      let old := s.entry e
      if mine then .ok (s.setEntry e { old with data := setElem w old.data (k - base) (s.gr a).toNat })
      else .ok s
    | .queue _ =>
      .ok (s.putRef r { tag := t, data := if mine then setElem w 0 (k - base) (s.gr a).toNat else 0
                        poison := false }))

/-- Element i := i under the destination's integer tag, else I64. -/
def execVid (d : BitVec 6) (pr : BitVec 3) (s : State) : Out :=
  finish s (do
    if s.idle then return s.setVs 0
    let r := s.vref d
    s.checkRef r
    let t := if isInt (s.keptTag r) then s.keptTag r else tI64
    let w := tagWidth t
    if s.nothing w then return s.setVs 0
    elementwise s s d pr t w (fun i => (i % 2 ^ w, .none)))

/-- R148: the logical entry that g[b] names, checked under R22. -/
def State.indirect (s : State) (b : BitVec 6) : M Nat :=
  let e := bits (s.gr b) 7 0
  if s.ctx.lfSize ≤ e then .error (.trap cPermission (word e)) else .ok e

def execVmovxRead (d b : BitVec 6) (s : State) : Out :=
  finish s (do
    let e ← s.indirect b
    let (v, s1) ← s.takeRef (.entry e)
    let r := s1.vref d
    s1.checkRef r
    s1.checkRoom r
    .ok (s1.putRef r v))

def execVmovxWrite (a b : BitVec 6) (s : State) : Out :=
  finish s (do
    let e ← s.indirect b
    let (v, s1) ← s.takeV a
    .ok (s1.setEntry e v))

def execVmskv (d : BitVec 6) (a : BitVec 3) (s : State) : Out :=
  finish s (do
    let r := s.vref d
    s.checkRef r
    s.checkRoom r
    .ok (s.putRef r { tag := tBIT, data := (s.pr a).zeroExtend 8192, poison := false }))

def execVmvp (d : BitVec 3) (a : BitVec 6) (s : State) : Out :=
  finish s (do
    let (ea, s1) ← s.takeV a
    needTag (ea.tag == tBIT) 0 ea.tag
    .ok (s1.setPr d (ea.data.truncate 1024)))

/-! ### Length and collapse (R149, R150) -/

def execVsetvl (d a b : BitVec 6) (s : State) : Out :=
  let n := Nat.min (s.gr a).toNat (1024 / 2 ^ bits (s.gr b) 1 0)
  .next ((s.setVl n).setGr d (word n))

def execVcoll (d a b : BitVec 6) (s : State) : Out :=
  let g := s.gr a
  let e0 := bits g 19 0
  let e1 := bits g 39 20
  let e2 := bits g 59 40
  let p := (s.gr b).toNat
  let n := e0 * e1 * e2
  let (l, o) := if bit g 62 = false then (e0, e1 * e2)
    else if bit g 63 = false then (e0 * e1, e2) else (n, 1)
  if n = 0 ∨ n ≤ p then .next ((s.setVl 0).setGr d 0)
  else .next ((s.setVl (Nat.min (l - p % l) (1024 / 2 ^ bits g 61 60))).setGr d (word (o - 1 - p / l)))

end Sys2Proof.Machine
end

