-- ==== Sys2Proof/Machine/Convert.lean ====
section
/-! DEFINITION. Conversion between tags, packing, quantisation against scales, the bypass latch, the packed
dot products and the slash vectors (R215 to R235). -/

namespace Sys2Proof.Machine

/-- R215: the width of one element as the instruction counts it. With an E2M1 side an element is a pair:
one byte there, and twice the width on the other side. DEDUCED, log 112. -/
def unitWidth (pair : Bool) (e2m1 : Bool) (t : BitVec 5) : Nat :=
  if pair then (if e2m1 then 8 else 2 * tagWidth t) else tagWidth t

/-- R215: the element count for unit widths ws and wd. DEDUCED, log 112. -/
def State.convCount (s : State) (pair : Bool) (ws wd : Nat) : Nat :=
  if ws = wd && !pair then s.count ws else Nat.min s.ctx.vln (8192 / Nat.max ws wd)

/-- One unit converted: an element, or both elements of a pair, low one first. `nib` says which side counts
in nibbles. -/
def convUnit (pair srcE2m1 dstE2m1 : Bool) (ws wd : Nat) (op : Nat → Nat × Fx) (x : Nat) : Nat × Fx :=
  if pair then
    let hs := if srcE2m1 then 4 else ws / 2
    let hd := if dstE2m1 then 4 else wd / 2
    let (a, fa) := op (x % 2 ^ hs)
    let (b, fb) := op (x / 2 ^ hs)
    (a + b * 2 ^ hd, fa.and fb)
  else op x

/-- The frame of a conversion of va into vd, whose tag becomes `dt` and whose zero code is `z`: `op` converts one
element, and block forms see the unit's index. -/
def vconvert (z : Nat) (s0 s : State) (d : BitVec 6) (ea : Entry) (pr : BitVec 3) (srcE2m1 dstE2m1 : Bool)
    (dt : BitVec 5) (op : Nat → Nat → Nat × Fx) : M State :=
  let pair := srcE2m1 || dstE2m1
  let ws := unitWidth pair srcE2m1 ea.tag
  let wd := unitWidth pair dstE2m1 dt
  let n := s0.convCount pair ws wd
  if n ≤ s0.ctx.vsn then .ok (s0.setVs 0)
  else elementwiseZ z s0 s d (s.active pr) (pr == 0) dt wd n
    (fun i => convUnit pair srcE2m1 dstE2m1 ws wd (op i) (elem ws ea.data i))

/-- A format code of a conversion target that the form accepts (R216, R219): every source tag but E8M0;
Q only with tag 0x0A where `qOnly` holds. -/
def convSource (t : BitVec 5) : Bool := decide (t ≠ tRAW) && decide (t ≠ tBIT) && !tagReserved t
def convTarget (t : BitVec 5) : Bool := convSource t && decide (t ≠ tE8M0)

/-- R56: a word whose format code the form does not accept. -/
def illegalWord {α : Type} (s : State) : M α := .error (.trap cIllegalOpcode s.wordEval)

/-- R219: vcvt (`trunc` false) and vcvts. -/
def convertVal (trunc : Bool) (st dt : BitVec 5) (picot : Bool) (mode : RMode) (satinf : Bool) (x : Nat) :
    Nat × Fx :=
  if st = dt then (x, .none)
  else
    let (v, f1) := valueOf st picot x
    if isInt st && isInt dt then
      if trunc then
        let (y, f2) := intSat (tagSigned dt) (tagWidth dt) v.num
        (intCode (tagWidth dt) y, f2)
      else (intCode (tagWidth dt) v.num, .none)
    else
      let (c, f2) := roundTo dt picot v (if trunc then .rz else mode) satinf
      (c, f1.and f2)

def vcvtForm (trunc : Bool) (d a : BitVec 6) (q : BitVec 1) (tag : BitVec 5) (pr : BitVec 3) (s : State) : Out :=
  finish s (do
    if !convTarget tag then illegalWord s
    if s.idle then return s.setVs 0
    let (ea, s1) ← s.takeV a
    let st := ea.tag
    if q = 1 && decide (st ≠ tNarrow) && decide (tag ≠ tNarrow) then
      .error (.trap cTagMismatch 0x0A)
    needTag (convSource st) 0 st
    let picot := decide (q = 1)
    let same := st == tag
    vconvert (zeroCode tag picot) s s1 d ea pr (st == tNarrow && !picot && !same) (tag == tNarrow && !picot && !same) tag
      (fun _ x => convertVal trunc st tag picot s.ctx.rm s.ctx.satinf x))

def execVcvt (d a : BitVec 6) (q : BitVec 1) (tag : BitVec 5) (pr : BitVec 3) (s : State) : Out :=
  vcvtForm false d a q tag pr s
def execVcvts (d a : BitVec 6) (q : BitVec 1) (tag : BitVec 5) (pr : BitVec 3) (s : State) : Out :=
  vcvtForm true d a q tag pr s

/-- R220: a value rounded to an integral value of its own tag. -/
def roundIntegral (t : BitVec 5) (x : Nat) (mode : RMode) : Nat × Fx :=
  let (v, f0) := valueOf t false x
  match v with
  | .nan sg => (nanOf t, f0.and (Fx.when sg .nv))
  | .fin neg n d =>
    let (m, ex) := roundFrac mode.plain neg n d
    if ex then ((roundTo t false v .rne false).1, f0)
    else ((roundTo t false (.fin neg m 1) .rne false).1, f0.and .nx)
  | w => ((roundTo t false w .rne false).1, f0)

def execVround (d a : BitVec 6) (pr : BitVec 3) (s : State) : Out :=
  vunary d a pr (fun t => isIeee t || isSlash t) (fun t x => roundIntegral t x s.ctx.rm) s

/-- R221: all 1,024 bytes of va under a new tag; VSTART, which it ignores, stays as it is. DEDUCED, log 120. -/
def execVretag (d a : BitVec 6) (tag : BitVec 5) (s : State) : Out :=
  finish s (do
    if tagReserved tag then illegalWord s
    let (ea, s1) ← s.takeV a
    let r := s1.vref d
    s1.checkRef r
    s1.checkRoom r
    .ok (s1.putRef r { tag := tag, data := ea.data, poison := false }))

/-! ### Packing (R222) -/

/-- The narrow partner of a wide tag, and the wide partner of a narrow one. -/
def narrowOf (t : BitVec 5) : Option (BitVec 5) :=
  match t.toNat with
  | 0x03 => some 0x01 | 0x04 => some 0x02 | 0x05 => some 0x03 | 0x06 => some 0x04 | 0x07 => some 0x05
  | 0x0E => some 0x0D | 0x0D => some 0x0B | 0x0B => some 0x08 | 0x0C => some 0x09
  | _ => none
def wideOf (t : BitVec 5) : Option (BitVec 5) :=
  match t.toNat with
  | 0x01 => some 0x03 | 0x02 => some 0x04 | 0x03 => some 0x05 | 0x04 => some 0x06 | 0x05 => some 0x07
  | 0x0D => some 0x0E | 0x0B => some 0x0D | 0x08 => some 0x0B | 0x09 => some 0x0C
  | _ => none

/-- A whole-entry result from a list of (position, code, record): all or nothing under the enables.
DEDUCED, log 19. -/
def packDone (s0 s : State) (r : VRef) (tag : BitVec 5) (w : Nat) (l : List (Nat × Nat × Fx)) : M State :=
  let fx := l.foldl (fun f x => f.and x.2.2) Fx.none
  if s0.ctx.enabled fx then .error (.late (s0.setVs 0) cArith (fx.flags.zeroExtend 64))
  else
    let start := match r with | .entry e => (s.entry e).data | .queue _ => zeroData tag
    let old := match r with | .entry e => (s.entry e).poison | .queue _ => false
    let v := l.foldl (fun d x => setElem w d x.1 x.2.1) start
    .ok (((s.putRef r { tag := tag, data := v, poison := old && decide (l.length * w < 8192) }).record fx).setVs 0)

/-- One element narrowed. -/
def packOne (st dt : BitVec 5) (mode : RMode) (satinf : Bool) (x : Nat) : Nat × Fx :=
  let (v, f1) := valueOf st false x
  if isInt st then
    let (y, f2) := intSat (tagSigned dt) (tagWidth dt) v.num
    (intCode (tagWidth dt) y, f2)
  else let (c, f2) := roundTo dt false v mode satinf; (c, f1.and f2)

def execVpack (d a b : BitVec 6) (pr : BitVec 3) (s : State) : Out :=
  finish s (do
    let (ea, s1) ← s.takeV a
    let (eb, s2) ← s1.takeV b
    match narrowOf ea.tag with
    | none => tagTrap 0 ea.tag
    | some dt =>
      needTag (ea.tag == eb.tag) 1 eb.tag
      let r := s2.vref d
      s2.checkRef r
      s2.checkRoom r
      let w := tagWidth ea.tag
      let on := (List.range (s.count w)).filter (s.active pr)
      let conv (k : Nat) (e : Entry) : List (Nat × Nat × Fx) :=
        on.map (fun i => (k + i, packOne ea.tag dt s.ctx.rm s.ctx.satinf (elem w e.data i)))
      packDone s s2 r dt (tagWidth dt) (conv 0 ea ++ conv (vlmax w) eb))

def execVunpack (d a b : BitVec 6) (pr : BitVec 3) (s : State) : Out :=
  finish s (do
    let (ea, s1) ← s.takeV a
    match wideOf ea.tag with
    | none => tagTrap 0 ea.tag
    | some dt =>
      let r := s1.vref d
      s1.checkRef r
      s1.checkRoom r
      let w := tagWidth dt
      let base := bits (s.gr b) 0 0 * vlmax w
      let on := (List.range (s.count w)).filter (s.active pr)
      packDone s s1 r dt w (on.map (fun i =>
        (i, packOne ea.tag dt s.ctx.rm s.ctx.satinf (elem (tagWidth ea.tag) ea.data (base + i))))))

/-! ### Quantising against given scales (R223) -/

/-- R85, mx_quant: one element under scale code X. Scale code 0xFF returns before anything is raised, for a
signalling NaN too. DEDUCED, log 119. -/
def mxQuant (t : BitVec 5) (picot : Bool) (v : Val) (x : Nat) (satinf : Bool) : Nat × Fx :=
  if x = 0xFF then
    (if t = tNarrow then zeroCode t picot else nanOf t, .none)
  else roundTo t picot (v.scale (127 - (x : Int))) .rne satinf

def wideFloat (t : BitVec 5) : Bool := isIeee t
def narrowFloat (t : BitVec 5) : Bool := isFp8 t || t == tNarrow

/-- The frame of `vqnt` and `vdeq`: vd must be a lane entry, whose tag is read and kept; vb holds the
scales of the blocks of 32 elements on the narrow side. -/
def vscaled (quant : Bool) (d a b : BitVec 6) (pr : BitVec 3) (s : State) : Out :=
  finish s (do
    match s.vref d with
    | .queue _ => .error (.trap cTagMismatch 0x200)
    | .entry e =>
      s.checkRef (.entry e)
      let dt := (s.entry e).tag
      if s.idle then return s.setVs 0
      let (ea, s1) ← s.takeV a
      let (eb, s2) ← s1.takeV b
      needTag (if quant then wideFloat ea.tag else narrowFloat ea.tag) 0 ea.tag
      needTag (eb.tag == tE8M0) 1 eb.tag
      needTag (if quant then narrowFloat dt else wideFloat dt) 2 dt
      let se := ea.tag == tNarrow
      let de := dt == tNarrow
      let blk (i : Nat) : Nat := if se || de then i / 16 else i / 32
      vconvert (zeroOf dt) s s2 d ea pr se de dt (fun i x =>
        let sc := elem 8 eb.data (blk i)
        let v := (valueOf ea.tag false x).1
        if quant then mxQuant dt false v sc s.ctx.satinf
        else roundTo dt false (mxValue v sc) s.ctx.rm s.ctx.satinf))

def execVqnt (d a b : BitVec 6) (pr : BitVec 3) (s : State) : Out := vscaled true d a b pr s
def execVdeq (d a b : BitVec 6) (pr : BitVec 3) (s : State) : Out := vscaled false d a b pr s

/-! ### Block maxima and the bypass latch (R224 to R229) -/

/-- The narrow tags of the block forms: E4M3 and E5M2 with Q = 0, tag 0x0A with either. -/
def blockCode (q : BitVec 1) (tag : BitVec 5) : Bool := tag == tNarrow || (isFp8 tag && q == 0)

/-- R85: emax of the narrow tag; PICOT8 has 1. -/
def blockEmax (q : BitVec 1) (tag : BitVec 5) : Int := if tag = tNarrow ∧ q = 1 then 1 else emax tag.toNat

/-- The latch code L[j]. -/
def Ctx.latchCode (c : Ctx) (j : Nat) : Nat := (c.latch.extractLsb' (8 * j) 8).toNat

/-- 32 codes as the latch holds them. -/
def packCodes (l : List (Nat × Nat)) : BitVec 256 :=
  l.foldl (fun m x => if x.1 < 32 then m ||| (BitVec.ofNat 256 (x.2 % 256) <<< (8 * x.1)) else m) 0
def maskOf (l : List (Nat × Nat)) : BitVec 32 :=
  l.foldl (fun m x => if x.1 < 32 then m ||| (1#32 <<< x.1) else m) 0

/-- The maximum of two block values (R85): a NaN prevails. -/
def maxVal (a b : Val) : Val := if a.isNan then a else if b.isNan then b else if a.lt b then b else a

/-- R226. The maxima, codes, AMAXK and flags are formed at issue and commit together at issue + G + 3 (and
Λ more in a gang). DEDUCED, log 33. -/
def execVbamax (d a : BitVec 6) (q : BitVec 1) (tag : BitVec 5) (pr : BitVec 3) (s : State) : Out :=
  finish s (do
    if !blockCode q tag then illegalWord s
    let (ea, s1) ← s.takeV a
    let t := ea.tag
    needTag (wideFloat t) 0 t
    let r := s1.vref d
    s1.checkRef r
    s1.checkRoom r
    let w := tagWidth t
    -- R215: outside a gang the width of va alone limits the count; R271: a gang counts over the gang vector
    let alone := s.gangMembers.isEmpty
    let cap := if alone then 8192 / w else vlmax w
    let n := if alone then s.convCount false w 8 else s.count w
    let srcs := s.crossSources ea a
    let base := s.crossBase w
    let total := if alone then n else s.crossSize * cap
    let on (i : Nat) : Bool := if alone then s.active pr i else s.crossInside w i && s.crossActive pr w i
    let code (i : Nat) : Nat := if alone then elem w ea.data i else crossElem srcs w t i
    let block (b : Nat) : Option Val :=
      (((List.range 32).map (fun j => 32 * b + j)).filter (fun i => decide (i < total) && on i)).foldl
        (fun m i =>
          let v := (valueOf t false (code i)).1.abs
          some (match m with | none => v | some x => maxVal x v)) none
    let maxima := (List.range ((total + 31) / 32)).filterMap (fun b => (block b).map (fun v => (b, v)))
    if maxima = [] then return s1.setVs 0
    let codes := maxima.map (fun m => (m.1, mxScale m.2 (blockEmax q tag)))
    let fx := codes.foldl (fun f c => f.and c.2.2) Fx.none
    let b0 := base / 32
    let mine := codes.filter (fun c => decide (b0 ≤ c.1) && decide (c.1 ≤ (base + cap - 1) / 32))
    let lat := mine.map (fun c => (c.1 - b0, c.2.1))
    let top := maxima.foldl (fun m x => maxVal m x.2) (.fin false 0 1)
    let amax := (roundTo tF32 false top .ru false).1
    let (start, old) := match r with
      | .entry e => ((s1.entry e).data, (s1.entry e).poison)
      | .queue _ => (zeroData tE8M0, false)
    let data := codes.foldl (fun x c => setElem 8 x c.1 c.2.1) start
    let kind := if s.crossSize ≠ 1 ∧ s.ctx.member ≠ 0 then ShadowKind.bamaxPeer
      else match r with | .entry e => ShadowKind.bamax e | .queue k => ShadowKind.bamaxQueue k
    let g := Nat.max 1 ((n * w + 1023) / 1024)
    let post : Shadow := { kind := kind, at_ := s.now + g + 3 + s.crossLag, tag := tE8M0, flags := fx.flags, sat := fx.sat
                           und := fx.und, data := data, lmask := maskOf lat, amax := BitVec.ofNat 32 amax
                           codes := packCodes lat, poison := old }
    .ok { s1 with ctx := { s1.ctx with live := s1.ctx.live ++ [post], vstart := 0 } })

/-- R227: the codes of maxima the program holds, into vd and, at issue + G + 3, into the latch: in a gang those of
the blocks that hold the member's own elements (R271). DEDUCED, log 33. -/
def execVbscale (d a : BitVec 6) (q : BitVec 1) (tag : BitVec 5) (pr : BitVec 3) (s : State) : Out :=
  finish s (do
    if !blockCode q tag then illegalWord s
    if s.idle then return s.setVs 0
    let (ea, s1) ← s.takeV a
    let t := ea.tag
    needTag (wideFloat t) 0 t
    let w := tagWidth t
    let n := s.convCount false w 8
    if n ≤ s.ctx.vsn then return s.setVs 0
    let top := blockEmax q tag
    let one (x : Nat) : Nat × Fx := mxScale (valueOf t false x).1.abs top
    let srcs := s.crossSources ea a
    let b0 := s.crossBase w / 32
    let lat (lim : Nat) : List (Nat × Nat) :=
      ((List.range 32).filter (fun j =>
        match s.gangMembers with
        | [] => s.active pr j && decide (j < lim) && decide (s.ctx.vsn ≤ j)
        | _ =>
          -- the element that forms the code of a gang block, in its own member (R271)
          let k := (b0 + j) % vlmax w
          let stopped := decide ((b0 + j) / vlmax w = s.ctx.member) && decide (lim ≤ k)
          decide (s.ctx.vsn ≤ k) && decide (k < n) && !stopped && s.crossActive pr w (b0 + j)
            && decide (j ≤ (s.crossBase w + vlmax w - 1) / 32 - b0))).map
        (fun j => (j, (one (match s.gangMembers with
          | [] => elem w ea.data j
          | _ => crossElem srcs w t (b0 + j))).1))
    let g := Nat.max 1 (((n - s.ctx.vsn) * w + 1023) / 1024)
    let post (u : State) (lim : Nat) : State :=
      let l := lat lim
      let p : Shadow := { kind := .bscale, at_ := s.now + g + 3 + s.crossLag, tag := tE8M0, flags := 0, sat := 0, und := 0
                          data := 0, lmask := maskOf l, amax := 0, codes := packCodes l, poison := false }
      { u with ctx := { u.ctx with live := u.ctx.live ++ [p] } }
    match elementwiseN s s1 d (s.active pr) (pr == 0) tE8M0 8 n (fun i => one (elem w ea.data i)) with
    | .ok u => .ok (post u n)
    | .error (.late u c e) => .error (.late (post u u.ctx.vsn) c e)
    | .error x => .error x)

/-- A shadow result that writes the latch. -/
def Shadow.latching (r : Shadow) : Bool :=
  match r.kind with
  | .bamax _ | .bamaxQueue _ | .bamaxPeer | .bscale => true
  | _ => false

/-- R228: quantised against the latch as it stands in the issue cycle. At service Level 2 it waits until every
earlier latch write of its context has committed. -/
def execVbqnt (d a : BitVec 6) (q : BitVec 1) (tag : BitVec 5) (pr : BitVec 3) (s : State) : Out :=
  finish s (do
    if !blockCode q tag then illegalWord s
    if s.pkg.mgmt.level = 2 ∧ s.ctx.live.any Shadow.latching then .error (.wait 4)
    if s.idle then return s.setVs 0
    let (ea, s1) ← s.takeV a
    let t := ea.tag
    needTag (wideFloat t) 0 t
    let picot := decide (q = 1)
    let pair := tag == tNarrow && !picot
    let base := s.crossBase (tagWidth t)
    let blk (i : Nat) : Nat := (base + (if pair then 2 * i else i)) / 32 - base / 32
    vconvert (zeroCode tag picot) s s1 d ea pr false pair tag (fun i x =>
      mxQuant tag picot (valueOf t false x).1 (s.ctx.latchCode (blk i)) s.ctx.satinf))

/-! ### Packed dot products (R230) -/

/-- A dot form: va and vb of `ok` tags with k elements to one of vd, which carries `dt`. -/
def vdot (ok : BitVec 5 → Bool) (dt : BitVec 5) (op : BitVec 5 → BitVec 5 → Nat → Entry → Entry → Nat → Nat × Fx)
    (d a b : BitVec 6) (pr : BitVec 3) (s : State) : Out :=
  finish s (do
    if s.idle then return s.setVs 0
    let (ea, s1) ← s.takeV a
    let (eb, s2) ← s1.takeV b
    let (ed, s3) ← s2.takeV d
    if s.nothing 32 then return s.setVs 0
    needTag (ok ea.tag) 0 ea.tag
    needTag (ok eb.tag) 1 eb.tag
    needTag (ed.tag == dt) 2 ed.tag
    elementwise s s3 d pr dt 32 (fun i => op ea.tag eb.tag i ea eb (elem 32 ed.data i)))

def execVdot4s (d a b : BitVec 6) (pr : BitVec 3) (s : State) : Out :=
  vdot (fun t => t.toNat == 1 || t.toNat == 2) tI32 (fun ta tb i ea eb c =>
    let (x, f) := hoopStepI 32 (intValue true 32 c) ((List.range 4).map (fun k =>
      (intValue (tagSigned ta) 8 (elem 8 ea.data (4 * i + k)), intValue (tagSigned tb) 8 (elem 8 eb.data (4 * i + k)))))
    (intCode 32 x, f)) d a b pr s

def execVdot2f (d a b : BitVec 6) (pr : BitVec 3) (s : State) : Out :=
  vdot (fun t => t == tBF16 || t == tF16) tF32 (fun ta tb i ea eb c =>
    hoopStepF tF32 c ((List.range 2).map (fun k =>
      ((valueOf ta false (elem 16 ea.data (2 * i + k))).1, (valueOf tb false (elem 16 eb.data (2 * i + k))).1)))
      s.ctx.rm) d a b pr s

/-! ### Slash vectors (R231 to R234) -/

def vslash (op : BitVec 5 → Nat → Nat → Nat × Fx) (d a b : BitVec 6) (pr : BitVec 3) (s : State) : Out :=
  vbinary d a b pr isSlash sameTag op s

def execVsladd (d a b : BitVec 6) (pr : BitVec 3) (s : State) : Out :=
  vslash (fun t x y => fpArith .add t x y s.ctx.rm) d a b pr s
def execVslsub (d a b : BitVec 6) (pr : BitVec 3) (s : State) : Out :=
  vslash (fun t x y => fpArith .sub t x y s.ctx.rm) d a b pr s
def execVslmul (d a b : BitVec 6) (pr : BitVec 3) (s : State) : Out :=
  vslash (fun t x y => fpArith .mul t x y s.ctx.rm) d a b pr s
def execVsldiv (d a b : BitVec 6) (pr : BitVec 3) (s : State) : Out :=
  vslash (fun t x y => fpArith .div t x y s.ctx.rm) d a b pr s

/-- R233: an operand of the mediant as a pair in lowest terms. -/
def medPair : Val → Int × Nat
  | .inf neg => (if neg then -1 else 1, 0)
  | .fin neg n d =>
    if n = 0 then (0, 1)
    else
      let g := Nat.gcd n d
      (if neg then -((n / g : Nat) : Int) else ((n / g : Nat) : Int), d / g)
  | _ => (0, 0)

/-- R233: the exact mediant. -/
def slashMediant (a b : Val) : Val × Fx :=
  if a.isNan || b.isNan then (.nar, .none)
  else
    let (pa, qa) := medPair a
    let (pb, qb) := medPair b
    if qa + qb = 0 then (if pa + pb = 0 then (.nar, .nv) else (.inf (decide (pa + pb < 0)), .none))
    else (Val.ofFrac (pa + pb) (qa + qb) false, .none)

def execVslmed (d a b : BitVec 6) (pr : BitVec 3) (s : State) : Out :=
  vslash (fun t x y =>
    let (u, fa) := slashDecode (t = tSL64) x
    let (v, fb) := slashDecode (t = tSL64) y
    let (m, f1) := slashMediant u v
    let (c, f2) := roundTo t false m s.ctx.rm false
    (c, (fa.and fb).and (f1.and f2))) d a b pr s

/-- R234: the source tags of `vslcvt` and the slash tag each goes to. -/
def slcvtTarget (t : BitVec 5) : Option (BitVec 5) :=
  if t = tBF16 ∨ t = tF16 ∨ t = tF32 ∨ t = tSL32 then some tSL32
  else if t = tF64 ∨ t = tSL64 then some tSL64 else none

def execVslcvt (d a b : BitVec 6) (pr : BitVec 3) (s : State) : Out :=
  finish s (do
    if s.idle then return s.setVs 0
    let (ea, s1) ← s.takeV a
    match slcvtTarget ea.tag with
    | none => tagTrap 0 ea.tag
    | some dt =>
      vconvert (zeroCode dt false) s s1 d ea pr false false dt (fun _ x =>
        let (v, f1) := valueOf ea.tag false x
        let (c, f2, _) := slashRoundB (dt = tSL64) (s.gr b).toNat v s.ctx.rm
        (c, f1.and f2)))

def execVslcanon (d a : BitVec 6) (pr : BitVec 3) (s : State) : Out :=
  vunary d a pr isSlash (fun t x =>
    let (v, f1) := slashDecode (t = tSL64) x
    ((roundTo t false v .rne false).1, f1)) s

def execVslcmp (d a b : BitVec 6) (pr : BitVec 3) (s : State) : Out :=
  finish s (do
    if s.idle then return s.setVs 0
    let (ea, s1) ← s.takeV a
    let (eb, s2) ← s1.takeV b
    let t := ea.tag
    let w := tagWidth t
    if s.nothing w then return s.setVs 0
    needTag (isSlash t) 0 t
    needTag (t == eb.tag) 1 eb.tag
    elementwise s s2 d pr (if t = tSL64 then tI64 else tI32) w (fun i =>
      let (u, fa) := slashDecode (t = tSL64) (elem w ea.data i)
      let (v, fb) := slashDecode (t = tSL64) (elem w eb.data i)
      let r : Int := if u.isNan || v.isNan then -(2 ^ (w - 1)) else if u.lt v then -1
        else if u.eqv v then 0 else 1
      (intCode w r, fa.and fb)))

end Sys2Proof.Machine
end

