-- ==== Sys2Proof/Machine/Kreg.lean ====
section
/-! DEFINITION. The k-registers (R34 to R46): reading one by number, the legality of a write, its effect,
and the KREG instructions (R114, R115). -/

namespace Sys2Proof.Machine

/-- KNOTVw (R41): entries 5w to 5w + 4, 12 bits each; entries 10 to 15 read as zero. -/
def knotWord (v : Vector (BitVec 12) 16) (w : Nat) : Word :=
  word ((List.range 5).foldl (fun a i =>
    a + (if 5 * w + i < 10 then (v.getD (5 * w + i) 0).toNat else 0) * 2 ^ (12 * i)) 0)

/-- DIRTY as it stands: a bit that a write still in flight sets shows only once the write lands (R24).
DEDUCED, log 114. -/
def State.dirtyNow (s : State) : BitVec 256 :=
  s.ctx.board.foldl (fun m b => match b.res with
    | .lane e => if b.fresh && decide (s.now < b.due) then m &&& ~~~(1#256 <<< e) else m
    | .read e => if b.clears && decide (s.now < b.due) then m ||| (1#256 <<< e) else m
    | _ => m) s.ctx.dirty

/-- HDIRTY as it stands (R30). DEDUCED, log 114. -/
def State.hdirtyNow (s : State) : BitVec 128 :=
  s.ctx.board.foldl (fun m b => match b.res with
    | .row r =>
      if b.clears && decide (s.now < b.due) then m ||| (1#128 <<< r)
      else if b.fresh && decide (s.now < b.due) then m &&& ~~~(1#128 <<< r) else m
    | _ => m) s.ctx.hdirty

/-- LC as a `kread` sees it: while a loop is active POS is the offset of the instruction's own word
(R108). -/
def State.lcNow (s : State) : Word :=
  if s.ctx.lcOn then setBits s.ctx.lc 48 43 ((s.wordAddr - s.ctx.first).toNat / 4) else s.ctx.lc

/-- The value of k-register n; none for a number that R34 does not list. -/
def State.kValue (s : State) (n : Nat) : Option Word :=
  let c := s.ctx
  match n with
  | 0x000 => some c.vl
  | 0x001 => some c.vstart
  | 0x002 => some c.hcur
  | 0x003 => some c.hshape
  | 0x004 => some c.vwb
  | 0x005 => some c.vrb
  | 0x006 => some s.lcNow
  | 0x008 => some c.acr
  | 0x009 => some c.mfc[0]
  | 0x00A => some c.mfc[1]
  | 0x00B => some c.mfc[2]
  | 0x00C => some c.mfc[3]
  | 0x010 => some (knotWord s.core.knotv 0)
  | 0x011 => some (knotWord s.core.knotv 1)
  | 0x012 => some (knotWord s.core.knotv 2)
  | 0x013 => some (knotWord s.core.knotv 3)
  | 0x014 => some c.amaxk
  | 0x015 => some c.satcnt
  | 0x016 => some c.undcnt
  | 0x020 => some (s.dirtyNow.extractLsb' 0 64)
  | 0x021 => some (s.dirtyNow.extractLsb' 64 64)
  | 0x022 => some (s.dirtyNow.extractLsb' 128 64)
  | 0x023 => some (s.dirtyNow.extractLsb' 192 64)
  | 0x024 => some (s.hdirtyNow.extractLsb' 0 64)
  | 0x025 => some (s.hdirtyNow.extractLsb' 64 64)
  | 0x030 => some (word s.pkg.cyc)
  | 0x031 => some c.team
  | 0x032 => some c.taskh
  | 0x033 => some (word c.bank)
  | 0x800 => some c.estat
  | 0x801 => some c.epc
  | 0x802 => some c.ecause
  | 0x803 => some c.eval
  | 0x804 => some c.tvec
  | 0x805 => some c.alloc
  | 0x806 => some c.qto
  | 0x807 => some c.sfshadow
  | 0x808 => some c.ipend
  | 0x809 => some c.imask
  | 0x80A => some c.tcmp
  | n => if 0x040 ≤ n ∧ n ≤ 0x07F then some (c.tm.getD (n - 0x040) 0) else none

/-- A read-only k-register (R34). -/
def kReadOnly (n : Nat) : Bool :=
  decide ((0x010 ≤ n ∧ n ≤ 0x014) ∨ (0x020 ≤ n ∧ n ≤ 0x025) ∨ (0x030 ≤ n ∧ n ≤ 0x033))

/-- Two half-open ranges share no element. -/
def disjointRange (b1 n1 b2 n2 : Nat) : Bool := decide (b1 + n1 ≤ b2 ∨ b2 + n2 ≤ b1 ∨ n1 = 0 ∨ n2 = 0)

/-- R42 and R43: the value is a legal ALLOC for a bank whose other bank is `o`. -/
def allocLegal (v : Word) (o : Ctx) : Bool :=
  let lfb := bits v 7 0
  let lfs := bits v 16 8
  let hb := bits v 23 17
  let hr := bits v 31 24
  decide (bits v 63 36 = 0) && decide (lfb % 16 = 0) && decide (lfs % 16 = 0) && decide (lfb + lfs ≤ 256)
    && decide (hb % 8 = 0) && decide (hr % 8 = 0) && decide (hb + hr ≤ 128)
    && (!o.holds || (disjointRange lfb lfs o.lfBase o.lfSize && disjointRange hb hr o.hBase o.hRows
        && decide (bits v 35 32 &&& bits o.alloc 35 32 = 0)))

/-- R40: with EN = 1, MTAG and RTAG are neither reserved nor RAW; bits 11:10 are reserved. -/
def mfcLegal (v : Word) : Bool :=
  decide (bits v 11 10 = 0)
    && (!bit v 15 || (decide (1 ≤ bits v 4 0 ∧ bits v 4 0 ≤ 0x12) && decide (1 ≤ bits v 9 5 ∧ bits v 9 5 ≤ 0x12)))

/-- R194: the value is legal as word w of a tensor map. -/
def tmLegal (w : Nat) (v : Word) : Bool :=
  match w with
  | 0 => decide (bits v 63 61 = 0) && decide (bits v 60 56 ≤ 0x11)
      && decide (bits v 55 0 % (tagWidth (BitVec.ofNat 5 (bits v 60 56)) / 8) = 0)
  | 3 => decide (bits v 63 32 = 0)
  | 7 => decide (bits v 63 16 = 0)
  | _ => true

/-- R35: the value the register would hold is within its map. -/
def State.kLegal (s : State) (n : Nat) (v : Word) : Bool :=
  match n with
  | 0x000 => decide (v.toNat ≤ 1024)
  | 0x001 => decide (v.toNat < 2 ^ 11)
  | 0x002 => decide (v.toNat < 2 ^ 7)
  | 0x003 => decide (bits v 63 15 = 0) && decide (1 ≤ bits v 14 8 ∧ bits v 14 8 ≤ 64)
      && decide (1 ≤ bits v 7 0 ∧ bits v 7 0 ≤ s.ctx.hRows)
  | 0x004 => decide (v.toNat ≤ 232) && decide (v.toNat % 8 = 0)
  | 0x005 => decide (bits v 63 12 = 0) && decide (bits v 11 8 ≤ 11) && decide (bits v 7 0 ≤ 228)
      && decide (bits v 7 0 % 4 = 0)
  | 0x006 => decide (bits v 63 49 = 0) && decide (bits v 40 38 ≤ 4)
      && !(bit v 42 && decide (bits v 37 32 = 0))
  | 0x008 => decide (bits v 63 22 = 0) && decide (bits v 15 14 = 0) && decide (bits v 7 5 = 0)
      && decide (bits v 2 0 ≤ 4)
  | 0x009 => mfcLegal v
  | 0x00A => mfcLegal v
  | 0x00B => mfcLegal v
  | 0x00C => mfcLegal v
  | 0x800 => decide (bits v 63 10 = 0)
  | 0x802 => decide (v.toNat < 2 ^ 8)
  | 0x804 => decide (bits v 7 0 = 0)
  | 0x805 => allocLegal v s.other
  | 0x806 => decide (1 ≤ v.toNat ∧ v.toNat < 2 ^ 32)
  | 0x807 => decide (v &&& ~~~s.ctx.sfshadow = 0)
  | 0x808 => decide (v.toNat < 2 ^ 3)
  | 0x809 => decide (v.toNat < 2 ^ 3)
  | n => if 0x040 ≤ n ∧ n ≤ 0x07F then tmLegal ((n - 0x040) % 8) v else true

/-- The held results that a value of SFSHADOW still names (R246). -/
def keepHeld (w : Word) (l : List Shadow) : List Shadow :=
  l.filter (fun r => bit w r.maskBit)

/-- R46: enabled pending sources set the event flag and resume a halted bank. -/
def Ctx.wakeBySource (c : Ctx) : Ctx :=
  if c.ipend &&& c.imask ≠ 0 then { c with eventFlag := true, halted := false } else c

/-- The effect of a legal write of v to k-register n. -/
def State.kPut (s : State) (n : Nat) (v : Word) : State :=
  let c := s.ctx
  let set (c : Ctx) : State := { s with ctx := c }
  match n with
  | 0x000 => set { c with vl := v }
  | 0x001 => set { c with vstart := v }
  | 0x002 => set { c with hcur := v }
  | 0x003 => set { c with hshape := v }
  | 0x004 => set { c with vwb := v }
  | 0x005 => set { c with vrb := v }
  | 0x006 =>
    set { c with lc := v, first := if bit v 42 then s.wordAddr - word (4 * bits v 48 43) else c.first }
  | 0x008 => set { c with acr := v }
  | 0x009 => set { c with mfc := c.mfc.set 0 v }
  | 0x00A => set { c with mfc := c.mfc.set 1 v }
  | 0x00B => set { c with mfc := c.mfc.set 2 v }
  | 0x00C => set { c with mfc := c.mfc.set 3 v }
  | 0x015 => set { c with satcnt := v }
  | 0x016 => set { c with undcnt := v }
  | 0x800 => set { c with estat := setBit v 7 (bit c.estat 7) }
  | 0x801 => set { c with epc := v }
  | 0x802 => set { c with ecause := v }
  | 0x803 => set { c with eval := v }
  | 0x804 => set { c with tvec := v }
  | 0x805 => set { c with alloc := v }
  | 0x806 => set { c with qto := v }
  | 0x807 => set { c with sfshadow := v, held := keepHeld v c.held }
  | 0x808 => set { c with ipend := c.ipend &&& ~~~v }
  | 0x809 => set ({ c with imask := v }).wakeBySource
  | 0x80A => set (({ c with tcmp := v }).timerAt s.pkg.cyc)
  | n => if 0x040 ≤ n ∧ n ≤ 0x07F then set { c with tm := c.tm.setIfInBounds (n - 0x040) v } else s

/-- The quarantine that an ALLOC value would overlap (R43, R385). -/
def State.allocBlocked (s : State) (v : Word) : Bool :=
  s.core.quarLanes.any (fun q => decide (bits v 7 0 ≤ q.1 ∧ q.1 < bits v 7 0 + bits v 16 8))
    || s.core.quarQueues.any (fun q => bit v (32 + q.1))

/-- R16 and R35: the checks that every KREG form makes on the register number. -/
def State.kAccess (s : State) (n : Nat) : M Word := do
  match s.kValue n with
  | none => .error (.trap cIllegalOpcode (word n))
  | some v => if 0x800 ≤ n ∧ s.ctx.system = false then .error (.trap cPrivilege (word n)) else .ok v

/-- A write of v to k-register n by `kwrite`, or by `kset` and `kclr` where `rmw` holds (R35, R46). -/
def kWriteValue (s : State) (n : Nat) (rmw : Bool) (v : Word) : M State := do
  if kReadOnly n ∨ (n = 0x808 ∧ rmw = true) ∨ s.kLegal n v = false then
    .error (.trap cIllegalOpcode (word n))
  else if n = 0x805 ∧ s.allocBlocked v = true then .error (.wait 9)
  else .ok (s.kPut n v)

/-- R114: g[d] := K. -/
def execKread (d : BitVec 6) (k : BitVec 12) (s : State) : Out :=
  finish s (do
    let v ← s.kAccess k.toNat
    .ok (s.setGr d v))

/-- R114: K := g[d]. -/
def execKwrite (d : BitVec 6) (k : BitVec 12) (s : State) : Out :=
  finish s (do
    let _ ← s.kAccess k.toNat
    kWriteValue s k.toNat false (s.gr d))

/-- R114: K := K OR g[d]. -/
def execKset (d : BitVec 6) (k : BitVec 12) (s : State) : Out :=
  finish s (do
    let v ← s.kAccess k.toNat
    kWriteValue s k.toNat true (v ||| s.gr d))

/-- R114: K := K AND NOT g[d]. -/
def execKclr (d : BitVec 6) (k : BitVec 12) (s : State) : Out :=
  finish s (do
    let v ← s.kAccess k.toNat
    kWriteValue s k.toNat true (v &&& ~~~s.gr d))

end Sys2Proof.Machine
end

