-- ==== Sys2Proof/Machine/Hoop.lean ====
section
/-! DEFINITION. The Hoop instructions but for the saves: regions and slices (R28, R152), rank updates
(R153 to R162), slice moves (R163 to R166), the epilogue (R167 to R169), the special functions in place
(R170) and `hdmap` (R175). -/

namespace Sys2Proof.Machine

/-! ### Rows -/

/-- The EVAL of a row's tag (R153). -/
def rowEval (r : Nat) (t : BitVec 5) : Word := word (0x10000 * r + 0x300 + t.toNat)

/-- The EVAL of a row beyond the allocation (R27). -/
def rowPermission {α : Type} (r : Nat) : M α := .error (.trap cPermission (word (0x20000 + r)))

/-- R152: the rows of a region; `full` reads it over ALLOC.HROWS, as the HCTX forms do. A row beyond the
allocation traps PERMISSION. DEDUCED, log 52. -/
def State.regionRows (s : State) (sel : BitVec 9) (full : Bool) : M (List Nat) := do
  let n := if full then s.ctx.hRows else s.ctx.rows
  let low := sel.toNat % 128
  let rows ←
    if sel.getLsbD 7 then
      let start := low / 8 * 8
      let count := (low % 8 + 1) * 8
      if 128 < start + count then illegalWord s
      else
        let l := (List.range count).map (fun i => start + i)
        (.ok (if full then l else l.filter (fun r => decide (r < n))) : M (List Nat))
    else
      match low with
      | 0 => .ok (List.range n)
      | 1 => .ok (List.range ((n + 1) / 2))
      | 2 => .ok ((List.range n).filter (fun r => decide ((n + 1) / 2 ≤ r)))
      | _ => illegalWord s
  match rows.find? (fun r => decide (s.ctx.hRows ≤ r)) with
  | some r => rowPermission r
  | none => .ok rows

/-- HCUR.ROW. -/
def Ctx.hcurRow (c : Ctx) : Nat := bits c.hcur 6 0

/-- The row set of a restartable region form: the rows from HCUR.ROW upward (R157). -/
def State.restartRows (s : State) (sel : BitVec 9) (full : Bool) : M (List Nat) := do
  let rows ← s.regionRows sel full
  .ok (rows.filter (fun r => decide (s.ctx.hcurRow ≤ r)))

/-- A row slice, and its row (R28). -/
def sliceRow (sel : BitVec 9) : Option Nat := if sel.toNat / 128 = 0 then some (sel.toNat % 128) else none

/-- R28: the cells of a slice, by element. A row beyond the allocation traps PERMISSION. -/
def State.sliceCells (s : State) (sel : BitVec 9) : M (List (Nat × Nat)) :=
  let k := sel.toNat % 128
  let n := s.ctx.hRows
  match sel.toNat / 128 with
  | 0 => if n ≤ k then rowPermission k else .ok ((List.range 64).map (fun i => (k, i)))
  | 1 => .ok ((List.range n).map (fun i => (i, k % 64)))
  | 2 => .ok ((List.range n).map (fun i => (i, (i + k) % 64)))
  | _ => .ok ((List.range n).map (fun i => (i, (k + 128 - i % 64) % 64)))

/-- R356: a poisoned row traps when an instruction reads it. -/
def State.needClean (s : State) (rows : List Nat) : M Unit :=
  match rows.find? (fun r => (s.row r).poison) with
  | some r => .error (.trap cPoison (poisonEval 1 r))
  | none => .ok ()

/-- Every row of a set carries a tag that `ok` accepts (R153). -/
def State.needRowTags (s : State) (rows : List Nat) (ok : BitVec 5 → Bool) : M Unit :=
  match rows.find? (fun r => !ok (s.row r).tag) with
  | some r => .error (.trap cTagMismatch (rowEval r (s.row r).tag))
  | none => .ok ()

/-- Rows written in order. -/
def State.putRows (s : State) (l : List (Nat × Row)) : State := l.foldl (fun a r => a.setRow r.1 r.2) s

/-! ### Rank updates (R153 to R162) -/

/-- What the input class of R153 fixes: the reduction length, the rank of a step, the occupancy, whether the
rows hold integers, and whether `hrankx` takes it. -/
structure RankClass where
  ki : Nat
  r : Nat
  occ : Nat
  int : Bool
  scaled : Bool
  deriving DecidableEq, Repr

/-- The input class number of a source tag (R153). -/
def rankClassOf (picot : Bool) (t : BitVec 5) : Option Nat :=
  if picot then (if t = tNarrow then some 5 else none)
  else
    match t.toNat with
    | 0x0B => some 0
    | 0x0C => some 0
    | 0x03 => some 1
    | 0x08 => some 2
    | 0x09 => some 2
    | 0x01 => some 3
    | 0x02 => some 3
    | 0x0A => some 4
    | 0x0D => some 6
    | _ => none

def rankClass : Nat → RankClass
  | 0 => { ki := 4, r := 2, occ := 2, int := false, scaled := false }
  | 1 => { ki := 4, r := 2, occ := 2, int := true, scaled := false }
  | 2 => { ki := 8, r := 4, occ := 2, int := false, scaled := true }
  | 3 => { ki := 8, r := 4, occ := 2, int := true, scaled := false }
  | 4 => { ki := 16, r := 8, occ := 2, int := false, scaled := true }
  | 5 => { ki := 8, r := 8, occ := 1, int := false, scaled := true }
  | _ => { ki := 2, r := 1, occ := 4, int := false, scaled := false }

/-- The row tags of a class. -/
def rankRowTag (c : RankClass) (t : BitVec 5) : Bool :=
  if c.int then t == tI32 || t == tI64 else t == tF32 || t == tF64

/-- R400: the input classes that the rank forms refuse at service Level 2: quarter, integer quarter, E2M1 and
PICOT8. -/
def reducedClass (k : Nat) : Bool := decide (2 ≤ k ∧ k ≤ 5)

/-- R153: the class of two source tags; `reduced` says that the package is at service Level 2 (R400). -/
def rankCheck (reduced picot needScaled : Bool) (ta tb : BitVec 5) : M RankClass :=
  match rankClassOf picot ta with
  | none => tagTrap 0 ta
  | some k =>
    if reduced && reducedClass k then tagTrap 0 ta
    else if needScaled && !(rankClass k).scaled then tagTrap 0 ta
    else if rankClassOf picot tb ≠ some k then tagTrap 1 tb
    else .ok (rankClass k)

/-- The element width of a panel: E2M1 elements count nibbles (R154). -/
def panelWidth (picot : Bool) (t : BitVec 5) : Nat := if t = tNarrow ∧ picot = false then 4 else tagWidth t

/-- The rank forms that R160 shares. -/
inductive RankForm where
  | plain | negated | scaled
  deriving DecidableEq, Repr

/-- The A value of row ρ and slice k, and the B value of column c, scaled for `hrankx` (R154, R160). -/
def rankA (form : RankForm) (picot : Bool) (a b : Entry) (k rho : Nat) : Val :=
  let v := (valueOf a.tag picot (elem (panelWidth picot a.tag) a.data (128 * k + rho))).1
  match form with
  | .plain => v
  | .negated => v.neg
  | .scaled => mxValue v (elem 8 b.data (512 + rho))
def rankB (form : RankForm) (picot : Bool) (b : Entry) (k c : Nat) : Val :=
  let v := (valueOf b.tag picot (elem (panelWidth picot b.tag) b.data (64 * k + c))).1
  match form with
  | .scaled => mxValue v (elem 8 b.data (640 + c))
  | _ => v

/-- One cell through the KI / r steps of an instruction, in ascending order. -/
def rankCell (cls : RankClass) (form : RankForm) (picot : Bool) (a b : Entry) (t : BitVec 5) (mode : RMode)
    (rho c cell : Nat) : Nat × Fx :=
  (List.range (cls.ki / cls.r)).foldl (fun x j =>
    let ks := (List.range cls.r).map (fun i => j * cls.r + i)
    if cls.int then
      let w := tagWidth t
      let sg : Int := if form = .negated then -1 else 1
      let (y, f) := hoopStepI w (intValue true w x.1) (ks.map (fun k =>
        (sg * intValue (tagSigned a.tag) (tagWidth a.tag) (elem (tagWidth a.tag) a.data (128 * k + rho)),
          intValue (tagSigned b.tag) (tagWidth b.tag) (elem (tagWidth b.tag) b.data (64 * k + c)))))
      (intCode w y, x.2.and f)
    else
      let (y, f) := hoopStepF t x.1
        (ks.map (fun k => (rankA form picot a b k rho, rankB form picot b k c))) mode
      (y, x.2.and f)) (cell, Fx.none)

/-- One row: its active columns updated. -/
def rankRow (cls : RankClass) (form : RankForm) (picot : Bool) (a b : Entry) (mode : RMode) (cols rho : Nat)
    (row : Row) : Row × Fx :=
  (List.range cols).foldl (fun x c =>
    let (y, f) := rankCell cls form picot a b row.tag mode rho c (x.1.cell c % 2 ^ tagWidth row.tag)
    ({ x.1 with cells := setCell x.1.cells c y }, x.2.and f)) (row, Fx.none)

/-- The rows of a set updated, with what they record. -/
def State.rankRows (s : State) (cls : RankClass) (form : RankForm) (picot : Bool) (a b : Entry)
    (rows : List Nat) : List (Nat × Row) × Fx :=
  rows.foldl (fun x rho =>
    let (r, f) := rankRow cls form picot a b s.ctx.rm s.ctx.cols rho (s.row rho)
    (x.1 ++ [(rho, r)], x.2.and f)) ([], Fx.none)

/-- An all-or-nothing Hoop form (R158): an enabled flag traps with nothing changed, else its rows are
written. -/
def hoopDone (s0 s : State) (rows : List (Nat × Row)) (fx : Fx) : M State :=
  if s0.ctx.enabled fx then .error (.late s0 cArith (fx.flags.zeroExtend 64))
  else .ok ((s.putRows rows).record fx)

/-- R160. -/
def rank (form : RankForm) (sel : BitVec 9) (a b : BitVec 6) (s : State) : Out :=
  finish s (do
    let rows ← s.regionRows sel false
    let (ea, s1) ← s.takeV a
    let (eb, s2) ← s1.takeV b
    let picot := sel.getLsbD 8
    let cls ← rankCheck (decide (s.pkg.mgmt.level = 2)) picot (decide (form = .scaled)) ea.tag eb.tag
    s.needRowTags rows (rankRowTag cls)
    s.needClean rows
    let (l, fx) := s.rankRows cls form picot ea eb rows
    hoopDone s s2 l fx)

def execHrank (sel : BitVec 9) (a b : BitVec 6) (s : State) : Out := rank .plain sel a b s
def execHranks (sel : BitVec 9) (a b : BitVec 6) (s : State) : Out := rank .negated sel a b s
def execHrankx (sel : BitVec 9) (a b : BitVec 6) (s : State) : Out := rank .scaled sel a b s

/-- R161: the name of group g's B entry. -/
def groupName (b g : Nat) : Nat :=
  if b < 48 then (b + g) % 48 else if b < 60 then 48 + (b - 48 + g) % 12 else b

/-- The remaining B entries of a grouped rank update, with the state after their pops. -/
def State.takeGroups (s : State) (b : Nat) : List Nat → M (List Entry × State)
  | [] => .ok ([], s)
  | g :: l => do
    let (e, s1) ← s.takeRef (s.ctx.vref (groupName b g))
    let (es, s2) ← s1.takeGroups b l
    .ok (e :: es, s2)

/-- What the groups leave, with the rows still to come. -/
structure GroupRun where
  base : Nat
  clipped : Nat
  skipped : Nat
  rows : List (Nat × Row)
  fx : Fx
  deriving DecidableEq, Repr

/-- R161 over the groups from g upward. -/
def State.groupRun (s : State) (cls : RankClass) (picot : Bool) (a d : Entry) (last : Nat) :
    List Entry → Nat → GroupRun → GroupRun
  | [], _, x => x
  | e :: l, g, x =>
    let n := elem 8 d.data (514 + 2 * g) + 256 * elem 8 d.data (515 + 2 * g)
    if n = 0 then s.groupRun cls picot a d last l (g + 1) { x with skipped := x.skipped + 1 }
    else
      let rows := (List.range (Nat.min n (last + 1 - x.base))).map (fun i => x.base + i)
      let (r, f) := s.rankRows cls .plain picot a e rows
      s.groupRun cls picot a d last l (g + 1)
        { x with base := x.base + n, clipped := x.clipped + (n - rows.length), rows := x.rows ++ r
                 fx := x.fx.and f }

/-- R162: the rank status word after a grouped update. -/
def rankStatusAfter (w : Word) (clipped skipped : Nat) : Word :=
  let w := setBits w 31 16 (Nat.min 0xFFFF (bits w 31 16 + clipped))
  let w := setBits w 15 8 (Nat.min 0xFF (bits w 15 8 + skipped))
  let w := if 0 < skipped then setBit w 1 true else w
  if 0 < clipped then setBit w 0 true else w

/-- R161. -/
def execHrankg (sel : BitVec 9) (a b : BitVec 6) (s : State) : Out :=
  finish s (do
    let rows ← s.regionRows sel false
    let (ea, s1) ← s.takeV a
    let (eb, s2) ← s1.takeV b
    let n := elem 8 eb.data 512 % 8 + 1
    let (es, s3) ← s2.takeGroups b.toNat ((List.range n).drop 1)
    let picot := sel.getLsbD 8
    let cls ← rankCheck (decide (s.pkg.mgmt.level = 2)) picot false ea.tag eb.tag
    match es.find? (fun e => !(match rankCheck false picot false ea.tag e.tag with | .ok _ => true | .error _ => false)) with
    | some e => tagTrap 1 e.tag
    | none =>
      s.needRowTags rows (rankRowTag cls)
      s.needClean rows
      match rows with
      | [] => .ok s3
      | first :: rest =>
        let last := rest.getLastD first
        let g := s.groupRun cls picot ea eb last (eb :: es) 0
          { base := first, clipped := 0, skipped := 0, rows := [], fx := Fx.none }
        let t ← hoopDone s s3 g.rows g.fx
        .ok { t with ctx := { t.ctx with rankStatus := rankStatusAfter t.ctx.rankStatus g.clipped g.skipped } })

/-- R175. -/
def execHdmap (sel : BitVec 9) (a : BitVec 6) (s : State) : Out :=
  match sel.toNat with
  | 0 => .next ({ s with ctx := { s.ctx with rankStatus := 0 } }.setGr a s.ctx.rankStatus)
  | 1 => .next (s.setGr a s.ctx.rankStatus)
  | 2 => .next (s.setGr a (s.hdirtyNow.extractLsb' 0 64))
  | 3 => .next (s.setGr a (s.hdirtyNow.extractLsb' 64 64))
  | _ => trapOut s cIllegalOpcode s.wordEval

/-! ### Slice moves (R163 to R166) -/

/-- The rows of a list of cells, each once, in the order they first appear. -/
def cellRows (l : List (Nat × Nat)) : List Nat := l.foldl (fun m c => insertNat c.1 m) []

/-- R163: the common tag of the rows a slice touches; none where they differ. -/
def State.commonTag (s : State) (rows : List Nat) : Option (BitVec 5) :=
  match rows with
  | [] => some 0
  | r :: l => if l.all (fun k => (s.row k).tag == (s.row r).tag) then some (s.row r).tag else none

def execHget (sel : BitVec 9) (d : BitVec 6) (s : State) : Out :=
  finish s (do
    let cells ← s.sliceCells sel
    let tag := (s.commonTag (cellRows cells)).getD tRAW
    let w := tagWidth tag
    let moved := cells.take (vlmax w)
    s.needClean (cellRows moved)
    let r := s.vref d
    s.checkRef r
    s.checkRoom r
    let data := (moved.foldl (fun x c => (setElem w x.1 x.2 ((s.row c.1).cell c.2 % 2 ^ w), x.2 + 1))
      (zeroData tag, 0)).1
    .ok (s.putRef r { tag := tag, data := data, poison := false }))

/-- R27 and R29: the cell layout of a tag: whole, half, or one narrow element. Rows of RAW and BIT have the layout of a
64-bit tag. DESIGN CHOICE, log 132. -/
def cellLayout (t : BitVec 5) : Nat := let w := tagWidth t; if w = 64 then 64 else if w = 32 then 32 else 0

/-- The rows that hold some of a slice's first elements, rewritten cell by cell. -/
def State.sliceWrite (s : State) (cells : List (Nat × Nat)) (tag : BitVec 5) (f : Nat → Nat → Nat × Fx) :
    List (Nat × Row) × Fx :=
  let all := (List.range cells.length).zip cells
  let out := (cellRows cells).map (fun r =>
    let mine := all.filter (fun c => decide (c.2.1 = r))
    let old := s.row r
    let (x, fx) := mine.foldl (fun (x : BitVec 4096 × Fx) c =>
      let (y, g) := f c.1 (old.cell c.2.2)
      (setCell x.1 c.2.2 y, x.2.and g)) (old.cells, Fx.none)
    ((r, ({ tag := tag, cells := x, poison := old.poison && decide (mine.length < 64) } : Row)), fx))
  (out.map (fun o => o.1), out.foldl (fun a o => a.and o.2) Fx.none)

/-- R164. The layout rule of R29 binds the rows that hold a written cell. DESIGN CHOICE, log 132. -/
def execHput (sel : BitVec 9) (a : BitVec 6) (s : State) : Out :=
  finish s (do
    let cells ← s.sliceCells sel
    let (ea, s1) ← s.takeV a
    let t := ea.tag
    needTag (t != tBIT && !tagReserved t) 0 t
    let w := tagWidth t
    let moved := cells.take (vlmax w)
    if (sliceRow sel).isNone then s.needRowTags (cellRows moved) (fun u => cellLayout u == cellLayout t)
    let (l, _) := s.sliceWrite moved t (fun i _ => (elem w ea.data i, Fx.none))
    .ok (s1.putRows l))

/-- The tags of rows that accumulate (R93). -/
def accTag (t : BitVec 5) : Bool := t == tF32 || t == tF64 || t == tI32 || t == tI64

/-- One addition into a cell of an accumulating tag (R93), of a value of its own family. -/
def hoopAdd (t : BitVec 5) (cell : Nat) (v : Val) (mode : RMode) : Nat × Fx :=
  let w := tagWidth t
  if isInt t then
    let (x, f) := hoopStepI w (intValue true w (cell % 2 ^ w)) [(v.num, 1)]
    (intCode w x, f)
  else hoopStepF t (cell % 2 ^ w) [(v, .fin false 1 1)] mode

/-- R166. -/
def execHacc (sel : BitVec 9) (a : BitVec 6) (s : State) : Out :=
  finish s (do
    let cells ← s.sliceCells sel
    let (ea, s1) ← s.takeV a
    let t := ea.tag
    needTag (accTag t) 0 t
    let w := tagWidth t
    let moved := cells.take (vlmax w)
    s.needRowTags (cellRows cells) (fun u => u == t)
    s.needClean (cellRows moved)
    let (l, fx) := s.sliceWrite moved t (fun i x => hoopAdd t x (valueOf t false (elem w ea.data i)).1 s.ctx.rm)
    hoopDone s s1 l fx)

/-! ### The epilogue (R157, R167 to R169) -/

/-- The rows below a fault written, with the fault's row: what a restartable run leaves. -/
structure RowRun where
  rows : List (Nat × Row)
  fx : Fx
  stop : Option (Nat × Nat × Word)   -- row, cause, EVAL
  deriving DecidableEq, Repr

/-- The rows in ascending order; a poisoned row that is read, or a row that records an enabled flag, ends
the run unwritten (R158, R356). -/
def rowLoop (s : State) (reads : Bool) (op : Nat → Row → Row × Fx) : List Nat → RowRun → RowRun
  | [], x => x
  | r :: l, x =>
    let row := s.row r
    if reads && row.poison then { x with stop := some (r, cPoison, poisonEval 1 r) }
    else
      let (y, f) := op r row
      if f.flags &&& s.ctx.enables ≠ 0 then { x with stop := some (r, cArith, f.flags.zeroExtend 64) }
      else rowLoop s reads op l { x with rows := x.rows ++ [(r, y)], fx := x.fx.and f }

/-- R157 and R158: a restartable form over its rows; `s0` is the state before it and `s` the one after its
source popped. -/
def restartable (s0 s : State) (rows : List Nat) (reads : Bool) (op : Nat → Row → Row × Fx) : M State :=
  let x := rowLoop s0 reads op rows { rows := [], fx := Fx.none, stop := none }
  match x.stop with
  | none => .ok (((s.putRows x.rows).record x.fx).setHcur 0)
  | some (r, c, e) =>
    let t := ((s0.putRows x.rows).record x.fx).setHcur r
    -- an enabled flag is recognised as the hold of R158 ends; poison where the row is read
    .error (if c = cArith then .late t c e else .row t c e)

/-- R165. -/
def execHzero (sel : BitVec 9) (tag : BitVec 5) (s : State) : Out :=
  finish s (do
    if tagReserved tag || (sel.getLsbD 8 && tag != tNarrow) then illegalWord s
    let rows ← s.restartRows sel false
    let z := zeroCode tag (sel.getLsbD 8)
    let cells := (List.range 64).foldl (fun d c => setCell d c z) (0 : BitVec 4096)
    restartable s s rows false (fun _ _ => ({ tag := tag, cells := cells, poison := false }, Fx.none)))

/-- One row, its active cells replaced by `f` of column and code, under a result tag. -/
def mapRow (cols : Nat) (tag : BitVec 5) (row : Row) (f : Nat → Nat → Nat × Fx) : Row × Fx :=
  let w := tagWidth row.tag
  let (x, fx) := (List.range cols).foldl (fun (x : BitVec 4096 × Fx) c =>
    let (y, g) := f c (row.cell c % 2 ^ w)
    (setCell x.1 c y, x.2.and g)) (row.cells, Fx.none)
  ({ row with tag := tag, cells := x }, fx)

/-- R167: the rows of an epilogue form share one tag that `ok` accepts; the lowest row whose tag `ok` refuses, or
that differs from the first row's, is the one at fault. -/
def State.epilogueTag (s : State) (rows : List Nat) (ok : BitVec 5 → Bool) : M (BitVec 5) :=
  match rows with
  | [] => .ok tF32
  | r :: _ => do
    s.needRowTags rows (fun t => ok t && t == (s.row r).tag)
    .ok (s.row r).tag

/-- R167: element i of a vector operand, exact; the zero code beyond its element count. -/
def operandVal (e : Entry) (i : Nat) : Val :=
  let w := tagWidth e.tag
  (valueOf e.tag false (if i < vlmax w then elem w e.data i else zeroCode e.tag false)).1

/-- The operand tag belongs to the rows' family (R167). -/
def familyTag (t u : BitVec 5) : Bool := if isInt t then isInt u else isIeee u

/-- An epilogue form with a vector operand: `okv` accepts the operand's tag beside the rows' tag, `dt`
gives the result tag, and `op` the new cell from the rows' tag, the operand, the row, the column and the
code. The rows' tags are checked before the operand's. DESIGN CHOICE, log 133. -/
def hepi (sel : BitVec 9) (a : BitVec 6) (ok : BitVec 5 → Bool) (okv : BitVec 5 → BitVec 5 → Bool)
    (dt : BitVec 5 → BitVec 5) (op : BitVec 5 → Entry → Nat → Nat → Nat → Nat × Fx) (s : State) : Out :=
  finish s (do
    let rows ← s.restartRows sel false
    let (ea, s1) ← s.takeV a
    let t ← s.epilogueTag rows ok
    if rows ≠ [] then needTag (okv t ea.tag) 0 ea.tag
    restartable s s1 rows true (fun r row => mapRow s.ctx.cols (dt t) row (fun c x => op t ea r c x)))

def execHbiasc (sel : BitVec 9) (a : BitVec 6) (s : State) : Out :=
  hepi sel a accTag familyTag id (fun t e _ c x => hoopAdd t x (operandVal e c) s.ctx.rm) s
def execHbiasr (sel : BitVec 9) (a : BitVec 6) (s : State) : Out :=
  hepi sel a accTag familyTag id (fun t e r _ x => hoopAdd t x (operandVal e r) s.ctx.rm) s

/-- A cell times an operand value: the exact product by R117, rounded once to a tag. -/
def scaledTo (dt t : BitVec 5) (picot : Bool) (x : Nat) (v : Val) (mode : RMode) (satinf : Bool) : Nat × Fx :=
  let u := (valueOf t false x).1
  match nanCase [u, v] with
  | some f => let (c, g) := roundTo dt picot (.nan false) mode satinf; (c, f.and g)
  | none =>
    let (p, f) := ieeeMul u v
    let (c, g) := roundTo dt picot p mode satinf
    (c, f.and g)

def execHscalc (sel : BitVec 9) (a : BitVec 6) (s : State) : Out :=
  hepi sel a accTag familyTag id (fun t e _ c x =>
    if isInt t then
      let w := tagWidth t
      let (y, f) := intSat true w (intValue true w x * (operandVal e c).num)
      (intCode w y, f)
    else scaledTo t t false x (operandVal e c) s.ctx.rm false) s

def execHnorm (sel : BitVec 9) (a : BitVec 6) (s : State) : Out :=
  hepi sel a (fun t => t == tF32 || t == tF64) (fun _ u => u == tF32) id
    (fun t e r _ x => scaledTo t t false x (operandVal e r) s.ctx.rm false) s

/-- R168: the target tags of `hrq`. -/
def hrqTag (t : BitVec 5) : Bool :=
  decide ((1 ≤ t.toNat ∧ t.toNat ≤ 5) ∨ (8 ≤ t.toNat ∧ t.toNat ≤ 0xD))

def execHrq (sel : BitVec 9) (a : BitVec 6) (tag : BitVec 5) (s : State) : Out :=
  if !hrqTag tag || (sel.getLsbD 8 && tag != tNarrow) then trapOut s cIllegalOpcode s.wordEval
  else
    hepi sel a accTag (fun _ u => u == tF32) (fun _ => tag)
      (fun t e _ c x => scaledTo tag t (sel.getLsbD 8) x (operandVal e c) s.ctx.rm s.ctx.satinf) s

/-- R167, `hclamp`, on one cell: the bounds compare by value, and a bound that replaces the cell is
converted into the rows' tag. -/
def clampCell (t : BitVec 5) (x : Nat) (lo hi : Val) (mode : RMode) : Nat × Fx :=
  let v := (valueOf t false x).1
  let conv (b : Val) : Nat × Fx :=
    if isInt t then (let (y, f) := intSat true (tagWidth t) b.num; (intCode (tagWidth t) y, f))
    else roundTo t false b mode false
  if v.isNan then (nanOf t, Fx.when v.isSig .nv)
  else
    let low := !lo.isNan && v.lt lo
    let u := if low then lo else v
    if !hi.isNan && hi.lt u then conv hi
    else if low then conv lo
    else (x, .none)

def execHclamp (sel : BitVec 9) (a : BitVec 6) (s : State) : Out :=
  hepi sel a accTag familyTag id (fun t e _ _ x => clampCell t x (operandVal e 0) (operandVal e 1) s.ctx.rm) s

/-- The tags of `hrelu`. -/
def reluTag (t : BitVec 5) : Bool := accTag t || t == tBF16 || t == tF16

def execHrelu (sel : BitVec 9) (s : State) : Out :=
  finish s (do
    let rows ← s.restartRows sel false
    let t ← s.epilogueTag rows reluTag
    restartable s s rows true (fun _ row => mapRow s.ctx.cols t row (fun _ x =>
      let v := (valueOf t false x).1
      (if !v.isNan && v.sign then 0 else x, Fx.none))))

/-- R169. An empty row set writes and pushes nothing. DESIGN CHOICE, log 134. -/
def execHsumsq (sel : BitVec 9) (d : BitVec 6) (s : State) : Out :=
  finish s (do
    let rows ← s.regionRows sel false
    if rows = [] then return s
    let t ← s.epilogueTag rows (fun t => t == tF32 || t == tF64)
    let w := tagWidth t
    let mine := rows.filter (fun r => decide (r < vlmax w))
    s.needClean mine
    let r := s.vref d
    s.checkRef r
    s.checkRoom r
    let (start, old) := match r with
      | .entry e => ((s.entry e).data, (s.entry e).poison)
      | .queue _ => (zeroData t, false)
    let (data, fx) := mine.foldl (fun (x : Lanes × Fx) rho =>
      let row := s.row rho
      let (v, f1) := sumVals false ((List.range s.ctx.cols).map (fun c =>
        let u := (valueOf t false (row.cell c % 2 ^ w)).1
        (stepProduct (u, u)).1)) false
      let (y, f2) := roundTo t false v s.ctx.rm false
      (setElem w x.1 rho y, x.2.and (f1.and f2))) (start, Fx.none)
    if s.ctx.enabled fx then .error (.late s cArith (fx.flags.zeroExtend 64))
    else .ok ((s.putRef r { tag := t, data := data, poison := old }).record fx))

/-! ### Special functions in place (R170) -/

/-- R170: every row's result is formed at issue and posted, to commit 16 core cycles later; the flags and
counts of the instruction go with it. -/
def hsfu (form : SfuForm) (sel : BitVec 9) (s : State) : Out :=
  finish s (do
    let rows ← s.regionRows sel false
    s.needRowTags rows sfuTag
    s.needClean rows
    let out := rows.map (fun r =>
      let row := s.row r
      (r, mapRow s.ctx.cols row.tag row (fun _ x => sfu form row.tag.toNat (tagFmt row.tag) x)))
    let fx := out.foldl (fun a o => a.and o.2.2) Fx.none
    let posts := out.map (fun o =>
      let first := decide (some o.1 = rows.head?)
      ({ kind := .hsfu o.1, at_ := s.now + 16, tag := o.2.1.tag, flags := fx.flags
         sat := if first then fx.sat else 0, und := if first then fx.und else 0
         data := o.2.1.cells.zeroExtend 8192, lmask := 0, amax := 0, codes := 0, poison := false } : Shadow))
    .ok { s with ctx := { s.ctx with live := s.ctx.live ++ posts } })

def execHexp2 (sel : BitVec 9) (s : State) : Out := hsfu .exp2 sel s
def execHrcp (sel : BitVec 9) (s : State) : Out := hsfu .rcp sel s
def execHtanh (sel : BitVec 9) (s : State) : Out := hsfu .tanh sel s
def execHrsq (sel : BitVec 9) (s : State) : Out := hsfu .rsq sel s

end Sys2Proof.Machine
end

