-- ==== Sys2Proof/Machine/Scalar.lean ====
section
/-! DEFINITION. Scalar memory access: loads and stores (R177 to R179), scoped loads and stores (R180),
atomics (R181, R182) and fences (R183). An access that its own die serves is done at its pair. One that
another die serves sends its request when its pair issues, and its answer is taken when the reply has been
delivered; where the pair cannot leave it behind, the pair issues again until then. -/

namespace Sys2Proof.Machine

/-- R176 and R177: the address must be a multiple of the size. -/
def aligned (va : Word) (size : Nat) : M Unit :=
  if va.toNat % size = 0 then .ok () else .error (.trap cMisaligned va)

/-- The translation of a control-core access (R346), and the home of its bytes. DEDUCED, log 29. -/
def State.reachScalar (s : State) (va : Word) (k : Acc) : M (Trans × Nat × State) :=
  match s.translate .l1 va.toNat k with
  | .error x => xstop va.toNat k x
  | .ok (t, s1) => .ok (t, (s1.pkg.homeOf t.pa).getD 0, s1)

/-- The same for an access that holds a fault window, whose translation and permission are checked within it
(R242). DEDUCED, log 29, 109. -/
def State.reachWindow (s : State) (va : Word) (k : Acc) : M (Trans × Nat × State) :=
  match s.translate .l1 va.toNat k with
  | .error x => xlate s va.toNat k 0 x
  | .ok (t, s1) => .ok (t, (s1.pkg.homeOf t.pa).getD 0, s1)

/-- R334 and R242: an access in its fault window that the memory type does not permit traps PERMISSION.
DEDUCED, log 29, 66. -/
def State.mtChecked (s : State) (ok : Bool) (va : Word) : M Unit := if ok then .ok () else .error (.late s cPermission va)

/-- R334: an access that the memory type does not permit traps PERMISSION. DEDUCED, log 66. -/
def mtAllows (ok : Bool) (va : Word) : M Unit := if ok then .ok () else .error (.trap cPermission va)

/-- The request of this pair that is under way. DESIGN CHOICE, log 73. -/
def State.underWay (s : State) (kind : PendKind) : Option Pending :=
  s.ctx.pending.find? (fun q => q.kind == kind && !q.issued)

/-- The request answered and done with. -/
def State.settle (s : State) (q : Pending) : State :=
  { s with ctx := { s.ctx with pending := s.ctx.pending.filter (fun x => x.tag != q.tag || x.kind == .dropped) } }

/-- A request sent to a home on another die: the pair waits for its reply. DESIGN CHOICE, log 73. -/
def State.request (s : State) (home : Nat) (payload : Payload) (q : Pending) : State :=
  { s with
    core := { s.core with nextId := s.core.nextId + 1 }
    ctx := { s.ctx with pending := s.ctx.pending ++ [q] }
    pkg := s.pkg.send s.core.die home s.coreNo s.ctx.bank s.ctx.taskh s.core.knotv false payload false false q.tag }

/-- The tag of the next request (R306). -/
def State.nextTag (s : State) : Nat := s.core.nextId % 256

/-- A release is done whose knowledge has still to arrive where its write goes: it is not made again.
DEDUCED, log 58. -/
def State.markReleased (s : State) (va pa size : Nat) : State :=
  let q : Pending :=
    { kind := .released, tag := s.nextTag, va := va, pa := pa, size := size, overlay := [], fill := none
      since := s.pkg.cyc, answer := none }
  { s with core := { s.core with nextId := s.core.nextId + 1 }
           ctx := { s.ctx with pending := s.ctx.pending ++ [q] } }

/-- Bytes of an answer with the buffered bytes laid over it: the size bytes at pa of what was asked for at
`q.pa`. -/
def Pending.bytes (q : Pending) (a : Answer) (pa size : Nat) : Nat :=
  let all := a.value / 256 ^ (pa - q.pa)
  (List.range size).foldl (fun x i =>
    x + (overByte q.overlay (pa + i) (BitVec.ofNat 8 (all / 256 ^ i))).toNat * 256 ^ i) 0

/-- The value a load of n bytes writes, sign- or zero-extended (R177). -/
def extended (signed : Bool) (size x : Nat) : Word :=
  if signed ∧ 2 ^ (8 * size - 1) ≤ x then word (x + (2 ^ 64 - 2 ^ (8 * size))) else word x

/-- R182 and R314: the EVAL of a remote error at a virtual address. DEDUCED, log 57. -/
def loadErrorEval (va : Word) (byte8 : Nat) : Word := word (va.toNat % 2 ^ 56 + byte8 / 16 % 16 * 2 ^ 56)

/-- ESTAT.APPLIED set to b (R182). -/
def State.setApplied (s : State) (b : Bool) : State :=
  { s with ctx := { s.ctx with estat := setBit s.ctx.estat 5 b } }

/-- The acquire of an access that has one (R180, R181). -/
def State.acquired (s : State) (scope : Option Nat) (raised : List (Nat × BitVec 12)) : State :=
  match scope with
  | some sc => s.acquire sc raised
  | none => s

/-- R280: an access acquires at package scope or wider, so that its reply carries the knots it raises. -/
def State.widely (s : State) (scope : Option Nat) : Bool := scope.any (fun sc => decide (5 ≤ s.mechanism sc))

/-- What the answer to a load comes to (R178, R182, R314, R356): an error or poison is recognised as its window closes,
or g[d] takes the value. DESIGN CHOICE, log 56. -/
def State.loaded (s : State) (q : Pending) (a : Answer) : M State :=
  let va := word q.va
  let pa := q.first
  let size := q.width
  if a.byte8 % 2 = 1 then .error (.late (s.setApplied false) cRemoteError (loadErrorEval va a.byte8))
  else if a.poison.any (fun w => decide (pa / 8 ≤ w ∧ w ≤ (pa + size - 1) / 8)
      && !coversWord (wholeBytes q.overlay) w) then
    .error (.late s cPoison va)
  else
    let t := match q.fill with
      | some tlb => if a.poison.isEmpty then s.cacheFill tlb pa (q.bytes a q.pa 64) else s
      | none => s
    .ok ((t.setGr (BitVec.ofNat 6 q.dest) (extended q.signed size (q.bytes a pa size))).acquired q.scope a.raised)

/-- A request of the running pair: where the pair can issue it is left behind, and its answer is taken when it
arrives; else the pair waits for it. DESIGN CHOICE, log 73. -/
def State.sendRequest (s : State) (home : Nat) (payload : Payload) (q : Pending) : M State :=
  if s.sync then .error (.waitIn (s.request home payload q) 7)
  else .ok (s.request home payload { q with issued := true })

/-- R177 to R180: a load of `size` bytes into g[d]; `acq` is the scope of an acquiring one.
DEDUCED, log 29, 109. DESIGN CHOICE, log 56, 73. -/
def scalarLoad (s : State) (d : BitVec 6) (va : Word) (size : Nat) (signed : Bool) (acq : Option Nat) : M State := do
  aligned va size
  match s.underWay .load with
  | some q =>
    match q.answer with
    | none => .error (.wait 7)
    | some a => (s.settle q).loaded q a
  | none =>
    let (t, home, s1) ← s.reachWindow va .read
    let mt := t.tlb.mt
    s.mtChecked (mt != 4 && (mt != 3 || acq.isNone)) va
    s.interlock va.toNat size false
    let cached := mt == 0 && isHbm t.pa && acq.isNone
    match (if cached then s1.cacheLine t.pa else none) with
    | some l => .ok (s1.setGr d (extended signed size ((l.data.toNat / 256 ^ (t.pa % 64)) % 256 ^ size)))
    | none =>
      let o := s1.pkg.overlay (clusterOf s.coreNo) t.pa size
      let line := t.pa / 64 * 64
      let all := s1.pkg.overlay (clusterOf s.coreNo) line 64
      if home = s.core.die then
        if s1.pkg.knows home s1.core.knotv = false then .error (.wait 7)
        let (x, bad, s2) := s1.readDirect t.pa size
        if bad then .error (.late s1 cPoison va)
        else
          let s3 := if cached && s2.pkg.readPoison all line 64 == false then
              (s2.observeBytes line 64).cacheFill t.tlb t.pa (overlaid s2.pkg.mem all line 64) else s2
          .ok ((s3.setGr d (extended signed size x)).acquired acq (s2.pkg.vOf home))
      else if (wholeBytes o).length = size then
        .ok (((s1.observeBytes t.pa size).setGr d (extended signed size (overlaid [] o t.pa size))).acquired acq [])
      else
        -- R307: a read is answered with its line; one of an I/O die's registers with what was asked for
        let from_ := if isIoRegion t.pa then t.pa else line
        let n := if isIoRegion t.pa then size else 64
        let seen := if cached then (line, 64) else (t.pa, size)
        let q : Pending :=
          { kind := .load, tag := s.nextTag, va := va.toNat, pa := from_, size := n
            overlay := if cached then all else o
            fill := if cached then some t.tlb else none, since := s.pkg.cyc, answer := none
            dest := d.toNat, first := t.pa, width := size, signed := signed, scope := acq }
        (s1.observeBytes seen.1 seen.2).sendRequest home (.readReq from_ n (s.widely acq)) q

/-- R51: the address of an LD or ST word: the offset counts accesses of the form's size. -/
def State.memAddr (s : State) (a : BitVec 6) (off : Imm 9) (size : Nat) : Word := s.gr a + wordI (immInt off * size)

def execLdb (d a : BitVec 6) (off : Imm 9) (s : State) : Out := finish s (scalarLoad s d (s.memAddr a off 1) 1 true none)
def execLdh (d a : BitVec 6) (off : Imm 9) (s : State) : Out := finish s (scalarLoad s d (s.memAddr a off 2) 2 true none)
def execLdw (d a : BitVec 6) (off : Imm 9) (s : State) : Out := finish s (scalarLoad s d (s.memAddr a off 4) 4 true none)
def execLdd (d a : BitVec 6) (off : Imm 9) (s : State) : Out := finish s (scalarLoad s d (s.memAddr a off 8) 8 false none)
def execLdbn (d a : BitVec 6) (off : Imm 9) (s : State) : Out := finish s (scalarLoad s d (s.memAddr a off 1) 1 false none)
def execLdhn (d a : BitVec 6) (off : Imm 9) (s : State) : Out := finish s (scalarLoad s d (s.memAddr a off 2) 2 false none)
def execLdwn (d a : BitVec 6) (off : Imm 9) (s : State) : Out := finish s (scalarLoad s d (s.memAddr a off 4) 4 false none)

/-- The scope that a store or atomic releases at: its own, and package scope at least where it writes a fault
answer, PANS (R348). -/
def answerRelease (pa : Nat) (rel : Option Nat) : Option Nat :=
  if pa / 8 * 8 = 0x020000010030 ∨ pa / 8 * 8 = 0x020080010030 then some (max 5 (rel.getD 0)) else rel

/-- R177: the low `size` bytes of x stored at va; R180: after a release where `rel` names a scope. A
release at die scope or wider sends its own write after what it drained (R277, R279). DEDUCED, log 29. -/
def scalarStore (s : State) (va : Word) (size : Nat) (x : Word) (rel : Option Nat) : M State := do
  aligned va size
  let (t, home, s1) ← s.reachWindow va .write
  s.mtChecked (t.tlb.mt != 4 && (t.tlb.mt != 3 || rel.isNone)) va
  s.interlock va.toNat size true
  let bytes := wordBytes t.pa size x.toNat
  match answerRelease t.pa rel with
  | none => .ok (s1.storeBytes bytes [] t.tlb.snap home none)
  | some scope => do
    let s2 ← s1.release scope
    if s2.mechanism scope < 3 ∨ home = s.core.die then .ok (s2.storeBytes bytes [] t.tlb.snap home none)
    else
      let s3 := s2.cacheStore bytes
      .ok { s3 with pkg := s3.pkg.send s.core.die home s.coreNo s.ctx.bank s.ctx.taskh s3.core.knotv false
                      (.write bytes [] false []) t.tlb.snap false 0 }

def execStb (d a : BitVec 6) (off : Imm 9) (s : State) : Out := finish s (scalarStore s (s.memAddr a off 1) 1 (s.gr d) none)
def execSth (d a : BitVec 6) (off : Imm 9) (s : State) : Out := finish s (scalarStore s (s.memAddr a off 2) 2 (s.gr d) none)
def execStw (d a : BitVec 6) (off : Imm 9) (s : State) : Out := finish s (scalarStore s (s.memAddr a off 4) 4 (s.gr d) none)
def execStd (d a : BitVec 6) (off : Imm 9) (s : State) : Out := finish s (scalarStore s (s.memAddr a off 8) 8 (s.gr d) none)

/-! ### Scoped loads and stores (R180) -/

def execLdacqb (d a : BitVec 6) (sc : BitVec 3) (s : State) : Out := finish s (scalarLoad s d (s.gr a) 1 false (some sc.toNat))
def execLdacqh (d a : BitVec 6) (sc : BitVec 3) (s : State) : Out := finish s (scalarLoad s d (s.gr a) 2 false (some sc.toNat))
def execLdacqw (d a : BitVec 6) (sc : BitVec 3) (s : State) : Out := finish s (scalarLoad s d (s.gr a) 4 false (some sc.toNat))
def execLdacqd (d a : BitVec 6) (sc : BitVec 3) (s : State) : Out := finish s (scalarLoad s d (s.gr a) 8 false (some sc.toNat))
def execStrelb (d a : BitVec 6) (sc : BitVec 3) (s : State) : Out := finish s (scalarStore s (s.gr a) 1 (s.gr d) (some sc.toNat))
def execStrelh (d a : BitVec 6) (sc : BitVec 3) (s : State) : Out := finish s (scalarStore s (s.gr a) 2 (s.gr d) (some sc.toNat))
def execStrelw (d a : BitVec 6) (sc : BitVec 3) (s : State) : Out := finish s (scalarStore s (s.gr a) 4 (s.gr d) (some sc.toNat))
def execStreld (d a : BitVec 6) (sc : BitVec 3) (s : State) : Out := finish s (scalarStore s (s.gr a) 8 (s.gr d) (some sc.toNat))

/-! ### Atomics (R181, R182) -/

/-- R181: the new value of an AMO by fn6[2:0]. -/
def amoValue (op : Nat) (old b : Word) : Word :=
  match op with
  | 0 => b
  | 1 => old + b
  | 2 => old &&& b
  | 3 => old ||| b
  | 4 => old ^^^ b
  | 5 => if old.slt b then b else old
  | 6 => if b.slt old then b else old
  | _ => if old.ult b then b else old

/-- R181 and R313: the doubleword that an atomic of operation `op` (8 for `cas`) leaves. -/
def atomicValue (op : Nat) (old b expected : Word) : Word :=
  if op = 8 then (if old = expected then b else old) else amoValue op old b

/-- R182: the poison mark. -/
def poisonMark : Word := 0x7FF8000000000BAD

/-- What the answer to an atomic comes to (R181, R182, R295): g[d] takes the old value; an error is noted for the pair
that issues next, with what was applied. DEDUCED, log 57. -/
def State.responded (s : State) (q : Pending) (x : Answer) : State :=
  let d : BitVec 6 := BitVec.ofNat 6 q.dest
  if x.byte8 % 2 = 1 then
    let applied := decide (x.byte8 / 2 % 2 = 1)
    let old := decide (x.byte8 / 4 % 2 = 1)
    let ev := word (q.va % 2 ^ 56 + (if old then 2 ^ 63 else 0))
    let s3 := if applied then s.setGr d (if old then word x.value else poisonMark) else s
    let s4 := if old then s3.acquired q.scope x.raised else s3
    { s4 with ctx := { s4.ctx with remoteError := some (d.toNat, ev, applied) } }
  else ((s.cacheStore (wordBytes q.pa 8 (atomicValue q.op (word x.value) q.operand q.expected).toNat)).setGr d
    (word x.value)).acquired q.scope x.raised

/-- R181 and R182: an atomic of operation `op` on the doubleword at g[a]. `scope` is none for the relaxed
forms. The strand's own buffered store to the doubleword leaves before it (R287). DEDUCED, log 57, 58. DESIGN CHOICE,
log 73. -/
def atomic (s : State) (d a b : BitVec 6) (op : Nat) (scope : Option Nat) : M State := do
  let va := s.gr a
  aligned va 8
  match s.underWay .atomic with
  | some q =>
    match q.answer with
    | none => .error (.wait 7)
    | some x => .ok ((s.settle q).responded q x)
  | none =>
    let (t, home, s1) ← s.reachWindow va .rmw
    s.mtChecked (t.tlb.mt != 4 && t.tlb.mt != 3) va
    s.interlock va.toNat 8 true
    if home = s.core.die ∧ s1.pkg.poisonedAt t.pa 8 = true then .error (.late s1 cPoison va)
    else
      let own := (s1.pkg.buffer (clusterOf s.coreNo)).any (fun e =>
        e.concerns s.coreNo s.ctx.bank && e.bytes.any (fun c => decide (t.pa ≤ c.1 ∧ c.1 < t.pa + 8)))
      let wanted := (answerRelease t.pa scope).getD 0
      let s2 ← s1.release (if own ∧ s.mechanism wanted < 3 then 3 else wanted)
      if home = s.core.die then
        if s2.pkg.knows home s2.core.knotv = false ∨ s2.buffered (wordBytes t.pa 8 0) = true then .error (.waitIn s2 7)
        let old := word (s2.pkg.readAt t.pa 8)
        let new := atomicValue op old (s.gr b) (s.gr d)
        let s3 := if op = 8 ∧ old ≠ s.gr d then s2
          else s2.storeBytes (wordBytes t.pa 8 new.toNat) [] t.tlb.snap home none
        .ok ((s3.setGr d old).acquired scope (s3.pkg.vOf home))
      else
        let q : Pending :=
          { kind := .atomic, tag := s.nextTag, va := va.toNat, pa := t.pa, size := 8, overlay := [], fill := none
            since := s.pkg.cyc, answer := none, dest := d.toNat, first := t.pa, scope := scope
            op := op, operand := s.gr b, expected := s.gr d }
        s2.sendRequest home (.atomic t.pa va.toNat op (s.gr b) (s.gr d) (s.mechanism wanted)) q

def execAmoswap (d a b : BitVec 6) (sc : BitVec 3) (s : State) : Out := finish s (atomic s d a b 0 (some sc.toNat))
def execAmoadd (d a b : BitVec 6) (sc : BitVec 3) (s : State) : Out := finish s (atomic s d a b 1 (some sc.toNat))
def execAmoand (d a b : BitVec 6) (sc : BitVec 3) (s : State) : Out := finish s (atomic s d a b 2 (some sc.toNat))
def execAmoor (d a b : BitVec 6) (sc : BitVec 3) (s : State) : Out := finish s (atomic s d a b 3 (some sc.toNat))
def execAmoxor (d a b : BitVec 6) (sc : BitVec 3) (s : State) : Out := finish s (atomic s d a b 4 (some sc.toNat))
def execAmomax (d a b : BitVec 6) (sc : BitVec 3) (s : State) : Out := finish s (atomic s d a b 5 (some sc.toNat))
def execAmomin (d a b : BitVec 6) (sc : BitVec 3) (s : State) : Out := finish s (atomic s d a b 6 (some sc.toNat))
def execAmomaxn (d a b : BitVec 6) (sc : BitVec 3) (s : State) : Out := finish s (atomic s d a b 7 (some sc.toNat))
def execAmorswap (d a b : BitVec 6) (_sc : BitVec 3) (s : State) : Out := finish s (atomic s d a b 0 none)
def execAmoradd (d a b : BitVec 6) (_sc : BitVec 3) (s : State) : Out := finish s (atomic s d a b 1 none)
def execAmorand (d a b : BitVec 6) (_sc : BitVec 3) (s : State) : Out := finish s (atomic s d a b 2 none)
def execAmoror (d a b : BitVec 6) (_sc : BitVec 3) (s : State) : Out := finish s (atomic s d a b 3 none)
def execAmorxor (d a b : BitVec 6) (_sc : BitVec 3) (s : State) : Out := finish s (atomic s d a b 4 none)
def execAmormax (d a b : BitVec 6) (_sc : BitVec 3) (s : State) : Out := finish s (atomic s d a b 5 none)
def execAmormin (d a b : BitVec 6) (_sc : BitVec 3) (s : State) : Out := finish s (atomic s d a b 6 none)
def execAmormaxn (d a b : BitVec 6) (_sc : BitVec 3) (s : State) : Out := finish s (atomic s d a b 7 none)
def execCas (d a b : BitVec 6) (sc : BitVec 3) (s : State) : Out := finish s (atomic s d a b 8 (some sc.toNat))

/-! ### Fences (R183, R294) -/

/-- R294: an acquiring fence takes the entries of its own die. DESIGN CHOICE, log 59. -/
def State.fenceAcquire (s : State) (scope : Nat) : State := s.acquire scope (s.pkg.vOf s.core.die)

/-- R294: a releasing fence is noted, and takes effect at once where its waits are over: the strand's later writes
wait for it in the forwarding buffer, and its later loads do not. DESIGN CHOICE, log 59. -/
def State.fenceRelease (s : State) (scope : Nat) : State :=
  let t := { s with ctx := { s.ctx with fences := s.ctx.fences ++ [s.mechanism scope] } }
  t.fenceGo t.ctx.fences.length

def execFenceAcq (sc : BitVec 3) (s : State) : Out := .next (s.fenceAcquire sc.toNat)
def execFenceRel (sc : BitVec 3) (s : State) : Out := .next (s.fenceRelease sc.toNat)
def execFenceAcqrel (sc : BitVec 3) (s : State) : Out := .next ((s.fenceRelease sc.toNat).fenceAcquire sc.toNat)

end Sys2Proof.Machine
end

