-- ==== Sys2Proof/Machine/VMem.lean ====
section
/-! DEFINITION. Vector memory: loads and stores with the conversions of MFC0 to MFC3 (R184 to R190), loads
with shape (R191 to R193) and tensor maps (R194 to R196). An access reaches the home of each element at once
when the home is ready for the strand, and its pair waits while it is not. -/

namespace Sys2Proof.Machine

/-! ### The conversion of an access (R40, R185, R187) -/

/-- An access's format: the register tag T, the memory tag MT and the fields of the selected MFC. -/
structure VFormat where
  t : BitVec 5
  mt : BitVec 5
  en : Bool
  satinf : Bool
  bscale : Bool
  soff : Int
  deriving DecidableEq, Repr

/-- R185: the format under an MFC word; `found` is the destination's tag for a load and the source's for a
store. -/
def vformat (f : Word) (found : BitVec 5) : VFormat :=
  let en := bit f 15
  let rtag := BitVec.ofNat 5 (bits f 9 5)
  let t := if en || rtag != 0 then rtag else found
  { t := t, mt := if en then BitVec.ofNat 5 (bits f 4 0) else t, en := en, satinf := bit f 14
    bscale := en && bit f 12, soff := (f.extractLsb' 16 48).toInt }

/-- R185: the tags one side accepts. -/
def vmemTag (en : Bool) (t : BitVec 5) : Bool :=
  isInt t || isIeee t || isFp8 t || t == tNarrow || isSlash t || (!en && t == tRAW)

/-- R185 and R187: the tag checks of a load or store; `plain` says the form is `vldu` or `vstu`, `shape`
that it is `vldtr`, and `basic` that it is one of the six forms that scale by blocks. The memory side is checked
before the register side, so that EN = 0 with a tag that neither accepts gives 0x400 + MT; and a tag 0x0A of EN = 0
is E2M1 memory (R188). DESIGN CHOICE, log 129. -/
def VFormat.check (f : VFormat) (plain shape basic : Bool) : M Unit := do
  if vmemTag f.en f.mt = false then .error (.trap cTagMismatch (word (0x400 + f.mt.toNat)))
  if f.bscale ∧ (basic = false ∨ narrowFloat f.mt = false ∨ isIeee f.t = false) then
    .error (.trap cTagMismatch (word (0x400 + f.mt.toNat)))
  if vmemTag f.en f.t = false then .error (.trap cTagMismatch (word (0x500 + f.t.toNat)))
  if f.mt = tNarrow ∧ plain = false ∧ shape = false then .error (.trap cTagMismatch 0x40A)

/-- The zero of the register side: E2M1's under tag 0x0A where the access converts, else what the tag allows (R95).
DESIGN CHOICE, log 12. -/
def VFormat.zero (f : VFormat) : Nat := if f.en then zeroCode f.t false else zeroOf f.t

/-- The bits of a memory element: 4 for E2M1 (R188). -/
def VFormat.mbits (f : VFormat) : Nat := if f.mt = tNarrow then 4 else tagWidth f.mt

/-- The bits of a register element as the access counts it: a nibble under tag 0x0A (R185, R188).
DEDUCED, log 53, 61. -/
def VFormat.rbits (f : VFormat) : Nat := if f.t = tNarrow then 4 else tagWidth f.t

/-- R185: the number of elements an access moves. DEDUCED, log 61. -/
def State.moved (s : State) (f : VFormat) : Nat :=
  if f.t = tNarrow then 2 * Nat.min s.ctx.vln 1024 else s.count (tagWidth f.t)

/-- The predicate bit that governs element i under MK (R188). -/
def State.vmasked (s : State) (mk : BitVec 1) (f : VFormat) (i : Nat) : Bool :=
  mk == 0 || s.ctx.p[7].getLsbD (if f.t = tNarrow then i / 2 else i)

/-! ### Element faults -/

/-- Why an element is not moved. -/
inductive EFault where
  | x (va : Nat) (f : XFault)
  | trap (cause : Nat) (eval : Word)
  deriving DecidableEq, Repr

/-- R189: an element fault on the state that the elements below it leave. -/
def EFault.raise {α : Type} (t : State) (k : Acc) : EFault → M α
  | .x va f => xlate t va k 1 f
  | .trap c e => .error (.late (if c = cRemoteError then t.setApplied false else t) c e)

/-- What an access needs of one address: a translation that the memory type permits (R334), no live copy
over the bytes (R204), and a ready home; a read of a removed die draws code 3 (R314, R315). -/
def State.vreach (s : State) (va n : Nat) (k : Acc) : Except EFault (Trans × State) :=
  match s.translate .gather (va % 2 ^ 64) k with
  | .error f => .error (.x (va % 2 ^ 64) f)
  | .ok (t, s1) =>
    if t.tlb.mt = 2 ∨ t.tlb.mt = 4 then .error (.trap cPermission (word va))
    else if s.interlocked va n (k == .write) then .error (.x va .wait)
    else
      match s1.pkg.homeOf t.pa with
      | none => .error (.trap cPermission (word va))
      | some h =>
        if k = .read ∧ s1.pkg.removed h = true then .error (.trap cRemoteError (loadErrorEval (word va) 0x30))
        else if k = .write then .ok (t, s1)
        else if s1.pkg.homeReady s.core.die h s.core.knotv = true then .ok (t, s1.trip h)
        else .error (.x va .wait)

/-- n bytes read for an element or a row; poison is an element fault (R356), and so is an error that the host answers
with (R314, R412). -/
def State.vread (s : State) (va n : Nat) : Except EFault (Nat × State) :=
  match s.vreach va n .read with
  | .error f => .error f
  | .ok (t, s1) =>
    let (c, s1) := s1.completion t.pa
    let (x, bad, s2) := s1.readDirect t.pa n 21
    if c = 1 then .error (.trap cRemoteError (loadErrorEval (word va) 0x50))
    else if bad ∨ c = 2 then .error (.trap cPoison (word va))
    else .ok (x, s2)

/-! ### Loads (R186 to R191) -/

/-- The address of a memory element and the half of the byte it takes, 2 for whole bytes. -/
abbrev Place := Nat × Nat

/-- A load or store as far as it has come. -/
structure VRun where
  s : State
  data : Lanes
  fx : Fx
  scales : List (Nat × Nat)     -- block, scale code
  deriving DecidableEq, Repr

/-- R186: a code that moves as it is: one of an unconverted access, or an FP8 infinity under two equal tags, between
which a conversion is exact whatever SATINF says. DEDUCED, log 122. -/
def VFormat.moves (f : VFormat) (m : Nat) : Bool :=
  !f.en || (f.t == f.mt && !f.bscale && isFp8 f.t && (match (valueOf f.mt false m).1 with
    | .inf _ => true
    | _ => false))

/-- R186: a memory code converted to the register format. -/
def VFormat.toReg (f : VFormat) (mode : RMode) (m : Nat) (scale : Nat) : Nat × Fx :=
  if f.moves m then (m, .none)
  else
    let (v, f1) := valueOf f.mt false m
    let v := if f.bscale then mxValue v scale else v
    let (x, f2) := roundTo f.t false v mode f.satinf
    (x, f1.and f2)

/-- R187: the scale code of element i's block, read where it is not known yet. -/
def VRun.scale (r : VRun) (f : VFormat) (ea : Nat) (i : Nat) : Except EFault (Nat × VRun) :=
  if f.bscale = false then .ok (0, r)
  else
    match assoc (i / 32) r.scales with
    | some x => .ok (x, r)
    | none =>
      let va := (wordI ((ea : Int) + f.soff + ((i / 32 : Nat) : Int))).toNat
      match r.s.vread va 1 with
      | .error e => .error e
      | .ok (x, s) => .ok (x, { r with s := s, scales := (i / 32, x) :: r.scales })

/-- One element loaded: its register code and its flags. -/
def VRun.loadOne (r : VRun) (f : VFormat) (ea : Nat) (place : Nat → Place) (i : Nat) :
    Except EFault (Nat × Fx × VRun) :=
  match r.scale f ea i with
  | .error e => .error e
  | .ok (x, r) =>
    let (va, half) := place i
    let n := if half = 2 then f.mbits / 8 else 1
    if va % n ≠ 0 then .error (.trap cMisaligned (word va))
    else
      match r.s.vread va n with
      | .error e => .error e
      | .ok (b, s) =>
        let m := if half = 2 then b else b / 16 ^ half % 16
        let (c, fx) := f.toReg r.s.ctx.rm m x
        .ok (c, fx, { r with s := s })

/-- Elements i, i + 1, … loaded in ascending order until one faults (R189). DEDUCED, log 61. -/
def loadLoop (f : VFormat) (ea : Nat) (act : Nat → Bool) (place : Nat → Place) (en : BitVec 6) :
    Nat → Nat → VRun → VRun × Option (Nat × EFault)
  | 0, _, r => (r, none)
  | fuel + 1, i, r =>
    if act i then
      match r.loadOne f ea place i with
      | .error e => (r, some (i, e))
      | .ok (c, fx, r2) =>
        if fx.flags &&& en ≠ 0 then (r, some (i, .trap cArith (fx.flags.zeroExtend 64)))
        else loadLoop f ea act place en fuel (i + 1)
          { r2 with data := setElem f.rbits r2.data i c, fx := r2.fx.and fx }
    else loadLoop f ea act place en fuel (i + 1) r

/-- A load into v[d]: `s` is the state after an index entry popped, `n` the element count. An element fault
leaves the elements below it done; into a queue port it leaves nothing pushed or popped. DEDUCED, log 20. -/
def loadInto (s0 s : State) (d : BitVec 6) (f : VFormat) (ea n : Nat) (mk : BitVec 1) (place : Nat → Place) :
    M State := do
  let r := s.vref d
  s.checkRef r
  s.checkRoom r
  let i := s.ctx.vsn
  let (start, old) := match r with
    | .entry e => ((s.entry e).data, (s.entry e).poison)
    | .queue _ => (filled f.t f.zero, false)
  let n := s.ctx.upTo n
  let (run, stop) := loadLoop f ea (s.vmasked mk f) place s.ctx.enables (n - i) i
    { s := s, data := start, fx := .none, scales := [] }
  let full := decide (i = 0) && mk == 0 && decide (n * f.rbits = 8192)
  let v : Entry := { tag := f.t, data := run.data, poison := old && !full }
  match stop with
  | none => .ok (((run.s.putRef r v).record run.fx).setVs 0)
  | some (k, e) =>
    let base := match r with
      | .entry q => run.s.setEntry q v
      | .queue _ => { s0 with core := { s0.core with gather := run.s.core.gather }, pkg := run.s.pkg }
    e.raise ((base.record run.fx).setVs k) .read

/-- The tag R185 starts from for a load: the destination's, or RAW for a queue port. -/
def State.loadTag (s : State) (d : BitVec 6) : BitVec 5 :=
  match s.vref d with
  | .entry e => (s.entry e).tag
  | .queue _ => tRAW

/-- Element i of consecutive memory (R188). -/
def unitPlace (ea mbits i : Nat) : Place :=
  if mbits = 4 then ((ea + i / 2) % 2 ^ 64, i % 2) else ((ea + i * (mbits / 8)) % 2 ^ 64, 2)

/-- Element i at a byte distance from the base (R188). -/
def atOffset (ea : Nat) (off : Int) : Place := ((wordI ((ea : Int) + off)).toNat, 2)

/-- The selected MFC. -/
def Ctx.mfcWord (c : Ctx) (m : BitVec 2) : Word := c.mfc[m.toNat]'m.isLt

def execVldu (d a : BitVec 6) (mk : BitVec 1) (m : BitVec 2) (s : State) : Out :=
  finish s (do
    let f := vformat (s.ctx.mfcWord m) (s.loadTag d)
    let n := s.moved f
    if n ≤ s.ctx.vsn then return s.setVs 0
    f.check true false true
    let ea := (s.gr a).toNat
    loadInto s s d f ea n mk (unitPlace ea f.mbits))

def execVlds (d a b : BitVec 6) (mk : BitVec 1) (m : BitVec 2) (s : State) : Out :=
  finish s (do
    let f := vformat (s.ctx.mfcWord m) (s.loadTag d)
    let n := s.moved f
    if n ≤ s.ctx.vsn then return s.setVs 0
    f.check false false true
    let ea := (s.gr a).toNat
    loadInto s s d f ea n mk (fun i => atOffset ea ((i : Int) * (s.gr b).toInt)))

/-- R188: the index entry of `vldx` and `vstx`, and the count it limits. -/
def State.indexed (s : State) (b : BitVec 6) (n : Nat) : M (Entry × Nat × State) := do
  let (e, s1) ← s.takeV b
  if isInt e.tag = false then .error (.trap cTagMismatch (word (0x100 + e.tag.toNat)))
  .ok (e, Nat.min n (vlmax (tagWidth e.tag)), s1)

/-- Index element i, by its own tag. -/
def indexOf (e : Entry) (i : Nat) : Int :=
  intValue (tagSigned e.tag) (tagWidth e.tag) (elem (tagWidth e.tag) e.data i)

def execVldx (d a b : BitVec 6) (mk : BitVec 1) (m : BitVec 2) (s : State) : Out :=
  finish s (do
    let f := vformat (s.ctx.mfcWord m) (s.loadTag d)
    let n := s.moved f
    if n ≤ s.ctx.vsn then return s.setVs 0
    f.check false false true
    let (ix, n, s1) ← s.indexed b n
    if n ≤ s.ctx.vsn then return s.setVs 0
    let ea := (s.gr a).toNat
    loadInto s s1 d f ea n mk (fun i => atOffset ea (indexOf ix i)))

/-- R191: the transposing load. -/
def execVldtr (d a b : BitVec 6) (mk : BitVec 1) (m : BitVec 2) (s : State) : Out :=
  finish s (do
    let f := vformat (s.ctx.mfcWord m) (s.loadTag d)
    let n := s.moved f
    if n ≤ s.ctx.vsn then return s.setVs 0
    f.check false true false
    let ea := (s.gr a).toNat
    let nr := bits (s.gr b) 39 32 + 1
    let pitch := bits (s.gr b) 31 0
    loadInto s s d f ea n mk (fun j => unitPlace (ea + j % nr * pitch) f.mbits (j / nr)))

/-! ### Stores (R186 to R189) -/

/-- A store's bytes in the order they perform: address, byte, and the half that is written (2 for both),
with the snapshot bit and the home of each. -/
structure Piece where
  pa : Nat
  byte : Nat
  half : Nat
  snap : Bool
  home : Nat
  deriving DecidableEq, Repr

/-- The bytes of one element. -/
def pieces (t : Trans) (home half n x : Nat) : List Piece :=
  if half = 2 then (wordBytes t.pa n x).map (fun b =>
    { pa := b.1, byte := b.2.toNat, half := 2, snap := t.tlb.snap, home := home })
  else [{ pa := t.pa, byte := x * 16 ^ half, half := half, snap := t.tlb.snap, home := home }]

/-- R186: the maximum of a block's magnitudes: each active element of the block under T. -/
def blockMax (f : VFormat) (src : Lanes) (act : Nat → Bool) (n b : Nat) : Val :=
  ((List.range 32).map (fun k => 32 * b + k)).foldl (fun m i =>
    if i < n ∧ act i = true then maxVal m ((valueOf f.t false (elem f.rbits src i)).1.abs) else m) (.fin false 0 1)

/-- The lowest active element of element i's block. -/
def blockFirst (act : Nat → Bool) (n i : Nat) : Nat :=
  (((List.range 32).map (fun k => i / 32 * 32 + k)).find? (fun k => decide (k < n) && act k)).getD i

/-- A store as far as it has come: the pieces in reverse order. -/
structure SRun where
  s : State
  out : List Piece
  fx : Fx
  done : List Nat               -- blocks whose scale byte is placed
  deriving DecidableEq, Repr

/-- The scale code and the flags that fall on element i (R186, R187). -/
def VFormat.blockScale (f : VFormat) (src : Lanes) (act : Nat → Bool) (n i : Nat) : Nat × Fx :=
  if f.bscale then
    let (x, fx) := mxScale (blockMax f src act n (i / 32)) (emax f.mt.toNat)
    (x, if blockFirst act n i = i then fx else .none)
  else (0, .none)

/-- R186: a register code converted to the memory format. -/
def VFormat.toMem (f : VFormat) (mode : RMode) (c x : Nat) : Nat × Fx :=
  if f.moves c then (c, .none)
  else
    let (v, f1) := valueOf f.t false c
    let (m, f2) := if f.bscale then mxQuant f.mt false v x f.satinf else roundTo f.mt false v mode f.satinf
    (m, f1.and f2)

/-- The scale byte of element i's block, where this execution has still to write it: a store that resumes inside a
block writes it again. DESIGN CHOICE, log 130. -/
def SRun.scaleByte (r : SRun) (f : VFormat) (ea i x : Nat) : Except EFault SRun :=
  if f.bscale = false ∨ r.done.contains (i / 32) = true then .ok r
  else
    let va := (wordI ((ea : Int) + f.soff + ((i / 32 : Nat) : Int))).toNat
    match r.s.vreach va 1 .write with
    | .error e => .error e
    | .ok (t, s) =>
      .ok { r with s := s, done := (i / 32) :: r.done
                   out := pieces t ((s.pkg.homeOf t.pa).getD 0) 2 1 x ++ r.out }

/-- Elements i, i + 1, … translated and converted in ascending order until one faults. DEDUCED, log 61. -/
def storeLoop (f : VFormat) (ea : Nat) (src : Lanes) (count : Nat) (act : Nat → Bool) (place : Nat → Place)
    (en : BitVec 6) : Nat → Nat → SRun → SRun × Option (Nat × EFault)
  | 0, _, r => (r, none)
  | fuel + 1, i, r =>
    if act i then
      let (x, fs) := f.blockScale src act count i
      match r.scaleByte f ea i x with
      | .error e => (r, some (i, e))
      | .ok r1 =>
        let (va, half) := place i
        let n := if half = 2 then f.mbits / 8 else 1
        if va % n ≠ 0 then (r, some (i, .trap cMisaligned (word va)))
        else
          match r1.s.vreach va n .write with
          | .error e => (r, some (i, e))
          | .ok (t, s) =>
            let (c, fm) := f.toMem s.ctx.rm (elem f.rbits src i) x
            let fx := fs.and fm
            if fx.flags &&& en ≠ 0 then (r, some (i, .trap cArith (fx.flags.zeroExtend 64)))
            else storeLoop f ea src count act place en fuel (i + 1)
              { r1 with s := s, fx := r1.fx.and fx
                        out := (pieces t ((s.pkg.homeOf t.pa).getD 0) half n c).reverse ++ r1.out }
    else storeLoop f ea src count act place en fuel (i + 1) r

/-- Consecutive pieces of one line gathered into one write. -/
def groupPieces : List Piece → List (List Piece)
  | [] => []
  | p :: r =>
    match groupPieces r with
    | (q :: g) :: l => if q.pa / 64 = p.pa / 64 ∧ q.snap = p.snap then (p :: q :: g) :: l else [p] :: (q :: g) :: l
    | l => [p] :: l

/-- The bits of its byte that a piece writes (R288). -/
def Piece.mask (p : Piece) : Byte := if p.half = 2 then 0xFF else if p.half = 0 then 0x0F else 0xF0

/-- The bytes that pieces of one line write; a byte of which only one half is written holds zero in the other. -/
def pieceBytes (l : List Piece) : List (Nat × Byte) :=
  l.foldl (fun b p =>
    assocSet p.pa ((((assoc p.pa b).getD 0) &&& ~~~p.mask) ||| (BitVec.ofNat 8 p.byte &&& p.mask)) b) []

/-- The bytes of which only one half is written, each with that half (R288). -/
def pieceMasks (l : List Piece) : List (Nat × Byte) :=
  (l.foldl (fun b p => assocSet p.pa (((assoc p.pa b).getD 0) ||| p.mask) b) []).filter (fun b => b.2 != 0xFF)

/-- R189, R296 and R312: the pieces perform in order. A store with UO = 0 on several homes is an ordered
store, and the pieces of one with UO = 1 leave the forwarding buffer in any order. DEDUCED, log 60. -/
def State.perform (s : State) (l : List Piece) (ordered : Bool) : State :=
  let homes := l.any (fun p => l.any (fun q => q.home != p.home))
  let id := s.core.nextId
  let multi := ordered && homes
  let s := if multi || !ordered then { s with core := { s.core with nextId := id + 1 } } else s
  (groupPieces l).foldl (fun s g =>
    match g with
    | [] => s
    | p :: _ => s.storeBytes (pieceBytes g) [] p.snap p.home (if multi then some (id % 256) else none) (pieceMasks g)
        (if ordered then none else some id)) s

/-- A store of `src`: `s` is the state after the queue sources popped. -/
def storeFrom (s0 s : State) (f : VFormat) (src : Entry) (ea n : Nat) (mk : BitVec 1) (uo : BitVec 1)
    (place : Nat → Place) : M State := do
  let i := s.ctx.vsn
  let (run, stop) := storeLoop f ea src.data n (s.vmasked mk f) place s.ctx.enables (s.ctx.upTo n - i) i
    { s := s, out := [], fx := .none, done := [] }
  let t := (run.s.perform run.out.reverse (uo == 0)).record run.fx
  match stop with
  | none => .ok (t.setVs 0)
  | some (_, .x va .wait) => (EFault.x va .wait).raise s0 .write
  | some (k, e) =>
    e.raise ({ t with core := { t.core with queues := s0.core.queues } }.setVs k) .write

/-- R185: the source of a store, its format, and the count. -/
def State.storeSource (s : State) (d : BitVec 6) (m : BitVec 2) (plain : Bool) :
    M (Option (Entry × VFormat × Nat × State)) := do
  let found := s.tagOf (s.vref d)
  let f := vformat (s.ctx.mfcWord m) found
  let n := s.moved f
  if n ≤ s.ctx.vsn then return none
  let (e, s1) ← s.takeV d
  if f.en ∧ e.tag ≠ f.t then .error (.trap cTagMismatch (word (0x200 + e.tag.toNat)))
  f.check plain false true
  return some (e, f, n, s1)

def execVstu (d a : BitVec 6) (mk : BitVec 1) (m : BitVec 2) (uo : BitVec 1) (s : State) : Out :=
  finish s (do
    match ← s.storeSource d m true with
    | none => return s.setVs 0
    | some (e, f, n, s1) =>
      let ea := (s.gr a).toNat
      storeFrom s s1 f e ea n mk uo (unitPlace ea f.mbits))

def execVsts (d a b : BitVec 6) (mk : BitVec 1) (m : BitVec 2) (uo : BitVec 1) (s : State) : Out :=
  finish s (do
    match ← s.storeSource d m false with
    | none => return s.setVs 0
    | some (e, f, n, s1) =>
      let ea := (s.gr a).toNat
      storeFrom s s1 f e ea n mk uo (fun i => atOffset ea ((i : Int) * (s.gr b).toInt)))

def execVstx (d a b : BitVec 6) (mk : BitVec 1) (m : BitVec 2) (uo : BitVec 1) (s : State) : Out :=
  finish s (do
    match ← s.storeSource d m false with
    | none => return s.setVs 0
    | some (e, f, n, s1) => do
      let (ix, n, s2) ← s1.indexed b n
      if n ≤ s.ctx.vsn then return s.setVs 0
      let ea := (s.gr a).toNat
      storeFrom s s2 f e ea n mk uo (fun i => atOffset ea (indexOf ix i)))

/-! ### The sliding window (R192) -/

/-- The bits of a window element: one byte under tag 0x0A. -/
def VFormat.wbits (f : VFormat) : Nat := tagWidth f.t

/-- The memory elements of window element j, converted: one, or the two nibbles of a byte of tag 0x0A. -/
def VRun.window (r : VRun) (f : VFormat) (ea j : Nat) : Except EFault (Nat × Fx × VRun) :=
  if f.t = tNarrow then
    match r.loadOne f ea (unitPlace ea f.mbits) (2 * j) with
    | .error e => .error e
    | .ok (x, fx, r1) =>
      match r1.loadOne f ea (unitPlace ea f.mbits) (2 * j + 1) with
      | .error e => .error e
      | .ok (y, fy, r2) => .ok (x + 16 * y, fx.and fy, r2)
  else r.loadOne f ea (unitPlace ea f.mbits) j

/-- The vacated tail of the window: its elements as a list, or the first fault. -/
def windowLoop (f : VFormat) (ea : Nat) (act : Nat → Bool) (en : BitVec 6) :
    Nat → Nat → VRun → Except EFault (List Nat × VRun)
  | 0, _, r => .ok ([], r)
  | fuel + 1, j, r =>
    if act j then
      match r.window f ea j with
      | .error e => .error e
      | .ok (x, fx, r1) =>
        if fx.flags &&& en ≠ 0 then .error (.trap cArith (fx.flags.zeroExtend 64))
        else
          match windowLoop f ea act en fuel (j + 1) { r1 with fx := r1.fx.and fx } with
          | .error e => .error e
          | .ok (l, r2) => .ok (x :: l, r2)
    else
      match windowLoop f ea act en fuel (j + 1) r with
      | .error e => .error e
      | .ok (l, r2) => .ok ((if f.t = tNarrow ∧ f.en = true then 0 else zeroOf f.t) :: l, r2)

/-- Entries checked and read as the old window; poison in one of them is consumed (R356). -/
def State.windowEntries (s : State) : List Nat → M (List Entry)
  | [] => .ok []
  | e :: r => do
    s.checkRef (.entry e)
    let l ← s.windowEntries r
    .ok (s.entry e :: l)

/-- R192. DEDUCED, log 19, 64. -/
def execVldwin (d a b : BitVec 6) (mk : BitVec 1) (mf : BitVec 2) (s : State) : Out :=
  finish s (do
    let m := bits (s.gr b) 18 16 + 1
    if 48 < d.toNat + m then .error (.trap cPermission (word (0x40000 + d.toNat)))
    let names := (List.range m).map (fun k => (bits s.ctx.vwb 7 0 + d.toNat + k) % 240)
    let group ← s.windowEntries names
    let f := vformat (s.ctx.mfcWord mf) ((group.headD Entry.zero).tag)
    f.check false false false
    let w := f.wbits
    let per := vlmax w
    let total := m * per
    let sl := Nat.min (bits (s.gr b) 12 0) total
    if sl = 0 then
      match group.find? (fun e => e.tag != f.t) with
      | some e => .error (.trap cTagMismatch (word (0x200 + e.tag.toNat)))
      | none => return s
    if sl < total then
      match group.find? (fun e => e.tag != f.t) with
      | some e => .error (.trap cTagMismatch (word (0x200 + e.tag.toNat)))
      | none =>
        match names.find? (fun e => (s.entry e).poison) with
        | some e => .error (.trap cPoison (poisonEval 0 e))
        | none => pure ()
    let ea := (s.gr a).toNat
    let act (j : Nat) : Bool := mk == 0 || s.ctx.p[7].getLsbD j
    match windowLoop f ea act s.ctx.enables sl 0 { s := s, data := 0, fx := .none, scales := [] } with
    | .error e => e.raise (s.setVs 0) .read
    | .ok (tail, r) =>
      let old (i : Nat) : Nat := elem w ((group.getD (i / per) Entry.zero).data) (i % per)
      let new (i : Nat) : Nat := if i < total - sl then old (i + sl) else tail.getD (i - (total - sl)) 0
      let t := (List.range m).foldl (fun t k =>
        let data := (List.range per).foldl (fun (dd : Lanes) i => setElem w dd i (new (k * per + i)))
          ((group.getD k Entry.zero).data)
        t.setEntry (names.getD k 0) { tag := f.t, data := data, poison := false }) r.s
      .ok (t.record r.fx))

/-! ### Zero-mask streams (R193, R353) -/

/-- Bytes of the stream from ea on, an 8-byte word at a time, as far as byte `upto`; `have_` holds the bytes
read so far. -/
def streamTo (ea upto : Nat) : Nat → List Nat × State → Except EFault (List Nat × State)
  | 0, x => .ok x
  | fuel + 1, (got, s) =>
    if upto ≤ got.length then .ok (got, s)
    else
      match s.vread ((ea + got.length) % 2 ^ 64) 8 with
      | .error e => .error e
      | .ok (v, s1) =>
        streamTo ea upto fuel (got ++ (List.range 8).map (fun i => v / 256 ^ i % 256), s1)

/-- A little-endian number of bytes of the stream. -/
def streamValue (got : List Nat) (at_ n : Nat) : Nat :=
  ((got.drop at_).take n).foldr (fun b x => b + 256 * x) 0

/-- The positions of the set bits of a mask, ascending. -/
def setBitsOf (m : Nat) : List Nat := (List.range 64).filter (fun j => decide (m / 2 ^ j % 2 = 1))

/-- R193: blocks b, b + 1, … expanded: the elements they give, and the bytes consumed. DEDUCED, log 65. -/
def expandLoop (ea w : Nat) : Nat → Nat → Nat × List Nat × List (Nat × Nat) × State →
    Except EFault (Nat × List Nat × List (Nat × Nat) × State)
  | 0, _, x => .ok x
  | fuel + 1, b, (used, got, out, s) =>
    match streamTo ea (used + 8) 2 (got, s) with
    | .error e => .error e
    | .ok (got, s) =>
      let sel := setBitsOf (streamValue got used 8)
      let size := (8 + sel.length * (w / 8) + 7) / 8 * 8
      match streamTo ea (used + size) 65 (got, s) with
      | .error e => .error e
      | .ok (got, s) =>
        let el := (List.range sel.length).map (fun k =>
          (64 * b + sel.getD k 0, streamValue got (used + 8 + k * (w / 8)) (w / 8)))
        expandLoop ea w fuel (b + 1) (used + size, got, out ++ el, s)

/-- R193. A tag that the form does not take gives 0x500 + T. DEDUCED, log 19, 65. DESIGN CHOICE, log 129. -/
def execVldz (d a b : BitVec 6) (mf : BitVec 2) (s : State) : Out :=
  finish s (do
    let fw := s.ctx.mfcWord mf
    if bit fw 15 then .error (.trap cTagMismatch (word (0x400 + bits fw 4 0)))
    let f := vformat fw (s.loadTag d)
    if vmemTag false f.t = false then .error (.trap cTagMismatch (word (0x500 + f.t.toNat)))
    let va := s.gr a
    aligned va 8
    let r := s.vref d
    s.checkRef r
    s.checkRoom r
    let w := tagWidth f.t
    let n := s.count w
    match expandLoop va.toNat w ((n + 63) / 64) 0 (0, [], [], s) with
    | .error e => e.raise s .read
    | .ok (used, _, out, s1) =>
      let (start, old) := match r with
        | .entry e => ((s.entry e).data, (s.entry e).poison)
        | .queue _ => (zeroData f.t, false)
      let cleared := (List.range n).foldl (fun d i => setElem w d i (zeroOf f.t)) start
      let data := out.foldl (fun d x => if x.1 < n then setElem w d x.1 x.2 else d) cleared
      let v : Entry := { tag := f.t, data := data, poison := old && decide (n * w ≠ 8192) }
      .ok ((s1.putRef r v).setGr b (word used)))

/-! ### Tensor maps (R194 to R196) -/

/-- Word w of TMn. -/
def Ctx.tmWord (c : Ctx) (n w : Nat) : Word := c.tm.getD (8 * n + w) 0

/-- The signed 16-bit field i of a word. -/
def field16 (x : Word) (i : Nat) : Int := (x.extractLsb' (16 * i) 16).toInt

/-- Eight doublewords of memory from a translated address, or the poison they carry. -/
def State.readWords (s : State) (pa : Nat) : Option (List Word × State) :=
  (List.range 8).foldl (fun acc i =>
    match acc with
    | none => none
    | some (l, s) =>
      let (x, bad, s1) := s.readDirect (pa + 8 * i) 8
      if bad then none else some (l ++ [word x], s1)) (some ([], s))

/-- R196: `tmset`. DEDUCED, log 66. -/
def execTmset (a : BitVec 6) (n : BitVec 3) (s : State) : Out :=
  finish s (do
    let va := s.gr a
    aligned va 64
    let (t, home, s1) ← s.reachWindow va .read
    s.mtChecked (t.tlb.mt != 2 && t.tlb.mt != 4) va
    s.interlock va.toNat 64 false
    -- R314, R315: the home has been removed
    if s1.pkg.removed home then .error (.late (s1.setApplied false) cRemoteError (loadErrorEval va 0x30))
    if s1.pkg.homeReady s.core.die home s.core.knotv = false then .error (.wait 7)
    match (s1.trip home).readWords t.pa with
    | none => .error (.late s1 cPoison va)
    | some (l, s2) =>
      match (List.range 8).find? (fun w => !tmLegal w (l.getD w 0)) with
      | some w => .error (.late s2 cIllegalOpcode (word (0x040 + 8 * n.toNat + w)))
      | none =>
        .ok { s2 with ctx := { s2.ctx with
          tm := (List.range 8).foldl (fun v w => v.setIfInBounds (8 * n.toNat + w) (l.getD w 0)) s2.ctx.tm } })

/-- R195: the coordinates of box element q, lowest dimension first. -/
def boxCoords (c : Ctx) (n q : Nat) : List Int :=
  let bm := c.tmWord n 4
  let cc := c.tmWord n 5
  let bl (d : Nat) : Nat := bits bm (16 * d + 15) (16 * d) + 1
  let i0 := q % bl 0
  let i1 := q / bl 0 % bl 1
  let i2 := q / (bl 0 * bl 1) % bl 2
  let i3 := q / (bl 0 * bl 1 * bl 2)
  [field16 cc 0 + (i0 : Int) * (bits (c.tmWord n 7) 7 0 + 1 : Nat),
   field16 cc 1 + (i1 : Int) * (bits (c.tmWord n 7) 15 8 + 1 : Nat),
   field16 cc 2 + (i2 : Int), field16 cc 3 + (i3 : Int)]

/-- R195: the address of box element q; none outside the image. -/
def boxAddress (c : Ctx) (n es q : Nat) : Option Nat :=
  let x := boxCoords c n q
  let e := c.tmWord n 1
  let inside := (List.range 4).all (fun d =>
    decide (0 ≤ x.getD d 0 ∧ x.getD d 0 < (bits e (16 * d + 15) (16 * d) : Nat)))
  let s12 := c.tmWord n 2
  if inside then
    some (wordI ((bits (c.tmWord n 0) 55 0 : Nat) + x.getD 0 0 * (es : Nat)
      + x.getD 1 0 * (s12.extractLsb' 0 32).toInt + x.getD 2 0 * (s12.extractLsb' 32 32).toInt
      + x.getD 3 0 * ((c.tmWord n 3).extractLsb' 0 32).toInt)).toNat
  else none

/-- The box's elements in order, or the first fault. -/
def boxLoop (c : Ctx) (n es : Nat) (t : BitVec 5) : Nat → Nat → Lanes × State → Except EFault (Lanes × State)
  | 0, _, x => .ok x
  | fuel + 1, q, (d, s) =>
    match boxAddress c n es q with
    | none => boxLoop c n es t fuel (q + 1) (setElem (8 * es) d q (zeroOf t), s)
    | some va =>
      if va % es ≠ 0 then .error (.trap cMisaligned (word va))
      else
        match s.vread va es with
        | .error e => .error e
        | .ok (x, s1) => boxLoop c n es t fuel (q + 1) (setElem (8 * es) d q x, s1)

/-- R195 and R196: the tag of tensor map n and the number of elements a walk of its box writes. -/
def State.boxShape (s : State) (n : Nat) : BitVec 5 × Nat :=
  let t := BitVec.ofNat 5 (bits (s.ctx.tmWord n 0) 60 56)
  let bm := s.ctx.tmWord n 4
  (t, Nat.min (s.count (tagWidth t))
    ((bits bm 15 0 + 1) * (bits bm 31 16 + 1) * (bits bm 47 32 + 1) * (bits bm 63 48 + 1)))

/-- R196: `tmwalk`. -/
def execTmwalk (d : BitVec 6) (n : BitVec 3) (s : State) : Out :=
  finish s (do
    let c := s.ctx
    let (t, k) := s.boxShape n.toNat
    let es := tagWidth t / 8
    let r := s.vref d
    s.checkRef r
    s.checkRoom r
    let (start, old) := match r with
      | .entry e => ((s.entry e).data, (s.entry e).poison)
      | .queue _ => (zeroData t, false)
    match boxLoop c n.toNat es t k 0 (start, s) with
    | .error e => e.raise s .read
    | .ok (data, s1) =>
      .ok (s1.putRef r { tag := t, data := data, poison := old && decide (k * tagWidth t ≠ 8192) }))

/-- R195: `tmstep`. -/
def execTmstep (d a : BitVec 6) (n : BitVec 3) (s : State) : Out :=
  let i := bits (s.gr a) 1 0
  let c := (s.ctx.tmWord n.toNat 5).extractLsb' (16 * i) 16 + (s.ctx.tmWord n.toNat 6).extractLsb' (16 * i) 16
  let w5 := setBits (s.ctx.tmWord n.toNat 5) (16 * i + 15) (16 * i) c.toNat
  let s1 := { s with ctx := { s.ctx with tm := s.ctx.tm.setIfInBounds (8 * n.toNat + 5) w5 } }
  .next (s1.setGr d (c.signExtend 64))

end Sys2Proof.Machine
end

