-- ==== Sys2Proof/Machine/Saves.lean ====
section
/-! DEFINITION. Saving and restoring the Hoop and the lane file by the program (R157, R171 to R174, R242):
`hsave`, `hrest`, `vsave` and `vrest`. -/

namespace Sys2Proof.Machine

/-- What an image holds (R171): the size of a row or entry, and where the tag bytes begin. -/
structure ImageKind where
  size : Nat
  tags : Nat

def hoopImage : ImageKind := { size := 512, tags := 65536 }
def laneImage : ImageKind := { size := 1024, tags := 262144 }

/-- R171: the base of an image. -/
def imageBase (s : State) (a : BitVec 6) : M Word :=
  let va := s.gr a
  if va.toNat % 1024 = 0 then .ok va else .error (.trap cMisaligned va)

/-- R238: of two accesses of a row or entry that both fault, the lower address is reported. -/
def lowerFault {α : Type} (e : EFault) (other : Except EFault α) : EFault :=
  match e, other with
  | .x va f, .error (.x vb g) => if g = .wait ∨ vb < va ∧ f ≠ .wait then .x vb g else .x va f
  | e, _ => e

/-- R172 and R173: the addresses of a row or entry translated, its data first for a save and its tag byte
first for a restore. DEDUCED, log 28. -/
def State.reachSlot (s : State) (base : Nat) (k : ImageKind) (n : Nat) (acc : Acc) : Except EFault (Trans × Trans × State) :=
  let d := (base + k.size * n) % 2 ^ 64
  let t := (base + k.tags + n) % 2 ^ 64
  if acc = .write then
    match s.vreach d k.size acc with
    | .error e => .error e
    | .ok (x, s1) =>
      match s1.vreach t 1 acc with
      | .error e => .error e
      | .ok (y, s2) => .ok (x, y, s2)
  else
    match s.vreach t 1 acc with
    | .error e => .error (lowerFault e (s.vreach d k.size acc))
    | .ok (y, s1) =>
      match s1.vreach d k.size acc with
      | .error e => .error e
      | .ok (x, s2) => .ok (x, y, s2)

/-- R242: the rows or entries that may move, in order, up to the first that faults. DEDUCED, log 28. -/
def State.reachSlots (s : State) (base : Nat) (k : ImageKind) (acc : Acc) :
    List Nat → List (Nat × Trans × Trans) × State × Option (Nat × EFault)
  | [] => ([], s, none)
  | n :: r =>
    match s.reachSlot base k n acc with
    | .error e => ([], s, some (n, e))
    | .ok (x, y, s1) =>
      let (l, s2, f) := s1.reachSlots base k acc r
      ((n, x, y) :: l, s2, f)

/-- The live results that `p` takes and that commit by cycle t commit now, before the save reads (R172).
DEDUCED, log 89. -/
def State.commitBefore (s : State) (p : Shadow → Bool) (t : Nat) : State :=
  let due := (s.ctx.live.filter (fun r => p r && decide (r.at_ ≤ t))).foldl (fun a r => insertShadow r a) []
  let s := { s with ctx := { s.ctx with live := s.ctx.live.filter (fun r => !(p r && decide (r.at_ ≤ t))) } }
  due.foldl State.commit s

/-- The bytes of the low n bytes of a bit vector's value, in writes of at most 64 bytes each, with the words
that carry poison. -/
def lineWrites (pa n x : Nat) (poison : Bool) : List (List (Nat × Byte) × List Nat) :=
  (List.range ((n + 63) / 64)).map (fun i =>
    let m := Nat.min 64 (n - 64 * i)
    (wordBytes (pa + 64 * i) m (x / 2 ^ (512 * i)), if poison then (List.range ((m + 7) / 8)).map (fun j => (pa + 64 * i) / 8 + j) else []))

/-- R171: a tag byte with V = 1. -/
def tagByte (t : BitVec 5) : Nat := 128 + t.toNat

/-- R172: the stores of a save perform in order, with prefix visibility; on several homes they form one ordered
store (R312). DEDUCED, log 89. -/
def State.performSave (s : State) (l : List (List (Nat × Byte) × List Nat × Bool)) : State :=
  let home (b : List (Nat × Byte)) : Nat := match b with
    | [] => s.core.die
    | c :: _ => (s.pkg.homeOf c.1).getD s.core.die
  let multi := l.any (fun x => l.any (fun y => home x.1 != home y.1))
  let id := s.core.nextId
  let s := if multi then { s with core := { s.core with nextId := id + 1 } } else s
  l.foldl (fun s x => s.storeBytes x.1 x.2.1 x.2.2 (home x.1) (if multi then some (id % 256) else none)) s

/-- A save of the rows or entries `all`, of which those that `may` takes may move. `look` gives what a row or
entry holds, `dirty` whether it is to be saved, `clean` clears its bit, `cursor` sets the cursor, `mine` takes
the shadow results of one, and `step` is the distance of their slots. DEDUCED, log 28. -/
def saveForm (s : State) (base : Nat) (k : ImageKind) (all : List Nat) (may : Nat → Bool)
    (look : State → Nat → BitVec 5 × Nat × Bool) (dirty : State → Nat → Bool) (clean : State → Nat → State)
    (cursor : State → Nat → State) (mine : Nat → Shadow → Bool) (step : Nat) : M State :=
  let (slots, s1, fault) := s.reachSlots base k .write (all.filter may)
  let (t, writes, _) := slots.foldl (fun (acc : State × List (List (Nat × Byte) × List Nat × Bool) × Nat) x =>
    let (s, w, j) := acc
    let (n, d, y) := x
    let s := s.commitBefore (mine n) (s.now + 1 + step * j)
    if dirty s n then
      let (tag, data, poison) := look s n
      let lines := (lineWrites d.pa k.size data poison).map (fun b => (b.1, b.2, d.tlb.snap))
      (clean s n, w ++ lines ++ [([(y.pa, BitVec.ofNat 8 (tagByte tag))], [], y.tlb.snap)], j + 1)
    else (s, w, j)) (s1, [], 0)
  let t := t.performSave writes
  match fault with
  | none => .ok (cursor t 0)
  | some (_, .x va .wait) => (EFault.x va .wait).raise s .write
  | some (n, e) => e.raise (cursor t n) .write

/-- A restore of the rows or entries `all`. `put` writes one. DEDUCED, log 28, 88. -/
def restoreForm (s : State) (base : Nat) (k : ImageKind) (all : List Nat)
    (put : State → Nat → BitVec 5 → Nat → Bool → State) (cursor : State → Nat → State) : M State :=
  let (slots, s1, fault) := s.reachSlots base k .read all
  let tag (x : Nat × Trans × Trans) : Nat := (s1.readDirect x.2.2.pa 1).1
  let bad := slots.find? (fun (x : Nat × Trans × Trans) => decide (128 ≤ tag x) && tagReserved (BitVec.ofNat 5 (tag x)))
  let good := match bad with
    | some b => slots.filter (fun (x : Nat × Trans × Trans) => decide (x.1 < b.1))
    | none => slots
  let t := good.foldl (fun (s : State) (x : Nat × Trans × Trans) =>
    let b := tag x
    let (_, p1, s) := s.readDirect x.2.2.pa 1
    if b < 128 then put s x.1 0 0 p1
    else
      let (v, p2, s) := s.readDirect x.2.1.pa k.size
      put s x.1 (BitVec.ofNat 5 b) v (p1 || p2)) s1
  match bad, fault with
  | some b, _ => .error (.late (cursor t b.1) cTagMismatch (word b.1))
  | none, none => .ok (cursor t 0)
  | none, some (_, .x va .wait) => (EFault.x va .wait).raise s .read
  | none, some (n, e) => e.raise (cursor t n) .read

/-- FULL of the options (R171). -/
def State.full (s : State) (b : BitVec 6) : Bool := bit (s.gr b) 0

/-- HDIRTY of row r cleared (R30). -/
def State.cleanRow (s : State) (r : Nat) : State :=
  { s with ctx := { s.ctx with hdirty := s.ctx.hdirty &&& ~~~(1#128 <<< r) } }

/-- DIRTY of entry e cleared (R24). -/
def State.cleanEntry (s : State) (e : Nat) : State :=
  { s with ctx := { s.ctx with dirty := s.ctx.dirty &&& ~~~(1#256 <<< e) } }

/-- The shadow results of row r (R170). -/
def Shadow.onRow (r : Nat) (x : Shadow) : Bool := match x.kind with | .hsfu n => n == r | _ => false

/-- The shadow results of entry e (R143, R229). -/
def Shadow.onEntry (e : Nat) (x : Shadow) : Bool :=
  match x.kind with
  | .sfuEntry n => n == e
  | .bamax n => n == e
  | _ => false

/-- R172. -/
def execHsave (sel : BitVec 9) (a b : BitVec 6) (s : State) : Out :=
  finish s (do
    let base ← imageBase s a
    let rows ← s.restartRows sel true
    let full := s.full b
    saveForm s base.toNat hoopImage rows
      (fun r => full || s.ctx.hdirty.getLsbD r || s.ctx.live.any (Shadow.onRow r))
      (fun s r => ((s.row r).tag, (s.row r).cells.toNat, (s.row r).poison))
      (fun s r => full || s.ctx.hdirty.getLsbD r) State.cleanRow State.setHcur Shadow.onRow 2)

/-- R173. -/
def execHrest (sel : BitVec 9) (a _b : BitVec 6) (s : State) : Out :=
  finish s (do
    let base ← imageBase s a
    let rows ← s.restartRows sel true
    restoreForm s base.toNat hoopImage rows
      (fun s r tag x poison => (s.setRow r { tag := tag, cells := BitVec.ofNat 4096 x, poison := poison }).cleanRow r)
      State.setHcur)

/-- R174: the entries from VSTART upward. -/
def State.restartEntries (s : State) : List Nat :=
  (List.range s.ctx.lfSize).filter (fun e => decide (s.ctx.vsn ≤ e))

/-- R174. -/
def execVsave (a b : BitVec 6) (s : State) : Out :=
  finish s (do
    let base ← imageBase s a
    let full := s.full b
    saveForm s base.toNat laneImage s.restartEntries
      (fun e => full || s.ctx.dirty.getLsbD e || s.ctx.live.any (Shadow.onEntry e))
      (fun s e => ((s.entry e).tag, (s.entry e).data.toNat, (s.entry e).poison))
      (fun s e => full || s.ctx.dirty.getLsbD e) State.cleanEntry State.setVs Shadow.onEntry 4)

/-- R174. -/
def execVrest (a _b : BitVec 6) (s : State) : Out :=
  finish s (do
    let base ← imageBase s a
    restoreForm s base.toNat laneImage s.restartEntries
      (fun s e tag x poison => (s.setEntry e { tag := tag, data := BitVec.ofNat 8192 x, poison := poison }).cleanEntry e)
      State.setVs)

end Sys2Proof.Machine
end

