-- ==== Sys2Proof/Machine/Queue.lean ====
section
/-! DEFINITION. Work queues as the I/O dies hold them: queue records (R364, R365), notifies and resident
slots (R366, R367), accesses through a queue's address space, report items (R387) and completion records
(R386). -/

namespace Sys2Proof.Machine

/-- The I/O die that homes a queue (R364). -/
def queueIo (q : Nat) : Nat := if q < 32768 then 0 else 9

/-- The base of an I/O die's region (R332). -/
def regionBase (io : Nat) : Nat := if io = 9 then 0x020080000000 else 0x020000000000

/-- R364: the address of a queue record. -/
def qrec (q : Nat) : Nat := regionBase (queueIo q) + 0x01000000 + 128 * (q % 32768)

/-- n bytes at an offset of a queue record. -/
def Pkg.qget (p : Pkg) (q off n : Nat) : Nat := p.readAt (qrec q + off) n

/-- n bytes at an offset of a queue record, written. -/
def Pkg.qset (p : Pkg) (q off n x : Nat) : Pkg := p.engineWrite (qrec q + off) n x

/-- Fields of a queue record (R365). -/
def Pkg.qEn (p : Pkg) (q : Nat) : Bool := decide (p.qget q 48 8 / 2 ^ 63 % 2 = 1)
def Pkg.qOpen (p : Pkg) (q : Nat) : Bool := decide (p.qget q 48 8 / 2 ^ 62 % 2 = 1)
def Pkg.qPend (p : Pkg) (q : Nat) : Bool := decide (p.qget q 48 8 / 2 ^ 61 % 2 = 1)
def Pkg.qGroup (p : Pkg) (q : Nat) : Nat := nbits (p.qget q 48 8) 59 48
def Pkg.qImask (p : Pkg) (q : Nat) : Nat := p.qget q 48 8 % 8
def Pkg.qRoot (p : Pkg) (q : Nat) : Nat := nbits (p.qget q 40 8) 51 13 * 2 ^ 13
def Pkg.qAsn (p : Pkg) (q : Nat) : Nat := p.qget q 40 8 % 4096
/-- The base and the log2 of the count of a ring field. -/
def Pkg.qRing (p : Pkg) (q off : Nat) : Nat × Nat :=
  let x := p.qget q off 8
  (nbits x 55 12 * 4096, x % 32)

/-- A bit of CFG set or cleared. -/
def Pkg.qFlag (p : Pkg) (q b : Nat) (on : Bool) : Pkg :=
  let x := p.qget q 48 8
  let y := x - x / 2 ^ b % 2 * 2 ^ b
  p.qset q 48 8 (if on then y + 2 ^ b else y)

/-- R365: whether a ring field keeps its limits. -/
def ringOk (x lo hi : Nat) : Bool :=
  decide (nbits x 63 56 = 0 ∧ nbits x 11 5 = 0 ∧ lo ≤ x % 32 ∧ x % 32 ≤ hi)

/-- R365: whether a queue record keeps the rule and its limits. DEDUCED, log 106. -/
def Pkg.qLegal (p : Pkg) (q : Nat) : Bool :=
  let pool := p.qget q 32 8
  let root := p.qget q 40 8
  let cfg := p.qget q 48 8
  ringOk (p.qget q 0 8) 4 16 && ringOk (p.qget q 8 8) 4 16 && ringOk (p.qget q 16 8) 6 16
    && ringOk (p.qget q 24 8) 4 12
    && decide (nbits pool 63 56 = 0 ∧ nbits pool 15 14 = 0 ∧ nbits pool 7 5 = 0)
    && (pool == 0 || decide (12 ≤ pool % 32 ∧ pool % 32 ≤ 26))
    && decide (nbits root 63 52 = 0 ∧ nbits root 12 12 = 0)
    && decide (nbits cfg 60 60 = 0 ∧ nbits cfg 47 3 = 0)
    && decide (p.qget q 80 1 = 0) && decide (p.qget q 88 8 < 2 ^ 32)
    && decide (p.qget q 96 8 = 0 ∧ p.qget q 104 8 = 0 ∧ p.qget q 112 8 = 0 ∧ p.qget q 120 8 = 0)

/-! ### Resident slots (R367) -/

/-- The resident slot of a queue. -/
def Pkg.slot (p : Pkg) (q : Nat) : Option QSlot := (p.io (queueIo q)).slots.find? (fun s => s.queue == q)

/-- The resident slot of a queue changed. -/
def Pkg.setSlot (p : Pkg) (q : Nat) (f : QSlot → QSlot) : Pkg :=
  let io := queueIo q
  let x := p.io io
  p.setIo io { x with slots := x.slots.map (fun s => if s.queue = q then f s else s) }

/-- A queue index: the slot's copy where the queue is mapped, else the record's. -/
def Pkg.qIndex (p : Pkg) (q : Nat) (sel : QSlot → Nat) (off : Nat) : Nat :=
  match p.slot q with
  | some s => if s.state = .mapped then sel s else p.qget q off 4
  | none => p.qget q off 4

/-- A queue index written where it lives. -/
def Pkg.setIndex (p : Pkg) (q : Nat) (f : QSlot → QSlot) (off x : Nat) : Pkg :=
  match p.slot q with
  | some s => if s.state = .mapped then p.setSlot q f else p.qset q off 4 x
  | none => p.qset q off 4 x

def Pkg.qHead (p : Pkg) (q : Nat) : Nat := p.qIndex q (fun s => s.head) 56
def Pkg.qTail (p : Pkg) (q : Nat) : Nat := p.qIndex q (fun s => s.tail) 60
def Pkg.qRidx (p : Pkg) (q : Nat) : Nat := p.qIndex q (fun s => s.ridx) 64
def Pkg.qFidx (p : Pkg) (q : Nat) : Nat := p.qIndex q (fun s => s.fidx) 72

/-- a − b modulo 2^32. -/
def diff32 (a b : Nat) : Nat := (a + 2 ^ 32 - b % 2 ^ 32) % 2 ^ 32

/-- R366 and R367: the effect of an accepted notify: TAIL takes the new value, in the slot where the queue
is mapped, else in the record with PEND set; a slot that is unmapping is kept for the queue. -/
def Pkg.newTail (p : Pkg) (q tail : Nat) : Pkg :=
  match p.slot q with
  | some s =>
    if s.state = .mapped then p.setSlot q (fun s => { s with tail := tail, notified := p.cyc })
    else ((p.qset q 60 4 tail).qFlag q 61 true).setSlot q (fun s => { s with state := .unmapping true })
  | none => (p.qset q 60 4 tail).qFlag q 61 true

/-- R366: whether the die accepts a notify. -/
def Pkg.notifyOk (p : Pkg) (io v : Nat) : Bool :=
  let q := nbits v 47 32
  let tail := v % 2 ^ 32
  let size := 2 ^ (p.qRing q 0).2
  decide (nbits v 63 48 = 0) && queueIo q == io && p.qEn q
    && decide (1 ≤ diff32 tail (p.qTail q) ∧ diff32 tail (p.qTail q) ≤ size ∧ diff32 tail (p.qHead q) ≤ size)

/-- R366: a write of the notify register of an I/O die. -/
def Pkg.notify (p : Pkg) (io v : Nat) : Pkg :=
  if p.notifyOk io v then p.newTail (nbits v 47 32) (v % 2 ^ 32)
  else p.log 2 io (nbits v 47 32)

/-! ### Accesses through a queue's address space (R364) -/

/-- A virtual address of a queue's address space translated by its I/O die. DEDUCED, log 55. -/
def Pkg.qwalk (p : Pkg) (q va : Nat) (k : Acc) : Except XFault (Nat × Pkg) :=
  match p.walk (p.qRoot q) (p.qAsn q) va k (fun _ => true) (queueIo q) (p.die (queueIo q)).v with
  | .error x => .error x
  | .ok (t, p1) => if t.tlb.mt = 2 ∨ t.tlb.mt = 4 then .error .denied else .ok (t.pa, p1)

/-- R364: what a fault on one of the queue's addresses does. DEDUCED, log 86. -/
def Pkg.queueFault (p : Pkg) (q : Nat) : Pkg :=
  ((p.qFlag q 63 false).qFlag q 61 true).log 3 (queueIo q) q

/-- A die's own write of bytes at one home: at once on its own die, else as a packet of the die. -/
def Pkg.dieWrite (p : Pkg) (io : Nat) (bytes : List (Nat × Byte)) (poison : List Nat := []) : Pkg :=
  match bytes with
  | [] => p
  | b :: _ =>
    let h := (p.homeOf b.1).getD io
    if h = io then p.homeWrite bytes poison false (p.die io).cut.isNone
    else p.send io h 240 0 0 (p.die io).v false (.write bytes poison false []) false false 0

/-- Up to 8 bytes written at a virtual address of a queue's space; a fault has the effect of R364. -/
def Pkg.qwrite (p : Pkg) (q va n x : Nat) : Pkg :=
  match p.qwalk q va .write with
  | .error _ => p.queueFault q
  | .ok (pa, p1) => p1.dieWrite (queueIo q) (wordBytes pa n x)

/-- Doublewords written from a virtual address upward. -/
def Pkg.qwriteWords (p : Pkg) (q va : Nat) : List Nat → Pkg
  | [] => p
  | x :: r => (p.qwrite q va 8 x).qwriteWords q (va + 8) r

/-- The bytes at pa are ready for an I/O die: their home has all that the die knows of. -/
def Pkg.ioReady (p : Pkg) (io pa : Nat) : Bool :=
  match p.homeOf pa with
  | none => true
  | some h => p.homeReady io h (p.die io).v

/-- n bytes read at a virtual address of a queue's space, as the I/O die reads it; it waits until their home
is ready. -/
def Pkg.qread (p : Pkg) (q va n : Nat) : Except XFault (Nat × Pkg) :=
  match p.qwalk q va .read with
  | .error x => .error x
  | .ok (pa, p1) => if p.ioReady (queueIo q) pa then .ok (p1.readAt pa n, p1) else .error .wait

/-! ### Completion records and report items (R386, R387) -/

/-- R386: the virtual address of the completion record of task index i. -/
def Pkg.completionRecord (p : Pkg) (q i : Nat) : Nat :=
  let (base, size) := p.qRing q 8
  base + 256 * (i % 2 ^ size)

/-- R386: STATE of a completion record. -/
def stateWord (outcome cause member nitems : Nat) (pending : Bool) : Nat :=
  outcome + 2 ^ 8 * member + (if pending then 2 ^ 15 else 0) + 2 ^ 16 * nitems + 2 ^ 32 * cause

/-- R386: a new STATE written as a release at package scope. -/
def Pkg.writeState (p : Pkg) (q record x : Nat) : Pkg := (p.ioRelease (queueIo q)).qwrite q (record + 8) 8 x

/-- R386: the record's STATE rewritten after the report item at index `i` of its task; the first item's index
is noted. DEDUCED, log 94. -/
def Pkg.itemWritten (p : Pkg) (h : Word) (i : Nat) : Pkg :=
  let io := handleIo h
  let x := p.io io
  match x.finished.find? (fun f => f.handle == h) with
  | some f =>
    let before := bits f.state 31 16
    let open_ := f.open_ - 1
    let st := setBits (setBits f.state 31 16 (before + 1)) 15 15 (if open_ = 0 then 0 else 1)
    let p := p.setIo io { x with finished := x.finished.map (fun g =>
      if g.handle == h then { g with state := st, open_ := open_ } else g) }
    let p := if before = 0 then p.qwrite f.queue (f.record + 32) 4 i else p
    p.writeState f.queue f.record st.toNat
  | none => p.setTask h (fun t => { t with nitems := t.nitems + 1, ridx := if t.nitems = 0 then i else t.ridx })

/-- R387: one report item written to its queue's ring. -/
def Pkg.writeItem (p : Pkg) (r : ReportItem) : Pkg :=
  let (base, size) := p.qRing r.queue 16
  let i := p.qRidx r.queue
  let a := base + 32 * (i % 2 ^ size)
  let word8 (k : Nat) : Nat := ((r.bytes.drop (8 * k)).take 8).foldr (fun b x => b.toNat + 256 * x) 0
  let p := p.qwriteWords r.queue a [word8 0, word8 1, word8 2, word8 3]
  let p := p.setIndex r.queue (fun s => { s with ridx := (i + 1) % 2 ^ 32 }) 64 ((i + 1) % 2 ^ 32)
  p.itemWritten r.handle i

/-- Room for a report item. -/
def Pkg.itemRoom (p : Pkg) (q : Nat) : Bool := decide (diff32 (p.qRidx q) (p.qget q 68 4) < 2 ^ (p.qRing q 16).2)

/-- R387: the held items of an I/O die written, in order, while their rings have room. -/
def Pkg.flushItems (p : Pkg) (io : Nat) : Nat → Pkg
  | 0 => p
  | n + 1 =>
    match (p.io io).reports with
    | [] => p
    | r :: rest =>
      if p.itemRoom r.queue && p.canAdvance io then
        let x := p.io io
        ((p.setIo io { x with reports := rest }).writeItem r).flushItems io n
      else p

/-- R387: a report item, held while its ring is full. `kind` is 1 for a copy's status, 2 for a lost write, 3
for an atomic's error. A context that no task placed (handle 0) has no queue to report to. -/
def Pkg.report (p : Pkg) (h : Word) (kind member eq a b : Nat) : Pkg :=
  if h = 0 then p else
  let q := bits h 47 32
  let io := handleIo h
  let x := p.io io
  let le (n x : Nat) : List Byte := (wordBytes 0 n x).map (fun c => c.2)
  let item : ReportItem :=
    { queue := q, handle := h
      bytes := le 1 kind ++ le 1 member ++ le 1 (if kind = 1 then eq else 0) ++ le 5 0 ++ le 8 h.toNat ++ le 8 a ++ le 8 b }
  (p.setIo io { x with reports := x.reports ++ [item] }).flushItems io 64

end Sys2Proof.Machine
end

