-- ==== Sys2Proof/Machine/Copy.lean ====
section
/-! DEFINITION. Copies (R197 to R206, R209, R263, R264, R297, R349 to R352, R385, R415): issue into an engine
queue or a bobbin engine, the landing of one line, completion with the status word, and cancelling. -/

namespace Sys2Proof.Machine

/-! ### Status bits (R201) -/

def stDone : BitVec 16 := 0x001
def stErr : BitVec 16 := 0x002
def stCancelled : BitVec 16 := 0x004
def stDiscarded : BitVec 16 := 0x008
def stPoison : BitVec 16 := 0x010
def stXlat : BitVec 16 := 0x020
def stPerm : BitVec 16 := 0x040
def stRemote : BitVec 16 := 0x080
def stLate : BitVec 16 := 0x100

/-- R201: the status word of a copy. -/
def statusWord (bits : BitVec 16) (lines : Nat) : Word := word (bits.toNat + lines % 2048 * 2 ^ 32)

/-- R201: the lines that landed in every destination; for a copy whose strand ended with its destination in
quarantine, those before the end (R385). -/
def Copy.landedLines (c : Copy) : Nat := if c.discard then c.early else c.landed.length

/-- The whole status of a finished copy: DONE, and ERR where not every line landed. -/
def Copy.final (c : Copy) : Word :=
  let b := c.status ||| stDone ||| (if c.discard || decide (c.landedLines < c.lines) then stErr else 0)
    ||| (if c.late then stLate else 0)
  statusWord b c.landedLines

/-! ### Timed starts (R203) -/

/-- R203: δ of a TIME at a cycle. -/
def timeDelta (cyc time : Nat) : Nat := (cyc % 2 ^ 48 + 2 ^ 48 - time % 2 ^ 48) % 2 ^ 48

/-- R203: whether a TIME is reached. -/
def timeReached (cyc time : Nat) : Bool := time == 0 || decide (timeDelta cyc time < 2 ^ 47)

/-- R203: whether a copy that can first start at a cycle is late. -/
def timeLate (cyc time : Nat) : Bool :=
  time != 0 && decide (1 ≤ timeDelta cyc time ∧ timeDelta cyc time < 2 ^ 47)

/-! ### Where copies live -/

/-- The I/O die of a `cpyh`. -/
def Copy.io (c : Copy) : Nat := if c.iod = 0 then 0 else 9

/-- The live copy of a number. -/
def State.copyOf (s : State) (id : Nat) : Option Copy :=
  ((s.coreAt (id % 256)).core.copies ++ s.pkg.io0.bobbin ++ s.pkg.io9.bobbin).find? (fun c => c.id == id)

/-- A change of the lists of live copies of a core and of both bobbin engines. -/
def State.onCopies (s : State) (owner : Nat) (f : List Copy → List Copy) : State :=
  let p := s.coreAt owner
  let s := s.setCoreAt owner { p with core := { p.core with copies := f p.core.copies } }
  { s with pkg := { s.pkg with io0 := { s.pkg.io0 with bobbin := f s.pkg.io0.bobbin }
                               io9 := { s.pkg.io9 with bobbin := f s.pkg.io9.bobbin } } }

/-- A live copy replaced by number. -/
def State.putCopy (s : State) (c : Copy) : State :=
  s.onCopies c.owner (fun l => l.map (fun x => if x.id = c.id then c else x))

/-- Lines granted to the live copies of an engine queue (R350). -/
def grantedLines (l : List Copy) (eq : Nat) : Nat :=
  (l.filter (fun c => c.eq == eq)).foldl (fun n c => n + c.lines) 0

/-- R350: FREE of an engine queue. -/
def Core.engineFree (k : Core) (eq : Nat) : Nat := 1024 - grantedLines k.copies eq

/-- R204: the interlock entries held on a core. -/
def State.interlockEntries (s : State) : Nat :=
  s.core.copies.length + ((s.pkg.io0.bobbin ++ s.pkg.io9.bobbin).filter (fun c => c.owner == s.coreNo)).length

/-- The least FREE of an engine queue over the gang, or the core's own (R200). -/
def State.leastFree (s : State) (eq : Nat) : Nat :=
  if s.ctx.gang then
    let now := s.core.engineFree eq
    match s.pkg.gangs.find? (fun g => g.handle == s.ctx.taskh) with
    | some g => g.snap.foldl (fun n p => Nat.min n (p.2.core.engineFree eq)) (if g.snap.isEmpty then now else 1024)
    | none => s.teamCores.foldl (fun n k => Nat.min n ((s.coreAt k).core.engineFree eq)) now
  else s.core.engineFree eq

/-! ### Operands (R198) -/

/-- R198: a space address. -/
def spaceOf (x : Word) : Option Space :=
  if bits x 63 56 = 0 then some (.memory (bits x 55 0))
  else if bits x 63 56 = 1 ∧ bits x 55 21 = 0 ∧ bits x 15 8 = 0 then some (.lanes (bits x 20 16) (bits x 7 0))
  else if bits x 63 56 = 2 ∧ bits x 55 21 = 0 ∧ bits x 15 2 = 0 then some (.queue (bits x 20 16) (bits x 1 0))
  else none

/-- The member that a register space names. -/
def Space.memberOf : Space → Option Nat
  | .memory _ => none
  | .lanes m _ => some m
  | .queue m _ => some m

/-- The last logical entry that n lines from entry e reach, one past it. -/
def lanesEnd (e n : Nat) : Nat := e + (n + 15) / 16

/-- R198: an operand that traps PERMISSION, or MISALIGNED. `form` is fn6[2:0], `lines` the granted length.
DEDUCED, log 79. -/
def State.checkSpace (s : State) (form : Nat) (isDst : Bool) (x : Word) (lines : Nat) : M Space :=
  let perm : M Space := .error (.trap cPermission x)
  match spaceOf x with
  | none => perm
  | some sp =>
    let member := if form = 2 ∧ isDst = true then 0 else (sp.memberOf).getD 0
    if s.ctx.teamSize ≤ member then perm
    else
      match sp with
      | .memory va =>
        if form = 2 ∧ isDst = true then perm
        else if va % 64 ≠ 0 then .error (.trap cMisaligned x)
        else .ok sp
      | .lanes m e =>
        if form = 3 ∨ (form = 2 ∧ isDst = false ∧ m ≠ s.ctx.member) ∨ s.ctx.lfSize < lanesEnd e lines then perm
        else .ok sp
      | .queue _ q =>
        if form = 3 ∨ form = 2 ∨ isDst = false ∨ s.ctx.owns q = false then perm else .ok sp

/-- R198: a fleet-window address in any form but `cpyh`. DEDUCED, log 79. -/
def State.checkFleet (s : State) (form : Nat) (x : Word) (k : Acc) : Space → M Unit
  | .memory va =>
    if form = 3 then .ok ()
    else
      match s.translate .stream va k with
      | .ok (t, _) => if t.tlb.mt = 4 then .error (.trap cPermission x) else .ok ()
      | .error .wait => .error (.wait 6)
      | .error _ => .ok ()
  | _ => .ok ()

/-! ### Issue (R197, R199, R200, R209) -/

/-- R209: bits 15:0 of a status ORed into a barrier's STATUS. -/
def State.orStatus (s : State) (n : Nat) (st : BitVec 16) : State :=
  let o := s.barObj n
  s.setBarObj n { o with status := o.status ||| st }

/-- R200: a copy of no lines, which completes at once (R112). -/
def State.emptyCopy (s : State) (d : BitVec 6) : M State :=
  match s.ctx.bind with
  | none => .ok ({ s with ctx := { s.ctx with eventFlag := true } }.setGr d 1)
  | some (n, mode) => do
    let t ← if mode = 0 then s.release (s.barScope n) else .ok s
    let t := ({ t with ctx := { t.ctx with bind := none, eventFlag := true } }).orStatus n stDone
    .ok (if mode = 0 then t.countArrival n else t)

/-- R197 to R204, R350, R351: the four forms that start a copy. DEDUCED, log 79. -/
def copyForm (form : Nat) (d a b : BitVec 6) (s : State) : Out :=
  finish s (do
    let opts := s.gr d
    let src := s.gr a
    let dst := s.gr b
    let srcSpace ← s.checkSpace form false src 0
    let dstSpace ← s.checkSpace form true dst 0
    s.checkFleet form src .read srcSpace
    s.checkFleet form dst .write dstSpace
    if form = 2 ∧ bits opts 31 16 / 2 ^ s.ctx.teamSize ≠ 0 then .error (.trap cPermission dst)
    else if tagReserved (BitVec.ofNat 5 (bits opts 4 0)) then .error (.trap cIllegalOpcode opts)
    else
      let eq := bits opts 15 12
      let iod := bits opts 11 11
      let mask := if form = 2 then bits opts 31 16 else 0
      let time := if form = 1 ∨ form = 3 then bits opts 63 16 else 0
      if s.ctx.vln = 0 then s.emptyCopy d
      else if form = 2 ∧ mask = 0 then (s.setVl 0).emptyCopy d
      else
        let lines := Nat.min s.ctx.vln (s.leastFree eq)
        let io := if iod = 0 then 0 else 9
        if lines = 0 ∨ 16 ≤ s.interlockEntries ∨ (form = 3 ∧ 4096 ≤ (s.pkg.io io).bobbin.length) then
          .error (.wait 6)
        else do
          let _ ← s.checkSpace form false src lines
          let _ ← s.checkSpace form true dst lines
          let s ← s.fenced
          let head := form = 3 || !(s.core.copies.any (fun c => c.eq == eq))
          let c : Copy :=
            { id := s.pkg.nextSeq * 256 + s.coreNo, form := form, bank := s.ctx.bank, dest := d.toNat
              src := srcSpace, dst := dstSpace, dstWord := dst, lines := lines, mask := mask, time := time
              eq := eq, iod := iod, tag := BitVec.ofNat 5 (bits opts 4 0), bound := s.ctx.bind
              root := s.ctx.root, asn := s.ctx.asn, handle := s.ctx.taskh, member := s.ctx.member
              owner := s.coreNo, started := form == 0 || form == 2, headCyc := if head then s.pkg.cyc else 0
              late := form == 3 && timeLate s.pkg.cyc time, landed := [], status := 0, stopped := false
              waitXlat := none, ended := false, discard := false, early := 0, staged := [], pushed := 0
              issuedAt := s.pkg.cyc }
          let s := s.setVl lines
          let p := { s.pkg with nextSeq := s.pkg.nextSeq + 1 }
          let s := { s with ctx := { s.ctx with bind := none }, pkg := p }
          .ok (if form = 3 then
              { s with pkg := s.pkg.setIo io { s.pkg.io io with bobbin := (s.pkg.io io).bobbin ++ [c] } }
            else { s with core := { s.core with copies := s.core.copies ++ [c] } }))

def execCpy (d a b : BitVec 6) (s : State) : Out := copyForm 0 d a b s
def execCpyt (d a b : BitVec 6) (s : State) : Out := copyForm 1 d a b s
def execCpymc (d a b : BitVec 6) (s : State) : Out := copyForm 2 d a b s
def execCpyh (d a b : BitVec 6) (s : State) : Out := copyForm 3 d a b s

/-! ### One line (R200 to R204, R263, R264, R344, R349, R415) -/

/-- What stops a line. -/
inductive LineStop where
  | wait
  | xlat (k : Park)
  | bits (b : BitVec 16)
  deriving DecidableEq, Repr

/-- The 64 bytes of a line, and which of its eight words are poisoned. -/
structure Line where
  data : BitVec 512
  poison : List Nat
  deriving DecidableEq, Repr

/-- The die whose fabric carries a copy's accesses. -/
def Copy.engineDie (c : Copy) : Nat := if c.form = 3 then c.io else c.owner / 24

/-- R204, R278 and R297: n bytes at pa are ready for the copy: their home has all that the strand and the
engine's die know of, and no buffered write that concerns the strand still holds one of them.
DESIGN CHOICE, log 78. -/
def State.copyReady (s : State) (c : Copy) (pa n : Nat) : Bool :=
  match s.pkg.homeOf pa with
  | none => true
  | some h =>
    s.pkg.homeReady (c.owner / 24) h (s.coreAt c.owner).core.knotv
      && s.pkg.homeReady c.engineDie h (s.pkg.die c.engineDie).v
      && !((s.pkg.buffer (clusterOf c.owner)).any (fun e =>
          e.concerns c.owner c.bank && e.bytes.any (fun b => decide (pa ≤ b.1 ∧ b.1 < pa + n))))

/-- What a copy's accesses know: its strand's vector, or that of its bobbin engine's die (R278). -/
def State.copyKnot (s : State) (c : Copy) : Knot :=
  if c.form = 3 then (s.pkg.die c.engineDie).v else (s.coreAt c.owner).core.knotv

/-- R341: the stream TLB of a copy's core or engine. -/
def State.streamTlb (s : State) (c : Copy) : List Tlb :=
  if c.form = 3 then (s.pkg.io c.io).stream else (s.coreAt c.owner).core.stream

/-- R338, R341 and R352: a run that the stream TLB lacks, from the cluster's L2 TLB or a walk, under the root and
address-space number that the copy was issued with. -/
def State.copyMiss (s : State) (c : Copy) (va : Nat) (k : Acc) : Except XFault (Trans × State) :=
  if c.form = 3 then
    match s.pkg.walk c.root c.asn va k (fun ea => s.copyReady c ea 8) c.engineDie (s.copyKnot c) with
    | .error f => .error f
    | .ok (t, p) =>
      let x := p.io c.io
      .ok (t, { s with pkg := p.setIo c.io { x with stream := tlbFill 32 x.stream t.tlb } })
  else
    let q := s.coreAt c.owner
    let cl := clusterOf c.owner
    match tlbFind (s.pkg.l2Of cl) c.asn (va / 65536) k with
    | some t =>
      if s.pkg.reachable t va then
        .ok ({ pa := t.address va, tlb := t }, s.setCoreAt c.owner { q with core := q.core.fill t .stream })
      else .error .denied
    | none =>
      match s.pkg.walk c.root c.asn va k (fun ea => s.copyReady c ea 8) c.engineDie (s.copyKnot c) with
      | .error f => .error f
      | .ok (t, p) =>
        .ok (t, ({ s with pkg := p.fillL2 cl t.tlb }).setCoreAt c.owner { q with core := q.core.fill t.tlb .stream })

/-- R344: the prefetch of the run after t, if the copy's range reaches it; one that would fault, that has to wait for
an entry's home, or that would set ACC or DTY has no effect. DEDUCED, log 9. -/
def State.prefetchRun (s : State) (c : Copy) (t : Tlb) (k : Acc) : State :=
  let next := (t.vbase + 2 ^ t.run) * 65536
  match (if k = .write then c.dst else c.src) with
  | .memory va0 =>
    if next < va0 + 64 * c.lines ∧ next < 2 ^ 56 ∧ (tlbFind (s.streamTlb c) c.asn (next / 65536) k).isNone then
      match s.copyMiss c next k with
      | .ok (_, u) => if u.pkg.mem = s.pkg.mem then u else s
      | .error _ => s
    else s
  | _ => s

/-- R335, R341, R344 and R352: a copy's address translated through the stream TLB of its core or engine. -/
def State.copyTranslate (s : State) (c : Copy) (va : Nat) (k : Acc) : Except XFault (Trans × State) :=
  if 2 ^ 56 ≤ va then .error .outOfRange
  else
    match tlbFind (s.streamTlb c) c.asn (va / 65536) k with
    | some t => if s.pkg.reachable t va then .ok ({ pa := t.address va, tlb := t }, s) else .error .denied
    | none =>
      match s.copyMiss c va k with
      | .error f => .error f
      | .ok (t, u) => .ok (t, u.prefetchRun c t.tlb k)

/-- R415: whether the peer entry of a fleet address admits the n bytes from there on. DESIGN CHOICE, log 116. -/
def Pkg.peerAdmits (p : Pkg) (pa n : Nat) : Bool :=
  let io := if pa / 2 ^ 43 % 2 = 0 then 0 else 9
  let e := regionBase io + 0x00040000 + 64 * (pa / 2 ^ 34 % 512)
  decide (p.readAt (e + 16) 4 / 2 ^ 31 % 2 = 1) && decide (pa % 2 ^ 34 + n ≤ p.readAt (e + 32) 8)

/-- R414 and R415: some scale-out port that may carry the peer entry of a fleet address is up and not paused. -/
def Pkg.peerPort (p : Pkg) (pa : Nat) : Bool :=
  let io := if pa / 2 ^ 43 % 2 = 0 then 0 else 9
  let mask := p.readAt (regionBase io + 0x00040000 + 64 * (pa / 2 ^ 34 % 512) + 40) 1
  let x := p.io io
  (List.range 8).any (fun i => decide (mask / 2 ^ i % 2 = 1) && x.links.contains i && !x.paused.contains i)

/-- R198, R334 and R415: whether a copy may use a translated address, for the n bytes it still has to move.
DESIGN CHOICE, log 116. -/
def Pkg.copyAllows (p : Pkg) (c : Copy) (t : Trans) (n : Nat) : Bool :=
  if t.tlb.mt = 2 then false
  else if t.tlb.mt = 4 then c.form == 3 && p.peerAdmits t.pa n
  else true

/-- The agent number of a copy's faults (R347). -/
def Copy.agent (c : Copy) : Nat := if c.form = 3 then 3 else 2

/-- A line's address translated and checked. -/
def State.copyReach (s : State) (c : Copy) (va l : Nat) (k : Acc) : Except LineStop (Trans × State) :=
  match s.copyTranslate c va k with
  | .error .outOfRange => .error (.bits (stXlat ||| stErr))
  | .error (.missing lv ea) => .error (.xlat (parkOf va lv ea false k c.agent))
  | .error (.malformed lv ea) => .error (.xlat (parkOf va lv ea true k c.agent))
  | .error .denied => .error (.bits (stPerm ||| stErr))
  | .error .wait => .error .wait
  | .ok (t, s1) =>
    if s1.pkg.copyAllows c t (64 * (c.lines - l)) = false then .error (.bits (stPerm ||| stErr))
    else if s1.pkg.homeGone t.pa then .error (.bits (stRemote ||| stErr))
    else if s1.copyReady c t.pa 64 = false ∨ (t.tlb.mt = 4 ∧ s1.pkg.peerPort t.pa = false) then .error .wait
    else
      let h := (s1.pkg.homeOf t.pa).getD c.engineDie
      .ok (t, { s1 with pkg := if k = .write then s1.pkg.hop c.engineDie h (some (s1.copyKnot c))
                                else s1.pkg.trip c.engineDie h (s1.copyKnot c) })

/-- The core of member m of a copy's task. -/
def State.copyCore (s : State) (c : Copy) (m : Nat) : Nat :=
  match s.pkg.task c.handle with
  | some t => t.cores.getD m c.owner
  | none => c.owner

/-- Where a member's registers are: in a core and bank, saved for now, or gone with the member's end.
DEDUCED, log 80. -/
inductive Whereabouts where
  | here (core bank : Nat)
  | away
  | gone
  deriving DecidableEq, Repr

/-- R198, R286 and R385: where the registers of member m of a copy's task are. DEDUCED, log 80. -/
def State.copyMember (s : State) (c : Copy) (m : Nat) : Whereabouts :=
  let k := s.copyCore c m
  if c.handle = 0 then
    let x := (s.coreAt k).bankCtx c.bank
    if x.holds ∧ x.taskh = 0 ∧ c.ended = false then .here k c.bank else .gone
  else
    match s.pkg.task c.handle with
    | none => .gone
    | some t =>
      if t.ended.contains m then .gone
      else
        match s.bankOf k c.handle with
        | some b => .here k b
        | none => .away

/-- Bytes 64i to 64i + 63 of an entry's data. -/
def entryLine (d : Lanes) (i : Nat) : BitVec 512 := d.extractLsb' (512 * i) 512

/-- The data with bytes 64i to 64i + 63 replaced. -/
def setEntryLine (d : Lanes) (i : Nat) (x : BitVec 512) : Lanes :=
  let m : Lanes := (BitVec.allOnes 512).zeroExtend 8192 <<< (512 * i)
  (d &&& ~~~m) ||| (x.zeroExtend 8192 <<< (512 * i))

/-- R200: line l of the source; the registers of a member that has ended hold a free value, and a host answers a read of
its windows (R412). DESIGN CHOICE, log 141, 144. -/
def State.readLine (s : State) (c : Copy) (l : Nat) : Except LineStop (Line × Bool × State) :=
  match c.src with
  | .memory va0 =>
    let va := va0 + 64 * l
    match s.copyReach c va l .read with
    | .error e => .error e
    | .ok (t, s1) =>
      let (x, s1) := s1.completion t.pa
      if x = 1 then .error (.bits (stRemote ||| stErr))
      else
        .ok ({ data := BitVec.ofNat 512 (s1.pkg.readAt t.pa 64)
               poison := if x = 2 then List.range 8 else (s1.pkg.poisonIn t.pa 64).map (fun w => w % 8) }, t.tlb.mt == 4, s1)
  | .lanes m e =>
    match s.copyMember c m with
    | .away => .error .wait
    | .gone => .ok ({ data := BitVec.ofNat 512 (Config.choice s.free), poison := [] }, false, { s with free := s.free + 1 })
    | .here k b =>
      let p := s.coreAt k
      let x := p.core.entry (p.bankCtx b) (e + l / 16)
      .ok ({ data := entryLine x.data (l % 16), poison := if x.poison then List.range 8 else [] }, false, s)
  | .queue _ _ => .error .wait

/-- The entry of a copy that line l belongs to has every other line landed. DEDUCED, log 81. -/
def Copy.completes (c : Copy) (l : Nat) : Bool :=
  let j := l / 16
  (List.range 16).all (fun i => decide (16 * j + i = l) || decide (c.lines ≤ 16 * j + i)
    || c.landed.contains (16 * j + i))

/-- The first line of an entry to land. -/
def Copy.opens (c : Copy) (l : Nat) : Bool := !(c.landed.any (fun x => x / 16 == l / 16))

/-- R200: an entry with line l in place. The first line of an entry to land clears its poison and gives it
the copy's TAG; where the copy ends inside the entry, the rest is zero. -/
def Copy.place (c : Copy) (l : Nat) (x : Line) (old : Entry) : Entry :=
  let d := if c.opens l then
      let last := c.lines - 16 * (l / 16)
      if last < 16 then old.data &&& ((BitVec.allOnes (512 * last)).zeroExtend 8192) else old.data
    else old.data
  { tag := c.tag, data := setEntryLine d (l % 16) x.data
    poison := (!(c.opens l) && old.poison) || !x.poison.isEmpty }

/-- A line landed in one member's lane file; the answer says whether it found the strand there. DEDUCED, log 80. -/
def State.landLanes (s : State) (c : Copy) (m e l : Nat) (x : Line) : State × Bool :=
  match s.copyMember c m with
  | .away => (s, false)
  | .gone => (s, false)
  | .here k b =>
    let p := s.coreAt k
    let cx := p.bankCtx b
    let n := e + l / 16
    let v := c.place l x (p.core.entry cx n)
    let p := { p with core := p.core.putEntry cx n v }
    (s.setCoreAt k (p.setBankCtx b { cx with dirty := cx.dirty ||| (1#256 <<< n) }), true)

/-- R112, R264: an entry becomes present in an operand queue of a member, before the pushes of instructions whose
result write is still to come. DEDUCED, log 81. -/
def State.pushAt (s : State) (k b q : Nat) (v : Entry) : State :=
  let p := s.coreAt k
  let cx := p.bankCtx b
  let l := p.core.queues.getD q []
  let later := (cx.board.filter (fun r => r.res == .queue q && decide (p.core.clock < r.due))).length
  let queues := p.core.queues.setIfInBounds q (l.take (l.length - later) ++ [v] ++ l.drop (l.length - later))
  let p := { p with core := { p.core with queues := queues } }
  s.setCoreAt k (p.setBankCtx b { cx with eventFlag := true })

/-- R264: the line that completes an entry lands once the earlier entries of its copy are present and the
queue has room. DEDUCED, log 81. -/
def State.landQueue (s : State) (c : Copy) (m q l : Nat) (x : Line) : Except LineStop (State × Copy × Bool) :=
  let j := l / 16
  let v := c.place l x ((assoc j c.staged).getD Entry.zero)
  match s.copyMember c m with
  | .away => .error .wait
  | .gone => .ok (s, c, false)
  | .here k b =>
    if c.completes l = false then .ok (s, { c with staged := assocSet j v c.staged }, true)
    else
      let p := s.coreAt k
      let busy := (p.bankCtx b).reserved q
      if c.pushed ≠ j ∨ 8 ≤ (p.core.queues.getD q []).length + busy then .error .wait
      else .ok (s.pushAt k b q v, { c with staged := assocErase j c.staged, pushed := j + 1 }, true)

/-- R200: line l written to the destination. The answer is the copy as it stands and whether the line landed
in every destination. -/
def State.writeLine (s : State) (c : Copy) (l : Nat) (x : Line) (fleet : Bool) :
    Except LineStop (State × Copy × Bool) :=
  match c.dst with
  | .memory va0 =>
    match s.copyReach c (va0 + 64 * l) l .write with
    | .error e => .error e
    | .ok (t, s1) =>
      if fleet ∧ t.tlb.mt = 4 then .error (.bits (stPerm ||| stErr))
      else
        let bytes := wordBytes t.pa 64 x.data.toNat
        let p := s1.pkg.homeWrite bytes (x.poison.map (fun w => t.pa / 8 + w)) t.tlb.snap
          (s1.pkg.die c.engineDie).cut.isNone
        let p := if t.tlb.mt = 3 then
            let io := (p.homeOf t.pa).getD 0
            p.setIo io { p.io io with dirtyPort := true }
          else p
        .ok ({ s1 with pkg := p }, c, true)
  | .lanes m e =>
    if (List.range 16).any (fun i => (if c.form = 2 then decide (c.mask / 2 ^ i % 2 = 1) else i == m)
        && s.copyMember c i == .away) then .error .wait
    else if c.form = 2 then
      let (t, all) := (List.range 16).foldl (fun (r : State × Bool) k =>
        if c.mask / 2 ^ k % 2 = 1 then
          let (t, ok) := r.1.landLanes c k e l x
          (t, r.2 && ok)
        else r) (s, true)
      .ok (t, c, all)
    else
      let (t, ok) := s.landLanes c m e l x
      .ok (t, c, ok)
  | .queue m q => s.landQueue c m q l x

/-- R202 and R350: the copy is at the head of its engine queue, or in a bobbin engine. -/
def State.atHead (s : State) (c : Copy) : Bool :=
  c.form == 3
    || (((s.coreAt c.owner).core.copies.find? (fun x => x.eq == c.eq)).map (fun x => x.id)) == some c.id

/-- R204: an earlier live copy of the same context over whose ranges line l must wait. -/
def State.heldByEarlier (s : State) (c : Copy) (l : Nat) : Bool :=
  let earlier := ((s.coreAt c.owner).core.copies ++ s.pkg.io0.bobbin ++ s.pkg.io9.bobbin).filter (fun x =>
    x.owner == c.owner && x.bank == c.bank && x.handle == c.handle && decide (x.id < c.id))
  earlier.any (fun x =>
    (match c.src with | .memory va => x.blocks c.asn (va + 64 * l) 64 false | _ => false)
      || (match c.dst with | .memory va => x.blocks c.asn (va + 64 * l) 64 true | _ => false))

/-- One side of a copy is registers. -/
def Copy.atRegisters (c : Copy) : Bool :=
  (match c.src with | .memory _ => false | _ => true) || (match c.dst with | .memory _ => false | _ => true)

/-- R263: the copy unit can move another line of a copy in this cycle: 16 lines of one copy in each cycle, and the
first of one from die SRAM of the core's own die no earlier than 22 cycles after issue. DESIGN CHOICE, log 78. -/
def State.unitFree (s : State) (c : Copy) : Bool :=
  let (cyc, id, n) := (s.coreAt c.owner).core.copyTurn
  let near := match c.src with
    | .memory va => match s.copyTranslate c va .read with
      | .ok (t, _) => isSram t.pa && s.pkg.homeOf t.pa == some (c.owner / 24)
      | .error _ => false
    | _ => false
  (c.form == 3 || !c.atRegisters || cyc != s.pkg.cyc || (id == c.id && decide (n < 16)))
    && (!near || decide (c.issuedAt + 22 ≤ s.pkg.cyc))

/-- A line of a copy moved in this cycle (R263). -/
def State.turnTaken (s : State) (c : Copy) : State :=
  if c.form = 3 ∨ c.atRegisters = false then s
  else
    let p := s.coreAt c.owner
    let (cyc, _, n) := p.core.copyTurn
    s.setCoreAt c.owner { p with core := { p.core with
      copyTurn := (s.pkg.cyc, c.id, if cyc = s.pkg.cyc then n + 1 else 1) } }

/-- Line l can be taken up. DESIGN CHOICE, log 78. -/
def State.lineReady (s : State) (c : Copy) (l : Nat) : Bool :=
  s.unitFree c && c.started && !c.stopped && c.waitXlat.isNone && decide (l < c.lines) && !c.landed.contains l && s.atHead c
    && !s.heldByEarlier c l

/-- One line of a copy moved, or what stops it. DESIGN CHOICE, log 78. -/
def State.moveLine (s : State) (c : Copy) (l : Nat) : Except LineStop (State × Copy × Bool × Bool) :=
  match s.readLine c l with
  | .error e => .error e
  | .ok (x, fleet, s1) =>
    match s1.writeLine c l x fleet with
    | .error e => .error e
    | .ok (s2, c2, all) => .ok (s2, c2, all, !x.poison.isEmpty)

/-- The event: line l of a copy lands (R200, R263), or meets what stops or holds the copy (R201, R349).
DESIGN CHOICE, log 78. -/
def execCopyLineLand (id line : Nat) (s : State) : Out :=
  .next (match s.copyOf id with
    | none => s
    | some c =>
      if s.lineReady c line = false then s
      else
        match s.moveLine c line with
        | .error .wait => s
        | .error (.bits b) => s.putCopy { c with stopped := true, status := c.status ||| b }
        | .error (.xlat k) =>
          let (p, tag) := s.pkg.postFault c.asn (if c.form = 3 then 24 * c.io else c.owner) c.bank id c.eq
            (c.form == 3) k
          ({ s with pkg := p }).putCopy { c with waitXlat := some tag }
        | .ok (t, c2, all, poisoned) =>
          let c3 := { c2 with
            landed := insertNat line c2.landed
            early := if all then c2.early + 1 else c2.early
            discard := c2.discard || !all
            status := c2.status ||| (if poisoned then stPoison else 0) ||| (if all then 0 else stDiscarded) }
          (t.putCopy c3).turnTaken c3)

/-! ### Completion (R201, R209, R385, R387) -/

/-- A copy gone from its list: the next copy of its engine queue reaches the head, and quarantine that was
its own ends (R385). -/
def State.dropCopy (s : State) (c : Copy) : State :=
  let p := s.coreAt c.owner
  let rest := p.core.copies.filter (fun x => x.id != c.id)
  let first := (rest.find? (fun x => x.eq == c.eq)).map (fun x => x.id)
  let cyc := s.pkg.cyc
  let s := s.onCopies c.owner (fun l => (l.filter (fun x => x.id != c.id)).map (fun x =>
    if c.form != 3 && some x.id == first then { x with headCyc := cyc } else x))
  let members := match s.pkg.task c.handle with
    | some t => t.cores
    | none => []
  (insertNat c.owner (members.foldl (fun l k => insertNat k l) [])).foldl (fun s k =>
    let p := s.coreAt k
    if p.core.quarLanes.isEmpty && p.core.quarQueues.isEmpty then s
    else s.setCoreAt k { p with core := { p.core with
      quarLanes := p.core.quarLanes.filter (fun e => e.2 != c.id)
      quarQueues := p.core.quarQueues.filter (fun e => e.2 != c.id) } }) s

/-- Everything a copy has to do before its status is done. -/
def Copy.finished (c : Copy) : Bool :=
  c.waitXlat.isNone && (c.stopped || (c.started && decide (c.landed.length = c.lines)))

/-- The status of a finished copy delivered: to its register or barrier while its strand lives, else as a
report item. A mode 0 arrival is a release of the strand and waits for it; so does a status whose strand is
saved (R286). DEDUCED, log 80. -/
def State.deliverStatus (s : State) (c : Copy) : State × Bool :=
  let st := c.final
  match (if c.ended then .gone else s.copyMember c c.member) with
  | .gone => ({ s with pkg := s.pkg.report c.handle 1 c.member c.eq c.dstWord.toNat st.toNat }, true)
  | .away => (s, false)
  | .here k bank =>
    -- R112: the completion sets the event flag of the context that issued the copy
    let flagged (s : State) : State :=
      let p := s.coreAt k
      s.setCoreAt k (p.setBankCtx bank { p.bankCtx bank with eventFlag := true })
    match c.bound with
    | none =>
      let p := s.coreAt k
      (flagged (s.setCoreAt k (p.setBankCtx bank ((p.bankCtx bank).setG c.dest st))), true)
    | some (n, mode) =>
      let b : BitVec 16 := st.truncate 16
      s.inCtxWith k bank (fun s =>
        let flag (s : State) : State := { s with ctx := { s.ctx with eventFlag := true } }
        if mode ≠ 0 then (flag (s.orStatus n b), true)
        else
          match s.release (s.barScope n) with
          | .ok t => (flag ((t.orStatus n b).countArrival n), true)
          | .error (.waitIn t _) => (t, false)
          | .error _ => (s, false))

/-- The event: a copy finishes and its status is written (R201, R205, R209, R384, R385). -/
def execCopyComplete (id : Nat) (s : State) : Out :=
  .next (match s.copyOf id with
    | none => s
    | some c =>
      if c.finished = false then s
      else
        let (t, ok) := s.deliverStatus c
        if ok then t.dropCopy c else t)

/-- R318: a TIME that falls within step 3 of the frequency change under way. -/
def Mgmt.relocks (m : Mgmt) (time : Nat) : Bool :=
  time != 0 && decide (timeDelta (m.switchAt + 8191) time ≤ 8191)

/-- R318: the copies of a core that start late at the end of step 3: each `cpyt` at the head of its engine queue whose
TIME fell within it. -/
def Core.startRelocked (k : Core) (m : Mgmt) : Core :=
  { k with copies := k.copies.map (fun c =>
      let head := (k.copies.find? (fun x => x.eq == c.eq)).map (fun x => x.id) == some c.id
      if c.form == 1 && !c.started && !c.stopped && head && m.relocks c.time then
        { c with started := true, late := true }
      else c) }

/-- The event: a `cpyt` at the head of its engine queue starts when its TIME is reached (R203), but within step 3 of a
frequency change (R318). -/
def execCpytStart (id : Nat) (s : State) : Out :=
  .next (match s.copyOf id with
    | none => s
    | some c =>
      if c.form == 1 && !c.started && !c.stopped && s.atHead c && timeReached s.pkg.cyc c.time
          && !(s.pkg.mgmt.switching && s.pkg.mgmt.relocks c.time) then
        s.putCopy { c with started := true, late := timeLate c.headCyc c.time }
      else s)

/-- Whether a held `cpyh` goes before another: its TIME is reached earlier, or as early and it was issued
first (R203). -/
def Copy.before (cyc : Nat) (x c : Copy) : Bool :=
  let dx := if x.time = 0 then 2 ^ 47 else timeDelta cyc x.time
  let dc := if c.time = 0 then 2 ^ 47 else timeDelta cyc c.time
  timeReached cyc x.time && (decide (dc < dx) || (dc == dx && decide (x.id < c.id)))

/-- The event: a held `cpyh` starts once its TIME is reached, in the order of R203, while fewer than 64 copies
run in its engine (R351). -/
def execCpyhStart (id : Nat) (s : State) : Out :=
  .next (match s.copyOf id with
    | none => s
    | some c =>
      let l := (s.pkg.io c.io).bobbin
      if c.form == 3 && !c.started && !c.stopped && timeReached s.pkg.cyc c.time
          && decide ((l.filter (fun x => x.started)).length < 64)
          && !(l.any (fun x => !x.started && !x.stopped && x.before s.pkg.cyc c)) then
        s.putCopy { c with started := true }
      else s)

/-- The event: a NAK, or retries exhausted, stops a copy that a scale-out port carries (R415).
DESIGN CHOICE, log 116. -/
def execRdmaNak (id : Nat) (s : State) : Out :=
  .next (match s.copyOf id with
    | none => s
    | some c =>
      if c.form == 3 && c.started && !c.stopped && !c.finished then
        s.putCopy { c with stopped := true, status := c.status ||| stRemote ||| stErr }
      else s)

/-! ### Cancelling (R206) -/

/-- A copy cancelled: it writes its status once the lines in flight have landed. -/
def Copy.cancel (c : Copy) : Copy :=
  { c with stopped := true, waitXlat := none, status := c.status ||| stCancelled ||| stErr }

/-- R328: a copy into the registers of another member than its own. -/
def Copy.putsAway (c : Copy) : Bool :=
  match c.dst with
  | .memory _ => false
  | .lanes m _ => if c.form = 2 then c.mask != 2 ^ c.member else m != c.member
  | .queue m _ => m != c.member

/-- R328: the live copies of a task into the registers of another member. -/
def State.puts (s : State) (h : Word) : List Copy :=
  (s.coreNo :: s.peers.map (fun p => p.1)).flatMap (fun k =>
    (s.coreAt k).core.copies.filter (fun c => c.handle == h && c.putsAway))

/-- A put whose queue is full in a member that has stopped: it lands only after that member's restore.
DESIGN CHOICE, log 143. -/
def State.putStuck (s : State) (c : Copy) : Bool :=
  match c.dst with
  | .queue m q =>
    match s.copyMember c m with
    | .here k b =>
      let p := s.coreAt k
      (p.bankCtx b).stopped && decide (8 ≤ (p.core.queues.getD q []).length + (p.bankCtx b).reserved q)
    | _ => false
  | _ => false

/-- R328: the scheduler cancels the puts of a stopped team that cannot land. DESIGN CHOICE, log 143. -/
def State.cancelStuck (s : State) (h : Word) : State :=
  (s.puts h).foldl (fun s c => if s.putStuck c && !c.finished then s.putCopy c.cancel else s) s

/-- R206: which copies `cpycancel` reaches. -/
def State.cancels (s : State) (mask : Nat) (c : Copy) : Bool :=
  c.owner == s.coreNo && c.bank == s.ctx.bank && c.handle == s.ctx.taskh
    && decide (mask / 2 ^ c.eq % 2 = 1) && !c.finished

def execCpycancel (d a : BitVec 6) (s : State) : Out :=
  let mask := bits (s.gr a) 15 0
  let hit := s.cancels mask
  let n := ((s.core.copies ++ s.pkg.io0.bobbin ++ s.pkg.io9.bobbin).filter hit).length
  .next ((s.onCopies s.coreNo (fun l => l.map (fun c => if hit c then c.cancel else c))).setGr d (word n))

end Sys2Proof.Machine
end

