-- ==== Sys2Proof/Machine/Publish.lean ====
section
/-! DEFINITION. Queue operations (R213) and publication to the host (R214, R413). -/

namespace Sys2Proof.Machine

/-! ### QOP (R213) -/

/-- R213: the queue that g[a] names, which the context must own (R25). -/
def State.ownQueue (s : State) (a : BitVec 6) : M Nat :=
  let q := bits (s.gr a) 1 0
  if s.ctx.owns q then .ok q else .error (.trap cPermission (word (0x10000 + q)))

def execQlen (d a : BitVec 6) (s : State) : Out :=
  finish s (do
    let q ← s.ownQueue a
    .ok (s.setGr d (word (s.queue q).length)))

/-- The head entry's tag in bits 4:0, EMPTY in bit 8, entries present in bits 12:9. -/
def execQpeek (d a : BitVec 6) (s : State) : Out :=
  finish s (do
    let q ← s.ownQueue a
    let l := s.queue q
    let head := match l with
      | [] => 256
      | e :: _ => e.tag.toNat
    .ok (s.setGr d (word (head + 512 * l.length))))

/-- Live copies of the running context whose destination is its own queue q. -/
def State.copiesInto (s : State) (q : Nat) : Bool :=
  s.core.copies.any (fun c => c.bank == s.ctx.bank && c.handle == s.ctx.taskh
    && c.dst == .queue s.ctx.member q)

/-- R213: waits for every earlier push of the context, then discards every entry. DEDUCED, log 82. -/
def execQflush (a : BitVec 6) (s : State) : Out :=
  finish s (do
    let q ← s.ownQueue a
    if s.copiesInto q || decide (0 < s.reserved q) then .error (.wait 10)
    else .ok (s.setQueue q []))

/-! ### HOST (R214, R413) -/

/-- R412 and R413: everything sent towards either port by the strand's die, or known to the strand, has been
delivered there. DESIGN CHOICE, log 83. -/
def State.portsReady (s : State) : Bool :=
  s.pkg.homeReady s.core.die 0 s.core.knotv && s.pkg.homeReady s.core.die 9 s.core.knotv

/-- R214: the counter's address: a doubleword of a host-visible window. -/
def State.counter (s : State) (a : BitVec 6) (k : Acc) : M (Trans × State) := do
  let va := s.gr a
  aligned va 8
  let (t, _, s1) ← s.reachWindow va k
  if isHostWindow t.pa = false then .error (.late s cPermission va)
  else do
    s.interlock va.toNat 8 (k == .rmw)
    .ok (t, s1)

/-- R413: both ports flushed, the counter written, and its acknowledgement still to come. DESIGN CHOICE, log 83. -/
def State.writeCounter (s : State) (t : Trans) (d : BitVec 6) : State :=
  let new := word (s.pkg.readAt t.pa 8 + 1)
  let p := s.pkg.homeWrite (wordBytes t.pa 8 new.toNat) [] t.tlb.snap (s.pkg.die s.core.die).cut.isNone
  let p := { p with io0 := { p.io0 with dirtyPort := false }, io9 := { p.io9 with dirtyPort := false }
                    lastPublish := assocSet t.pa true p.lastPublish }
  ({ s with pkg := p }).setGr d new

/-- R214 and R413: `publish`: the release, and once everything it covers has reached the ports, the counter's
write. A `publish` of the counter that the host has not acknowledged holds it. DESIGN CHOICE, log 74, 83. -/
def execPublish (d a : BitVec 6) (s : State) : Out :=
  finish s (do
    let (t, s1) ← s.counter a .rmw
    match s.underWay .released with
    | some q =>
      if s1.portsReady = false ∨ assoc t.pa s1.pkg.lastPublish = some true then .error (.wait 7)
      else if s1.pkg.poisonedAt t.pa 8 then .error (.late (s1.settle q) cPoison (s.gr a))
      else .ok ((s1.settle q).writeCounter t d)
    | none =>
      let s2 ← s1.release 6
      if s2.portsReady = false ∨ assoc t.pa s2.pkg.lastPublish = some true then
        .error (.waitIn (s2.markReleased (s.gr a).toNat t.pa 8) 7)
      else if s2.pkg.poisonedAt t.pa 8 then .error (.late s2 cPoison (s.gr a))
      else .ok (s2.writeCounter t d))

/-- R214: the end of `pubwait`: the acquire at host scope and the value read. -/
def State.pubDone (s : State) (pa x : Nat) (d : BitVec 6) : State :=
  ((s.acquire 6 (s.pkg.vOf ((s.pkg.homeOf pa).getD 0))).setGr d (word x)).waited

/-- R214: `pubwait`. -/
def execPubwait (d a b : BitVec 6) (s : State) : Out :=
  finish s (do
    let (t, s1) ← s.counter a .read
    let h := (s1.pkg.homeOf t.pa).getD 0
    if s1.pkg.homeReady s.core.die h s.core.knotv = false then .error (.wait 7)
    else if s1.pkg.poisonedAt t.pa 8 then .error (.late s1 cPoison (s.gr a))
    else
      let x := s1.pkg.readAt t.pa 8
      if (s.gr b).toNat ≤ x then .ok (s1.pubDone t.pa x d)
      else .error (.waitIn (s1.waitFor .pubwait d.toNat t.pa (s.gr b).toNat) 12))

/-- The event: a stalled `pubwait` reads its counter at or above the value it waits for (R214, R300). -/
def execPubwaitSatisfied (s : State) : Out :=
  .next (match s.ctx.wait with
    | none => s
    | some w =>
      let x := s.pkg.readAt w.place 8
      if w.kind == .pubwait && decide (w.value ≤ x)
          && s.pkg.homeReady s.core.die ((s.pkg.homeOf w.place).getD 0) s.core.knotv then
        (s.pubDone w.place x (BitVec.ofNat 6 w.dest)).waitOver w
      else s)

/-- The event: the flush read behind the counter writes of a port has completed; the host has acknowledged
them, and the port raises MSI-X vector 3 (R214, R413). DESIGN CHOICE, log 83. -/
def execPublishAck (io : Nat) (s : State) : Out :=
  .next (
    let mine (e : Nat × Bool) : Bool := e.2 && (s.pkg.homeOf e.1).getD 0 == (if io = 9 then 9 else 0)
    if s.pkg.lastPublish.any mine then
      { s with pkg := ({ s.pkg with lastPublish := s.pkg.lastPublish.filter (fun e => !mine e) }).msi io 3 }
    else s)

end Sys2Proof.Machine
end

