-- ==== Sys2Proof/Machine/Tasks.lean ====
section
/-! DEFINITION. Tasks as the I/O dies run them (R369 to R386): taking a record into the pricking table,
ranges and aliases, placement, the start of a strand, the end of strands and tasks, and the passing of
faults. -/

namespace Sys2Proof.Machine

/-! ### Reading a queue's memory (R372) -/

/-- Why an I/O die's read has no value. -/
inductive QErr where
  | wait
  | cause (c : Nat)
  deriving DecidableEq, Repr

/-- A doubleword of a queue's address space as its I/O die reads it; `ready` says whether the die waits for
the home. -/
def Pkg.qword (p : Pkg) (q va : Nat) (ready : Bool) : Except QErr (Nat × Pkg) :=
  match p.qwalk q va .read with
  | .error .denied => .error (.cause cPermission)
  | .error .wait => .error .wait
  | .error _ => .error (.cause cTranslation)
  | .ok (pa, p1) =>
    if ready && !p1.ioReady (queueIo q) pa then .error .wait
    else if p1.poisonedAt pa 8 then .error (.cause cPoison)
    else .ok (p1.readAt pa 8, p1)

/-- n doublewords from va upward. -/
def Pkg.qwords (p : Pkg) (q va : Nat) (ready : Bool) : Nat → Except QErr (List Nat × Pkg)
  | 0 => .ok ([], p)
  | n + 1 =>
    match p.qword q va ready with
    | .error e => .error e
    | .ok (x, p1) =>
      match p1.qwords q (va + 8) ready n with
      | .error e => .error e
      | .ok (l, p2) => .ok (x :: l, p2)

/-- The bytes of doublewords, lowest address first. -/
def wordsBytes (l : List Nat) : List Byte := (l.map (fun x => (wordBytes 0 8 x).map (fun b => b.2))).flatten

/-- n bytes at an offset of a list, little-endian. -/
def leAt (l : List Byte) (off n : Nat) : Nat := ((l.drop off).take n).foldr (fun b x => b.toNat + 256 * x) 0

/-! ### Program images (R371) -/

def Task.teamLog (t : Task) : Nat := leAt t.header 2 1 % 8
/-- The team size. A darning task has one member (R360). -/
def Task.size (t : Task) : Nat := if t.darning then 1 else 2 ^ t.teamLog
def Task.isGang (t : Task) : Bool := !t.darning && decide (leAt t.header 2 1 / 128 % 2 = 1)
def Task.trailer (t : Task) : Nat := leAt t.header 4 2
def Task.recWord (t : Task) (i : Nat) : Nat := (t.words.getD i 0).toNat
/-- Fields of CTL (R369). -/
def Task.ctlClass (t : Task) : Nat := nbits (t.recWord 7) 2 0
def Task.ctlDie (t : Task) : Nat := nbits (t.recWord 7) 11 8
def Task.ctlCluster (t : Task) : Nat := nbits (t.recWord 7) 14 12

/-- R371 and R372: a header whose values keep R38, R40, R43 and R72. -/
def headerLegal (h : List Byte) : Bool :=
  decide (leAt h 0 2 = 1) && decide (leAt h 2 1 % 8 ≤ 4) && decide (leAt h 2 1 / 8 % 16 = 0)
    && decide (leAt h 3 1 < 16)
    && decide (leAt h 6 2 ≤ 256 ∧ leAt h 6 2 % 16 = 0) && decide (leAt h 8 1 ≤ 128 ∧ leAt h 8 1 % 8 = 0)
    && decide (leAt h 9 1 ≤ 232 ∧ leAt h 9 1 % 8 = 0)
    && decide (leAt h 10 1 ≤ 228 ∧ leAt h 10 1 % 4 = 0 ∧ leAt h 11 1 ≤ 11)
    && decide (leAt h 12 4 = 0)
    && (List.range 4).all (fun i => mfcLegal (word (leAt h (16 + 8 * i) 8)))
    && decide (leAt h 48 8 % 4 = 0) && decide (leAt h 56 8 = 0)

/-- R369: a launch record that keeps its limits. -/
def recordLegal (w : List Nat) : Bool :=
  let ctl := w.getD 7 0
  decide (w.getD 0 0 % 64 = 0) && decide (w.getD 5 0 % 64 = 0) && decide (w.getD 6 0 % 64 = 0)
    && decide (nbits ctl 63 15 = 0 ∧ nbits ctl 7 3 = 0 ∧ nbits ctl 11 8 ≤ 8 ∧ nbits ctl 14 12 ≤ 6)

/-- R370: entry i of a range list that keeps its limits. -/
def rangeLegal (i lo hi : Nat) : Bool :=
  decide (nbits hi 63 37 = 0 ∧ nbits hi 36 33 ≤ 8) && (decide (8 ≤ i) || decide (nbits hi 32 32 = 0))
    && decide (lo < 2 ^ 64)

/-- R370: entry i of a range list. -/
def rangeOf (lo hi : Nat) : Range :=
  { base := lo, len := hi % 2 ^ 32, ren := decide (nbits hi 32 32 = 1), reg := nbits hi 36 33, resolved := lo }

/-- R369 and R378: whether the placement the record asks for can ever be met. -/
def placeable (p : Pkg) (size ctl : Nat) : Bool :=
  (decide (nbits ctl 14 12 = 0) || decide (size ≤ 4))
    && (decide (nbits ctl 11 8 = 0) || !p.removed (nbits ctl 11 8))

/-! ### Ranges and the pricking table (R370, R373 to R375) -/

/-- R370: two spans of bytes touch a common 64-byte line. -/
def spansMeet (b1 n1 b2 n2 : Nat) : Bool :=
  decide (0 < n1 ∧ 0 < n2 ∧ b1 / 64 ≤ (b2 + n2 - 1) / 64 ∧ b2 / 64 ≤ (b1 + n1 - 1) / 64)

/-- The tasks whose resolved ranges, of those `sel` takes, meet a span. -/
def meeting (l : List Task) (sel : Task → List Range) (base len : Nat) : List Word :=
  (l.filter (fun u => (sel u).any (fun r => spansMeet base len r.resolved r.len))).map (fun u => u.handle)

/-- A task's ranges as far as they are resolved, with what orders it. -/
structure Pricked where
  after : List Word
  aliases : List Alias
  afterAlias : List Nat
  seq : Nat
  deriving DecidableEq, Repr

/-- Live aliases of a queue that meet a span. -/
def aliasesMeeting (l : List Alias) (q base len : Nat) : List Alias :=
  l.filter (fun a => a.queue == q && spansMeet base len a.base a.len)

/-- A range that stays at its own base: ordered after the tasks `hs` and the retirement of every alias it
meets. -/
def Pricked.own (k : Pricked) (q base len : Nat) (hs : List Word) : Pricked :=
  { k with after := k.after ++ hs
           afterAlias := k.afterAlias ++ (aliasesMeeting k.aliases q base len).map (fun a => a.id) }

/-- R375: a read range. -/
def Pricked.read (k : Pricked) (t : Task) (live : List Task) (r : Range) : Pricked × Range :=
  if r.len = 0 then (k, r)
  else
    let inside (a : Alias) : Bool := a.queue == t.queue && !a.superseded
      && decide (a.base ≤ r.base ∧ r.base + r.len ≤ a.base + a.len)
    match k.aliases.find? inside with
    | some a =>
      let k := { k with
        after := if live.any (fun u => u.handle == a.writer) then k.after ++ [a.writer] else k.after
        aliases := k.aliases.map (fun b => if b.id = a.id then { b with readers := b.readers ++ [t.handle] } else b) }
      (k, { r with resolved := a.buffer + (r.base - a.base) })
    | none => (k.own t.queue r.base r.len (meeting live (fun u => u.writes) r.base r.len), r)

/-- R374: the free buffer of a queue's pool with the lowest number. -/
def freeBuffer (pool : Nat) (l : List Alias) (q : Nat) : Option Nat :=
  ((List.range (nbits pool 13 8)).map (fun b => nbits pool 55 16 * 65536 + b * 2 ^ (pool % 32))).find?
    (fun a => !l.any (fun x => x.queue == q && x.buffer == a))

/-- R374 and R375: a write range. -/
def Pricked.write (k : Pricked) (pool : Nat) (t : Task) (live : List Task) (r : Range) : Pricked × Range :=
  if r.len = 0 then (k, r)
  else
    let hs := meeting live (fun u => u.reads ++ u.writes) r.base r.len
    let met := aliasesMeeting k.aliases t.queue r.base r.len
    let may := r.ren && (!hs.isEmpty || !met.isEmpty) && decide (r.len ≤ 2 ^ (pool % 32))
      && !t.reads.any (fun x => spansMeet r.base r.len x.base x.len)
      && met.all (fun a => a.base == r.base && a.len == r.len) && decide (k.aliases.length < 1024)
    match (if may then freeBuffer pool k.aliases t.queue else none) with
    | some b =>
      let a : Alias := { id := k.seq, queue := t.queue, base := r.base, len := r.len, buffer := b
                         writer := t.handle, readers := [], superseded := false }
      let old := k.aliases.map (fun x =>
        if x.queue = t.queue ∧ x.base = r.base ∧ x.len = r.len then { x with superseded := true } else x)
      ({ k with aliases := old ++ [a], seq := k.seq + 1 }, { r with resolved := b })
    | none => (k.own t.queue r.base r.len hs, r)

/-- A list of ranges resolved in order. -/
def Pricked.all (f : Pricked → Range → Pricked × Range) : Pricked → List Range → Pricked × List Range
  | k, [] => (k, [])
  | k, r :: l =>
    let (k1, x) := f k r
    let (k2, m) := Pricked.all f k1 l
    (k2, x :: m)

/-- A list without repeats, in its own order. -/
def nodup {β : Type} [DecidableEq β] (l : List β) : List β :=
  l.foldl (fun m x => if m.contains x then m else m ++ [x]) []

/-- R377: TAKEN tasks that nothing holds back become READY. -/
def Pkg.wakeTasks (p : Pkg) (io : Nat) : Pkg :=
  let x := p.io io
  let (l, n) := x.tasks.foldl (fun (a : List Task × Nat) t =>
    if t.state = .taken ∧ t.after.isEmpty ∧ t.afterAlias.isEmpty then
      (a.1 ++ [{ t with state := .ready, since := p.cyc, seq := a.2 }], a.2 + 1)
    else (a.1 ++ [t], a.2)) ([], p.nextSeq)
  { p.setIo io { x with tasks := l } with nextSeq := n }

/-! ### Completion records (R386) -/

/-- Whether a handle is a darning task's (R382). -/
def isDarning (h : Word) : Bool := bit h 61

/-- The virtual address of a task's completion record: the first half of its fault entry for a darning task
(R382). -/
def Pkg.recordOf (p : Pkg) (h : Word) : Nat :=
  let q := bits h 47 32
  if isDarning h then
    let (base, size) := p.qRing q 24
    base + 128 * (bits h 31 0 % 2 ^ size)
  else p.completionRecord q (bits h 31 0)

/-- R386: a completion record, every other field first and STATE last. -/
def Pkg.writeCompletion (p : Pkg) (t : Task) (outcome cause member open_ : Nat) : Pkg :=
  let a := p.recordOf t.handle
  let fault := match t.faultAt with | some f => f + 64 | none => 0
  let head := [fault, t.darnHandle.toNat, t.ridx % 2 ^ 32, t.taken, p.cyc, (t.exits.getD 0 0).toNat]
  let p := p.qwrite t.queue a 8 t.handle.toNat
  let p := p.qwriteWords t.queue (a + 16) head
  let p := if t.darning then p
    else p.qwriteWords t.queue (a + 64)
      ((List.range 15).map (fun i => (t.exits.getD (i + 1) 0).toNat)
        ++ (List.range 4).map (fun i => ((t.writes.getD i { base := 0, len := 0, ren := false, reg := 0, resolved := 0 }).resolved))
        ++ [0, 0, 0, 0, 0])
  let st := stateWord outcome cause member t.nitems (decide (0 < open_))
  let io := handleIo t.handle
  let x := p.io io
  let f : Finished := { handle := t.handle, cores := t.cores, queue := t.queue, record := a, state := word st, open_ := open_ }
  let p := p.setIo io { x with finished := x.finished.filter (fun g => !(g.queue == t.queue && g.record == a)) ++ [f] }
  p.writeState t.queue a st

/-- A task that is not live yet, as its record gives it. -/
def Task.fresh (h : Word) (q i : Nat) (w : List Word) (cyc : Nat) : Task :=
  { handle := h, queue := q, index := i, darning := false, words := w, header := [], stack := 0, reads := []
    writes := [], after := [], afterAlias := [], state := .taken, cls := 0, since := cyc, seq := 0, order := 0
    cores := [], bank := 0, allocWord := 0, saves := [], started := [], ended := [], yielded := [], joined := []
    gang := false, faultAt := none, faultRecord := [], cause := 0, faultMember := 0, darnHandle := 0
    exits := List.replicate 16 0, taken := cyc, nitems := 0, ridx := 0 }

/-! ### Taking a record (R372, R373) -/

/-- What a record's reads give: its words, its header, its range list and the stack word. -/
structure Taken where
  words : List Nat
  header : List Byte
  ranges : List Nat
  stack : Nat
  deriving DecidableEq, Repr

/-- R372: the reads of a record at index i, or the cause of a refusal; the record itself stands in the
ring. -/
def Pkg.readRecord (p : Pkg) (q : Nat) (w : List Nat) : Except QErr (Taken × Pkg) :=
  if recordLegal w = false then .error (.cause cIllegalOpcode)
  else
    match p.qwords q (w.getD 0 0 - 64) true 8 with
    | .error e => .error e
    | .ok (h, p1) =>
      match (if w.getD 6 0 = 0 then .ok ([], p1) else p1.qwords q (w.getD 6 0) true 24) with
      | .error e => .error e
      | .ok (r, p2) =>
        match (if w.getD 1 0 = 0 then .ok (0, p2) else p2.qword q (w.getD 1 0 + 56) true) with
        | .error e => .error e
        | .ok (st, p3) =>
          let hb := wordsBytes h
          if headerLegal hb = false then .error (.cause cIllegalOpcode)
          else if (List.range 12).all (fun i => rangeLegal i (r.getD (2 * i) 0) (r.getD (2 * i + 1) 0)) = false then
            .error (.cause cIllegalOpcode)
          else if placeable p3 (2 ^ (leAt hb 2 1 % 8)) (w.getD 7 0) = false then .error (.cause cIllegalOpcode)
          else .ok ({ words := w, header := hb, ranges := r, stack := st }, p3)

/-- HEAD of a queue advanced past a record. -/
def Pkg.advanceHead (p : Pkg) (q : Nat) : Pkg :=
  let h := (p.qHead q + 1) % 2 ^ 32
  p.setIndex q (fun s => { s with head := h }) 56 h

/-- R373 to R375: a task entered in the pricking table. -/
def Pkg.enterTask (p : Pkg) (io q i : Nat) (h : Word) (k : Taken) : Pkg :=
  let x := p.io io
  let range (j : Nat) : Range := rangeOf (k.ranges.getD (2 * j) 0) (k.ranges.getD (2 * j + 1) 0)
  let reads := (List.range 8).map range
  let writes := (List.range 4).map (fun j => range (8 + j))
  let live := x.tasks.filter (fun u => u.queue == q && !u.darning)
  let t0 : Task := { Task.fresh h q i (k.words.map word) p.cyc with
    header := k.header, stack := word k.stack, reads := reads, writes := writes, order := p.nextSeq
    cls := nbits (k.words.getD 7 0) 2 0 }
  let k0 : Pricked := { after := [], aliases := x.aliases, afterAlias := [], seq := p.nextSeq + 1 }
  let (k1, rs) := Pricked.all (fun k r => k.read t0 live r) k0 reads
  let (k2, ws) := Pricked.all (fun k r => k.write (p.qget q 32 8) t0 live r) k1 writes
  let t := { t0 with reads := rs, writes := ws, after := nodup k2.after, afterAlias := nodup k2.afterAlias }
  ({ p.setIo io { x with tasks := x.tasks ++ [t], aliases := k2.aliases } with nextSeq := k2.seq }).wakeTasks io

/-- The event: an I/O die takes record HEAD of a resident queue, once its slot is MAPPED (R367, R369 to R375). DEDUCED, log 106. -/
def execTakeRecord (io q : Nat) (s : State) : Out :=
  .next (
    let p := s.pkg
    let io := if io = 9 then 9 else 0
    match p.slot q with
    | none => s
    | some sl =>
      if sl.state ≠ .mapped ∨ p.cyc < sl.ready ∨ queueIo q ≠ io ∨ p.qEn q = false ∨ sl.head = sl.tail
          ∨ 16384 ≤ ((p.io io).tasks.filter (fun t => !t.darning)).length then s
      else
        let i := sl.head
        let (base, size) := p.qRing q 0
        match p.qwords q (base + 64 * (i % 2 ^ size)) true 8 with
        | .error .wait => s
        | .error (.cause _) => { s with pkg := p.queueFault q }
        | .ok (w, p1) =>
          let h := word (2 ^ 62 + q * 2 ^ 32 + i)
          match p1.readRecord q w with
          | .error .wait => s
          | .error (.cause c) =>
            { s with pkg := (p1.advanceHead q).writeCompletion (Task.fresh h q i (w.map word) p1.cyc) 3 c 0 0 }
          | .ok (k, p2) => { s with pkg := (p2.advanceHead q).enterTask io q i h k })

/-- R375: whether an alias may leave the table: its writer and its redirected readers have ended, and, unless
a newer alias supersedes it, no task taken before the writer touches the original range. -/
def IODie.aliasDone (x : IODie) (a : Alias) : Bool :=
  let alive (h : Word) : Bool := x.tasks.any (fun t => t.handle == h)
  !alive a.writer && !a.readers.any alive
    && (a.superseded || !x.tasks.any (fun t => t.queue == a.queue && decide (t.order < a.id)
      && (t.reads ++ t.writes).any (fun r => spansMeet a.base a.len r.resolved r.len)))

/-- R375: `n` bytes of a buffer copied onto the original range, in pieces that stay within one line on both
sides; poison goes along (R355). -/
def Pkg.copyBack (p : Pkg) (q src dst n : Nat) : Nat → Except QErr Pkg
  | 0 => .ok p
  | fuel + 1 =>
    if n = 0 then .ok p
    else
      let k := Nat.min n (Nat.min (64 - src % 64) (64 - dst % 64))
      match p.qwalk q src .read with
      | .error e => .error (if e = .wait then .wait else .cause cTranslation)
      | .ok (a, p1) =>
        match p1.qwalk q dst .write with
        | .error e => .error (if e = .wait then .wait else .cause cTranslation)
        | .ok (b, p2) =>
          let io := queueIo q
          if p2.ioReady io a && p2.ioReady io b then
            let poison := ((List.range k).filter (fun i => p2.poisonedAt (a + i) 1)).map (fun i => (b + i) / 8)
            (p2.dieWrite io (bytesAt b (p2.mem.readBytes a k)) poison).copyBack
              q (src + k) (dst + k) (n - k) fuel
          else .error .wait

/-- The event: an alias retires, or is freed without its copy where a newer one supersedes it (R375). -/
def execAliasRetire (io index : Nat) (s : State) : Out :=
  .next (
    let io := if io = 9 then 9 else 0
    let x := s.pkg.io io
    match x.aliases[index]? with
    | none => s
    | some a =>
      if x.aliasDone a = false ∨ (!a.superseded && !s.pkg.canAdvance io) = true then s
      else
        let copied : Except QErr Pkg := if a.superseded then .ok s.pkg
          else match s.pkg.copyBack a.queue a.buffer a.base a.len a.len with
            | .ok p => .ok (p.ioRelease io)
            | .error .wait => .error .wait
            | .error (.cause _) => .ok (s.pkg.queueFault a.queue)
        match copied with
        | .error _ => s
        | .ok copied =>
          let y := copied.io io
          let p := copied.setIo io { y with
            aliases := y.aliases.filter (fun b => b.id != a.id)
            tasks := y.tasks.map (fun t => { t with afterAlias := t.afterAlias.filter (fun i => i != a.id) }) }
          { s with pkg := p.wakeTasks io })

end Sys2Proof.Machine
end

