-- ==== Sys2Proof/Machine/Strands.lean ====
section
/-! DEFINITION. The life of a strand: placement (R378, R379), the start (R18, R47, R376), the TASK
instructions (R122 to R128), the end of strands and tasks (R377, R384, R385), and the passing of faults
(R382, R383). -/

namespace Sys2Proof.Machine

/-- The running strand's task. -/
def State.myTask (s : State) : Option Task := s.pkg.task s.ctx.taskh

/-! ### The end of a strand (R384, R385) -/

/-- R385: the physical entries and the queues of a member's registers that a live copy still writes. -/
def Copy.targets (c : Copy) (m : Nat) (cx : Ctx) : List Nat × List Nat :=
  let n := (c.lines + 15) / 16
  match c.dst with
  | .lanes i e =>
    if (if c.form = 2 then decide (c.mask / 2 ^ m % 2 = 1) else i == m) then
      ((List.range n).map (fun j => cx.lfBase + e + j), [])
    else ([], [])
  | .queue i q => if i = m then ([], [q]) else ([], [])
  | .memory _ => ([], [])

/-- The live copies that the members of a task have issued. -/
def State.taskCopies (s : State) (h : Word) (cores : List Nat) : List Copy :=
  ((cores.map (fun k => (s.coreAt k).core.copies)).flatten ++ s.pkg.io0.bobbin ++ s.pkg.io9.bobbin).filter
    (fun c => c.handle == h)

/-- A context whose strand has ended: its bank holds no context. -/
def Ctx.vacated (c : Ctx) : Ctx :=
  { c with holds := false, halted := false, parked := none, parkedWith := false, stopped := false, wait := none, follower := false
           bind := none, live := [], held := [], resume := false, back := false, board := [], pending := [], remoteError := none, sfuTrap := none
           convoy := [], convoyWords := 0, chained := false, replayed := false, skip1 := false, skip2 := false
           snapLane := [], stall := 0, saved := false, eventFlag := false, fences := [], cut := none }

/-- R381, R384 and R385: the strand in bank b of core k ends: its copies run on without it, what live copies
of its task still write is quarantined, and its barriers lose INIT. DEDUCED, log 111. -/
def State.endStrand (s : State) (k b : Nat) : State :=
  let cx := (s.coreAt k).bankCtx b
  let h := cx.taskh
  let cores := match s.pkg.task h with
    | some t => if t.cores.isEmpty then [k] else t.cores
    | none => [k]
  let hits := (s.taskCopies h cores).map (fun c =>
    let t := c.targets cx.member cx
    (t.1.map (fun e => (e, c.id)), t.2.map (fun q => (q, c.id))))
  let s := s.onCopies k (fun l => l.map (fun c =>
    if c.owner = k ∧ c.bank = b ∧ c.handle = h then { c with ended := true } else c))
  let p := s.coreAt k
  let core := if (s.pkg.task h).isSome then p.core else p.core.clearBars h
  let core := { core with
    quarLanes := core.quarLanes ++ (hits.map (fun x => x.1)).flatten
    quarQueues := core.quarQueues ++ (hits.map (fun x => x.2)).flatten
    cache := core.cache.filter (fun l => l.bank != b)
    undo := core.undo.filter (fun u => u.bank != b) }
  let t := s.setCoreAt k ({ p with core := core }.setBankCtx b cx.vacated)
  -- no fence of the strand holds its buffered writes any longer (R294)
  let free (e : FwdEntry) : FwdEntry := if e.core = k ∧ e.bank = b then { e with fences := 0 } else e
  let cl := clusterOf k
  if cx.fences.isEmpty then t else { t with pkg := t.pkg.setBuffer cl ((t.pkg.buffer cl).map free) }

/-! ### The end of a task (R377, R382, R386) -/

/-- The darning task of a task whose fault entry is taken (R360, R382). -/
def Task.darningTask (t : Task) (entryVa : Nat) (header : List Byte) (p : Pkg) : Task :=
  let h := t.darnHandle
  let w := [t.words.getD 5 0, t.words.getD 1 0, t.handle, word (entryVa + 64), 0, 0, 0, t.words.getD 7 0]
  { Task.fresh h t.queue (bits h 31 0) w p.cyc with
    darning := true, header := header, stack := t.stack, state := .ready, cls := t.ctlClass
    seq := p.nextSeq, order := p.nextSeq }

/-- R372 and R382: the darning task made READY, or refused where its image breaks R371. DEDUCED, log 94. -/
def Pkg.startDarning (p : Pkg) (t : Task) : Pkg :=
  match t.faultAt with
  | none => p
  | some va =>
    if t.darnHandle = 0 then p
    else
      match p.qwords t.queue (t.recWord 5 - 64) false 8 with
      | .error (.cause c) => p.writeCompletion (t.darningTask va [] p) 3 c 0 0
      | .error .wait => p
      | .ok (h, p1) =>
        let hb := wordsBytes h
        if headerLegal hb = false then p1.writeCompletion (t.darningTask va [] p1) 3 cIllegalOpcode 0 0
        else
          let io := handleIo t.handle
          let x := p1.io io
          { p1.setIo io { x with tasks := x.tasks ++ [t.darningTask va hb p1] } with nextSeq := p1.nextSeq + 1 }

/-- R377 and R386: a task ends with an outcome: its pricking entry is freed, its completion record written,
the tasks ordered after it may become READY, and the darning task of a FAULTED one does. DEDUCED, log 94. -/
def State.endTask (s : State) (h : Word) (outcome cause member : Nat) : State :=
  match s.pkg.task h with
  | none => s
  | some t =>
    let io := handleIo h
    let x := s.pkg.io io
    let open_ := (s.taskCopies h t.cores).length + (x.reports.filter (fun r => r.handle == h)).length
    let p := s.pkg.setIo io { x with
      tasks := (x.tasks.filter (fun u => u.handle != h)).map (fun u => { u with after := u.after.filter (fun a => a != h) }) }
    let p := { p with teamBars := p.teamBars.filter (fun b => b.handle != h)
                      gangs := p.gangs.filter (fun g => g.handle != h) }
    let p := p.writeCompletion t outcome cause member open_
    let p := if outcome = 2 then p.startDarning t else p
    t.cores.foldl (fun s k => let x := s.coreAt k; s.setCoreAt k { x with core := x.core.clearBars h })
      { s with pkg := p.wakeTasks io }

/-- R382: the next entry of the queue's fault ring, taken for a STOPPING task while the ring has room. -/
def Pkg.takeFaultEntry (p : Pkg) (h : Word) : Pkg :=
  match p.task h with
  | none => p
  | some t =>
    let (base, size) := p.qRing t.queue 24
    let i := p.qFidx t.queue
    if t.state ≠ .stopping ∨ t.faultAt.isSome ∨ 2 ^ size ≤ diff32 i (p.qget t.queue 76 4) then p
    else
      let va := base + 128 * (i % 2 ^ size)
      let p := p.qwriteWords t.queue (va + 64) ((List.range 8).map (fun j => leAt t.faultRecord (8 * j) 8))
      let n := (i + 1) % 2 ^ 32
      let p := p.setIndex t.queue (fun s => { s with fidx := n }) 72 n
      let d := if t.darning ∨ t.recWord 5 = 0 then 0 else word (2 ^ 62 + 2 ^ 61 + t.queue * 2 ^ 32 + i)
      p.setTask h (fun t => { t with faultAt := some va, darnHandle := d })

/-- R383: a STOPPING task with its fault entry, every started member of which has stopped, ends FAULTED. -/
def State.finishStopping (s : State) (h : Word) : State :=
  let s := { s with pkg := s.pkg.takeFaultEntry h }
  match s.pkg.task h with
  | none => s
  | some t =>
    if t.state = .stopping ∧ t.faultAt.isSome ∧ t.started.all (fun m => t.ended.contains m) then
      s.endTask h 2 t.cause t.faultMember
    else s

/-- R360 and R382: the 64 bytes of a fault record. DEDUCED, log 44. -/
def faultRecord (h : Word) (cause member : Nat) (epc eval : Word) (rest : List Byte) : List Byte :=
  wordsBytes [h.toNat, cause % 256 + member % 32 * 256, epc.toNat, eval.toNat] ++ (rest ++ List.replicate 32 0).take 32

/-- R382: a fault passes to a task; a later one of the same task adds nothing. -/
def State.passFault (s : State) (h : Word) (cause member : Nat) (epc eval : Word) (rest : List Byte) : State :=
  { s with pkg := s.pkg.setTask h (fun t =>
      if t.state = .stopping then t
      else { t with state := .stopping, cause := cause, faultMember := member
                    faultRecord := faultRecord h cause member epc eval rest }) }

/-- R377: a strand of a task has ended or stopped; the task ends once every member has. -/
def State.memberEnded (s : State) (h : Word) (m : Nat) : State :=
  let s := { s with pkg := s.pkg.setTask h (fun t => { t with ended := insertNat m t.ended }) }
  match s.pkg.task h with
  | none => s
  | some t =>
    if t.state = .stopping then s.finishStopping h
    else if t.ended.length = t.size then s.endTask h 1 0 0
    else s

/-! ### TASK (R122 to R128) -/

/-- R290 and R124: every listed context's release at package scope; the answer says whether all are done.
DEDUCED, log 84. -/
def State.releaseAll (s : State) (l : List (Nat × Nat)) : State × Bool :=
  l.foldl (fun (x : State × Bool) k =>
    let (t, ok) := x.1.inCtxWith k.1 k.2 (fun s =>
      match s.release 5 with
      | .ok t => (t, true)
      | .error (.waitIn t _) => (t, false)
      | .error _ => (s, false))
    (t, x.2 && ok)) (s, true)

/-- The strands that a `tend` of the running context ends: its own, or every member of its gang. -/
def State.endingStrands (s : State) : List (Nat × Nat) :=
  if s.ctx.gang then s.teamCores.filterMap (fun k => (s.bankOf k s.ctx.taskh).map (fun b => (k, b)))
  else [(s.coreNo, s.ctx.bank)]

/-- R124: transfers into the engine queues of the trailer mask that the ending strands still wait for. -/
def State.trailerBusy (s : State) : Bool :=
  let mask := match s.myTask with
    | some t => t.trailer
    | none => 0
  let who := s.endingStrands
  (s.taskCopies s.ctx.taskh (who.map (fun k => k.1))).any (fun c =>
    who.contains (c.owner, c.bank) && decide (mask / 2 ^ c.eq % 2 = 1))

/-- The strands end; in a gang, all members. -/
def State.endStrands (s : State) (l : List (Nat × Nat)) : State :=
  let h := s.ctx.taskh
  let ms := l.map (fun k => ((s.coreAt k.1).bankCtx k.2).member)
  let s := l.foldl (fun s k => s.endStrand k.1 k.2) s
  ms.foldl (fun s m => s.memberEnded h m) s

/-- R382: a `tend` at system level passes the fault that EPC, ECAUSE and EVAL hold; it skips the trailer wait
and ignores g[a]. -/
def State.passByHandler (s : State) : State :=
  let c := s.ctx
  let s1 := s.passFault c.taskh (bits c.ecause 7 0) c.member c.epc c.eval (wordsBytes [(c.gAt 62).toNat])
  s1.endStrands s1.endingStrands

/-- R124, R382: `tend`: the trailer wait, the release at package scope, the exit word, and the end of the
strand. The release is on its way to the queue's I/O die until that die has delivered it.
DESIGN CHOICE, log 74. DEDUCED, log 84. -/
def execTend (a : BitVec 6) (s : State) : Out :=
  finish s (do
    let who := s.endingStrands
    if s.ctx.system = false ∧ s.trailerBusy then .error (.wait 1)
    else
      let arrived (s : State) : Bool := s.pkg.homeReady s.core.die (handleIo s.ctx.taskh) s.core.knotv
      let close (s : State) : State :=
        if s.ctx.system then s.passByHandler
        else
          let v := s.gr a
          let m := s.ctx.member
          let p := match s.myTask with
            | some t =>
              if t.darning then s.pkg.qwrite t.queue (s.pkg.recordOf t.handle + 56) 8 v.toNat
              else s.pkg.qwrite t.queue (s.pkg.recordOf t.handle + 56 + 8 * m) 8 v.toNat
            | none => s.pkg
          let p := p.setTask s.ctx.taskh (fun t => { t with exits := t.exits.set m v })
          ({ s with pkg := p }).endStrands who
      match s.underWay .released with
      | some q => if arrived s then .ok (close (s.settle q)) else .error (.wait 1)
      | none =>
        let (s1, ok) := s.releaseAll who
        if ok = false then .error (.waitIn s1 1)
        else if arrived s1 then .ok (close s1)
        else .error (.waitIn (s1.markReleased 0 0 0) 1))

/-- R123: the 64 bytes of a spawn record as one load of the strand. -/
def State.spawnWords (s : State) (pa : Nat) : Option (List Word × State) :=
  (List.range 8).foldl (fun acc i =>
    match acc with
    | none => none
    | some (l, s) =>
      let (x, bad, s1) := s.readDirect (pa + 8 * i) 8
      if bad then none else some (l ++ [word x], s1)) (some ([], s))

/-- R123: the read at its pair, and the record sent to the queue's home die: g[d] is pending until that die has
answered. DEDUCED, log 87. -/
def State.sendSpawn (s : State) (d b : BitVec 6) (va : Word) (pa : Nat) : M State :=
  match s.spawnWords pa with
  | none => .error (.late s cPoison va)
  | some (l, s1) =>
    let q := (s.gr b).toNat
    let io := queueIo q
    let group := if s.ctx.taskh = 0 then 0 else s.pkg.qGroup (bits s.ctx.taskh 47 32)
    let x := s1.pkg.io io
    let r : SpawnReq :=
      { core := s.coreNo, bank := s.ctx.bank, dest := d.toNat, queue := q, group := group, words := l
        handle := s.ctx.taskh, tag := s.nextTag }
    let k : Pending :=
      { kind := .spawn, tag := s.nextTag, va := va.toNat, pa := pa, size := 64, overlay := [], fill := none
        since := s.pkg.cyc, answer := none, dest := d.toNat, issued := true }
    .ok { s1 with
      pkg := s1.pkg.setIo io { x with spawns := x.spawns ++ [r] }
      core := { s1.core with nextId := s1.core.nextId + 1 }
      ctx := { s1.ctx with pending := s1.ctx.pending ++ [k] } }

/-- R123, R368: `tspawn`. DESIGN CHOICE, log 74. -/
def execTspawn (d a b : BitVec 6) (s : State) : Out :=
  finish s (do
    let va := s.gr a
    aligned va 64
    let (t, home, s1) ← s.reachScalar va .read
    mtAllows (t.tlb.mt != 4) va
    s.interlock va.toNat 64 false
    if s1.pkg.homeGone t.pa then .error (.late s1 cRemoteError (loadErrorEval va 0x30))
    let ready (s : State) : Bool := s.pkg.homeReady s.core.die home s.core.knotv
    match s1.underWay .released with
    | some q => if ready s1 then ((s1.settle q).trip home).sendSpawn d b va t.pa else .error (.wait 1)
    | none => do
      let s2 ← s1.release 5
      if ready s2 then (s2.trip home).sendSpawn d b va t.pa
      else .error (.waitIn (s2.markReleased va.toNat t.pa 64) 1))

/-- R368: what a queue's home die does with a spawn record: the answer, and the package after it. DEDUCED, log 86. -/
def Pkg.acceptSpawn (p : Pkg) (r : SpawnReq) : Word × Pkg :=
  let q := r.queue
  if 65536 ≤ q then (wordI (-3), p)
  else if p.qEn q = false ∨ (p.qGroup q ≠ r.group ∧ p.qOpen q = false) then (wordI (-2), p)
  else
    let (base, size) := p.qRing q 0
    let tail := p.qTail q
    if diff32 tail (p.qHead q) = 2 ^ size then (wordI (-1), p)
    else
      let p1 := p.qwriteWords q (base + 64 * (tail % 2 ^ size)) (r.words.map BitVec.toNat)
      if p1.qEn q = false then (wordI (-2), p1)
      else (word (2 ^ 62 + q * 2 ^ 32 + tail), p1.newTail q ((tail + 1) % 2 ^ 32))

/-- The event: an I/O die accepts or refuses the oldest spawn record that has reached it (R123, R368). -/
def execSpawnRecordAccept (io : Nat) (s : State) : Out :=
  .next (
    let io := if io = 9 then 9 else 0
    let x := s.pkg.io io
    match x.spawns with
    | [] => s
    | r :: rest =>
      if s.pkg.homeReady (r.core / 24) io (s.coreAt r.core).core.knotv = false then s
      else
        let (v, p) := (s.pkg.setIo io { x with spawns := rest }).acceptSpawn r
        let s := { s with pkg := p }
        let k := s.coreAt r.core
        let c := k.bankCtx r.bank
        let mine (q : Pending) : Bool := q.kind == .spawn && q.tag == r.tag
        if c.holds && c.taskh == r.handle && c.pending.any mine then
          s.setCoreAt r.core (k.setBankCtx r.bank { c.setG r.dest v with pending := c.pending.filter (fun q => !mine q) })
        else s)

/-- R128. Without a launch record the word is a free value. DESIGN CHOICE, log 11. -/
def execTrec (d a : BitVec 6) (s : State) : Out :=
  match s.myTask with
  | some t => .next (s.setGr d (t.words.getD (bits (s.gr a) 2 0) 0))
  | none => .next { s.setGr d (word (Config.choice s.free)) with free := s.free + 1 }

/-- R126: issue passes to the other bank's context when it is able to issue. -/
def execTbank (s : State) : Out :=
  .next (if s.other.ready && !s.ctx.gang then { s with switch := true } else s)

/-- R125: `tyield`: the member waits at its `tyield` for the rendezvous. -/
def execTyield (s : State) : Out :=
  match s.myTask with
  | none => .next s
  | some _ =>
    stallOut (({ s with pkg := s.pkg.setTask s.ctx.taskh (fun t =>
      { t with yielded := insertNat s.ctx.member t.yielded }) }).waitFor .tyield 0 0 s.npc.toNat) 12

/-- A context that waits at a rendezvous goes on at the word after its instruction; where that was the last word of
its loop's body, the iteration ends (R107). -/
def State.goOn (s : State) (k : WaitKind) : State :=
  match s.ctx.wait with
  | some w =>
    if w.kind = k then
      let at_ := word w.value
      let s := { s with ctx := { s.ctx with
        wait := none, pc := at_, convoy := [], convoyWords := 0, chained := false, skip1 := false, skip2 := false, stall := 0 } }
      if s.ctx.lcOn ∧ at_ = s.ctx.first + word (4 * s.ctx.lcLen) then
        let t := s.endIteration
        { s with ctx := { t.ctx with pc := t.npc } }
      else s
    else s
  | none => s

/-- R127: `gjoin`. -/
def execGjoin (s : State) : Out :=
  match s.myTask with
  | none => trapOut s cPermission 0x30000
  | some t =>
    if t.isGang = false then trapOut s cPermission 0x30000
    else
      stallOut (({ s with pkg := s.pkg.setTask t.handle (fun t =>
        { t with joined := insertNat s.ctx.member t.joined }) }).waitFor .gjoin 0 0 s.npc.toNat) 12

/-- The event: every member has issued `gjoin`. Member 0 becomes the sequencer and goes on; the followers
stop issuing from their own fetch (R127). -/
def execGjoinRendezvous (s : State) : Out :=
  .next (match s.myTask with
    | none => s
    | some t =>
      if t.gang ∨ t.joined.length < t.size then s
      else
        -- R268: the first joined pair executes Λ cycles after the sequencer issues it
        let s := s.pass (lagOf t.cores)
        let clock := (t.cores.map (fun k => (s.coreAt k).core.clock)).foldl Nat.max 0
        let s := s.forMembers t.handle t.cores (fun s =>
          let s := s.goOn .gjoin
          let c := s.ctx
          let lead := c.member == 0
          { s with ctx := { c with team := setBit (setBit c.team 10 true) 11 lead, follower := !lead }
                   core := { s.core with clock := clock } })
        { s with pkg := s.pkg.setTask t.handle (fun t => { t with gang := true }) })

/-- R127: `gleave`. -/
def execGleave (s : State) : Out :=
  if s.ctx.seqr = false then trapOut s cPermission 0x30001
  else
    match s.myTask with
    | none => trapOut s cPermission 0x30001
    | some t =>
      let next := s.npc
      let s := s.forMembers t.handle t.cores (fun s =>
        let c := s.ctx
        { s with ctx := { c with
            team := setBit (setBit c.team 10 false) 11 false, follower := false
            pc := if c.follower then next else c.pc
            convoy := if c.follower then [] else c.convoy } })
      .next { s with pkg := s.pkg.setTask t.handle (fun t => { t with gang := false, joined := [] }) }

/-! ### Placement (R378, R379) -/

/-- R2: two dies are neighbours. -/
def dieNeighbours (a b : Nat) : Bool :=
  (decide (a / 5 = b / 5) && decide (a % 5 = b % 5 + 1 ∨ b % 5 = a % 5 + 1))
    || (decide (a % 5 = b % 5) && decide (a / 5 ≠ b / 5))

/-- Dies reached from a set within n steps through a set. -/
def reachDies (all : List Nat) : Nat → List Nat → List Nat
  | 0, l => l
  | n + 1, l => reachDies all n ((all.filter (fun d => l.any (dieNeighbours d))).foldl (fun m d => insertNat d m) l)

/-- A connected set of the mesh. -/
def connectedDies (l : List Nat) : Bool :=
  match l with
  | [] => false
  | d :: _ => l.all (fun e => (reachDies l 10 [d]).contains e)

/-- Bank b of core k holds no context. -/
def State.bankFree (s : State) (k b : Nat) : Bool := !((s.coreAt k).bankCtx b).holds

/-- A strictly rising list. -/
def rising : List Nat → Bool
  | a :: b :: l => decide (a < b) && rising (b :: l)
  | _ => true

/-- R378: the cores suit the size and the gang bit: one core, one cluster, or whole clusters of one die; a
gang of 8 or 16 may spread over a connected set of up to four dies when no die has its clusters free.DEDUCED, log 145. -/
def State.shapeOk (s : State) (size : Nat) (gang : Bool) (bank : Nat) (cores : List Nat) : Bool :=
  let dies := cores.foldl (fun l k => insertNat (k / 24) l) []
  let clusters := cores.foldl (fun l k => insertNat (clusterOf k) l) []
  let whole := decide (cores.length = 4 * clusters.length)
  let dieHas (d : Nat) : Bool :=
    decide (size / 4 ≤ ((List.range 6).filter (fun c => (List.range 4).all (fun i =>
      s.bankFree (24 * d + 4 * c + i) bank))).length) && !s.pkg.removed d
  if size ≤ 4 then decide (clusters.length ≤ 1)
  else whole && (decide (dies.length = 1)
    || (gang && decide (dies.length ≤ 4) && connectedDies dies && !((List.range 8).any (fun d => dieHas (d + 1)))))

/-- R42: the ALLOC word of a member under its image and the scheduler's bases. -/
def Task.alloc (t : Task) (lfBase hBase : Nat) : Word :=
  word (lfBase + leAt t.header 6 2 * 2 ^ 8 + hBase * 2 ^ 17 + leAt t.header 8 1 * 2 ^ 24 + leAt t.header 3 1 % 16 * 2 ^ 32)

/-- R43, R378: whether a task can be placed on a list of cores, in member order, in a bank, at two bases. -/
def State.canPlace (s : State) (t : Task) (cores : List Nat) (bank lfBase hBase : Nat) : Bool :=
  decide (cores.length = t.size) && rising cores
    && cores.all (fun k => decide (24 ≤ k ∧ k < 216) && !s.pkg.removed (k / 24) && s.bankFree k bank
        && allocLegal (t.alloc lfBase hBase) ((s.coreAt k).bankCtx (1 - bank)))
    && decide (bank ≤ 1) && decide (lfBase < 256 ∧ hBase < 128)
    && s.shapeOk t.size t.isGang bank cores
    && (decide (t.ctlDie = 0) || (if t.isGang then decide (cores.getD 0 0 / 24 = t.ctlDie)
        else cores.all (fun k => decide (k / 24 = t.ctlDie))))
    && (decide (t.ctlCluster = 0) || cores.all (fun k => decide (k % 24 / 4 + 1 = t.ctlCluster)))
    && decide (2 ≤ s.pkg.mgmt.level) && (decide (3 ≤ s.pkg.mgmt.level) || (decide (bank = 0) && !t.isGang))

/-- The lists of n elements of a list, in its order. -/
def choices {α : Type} : Nat → List α → List (List α)
  | 0, _ => [[]]
  | _ + 1, [] => []
  | n + 1, a :: l => (choices n l).map (fun m => a :: m) ++ choices (n + 1) l

/-- R378: the sets of cores that hold core k on which a task could be placed, by its size. -/
def Task.coreSets (t : Task) (k : Nat) : List (List Nat) :=
  let mine := k / 4
  let four (c : Nat) : List Nat := (List.range 4).map (fun i => 4 * c + i)
  if t.size ≤ 4 then (choices t.size (four mine)).filter (fun l => l.contains k)
  else
    let others := if t.isGang then (List.range 48).map (fun c => c + 6) else (List.range 6).map (fun c => k / 24 * 6 + c)
    ((choices (t.size / 4 - 1) (others.filter (fun c => c != mine))).map (fun l =>
      (l.foldl (fun m c => insertNat c m) [mine]).flatMap four))

/-- R125: a task could be placed, in a bank, on a set of cores that holds core k. Where its ranges fit at all they fit
at the bottom or behind the other bank's. -/
def State.couldTake (s : State) (t : Task) (k : Nat) : Bool :=
  (t.coreSets k).any (fun cores => [0, 1].any (fun b =>
    let there := cores.map (fun k => (s.coreAt k).bankCtx (1 - b))
    (0 :: there.map (fun c => c.lfBase + c.lfSize)).any (fun lf =>
      (0 :: there.map (fun c => c.hBase + c.hRows)).any (fun h => s.canPlace t cores b lf h))))

/-- R125: some READY task of a CLASS at or below the team's could be placed on a set that holds one of the cores the
team gives up. DEDUCED, log 93. -/
def State.wouldYield (s : State) (t : Task) : Bool :=
  let freed := s.forMembers t.handle t.cores (fun u => { u with ctx := u.ctx.vacated })
  (s.pkg.io0.tasks ++ s.pkg.io9.tasks).any (fun u =>
    u.state == .ready && decide (u.cls ≤ t.ctlClass) && t.cores.any (fun k => freed.couldTake u k))

/-- CTL lets a task be placed on core k (R369, R378). -/
def Task.allows (t : Task) (k : Nat) : Bool :=
  (decide (t.ctlDie = 0) || t.isGang || decide (k / 24 = t.ctlDie)) && (decide (t.ctlCluster = 0) || decide (k % 24 / 4 + 1 = t.ctlCluster))

/-- R379: a running team `t` is the one the scheduler pre-empts for the READY task u, for which no cores are free: of the
teams on cores it could have, the one of the highest class number, above its own, and of those the most recently
placed. DESIGN CHOICE, log 92. -/
def State.victimFor (s : State) (t u : Task) : Bool :=
  let running := (s.pkg.io0.tasks ++ s.pkg.io9.tasks).filter (fun v => v.state == .running && v.cores.any u.allows)
  decide (u.cls < t.ctlClass) && t.cores.any u.allows
    && running.all (fun v => decide (v.ctlClass < t.ctlClass ∨ v.ctlClass = t.ctlClass ∧ v.seq ≤ t.seq))
    && (List.range 192).all (fun k => !s.couldTake u (k + 24))

/-- The event: every member has issued `tyield`. Where a READY task of equal or higher class could take a core
of the team, the members stop and their contexts are to be saved; else the team resumes at once (R125).
DEDUCED, log 93. -/
def execTyieldRendezvous (othersReady : Bool) (s : State) : Out :=
  .next (match s.myTask with
    | none => s
    | some t =>
      let all := if s.ctx.gang then t.yielded.contains 0 else decide (t.yielded.length = t.size)
      if t.state ≠ .running ∨ all = false ∨ s.wouldYield t ≠ othersReady then s
      else
        let lead := s.forMembers t.handle (t.cores.take 1) (fun s => s.goOn .tyield)
        let next := (t.cores.head?).map (fun k => ((lead.coreAt k).bankCtx t.bank).pc)
        let s := s.forMembers t.handle t.cores (fun s =>
          let c := (s.goOn .tyield).ctx
          { s with ctx := { c with stopped := othersReady, pc := if c.follower then next.getD c.pc else c.pc } })
        let s := { s with pkg := { s.pkg with gangs := s.pkg.gangs.filter (fun g => g.handle != t.handle) } }
        { s with pkg := s.pkg.setTask t.handle (fun t =>
            if othersReady then { t with state := .saving } else { t with yielded := [] }) })

/-- R379: how far round a queue stands behind the one that an I/O die served last in a class. DEDUCED, log 93. -/
def IODie.turn (x : IODie) (cls q : Nat) : Nat := (q + 65535 - (assoc cls x.served).getD 65535) % 65536

/-- R379: a READY task that goes before another where both could be placed: one of a lower class number, the next queue
round, or an older one of its own queue. DEDUCED, log 93. -/
def IODie.goesBefore (x : IODie) (u t : Task) : Bool :=
  u.handle != t.handle && u.state == .ready
    && (decide (u.cls < t.cls) || (decide (u.cls = t.cls) &&
      (if u.queue = t.queue then decide (u.seq < t.seq) || (decide (u.seq = t.seq) && decide (u.order < t.order))
       else decide (x.turn u.cls u.queue < x.turn u.cls t.queue))))

/-- A context that the scheduler has placed a strand in, which has still to start (R43). -/
def Ctx.placedFor (c : Ctx) (k bank : Nat) (t : Task) (m : Nat) (alloc : Word) : Ctx :=
  { c.vacated with holds := true, stopped := true, alloc := alloc, taskh := t.handle, bank := bank
                   team := word (k / 24 * 4096 + t.size * 32 + m) }

/-- The event: the scheduler places a READY task (R377 to R379). A member with a live copy goes back to the core
and bank it left (R286). -/
def execTaskPlace (handle : Nat) (cores : List Nat) (bank lfBase hBase : Nat) (s : State) : Out :=
  .next (match s.pkg.task (word handle) with
    | none => s
    | some t =>
      let io := handleIo t.handle
      if t.state ≠ .ready ∨ s.canPlace t cores bank lfBase hBase = false
          ∨ (s.taskCopies t.handle t.cores).any (fun c => cores.getD c.member 0 != c.owner || c.bank != bank)
          ∨ (s.pkg.io io).tasks.any (fun u => (s.pkg.io io).goesBefore u t && s.canPlace u cores bank lfBase hBase) then s
      else
        let a := t.alloc lfBase hBase
        let p := s.pkg.setTask t.handle (fun u =>
          { u with state := .placed, cores := cores, bank := bank, allocWord := a, started := [], ended := []
                   yielded := [], joined := [], cls := u.ctlClass, seq := s.pkg.nextSeq })
        let x := p.io io
        let p := p.setIo io { x with served := assocSet t.cls t.queue x.served }
        let s := { s with pkg := { p with nextSeq := p.nextSeq + 1 } }
        ((List.range cores.length).foldl (fun s m =>
          let k := cores.getD m 0
          let p := s.coreAt k
          s.setCoreAt k (p.setBankCtx bank ((p.bankCtx bank).placedFor k bank t m a))) s))

/-- The event: a task that has been READY for 2^20 cycles is promoted one class (R379). -/
def execTaskPromote (handle : Nat) (s : State) : Out :=
  .next { s with pkg := s.pkg.setTask (word handle) (fun t =>
    if t.state = .ready ∧ 0 < t.cls ∧ t.since + 2 ^ 20 ≤ s.pkg.cyc then
      { t with cls := t.cls - 1, since := t.since + 2 ^ 20 } else t) }

/-! ### The start of a strand (R18, R24, R30, R47, R299, R376) -/

/-- R385: what an allocation would take is out of quarantine. -/
def Core.clearOf (c : Core) (a : Word) : Bool :=
  let lfb := bits a 7 0
  !(c.quarLanes.any (fun e => decide (lfb ≤ e.1 ∧ e.1 < lfb + bits a 16 8)))
    && !(c.quarQueues.any (fun q => bit a (32 + q.1)))

/-- R24, R30 and R47: the allocation cleared: entries and rows zero with tag RAW, the owned queues empty. -/
def Core.clearAlloc (c : Core) (a : Word) : Core :=
  { c with
    lane := (List.range (bits a 16 8)).foldl (fun v i => v.setIfInBounds (bits a 7 0 + i) Entry.zero) c.lane
    hoop := (List.range (bits a 31 24)).foldl (fun v i => v.setIfInBounds (bits a 23 17 + i) Row.zero) c.hoop
    queues := (List.range 4).foldl (fun v q => if bit a (32 + q) then v.setIfInBounds q [] else v) c.queues }

/-- R376: the resolved bases that entries with REG give, a later entry over an earlier one. -/
def startBases (c : Ctx) (l : List Range) : Ctx :=
  l.foldl (fun c r => if r.reg = 0 then c else c.setG (7 + r.reg) (word r.resolved)) c

/-- R18, R47, R376 and R360: the registers a strand starts with. -/
def Task.startCtx (t : Task) (p : Pkg) (k m : Nat) : Ctx :=
  let c := Ctx.reset (k / 24) t.bank
  let q := t.queue
  let qto := p.qget q 88 8
  let stack := if t.recWord 1 = 0 ∨ t.stack = 0 then 0 else (t.stack - word (65536 * m)) &&& ~~~(15#64)
  let c := { c with
    pc := word (t.recWord 0), alloc := t.allocWord, taskh := t.handle
    team := word (k / 24 * 4096 + t.size * 32 + m)
    hshape := word (bits t.allocWord 31 24 + 64 * 256)
    vwb := word (leAt t.header 9 1), vrb := word (leAt t.header 10 2)
    mfc := (List.range 4).foldl (fun v i => v.setIfInBounds i (word (leAt t.header (16 + 8 * i) 8))) c.mfc
    estat := 2, tvec := word (p.qget q 80 8), qto := word (if qto = 0 then 0x100000 else qto)
    imask := word (p.qImask q), root := p.qRoot q, asn := p.qAsn q, holds := true }
  let c := (((c.setG 3 (word m)).setG 4 (word t.size)).setG 5 t.handle)
  let c := ((c.setG 8 (word (t.recWord 2))).setG 9 (word (t.recWord 3))).setG 10 (word (t.recWord 4))
  let c := startBases c (t.reads ++ t.writes)
  ((c.setG 2 stack).setG 6 (word (t.recWord 1))).setG 7 (word (p.recordOf t.handle))

/-- The members of a task that have started; all of them make it RUNNING. -/
def Task.noteStart (t : Task) (m : Nat) : Task :=
  let l := insertNat m t.started
  { t with started := l, state := if t.state = .placed ∧ l.length = t.size then .running else t.state }

/-- R299 and R286: the acquire at package scope of a strand's start or a context's restore: what the queue's
I/O die has delivered. -/
def State.startAcquire (s : State) (h : Word) : State := s.acquire 5 (s.pkg.vOf (handleIo h))

/-- The event: member `member` of a placed task starts (R377). -/
def execStrandStart (handle member : Nat) (s : State) : Out :=
  .next (match s.pkg.task (word handle) with
    | none => s
    | some t =>
      if t.state ≠ .placed ∨ t.started.contains member ∨ t.size ≤ member ∨ t.saves.isEmpty = false
          ∨ t.cores.all (fun k => (s.coreAt k).core.clearOf t.allocWord) = false then s
      else
        let k := t.cores.getD member 0
        let p := s.coreAt k
        let c := { t.startCtx s.pkg k member with eventFlag := false }
        let s := s.setCoreAt k ({ p with core := p.core.clearAlloc t.allocWord }.setBankCtx t.bank c)
        let s := s.inCtx k t.bank (fun s => s.startAcquire t.handle)
        { s with pkg := s.pkg.setTask t.handle (fun t => t.noteStart member) })

/-! ### Stopping (R383, R384) -/

/-- R255: the running context stands at a point where an interrupt may be taken: nothing under way, and
between convoys, between pairs of a convoy that is not chained, or in a wait. DEDUCED, log 77. -/
def Ctx.atPoint (c : Ctx) : Bool :=
  c.idle && !c.skip1 && !c.skip2 && (c.wait.isSome || !c.chained) && (!c.replayed || c.convoy.isEmpty)

/-- R383: the strand in focus is a member of a STOPPING team and stands at a point where it stops. -/
def State.stopping (s : State) : Option (Nat × Nat) :=
  match s.myTask with
  | some t =>
    if t.state = .stopping ∧ s.ctx.gang = false ∧ (s.ctx.atPoint && s.ctx.parked.isNone) = true
        ∧ t.started.contains s.ctx.member = true ∧ t.ended.contains s.ctx.member = false then
      some (t.handle.toNat, s.ctx.member)
    else none
  | none => none

/-- The event: a member of a STOPPING task stops at its next point, with the release that `tend` would
perform (R383). -/
def execMemberStop (handle member : Nat) (s : State) : Out :=
  .next (match s.pkg.task (word handle) with
    | none => s
    | some t =>
      let k := t.cores.getD member 0
      let c := (s.coreAt k).bankCtx t.bank
      if t.state ≠ .stopping ∨ t.started.contains member = false ∨ t.ended.contains member
          ∨ (c.atPoint && c.parked.isNone) = false then s
      else
        let (s1, ok) := s.releaseAll [(k, t.bank)]
        if ok then (s1.endStrand k t.bank).memberEnded t.handle member else s1)

/-- The event: system software destroys an address space: held `cpyh` copies that name its root are cancelled,
and its TAKEN and READY tasks end CANCELLED (R352, R377, R384). -/
def execAddressSpaceDestroy (root : Nat) (s : State) : Out :=
  .next (
    let cancel (l : List Copy) : List Copy := l.map (fun c => if c.root = root ∧ c.started = false then c.cancel else c)
    let p := { s.pkg with io0 := { s.pkg.io0 with bobbin := cancel s.pkg.io0.bobbin }
                          io9 := { s.pkg.io9 with bobbin := cancel s.pkg.io9.bobbin } }
    let s := { s with pkg := p }
    ((p.io0.tasks ++ p.io9.tasks).filter (fun t =>
      (t.state == .taken || t.state == .ready) && s.pkg.qRoot t.queue == root)).foldl
        (fun s t => s.endTask t.handle 4 0 0) s)

/-- The event: software advances FCONS of a queue; STOPPING tasks that waited for an entry may take one (R365,
R382). -/
def execFconsWrite (io q : Nat) (value : BitVec 32) (s : State) : Out :=
  .next (
    let _ := io
    let s := { s with pkg := s.pkg.qset q 76 4 value.toNat }
    ((s.pkg.io (queueIo q)).tasks.filter (fun t => t.queue == q && t.state == .stopping)).foldl
      (fun s t => s.finishStopping t.handle) s)

/-- The event: software advances RCONS of a queue; held report items are written (R365, R387). -/
def execRconsWrite (io q : Nat) (value : BitVec 32) (s : State) : Out :=
  .next (
    let _ := io
    { s with pkg := (s.pkg.qset q 68 4 value.toNat).flushItems (queueIo q) 64 })

end Sys2Proof.Machine
end

