-- ==== Sys2Proof/Machine/Context.lean ====
section
/-! DEFINITION. Pre-emption, the context engine's save and restore with the context save area (R255 to R258,
R381), and the switch of banks (R253). -/

namespace Sys2Proof.Machine

/-! ### The area (R257, R258) -/

/-- The size of the context save area, and of the barrier block behind it (R256, R381). -/
def areaSize : Nat := 460800
def barrierBlock : Nat := 0x70800

/-- The registers of the scalar block that are one word each, with their offsets (R257). -/
def Ctx.scalarBlock (c : Ctx) : List (Nat × Word) :=
  (List.range 64).map (fun n => (8 * n, c.gAt n))
    ++ (List.range 32).map (fun n => (0x200 + 8 * n, c.f.getD n 0))
    ++ ((List.range 7).map (fun n => (List.range 16).map (fun j =>
        (0x300 + 128 * n + 8 * j, ((c.p.getD (n + 1) 0).extractLsb' (64 * j) 64 : Word))))).flatten
    ++ [(0x680, c.pc), (0x688, c.vl), (0x690, c.vstart), (0x698, c.hcur), (0x6A0, c.hshape), (0x6A8, c.vwb),
        (0x6B0, c.vrb), (0x6B8, c.lc), (0x6C0, c.acr), (0x6C8, c.mfc.getD 0 0), (0x6D0, c.mfc.getD 1 0),
        (0x6D8, c.mfc.getD 2 0), (0x6E0, c.mfc.getD 3 0), (0x6E8, c.satcnt), (0x6F0, c.undcnt), (0x6F8, c.amaxk),
        (0x700, c.estat), (0x708, c.epc), (0x710, c.ecause), (0x718, c.eval), (0x720, c.sfshadow),
        (0x728, c.rankStatus)]
    ++ (List.range 4).map (fun j => (0x730 + 8 * j, (c.latch.extractLsb' (64 * j) 64 : Word)))
    ++ [(0x750, if c.eventFlag then 1 else 0), (0x758, 1), (0x760, c.tvec), (0x768, c.qto), (0x770, c.ipend),
        (0x778, c.imask), (0x780, c.tcmp)]
    ++ (List.range 15).map (fun j => (0x788 + 8 * j, (0 : Word)))
    ++ (List.range 64).map (fun j => (0x800 + 8 * j, c.tm.getD j 0))

/-- A predicate from its sixteen words. -/
def predOf (w : Nat → Word) : Pred :=
  (List.range 16).foldl (fun p j => p ||| ((w j).zeroExtend 1024 <<< (64 * j))) 0

/-- The registers that a scalar block gives back; `w` reads the word at an offset. -/
def Ctx.ofBlock (c : Ctx) (w : Nat → Word) : Ctx :=
  { c with
    g := (List.range 64).foldl (fun v n => v.setIfInBounds n (if n = 0 then 0 else w (8 * n))) c.g
    f := (List.range 32).foldl (fun v n => v.setIfInBounds n (w (0x200 + 8 * n))) c.f
    p := (List.range 7).foldl (fun v n => v.setIfInBounds (n + 1) (predOf (fun j => w (0x300 + 128 * n + 8 * j)))) c.p
    pc := w 0x680, vl := w 0x688, vstart := w 0x690, hcur := w 0x698, hshape := w 0x6A0, vwb := w 0x6A8
    vrb := w 0x6B0, lc := w 0x6B8, acr := w 0x6C0
    mfc := (List.range 4).foldl (fun v n => v.setIfInBounds n (w (0x6C8 + 8 * n))) c.mfc
    satcnt := w 0x6E8, undcnt := w 0x6F0, amaxk := w 0x6F8, estat := w 0x700, epc := w 0x708, ecause := w 0x710
    eval := w 0x718, sfshadow := w 0x720, rankStatus := w 0x728
    latch := (List.range 4).foldl (fun l j => l ||| ((w (0x730 + 8 * j)).zeroExtend 256 <<< (64 * j))) 0
    eventFlag := bit (w 0x750) 0, tvec := w 0x760, qto := w 0x768, ipend := w 0x770, imask := w 0x778
    tcmp := w 0x780
    tm := (List.range 64).foldl (fun v j => v.setIfInBounds j (w (0x800 + 8 * j))) c.tm }

/-- R258: the KIND and DEST of a slot. A `vbamax` into queue q has DEST 240 + q and one of a gang member that writes no
entry DEST 255, which no name of an entry reaches (R21). DESIGN CHOICE, log 90. -/
def slotKind : ShadowKind → Nat
  | .sfuEntry e => e * 2 ^ 8
  | .sfuQueue q => 2 ^ 60 + q * 2 ^ 8
  | .bamax e => 2 * 2 ^ 60 + e * 2 ^ 8
  | .bamaxQueue q => 2 * 2 ^ 60 + (240 + q) * 2 ^ 8
  | .bamaxPeer => 2 * 2 ^ 60 + 255 * 2 ^ 8
  | .bscale => 3 * 2 ^ 60
  | .hsfu r => r * 2 ^ 8

/-- The kind that a slot header gives. DESIGN CHOICE, log 90. -/
def kindOfSlot (w : Word) : Option ShadowKind :=
  let dest := bits w 15 8
  match bits w 62 60 with
  | 0 => some (.sfuEntry dest)
  | 1 => some (.sfuQueue dest)
  | 2 => some (if dest = 255 then .bamaxPeer else if 240 ≤ dest ∧ dest < 244 then .bamaxQueue (dest - 240) else .bamax dest)
  | 3 => some .bscale
  | _ => none

/-- R258: the eight words of a slot header. DESIGN CHOICE, log 90. -/
def slotHeader (seq : Nat) (r : Shadow) : List Word :=
  [word (2 ^ 63 + slotKind r.kind + Nat.min r.at_ 31 * 2 ^ 48 + r.tag.toNat * 2 ^ 40 + r.flags.toNat * 2 ^ 32 + seq % 256),
   r.lmask.zeroExtend 64, r.amax.zeroExtend 64]
    ++ (List.range 4).map (fun j => (r.codes.extractLsb' (64 * j) 64 : Word)) ++ [0]

/-- Words from an offset upward. -/
def wordsAt (off : Nat) : List Word → List (Nat × Word)
  | [] => []
  | x :: r => (off, x) :: wordsAt (off + 8) r

/-- n words of data from an offset upward. -/
def dataAt (off n x : Nat) : List (Nat × Word) :=
  (List.range n).map (fun j => (off + 8 * j, word (x / 2 ^ (64 * j))))

/-- An index beside each element of a list. -/
def indexed {β : Type} (l : List β) : List (Nat × β) := (List.range l.length).zip l

/-- R257 and R258: the shadow area of a held half. -/
def heldBlock (held : List Shadow) : List (Nat × Word) :=
  let all := indexed held
  let vs := all.filter (fun x => match x.2.kind with | .bscale => false | .hsfu _ => false | _ => true)
  let va := all.filter (fun x => x.2.kind == .bscale)
  let hs := all.filterMap (fun x => match x.2.kind with | .hsfu r => some (r, x.2) | _ => none)
  ((indexed (vs.take 16)).map (fun x => wordsAt (0xC00 + 64 * x.1) (slotHeader x.2.1 x.2.2)
      ++ dataAt (0xA000 + 1024 * x.1) 128 x.2.2.data.toNat)).flatten
    ++ (((List.range 16).filter (fun s => decide (vs.length ≤ s))).map (fun s => wordsAt (0xC00 + 64 * s) (List.replicate 8 0))).flatten
    ++ ((indexed (va.take 4)).map (fun x => wordsAt (0x1000 + 64 * x.1) (slotHeader x.2.1 x.2.2))).flatten
    ++ (((List.range 4).filter (fun s => decide (va.length ≤ s))).map (fun s => wordsAt (0x1000 + 64 * s) (List.replicate 8 0))).flatten
    ++ ((List.range 128).map (fun r => match assoc r hs with
      | some x => (0x1400 + 8 * r, word (2 ^ 63 + x.at_ % 32 * 2 ^ 48 + x.tag.toNat * 2 ^ 40 + x.flags.toNat * 2 ^ 32))
          :: dataAt (0x10000 + 512 * r) 64 x.data.toNat
      | none => [(0x1400 + 8 * r, 0)])).flatten

/-- The words of a poisoned range of the area. -/
def poisonRange (off n : Nat) (bad : Bool) : List Nat := if bad then (List.range (n / 8)).map (fun j => off / 8 + j) else []

/-- R356: the words of a held half that carry poison: those of the data of a result that keeps poisoned elements. -/
def heldPoison (held : List Shadow) : List Nat :=
  let vs := held.filter (fun x => match x.kind with | .bscale => false | .hsfu _ => false | _ => true)
  ((indexed (vs.take 16)).map (fun x => poisonRange (0xA000 + 1024 * x.1) 1024 x.2.poison)).flatten
    ++ (held.map (fun x => match x.kind with | .hsfu r => poisonRange (0x10000 + 512 * r) 512 x.poison | _ => [])).flatten

/-- R257: the queue headers and data of the queues a context owns, with the poisoned words. -/
def Core.queueBlock (k : Core) (c : Ctx) : List (Nat × Word) × List Nat :=
  (List.range 4).foldl (fun acc q =>
    let l := if c.owns q then k.queues.getD q [] else []
    let tags := (indexed l).foldl (fun x e => x + e.2.tag.toNat * 256 ^ e.1) 0
    (acc.1 ++ [(0xA00 + 16 * q, word l.length), (0xA08 + 16 * q, word tags)]
        ++ ((indexed l).map (fun e => dataAt (0x2000 + 8192 * q + 1024 * e.1) 128 e.2.data.toNat)).flatten,
     acc.2 ++ ((indexed l).map (fun e => poisonRange (0x2000 + 8192 * q + 1024 * e.1) 1024 e.2.poison)).flatten)) ([], [])

/-- R257: the reserved ranges of the area behind the scalar block, which a save writes as zero. -/
def reservedBlock : List (Nat × Word) :=
  [(0xA40, 448), (0x1100, 768), (0x1800, 2048), (0xE000, 8192), (0x30080, 896), (0x70500, 768)].flatMap
    (fun x => (List.range (x.2 / 8)).map (fun j => (x.1 + 8 * j, (0 : Word))))

/-- The bytes of words at offsets from a base. -/
def cellsOf (base : Nat) (l : List (Nat × Word)) : List (Nat × Byte) :=
  (l.map (fun x => wordBytes (base + x.1) 8 x.2.toNat)).flatten

/-- R381: the four words of barrier n in the barrier block; zero for a barrier that this task has not
initialised. DESIGN CHOICE, log 90. -/
def State.barBlock (s : State) (n : Nat) : List (Nat × Word) :=
  let b := s.bar n
  let o := s.barObj n
  let off := barrierBlock + 32 * n
  if b.init && b.owner == s.ctx.taskh then
    let r := match s.arrival n with
      | some p => word (1 + p.toNat * 2 ^ 16)
      | none => 0
    [(off, s.barWord n), (off + 8, o.status.zeroExtend 64), (off + 16, o.last.zeroExtend 64), (off + 24, r)]
  else wordsAt off [0, 0, 0, 0]

/-! ### Saving (R256, R286) -/

/-- Every page of the area is backed. DESIGN CHOICE, log 23. -/
def Pkg.areaBacked (p : Pkg) (area : Nat) : Bool :=
  (List.range 117).all (fun i => (p.homeOf (area + 4096 * i)).isSome)

/-- R332: every page of the area that is not backed lies in a die-SRAM window, whose die answers the context engine with
code 5. DESIGN CHOICE, log 23. -/
def Pkg.areaAnswers (p : Pkg) (area : Nat) : Bool :=
  (List.range 117).all (fun i => (p.homeOf (area + 4096 * i)).isSome || inSramWindow (area + 4096 * i))

/-- The home of every page of the area has all that a strand knowing `kn` knows. -/
def Pkg.areaReady (p : Pkg) (d area : Nat) (kn : Knot) : Bool :=
  (List.range 117).all (fun i => match p.homeOf (area + 4096 * i) with
    | some h => p.homeReady d h kn
    | none => true)

/-- R256: an uncorrectable error stands in the area a save is about to write: one in a word that the error, and not a
save of poisoned registers, has damaged. DESIGN CHOICE, log 131. -/
def Pkg.areaSpoilt (p : Pkg) (area : Nat) : Bool :=
  p.poisonedAt area 0x1800 || p.poisonedAt (area + 0x1800) 0x800 || p.poisonedAt (area + 0xE000) 0x2000

/-- LC as a save writes it: at user level POS names the word the context resumes at (R108). DESIGN CHOICE, log 90. -/
def Ctx.savedLoop (c : Ctx) : Ctx :=
  if bit c.lc 42 && !c.system then { c with lc := setBits c.lc 48 43 ((c.pc - c.first).toNat / 4) } else c

/-- The image of the running context written into an area: scalars and tensor maps, the Hoop, the lane file,
the queues, the held half, and the barriers (R256, R381). -/
def State.writeImage (s : State) (area : Nat) : State :=
  let c := s.ctx
  let full := !(c.saved && c.saveArea == area)
  let rows := (List.range c.hRows).filter (fun r => full || c.hdirty.getLsbD r)
  let entries := (List.range c.lfSize).filter (fun e => full || c.dirty.getLsbD e)
  let (queues, qPoison) := s.core.queueBlock c
  let rowWords := (rows.map (fun r => dataAt (0x20000 + 512 * r) 64 (s.row r).cells.toNat)).flatten
  let entryWords := (entries.map (fun e => dataAt (0x30400 + 1024 * e) 128 (s.entry e).data.toNat)).flatten
  let tags := rows.map (fun r => (area + 0x20000 + 65536 + r, BitVec.ofNat 8 (tagByte (s.row r).tag)))
    ++ entries.map (fun e => (area + 0x30400 + 262144 + e, BitVec.ofNat 8 (tagByte (s.entry e).tag)))
  let poison := (rows.map (fun r => poisonRange (0x20000 + 512 * r) 512 (s.row r).poison)).flatten
    ++ (entries.map (fun e => poisonRange (0x30400 + 1024 * e) 1024 (s.entry e).poison)).flatten ++ qPoison ++ heldPoison c.held
  let bars := ((List.range 512).map s.barBlock).flatten
  let cells := cellsOf area (c.savedLoop.scalarBlock ++ rowWords ++ entryWords ++ queues ++ heldBlock c.held
    ++ reservedBlock ++ bars) ++ tags
  let p := s.pkg.homeWrite cells (poison.map (fun w => area / 8 + w)) false
    (s.pkg.die s.core.die).cut.isNone
  { s with pkg := p, ctx := { c with dirty := 0, hdirty := 0 } }

/-- The event: the scheduler pre-empts the running strand at a point of R255. A task's strand is pre-empted when its
team already is, or is the victim of R379 for a READY task, or, at a `yield`, for one of its class or a higher that may
have its core (R113). DESIGN CHOICE, log 92. -/
def execPreempt (s : State) : Out :=
  .next (
    let c := s.ctx
    let asked := match s.myTask with
      | some t => t.state == .saving
          || (t.state == .running && (s.pkg.io0.tasks ++ s.pkg.io9.tasks).any (fun u => u.state == .ready
              && (s.victimFor t u || (c.atYield && c.wait.isNone && decide (u.cls ≤ t.ctlClass) && u.allows s.coreNo))))
      | none => true
    let bc := s.pkg.gangs.any (fun g => g.handle == c.taskh)
    let mates := s.teamCores.filterMap (fun k => (s.bankOf k c.taskh).map (fun b => (s.coreAt k).bankCtx b))
    let saving := match s.myTask with
      | some t => t.state == .saving
      | none => false
    let waits (x : Ctx) : Bool := x.wait.any (fun w => w.kind != .gjoin)
    let point := waits c || (c.convoy.isEmpty && !bc) || (c.gang && (saving || mates.any waits))
    if !s.frozen && c.holds && !c.stopped && c.parked.isNone && c.atPoint && point && asked then
      -- R244 and R255: the shadow is captured, and what has issued completes
      let s := s.capture
      let s := s.pass (s.ctx.drained s.now - s.now)
      let s := { s with ctx := { s.ctx with stopped := true, wait := none, board := [], stall := 0 }
                        pkg := { s.pkg with gangs := s.pkg.gangs.filter (fun g => g.handle != c.taskh) } }
      { s with pkg := s.pkg.setTask c.taskh (fun t => if t.state = .running then { t with state := .saving } else t) }
    else s)

/-- R377: a member's context has been saved; once every member's has, the task is READY again: at the tail of
its class after `tyield`, else at its head. DEDUCED, log 93. -/
def Pkg.noteSaved (p : Pkg) (h : Word) (m area : Nat) : Pkg :=
  let p := p.setTask h (fun t =>
    { t with saves := (if t.saves.isEmpty then List.replicate t.size 0 else t.saves).set m area
             started := t.started.filter (fun x => x != m) })
  match p.task h with
  | none => p
  | some t =>
    if t.started.isEmpty then
      { p.setTask h (fun t => { t with
          state := .ready, since := p.cyc
          seq := if t.yielded.isEmpty then 0 else p.nextSeq
          yielded := [] }) with nextSeq := p.nextSeq + 1 }
    else p

/-- R256: a save or restore that fails ends the task of the running bank with a fault record. -/
def State.failImage (s : State) (pc : Word) : State :=
  let h := s.ctx.taskh
  let t := s.passFault h cPoison s.ctx.member pc 0 []
  (t.endStrand s.coreNo s.ctx.bank).memberEnded h s.ctx.member

/-- The event: the context engine saves the running bank's pre-empted context, as a release at package scope,
and the bank holds no context any more (R43, R256, R286, R381). DESIGN CHOICE, log 23. -/
def execContextSave (area : Nat) (s : State) : Out :=
  let ours := match s.myTask with
    | some t => t.state == .saving
    | none => true
  if s.ctx.holds && s.ctx.stopped && ours && decide (area % 4096 = 0) then
    if s.pkg.areaAnswers area = false then .fault (.unbackedEngineAccess area)
    -- R328: not before the team's copies into each other's registers are done
    else if s.puts s.ctx.taskh ≠ [] then .next (s.cancelStuck s.ctx.taskh)
    -- R332: the engine's access draws code 5
    else if s.pkg.areaBacked area = false then .next (s.failImage s.ctx.pc)
    else
      let done := (s.underWay .released).isSome
      match (if done then .ok s else s.release 5) with
      | .error (.waitIn t _) => .next t
      | .error _ => .next s
      | .ok s1 =>
        -- R286: what the restore takes as its acquire has reached the I/O die of the task
        if s1.pkg.areaReady s.core.die area s1.core.knotv = false
            ∨ s1.pkg.knows (handleIo s.ctx.taskh) s1.core.knotv = false then
          .next (if done then s else s1.markReleased 0 area 0)
        else if s1.pkg.areaSpoilt area then
          -- R256: a save met by an uncorrectable error in the area stops, and the task ends with a fault record
          .next (s1.failImage s.ctx.pc)
        else
          let s2 := s1.writeImage area
          let h := s.ctx.taskh
          let core := s2.core.clearBars h
          let core := { core with cache := core.cache.filter (fun l => l.bank != s.ctx.bank) }
          let s3 := { s2 with core := core, ctx := { s2.ctx.vacated with saveArea := area, saved := true } }
          .next { s3 with pkg := s3.pkg.noteSaved h s.ctx.member area }
  else .next s

/-! ### Restoring (R256) -/

/-- The held results of a shadow area, in program order, `bad` saying which of its ranges carry poison; none where a
slot is malformed. DESIGN CHOICE, log 90. -/
def heldOf (w : Nat → Word) (bad : Nat → Nat → Bool) : Option (List Shadow) :=
  let slot (hdr data : Nat) : Option (List (Nat × Shadow)) :=
    let h := w hdr
    if bit h 63 = false then some []
    else
      match kindOfSlot h with
      | none => none
      | some k =>
        if tagReserved (BitVec.ofNat 5 (bits h 44 40)) then none
        else some [(bits h 7 0,
          { kind := k, at_ := bits h 52 48, tag := BitVec.ofNat 5 (bits h 44 40), flags := BitVec.ofNat 6 (bits h 37 32)
            sat := 0, und := 0
            data := if data = 0 then 0 else (List.range 128).foldl (fun d j => d ||| ((w (data + 8 * j)).zeroExtend 8192 <<< (64 * j))) 0
            lmask := (w (hdr + 8)).truncate 32, amax := (w (hdr + 16)).truncate 32
            codes := (List.range 4).foldl (fun c j => c ||| ((w (hdr + 24 + 8 * j)).zeroExtend 256 <<< (64 * j))) 0
            poison := decide (data ≠ 0) && bad data 1024 })]
  let row (r : Nat) : Option (List (Nat × Shadow)) :=
    let h := w (0x1400 + 8 * r)
    if bit h 63 = false then some []
    else if tagReserved (BitVec.ofNat 5 (bits h 44 40)) then none
    else some [(256,
      { kind := .hsfu r, at_ := bits h 52 48, tag := BitVec.ofNat 5 (bits h 44 40), flags := BitVec.ofNat 6 (bits h 37 32)
        sat := 0, und := 0
        data := (List.range 64).foldl (fun d j => d ||| ((w (0x10000 + 512 * r + 8 * j)).zeroExtend 8192 <<< (64 * j))) 0
        lmask := 0, amax := 0, codes := 0, poison := bad (0x10000 + 512 * r) 512 })]
  let all := (List.range 16).map (fun i => slot (0xC00 + 64 * i) (0xA000 + 1024 * i))
    ++ (List.range 4).map (fun i => slot (0x1000 + 64 * i) 0) ++ (List.range 128).map row
  if all.any (fun x => x.isNone) then none
  else
    let l := (all.map (fun x => x.getD [])).flatten
    some (((List.range 257).map (fun q => (l.filter (fun x => x.1 == q)).map (fun x => x.2))).flatten)

/-- A lane entry or row of an image: V = 0 gives zero under RAW. None for a reserved tag code. DEDUCED, log 88. -/
def imageTag (b : Nat) : Option (Option (BitVec 5)) :=
  if b < 128 then some none
  else if tagReserved (BitVec.ofNat 5 b) then none
  else some (some (BitVec.ofNat 5 b))

/-- R256: what a restore refuses: a FORMAT other than 1, a reserved tag code, poison in the scalar block, a
queue header or a slot header. DEDUCED, log 91. -/
def Pkg.imageLegal (p : Pkg) (area : Nat) (c : Ctx) : Bool :=
  !p.poisonedAt area 0x1800 && decide (p.readAt (area + 0x758) 2 = 1)
    && (List.range c.hRows).all (fun r => (imageTag (p.readAt (area + 0x30000 + r) 1)).isSome)
    && (List.range c.lfSize).all (fun e => (imageTag (p.readAt (area + 0x70400 + e) 1)).isSome)
    && (List.range 4).all (fun q =>
      let depth := p.readAt (area + 0xA00 + 16 * q) 1
      decide (depth ≤ 8) && (List.range depth).all (fun j =>
        !tagReserved (BitVec.ofNat 5 (p.readAt (area + 0xA08 + 16 * q + j) 1))))

/-- R381: the barriers of the barrier block written back; a team's object comes from member 0.
DESIGN CHOICE, log 90. -/
def State.readBars (s : State) (area : Nat) : State :=
  (List.range 512).foldl (fun s n =>
    let at_ (j : Nat) : Word := word (s.pkg.readAt (area + barrierBlock + 32 * n + 8 * j) 8)
    let w := at_ 0
    if bit w 63 = false then s
    else
      let r : Option (BitVec 16) := if bit (at_ 3) 0 then some (BitVec.ofNat 16 (bits (at_ 3) 31 16)) else none
      let o : BarObj :=
        { BarObj.zero with count := bits w 47 32, arrived := bits w 31 16, phase := BitVec.ofNat 16 (bits w 15 0)
                           status := (at_ 1).truncate 16, last := (at_ 2).truncate 16 }
      let team := bit w 62
      let b : Barrier := { init := true, team := team, owner := s.ctx.taskh, obj := o
                           rec0 := (s.bar n).rec0, rec1 := (s.bar n).rec1 }
      let s := (s.setBar n b).setArrival n r
      if team && s.ctx.member == 0 then
        match s.teamBar n with
        | some t => s.putTeamBar { t with obj := { o with knot := t.obj.knot } }
        | none => s
      else s) s

/-- The registers, rows, entries, queues and held results of an image loaded into the running context, whose
place and address space stand. -/
def State.readImage (s : State) (area : Nat) (held : List Shadow) : State :=
  let p := s.pkg
  let w (off : Nat) : Word := word (p.readAt (area + off) 8)
  let c := { s.ctx with held := held }
  let k := s.core
  let row (r : Nat) : Row := match imageTag (p.readAt (area + 0x30000 + r) 1) with
    | some (some t) => { tag := t, cells := BitVec.ofNat 4096 (p.readAt (area + 0x20000 + 512 * r) 512)
                         poison := p.poisonedAt (area + 0x20000 + 512 * r) 512 || p.poisonedAt (area + 0x30000 + r) 1 }
    | _ => { Row.zero with poison := p.poisonedAt (area + 0x30000 + r) 1 }
  let entry (e : Nat) : Entry := match imageTag (p.readAt (area + 0x70400 + e) 1) with
    | some (some t) => { tag := t, data := BitVec.ofNat 8192 (p.readAt (area + 0x30400 + 1024 * e) 1024)
                         poison := p.poisonedAt (area + 0x30400 + 1024 * e) 1024 || p.poisonedAt (area + 0x70400 + e) 1 }
    | _ => { Entry.zero with poison := p.poisonedAt (area + 0x70400 + e) 1 }
  let queue (q : Nat) : List Entry := (List.range (p.readAt (area + 0xA00 + 16 * q) 1)).map (fun j =>
    { tag := BitVec.ofNat 5 (p.readAt (area + 0xA08 + 16 * q + j) 1)
      data := BitVec.ofNat 8192 (p.readAt (area + 0x2000 + 8192 * q + 1024 * j) 1024)
      poison := p.poisonedAt (area + 0x2000 + 8192 * q + 1024 * j) 1024 })
  let k := { k with
    hoop := (List.range c.hRows).foldl (fun v r => v.setIfInBounds (c.hBase + r) (row r)) k.hoop
    lane := (List.range c.lfSize).foldl (fun v e => v.setIfInBounds (c.lfBase + e) (entry e)) k.lane
    queues := (List.range 4).foldl (fun v q => if c.owns q then v.setIfInBounds q (queue q) else v) k.queues }
  { s with core := k, ctx := c.ofBlock w }

/-- R247 and R256: a context restored at user level takes its held results back to the live half with its first
pair. -/
def State.resumeHeld (s : State) : State :=
  let c := s.ctx
  if c.system then s
  else { s with ctx := { c with resume := !c.held.isEmpty, sfshadow := 0, estat := setBit c.estat 3 false } }

/-- The loop's first address as LC.POS gives it (R108): against the address a user-level context resumes at, or
against EPC for one saved in its handler. -/
def Ctx.rebaseLoop (c : Ctx) : Ctx :=
  if bit c.lc 42 then
    { c with first := (if c.system then c.epc else c.pc) - word (4 * bits c.lc 48 43) }
  else c

/-- R256 and R286: a restore of the running context, as an acquire at package scope; none where it fails.
DEDUCED, log 91. -/
def State.restore (s : State) (area : Nat) : Option State :=
  let s := s.startAcquire s.ctx.taskh
  if s.pkg.imageLegal area s.ctx = false then none
  else
    match heldOf (fun off => word (s.pkg.readAt (area + off) 8)) (fun off n => s.pkg.poisonedAt (area + off) n) with
    | none => none
    | some held =>
      let s := ((s.readImage area held).resumeHeld).readBars area
      some { s with ctx := { s.ctx.rebaseLoop with
        holds := true, stopped := false, saved := true, saveArea := area, dirty := 0, hdirty := 0 } }

/-- The event: the context engine restores the running bank's context from the area of its latest save (R256,
R377): a member of a placed task, or, with no task, a bank that holds no context. A restore that fails ends
the task with a fault record. DESIGN CHOICE, log 23. DEDUCED, log 91. -/
def execContextRestore (area : Nat) (s : State) : Out :=
  let c := s.ctx
  let go : Bool := match s.myTask with
    | some t => t.state == .placed && c.holds && c.stopped && !t.started.contains c.member
        && decide (t.saves.getD c.member 0 = area) && !t.saves.isEmpty
        && t.cores.all (fun k => (s.coreAt k).core.clearOf t.allocWord)
    | none => !c.holds && c.saved && c.saveArea == area
  if go = false ∨ area % 4096 ≠ 0 ∨ s.pkg.areaReady s.core.die area s.core.knotv = false then .next s
  else if s.pkg.areaAnswers area = false then .fault (.unbackedEngineAccess area)
  else if s.pkg.areaBacked area = false then .next (s.failImage 0)
  else
    let base : Ctx := match s.myTask with
      | some t =>
        let k := t.startCtx s.pkg s.coreNo c.member
        let gang := t.gang
        { k with team := if gang then setBit (setBit k.team 10 true) 11 (c.member == 0) else k.team
                 follower := gang && c.member != 0 }
      | none => { c.vacated with saved := true, saveArea := area }
    let s0 := { s with ctx := base }
    match s0.restore area with
    | some t => .next { t with pkg := t.pkg.setTask c.taskh (fun t => t.noteStart c.member) }
    | none => .next (s.failImage 0)

/-! ### Banks (R253) -/

/-- The event: issue passes to the other bank, the shadow results of this one having committed (R398), when it is ready and the running bank halts, ends, parks, is
stopped or stalls at a wait of R255, or when the running bank has reached a convoy boundary. -/
def execBankSwitch (s : State) : Out :=
  .next (
    let boundary := s.ctx.convoy.isEmpty && s.ctx.idle && !s.ctx.skip1 && !s.ctx.skip2
    if !s.frozen && s.other.ready && (!s.ctx.ready || s.ctx.wait.isSome || boundary) && s.ctx.idle then
      (s.shadowsDone.pass 4).swapBanks
    else s)

end Sys2Proof.Machine
end

