-- ==== Sys2Proof/Machine/Flits.lean ====
section
/-! DEFINITION. The flits of a packet (R306 to R309, R313): header, CRC, kinds, payloads and the knot frame, as functions
of the packet that the state holds. -/

namespace Sys2Proof.Machine

/-- One bit into the CRC of R306. -/
def crcBit (c : BitVec 16) (b : Bool) : BitVec 16 := if c.msb = b then c <<< 1 else (c <<< 1) ^^^ 0x1021

/-- R306: CRC-16 with polynomial 0x1021 and initial value 0xFFFF, over bytes in ascending order, the highest bit of each
first. DESIGN CHOICE, log 138. -/
def crc16 (l : List Byte) : BitVec 16 :=
  l.foldl (fun c x => (List.range 8).foldl (fun c i => crcBit c (x.getLsbD (7 - i))) c) 0xFFFF

/-- The low n bytes of a number. -/
def leBytes (n x : Nat) : List Byte := (wordBytes 0 n x).map (fun b => b.2)

/-- R307: the KIND of a packet's first flit. -/
def Packet.kind (k : Packet) : Nat :=
  match k.payload with
  | .write _ _ full _ => if full then 0x1 else 0x2
  | .readReq .. => 0x3
  | .atomic .. => 0x4
  | .readReply a => if a.byte8 % 2 = 0 then 0x5 else 0x6
  | .atomicReply .. => 0x6
  | .ack => 0x7
  | .knotAdvance => 0x8
  | .beacon _ => 0xA
  | .cutAdvance _ => 0xB
  | .removal _ => 0xC

/-- R307: a KIND that names a packet or a later flit of one. -/
def kindDefined (k : Nat) : Bool := decide ((1 ≤ k ∧ k ≤ 0xC) ∨ k = 0xF)

/-- The address that a packet names; 0 for one that names none. -/
def Packet.pa (k : Packet) : Nat :=
  match k.payload with
  | .write bytes .. => (bytes.headD (0, 0)).1
  | .readReq pa .. => pa
  | .atomic pa .. => pa
  | _ => 0

/-- R309: dependency pairs 0 and 1: the two highest-numbered candidates, and none where a frame carries them. -/
def Packet.pair (k : Packet) (i : Nat) : Nat × Nat :=
  if k.frame then (0xF, 0)
  else match k.deps.reverse[i]? with
    | some (j, c) => (j, c.toNat)
    | none => (0xF, 0)

/-- R306: header bits 111:0 from the fields. -/
def headerBits (kind src dst cnt j0 c0 j1 c1 snap ack tag line : Nat) : Nat :=
  line % 2 ^ 46 + tag % 256 * 2 ^ 46 + ack % 2 * 2 ^ 54 + snap % 2 * 2 ^ 55 + c1 % 4096 * 2 ^ 56 + j1 % 16 * 2 ^ 68
    + c0 % 4096 * 2 ^ 72 + j0 % 16 * 2 ^ 84 + cnt % 4096 * 2 ^ 88 + dst % 16 * 2 ^ 100 + src % 16 * 2 ^ 104
    + kind % 16 * 2 ^ 108

/-- R306: an 80-byte flit of a payload and header bits 111:0, with its CRC. -/
def flitOf (payload : List Byte) (header : Nat) : List Byte :=
  let l := (payload ++ List.replicate (64 - payload.length) 0).take 64 ++ leBytes 14 header
  l ++ leBytes 2 (crc16 l).toNat

/-- R306: a flit whose CRC holds; the link layer replays another. -/
def flitGood (l : List Byte) : Bool := leBytes 2 (crc16 (l.take 78)).toNat == l.drop 78

/-- R308: 16 entries of 12 bits, and the mask of those that are valid. -/
def frameBytes (l : List (Nat × BitVec 12)) : List Byte :=
  leBytes 24 (l.foldl (fun x e => x + e.2.toNat * 2 ^ (12 * e.1)) 0) ++ leBytes 2 (l.foldl (fun x e => x + 2 ^ e.1) 0)

/-- The 64 bytes of a line with the listed bytes in their places. -/
def lineBytes (bytes : List (Nat × Byte)) : List Byte :=
  (List.range 64).map (fun i => ((bytes.find? (fun b => b.1 % 64 == i)).map (fun b => b.2)).getD 0)

/-- R313: the payload of an atomic's or an error reply. -/
def Answer.bytes (a : Answer) : List Byte := leBytes 8 a.value ++ [BitVec.ofNat 8 a.byte8]

/-- R307, R308 and R313: the payload of a packet's first flit. -/
def Packet.payloadBytes (k : Packet) : List Byte :=
  match k.payload with
  | .write bytes .. => lineBytes bytes
  | .atomic _ _ op operand expected scope =>
    leBytes 8 operand.toNat ++ leBytes 8 expected.toNat ++ [BitVec.ofNat 8 op, BitVec.ofNat 8 scope]
  | .readReply a => if a.byte8 % 2 = 0 then leBytes 64 a.value else a.bytes
  | .atomicReply _ a => a.bytes
  | .beacon v => frameBytes (v.zipIdx.map (fun e => (e.2, e.1)))
  | .cutAdvance n => leBytes 8 n
  | .removal r => [BitVec.ofNat 8 r]
  | _ => []

/-- R306: header bits 111:0 of a packet's flit of a kind. -/
def Packet.header (k : Packet) (kind : Nat) : Nat :=
  let (j0, c0) := k.pair 0
  let (j1, c1) := k.pair 1
  headerBits kind k.src k.dst k.stamp.toNat j0 c0 j1 c1 k.snap.toNat k.ackReq.toNat k.tag (k.pa / 64)

/-- R307: the continuation flit, which shows its KIND and its route alone. -/
def Packet.continuation (k : Packet) : Nat := headerBits 0xF k.src k.dst 0 0 0 0 0 0 0 0 0

/-- R306 to R308: the flits of a packet on its link: its knot frame, its own flit, and the byte mask of a partial write.
DESIGN CHOICE, log 138. -/
def Packet.flits (k : Packet) : List (List Byte) :=
  let frame := if k.frame then
      [flitOf (frameBytes k.deps) (headerBits 0x9 k.src k.dst k.stamp.toNat 0xF 0 0xF 0 0 0 k.tag 0)] else []
  let mask := match k.payload with
    | .write bytes _ false _ =>
      [flitOf (leBytes 8 (bytes.foldl (fun x b => x ||| 2 ^ (b.1 % 64)) 0)) k.continuation]
    | _ => []
  frame ++ [flitOf k.payloadBytes (k.header k.kind)] ++ mask

/-- The dependency entries that the flits of a packet show to its destination (R308, R309). -/
def depsOfFrame (payload : List Byte) : List (Nat × BitVec 12) :=
  let x := payload.zipIdx.foldl (fun x b => x + b.1.toNat * 2 ^ (8 * b.2)) 0
  ((List.range 16).filter (fun j => x / 2 ^ (192 + j) % 2 == 1)).map (fun j => (j, BitVec.ofNat 12 (x / 2 ^ (12 * j))))

end Sys2Proof.Machine
end

