-- ==== Sys2Proof/Machine/Io.lean ====
section
/-! DEFINITION. The translation control block and the notify register of an I/O die (R345 to R349, R366),
invalidation of cached translations, the pager's answers, and the resident slots of the work queues
(R367). -/

namespace Sys2Proof.Machine

/-- Something done to every core that differs from its reset state, and to the one in focus. -/
def State.mapCores (s : State) (f : Peer → Peer) : State :=
  (s.coreNo :: s.peers.map (fun p => p.1)).foldl (fun s k => s.setCoreAt k (f (s.coreAt k))) s

/-- The number of the I/O die that an event names. -/
def ioNo (io : Nat) : Nat := if io = 9 then 9 else 0

/-- R406: an ignored write of a register is logged. -/
def Pkg.ignored (p : Pkg) (pa : Nat) : Pkg := p.log 6 ((p.homeOf pa).getD 0) pa

/-! ### Invalidation (R345) -/

/-- R345: a cached translation that an invalidation names. -/
def Tinv.hits (i : Tinv) (asn vbase run : Nat) (g : Bool) : Bool :=
  let holds := decide (vbase ≤ i.vpn ∧ i.vpn < vbase + 2 ^ run)
  match i.mode with
  | 0 => !g && asn == i.asn
  | 1 => holds && (g || asn == i.asn)
  | 2 => true
  | _ => holds

/-- The same for a TLB entry. -/
def Tinv.hitsTlb (i : Tinv) (t : Tlb) : Bool := i.hits t.asn t.vbase t.run t.g

/-- R345: a core without the TLB entries and cache lines that an invalidation names. -/
def Core.invalidate (c : Core) (i : Tinv) : Core :=
  { c with l1 := c.l1.filter (fun t => !i.hitsTlb t), gather := c.gather.filter (fun t => !i.hitsTlb t)
           unit := c.unit.filter (fun t => !i.hitsTlb t)
           stream := c.stream.filter (fun t => !i.hitsTlb t)
           cache := c.cache.filter (fun l => !i.hits l.asn l.vbase l.run l.g) }

/-- Every cached translation of the package that an invalidation names. DEDUCED, log 96. -/
def State.matching (s : State) (i : Tinv) : List Tlb :=
  let cores := (s.coreNo :: s.peers.map (fun p => p.1)).map (fun k =>
    let c := (s.coreAt k).core
    c.l1 ++ c.gather ++ c.unit.toList ++ c.stream)
  (cores.flatten ++ (s.pkg.l2.map (fun e => e.2)).flatten ++ s.pkg.io0.stream ++ s.pkg.io9.stream).filter i.hitsTlb

/-- The first bytes of the accesses under way in the package: buffered stores, requests on links or held, and
unanswered requests of contexts. DEDUCED, log 96. -/
def State.underWayAt (s : State) : List Nat :=
  let ofPacket (k : Packet) : List Nat := match k.payload with
    | .write b .. => b.map (fun x => x.1)
    | .readReq pa _ _ => [pa]
    | .atomic pa _ _ _ _ _ => [pa]
    | _ => []
  let ofCtx (c : Ctx) : List Nat := (c.pending.filter (fun q => q.answer.isNone)).map (fun q => q.pa)
  ((s.pkg.fwd.map (fun e => e.2)).flatten.map (fun e => e.bytes.map (fun b => b.1))).flatten
    ++ (s.pkg.net.map ofPacket).flatten
    ++ ((s.pkg.dies.toList.map (fun d => d.hold)).flatten.map ofPacket).flatten
    ++ ((s.coreNo :: s.peers.map (fun p => p.1)).map (fun k =>
        let p := s.coreAt k
        ofCtx p.ctx ++ ofCtx p.other)).flatten

/-- R345: a write of TINV: another invalidation pending, where there is room for it. -/
def Pkg.invalidate (p : Pkg) (io : Nat) (i : Tinv) : Pkg :=
  let x := p.io io
  if x.tinv.length < 64 then p.setIo io { x with tinv := x.tinv ++ [i] } else p

/-- R345: a value written to TINV. -/
def Pkg.writeTinv (p : Pkg) (io v : Nat) : Pkg :=
  p.invalidate io { mode := nbits v 63 62, asn := nbits v 51 40, vpn := nbits v 39 0 }

def execTinvAsn (io asn : Nat) (s : State) : Out :=
  .next { s with pkg := s.pkg.invalidate (ioNo io) { mode := 0, asn := asn % 4096, vpn := 0 } }
def execTinvVpn (io asn vpn : Nat) (s : State) : Out :=
  .next { s with pkg := s.pkg.invalidate (ioNo io) { mode := 1, asn := asn % 4096, vpn := vpn % 2 ^ 40 } }
def execTinvAll (io : Nat) (s : State) : Out :=
  .next { s with pkg := s.pkg.invalidate (ioNo io) { mode := 2, asn := 0, vpn := 0 } }
def execTinvVpnEveryAsn (io vpn : Nat) (s : State) : Out :=
  .next { s with pkg := s.pkg.invalidate (ioNo io) { mode := 3, asn := 0, vpn := vpn % 2 ^ 40 } }

/-- The event: the oldest invalidation of an I/O die completes: no TLB holds a matching entry, every access that
used one has performed, and DONE advances as a package-scope release (R345). DEDUCED, log 96. -/
def execInvalidationComplete (io : Nat) (s : State) : Out :=
  .next (
    let io := ioNo io
    let x := s.pkg.io io
    match x.tinv with
    | [] => s
    | i :: rest =>
      let runs := s.matching i
      let busy := s.underWayAt.any (fun pa => runs.any (fun t =>
        decide (t.pbase * 65536 ≤ pa ∧ pa < (t.pbase + 2 ^ t.run) * 65536)))
      if busy || !s.pkg.canAdvance io then s
      else
        let t := s.mapCores (fun p => { p with core := p.core.invalidate i })
        let cut (l : List Tlb) : List Tlb := l.filter (fun t => !i.hitsTlb t)
        let p := { t.pkg with l2 := t.pkg.l2.map (fun (e : Nat × List Tlb) => (e.1, cut e.2))
                              io0 := { t.pkg.io0 with stream := cut t.pkg.io0.stream }
                              io9 := { t.pkg.io9 with stream := cut t.pkg.io9.stream } }
        let y := p.io io
        { t with pkg := (p.setIo io { y with tinv := rest, done := y.done + 1 }).ioRelease io })

/-! ### The fault ring (R347, R348) -/

/-- R347: a value written to PRTAIL: the ring has room again, and the pager interrupt stands while it is not
empty. DEDUCED, log 103. -/
def Pkg.writePrtail (p : Pkg) (io v : Nat) : Pkg :=
  let x := p.io io
  let p := (p.setIo io { x with prtail := word (v % 2 ^ 32) }).writeFaults io 64
  let x := p.io io
  if x.prhead = x.prtail.truncate 32 then p else p.msi io 0

def execPrtailWrite (io : Nat) (value : Word) (s : State) : Out :=
  .next { s with pkg := s.pkg.writePrtail (ioNo io) value.toNat }

/-- R254 and R348: an answered context: the code in g62, and the bank no longer parked. -/
def Ctx.answered (c : Ctx) (tag code : Nat) : Ctx :=
  if c.parked = some tag then { c.setG 62 (word code) with parked := none } else c

/-- R349: an answered copy: its line walks again, or it stops with XLAT and ERR. -/
def Copy.answered (c : Copy) (tag code : Nat) : Copy :=
  if c.waitXlat = some tag then
    if code = 0 then { c with waitXlat := none }
    else { c with waitXlat := none, stopped := true, status := c.status ||| stXlat ||| stErr }
  else c

/-- R273: a gang all of whose requests are answered is parked no longer. -/
def State.unparkGang (s : State) (h : Word) : State :=
  match s.pkg.task h with
  | none => s
  | some t =>
    let at_ (k : Nat) : Ctx := (s.coreAt k).bankCtx t.bank
    if t.cores.any (fun k => (at_ k).taskh == h && (at_ k).parked.isSome) then s
    else s.forMembers h t.cores (fun u => { u with ctx := { u.ctx with parkedWith := false } })

/-- R348: a request answered: its context or copy goes on, ordered after what the I/O die has delivered.
DEDUCED, log 108. -/
def State.answerFault (s : State) (io : Nat) (r : FaultReq) (code : Nat) : State :=
  let x := s.pkg.io io
  let s := { s with pkg := s.pkg.setIo io { x with
    faults := x.faults.filter (fun y => y.tag != r.tag), faultQueue := x.faultQueue.filter (fun y => y.tag != r.tag) } }
  let learn (s : State) (k : Nat) : State :=
    let p := s.coreAt k
    s.setCoreAt k { p with core := { p.core with knotv := Knot.raiseAll p.core.knotv (s.pkg.vOf io) } }
  if r.agent < 2 then
    let p := s.coreAt r.core
    let old := p.bankCtx r.bank
    let c := old.answered r.tag code
    let c := if old.parked = some r.tag then { c with back := p.ctx.bank != r.bank } else c
    (learn (s.setCoreAt r.core (p.setBankCtx r.bank c)) r.core).unparkGang c.taskh
  else
    match s.copyOf r.copy with
    | none => s
    | some c => learn (s.putCopy (c.answered r.tag code)) c.owner

/-- R348: a value written to PANS. DEDUCED, log 103. -/
def State.writePans (s : State) (io v : Nat) : State :=
  let x := s.pkg.io io
  if nbits v 63 40 ≠ 0 then { s with pkg := s.pkg.ignored (regionBase io + 0x10030) }
  else
    match (x.faults ++ x.faultQueue).find? (fun r => r.tag == v % 2 ^ 32) with
    | none => { s with pkg := s.pkg.log 4 io (v % 2 ^ 32) }
    | some r => s.answerFault io r (nbits v 39 32)

def execPans (io : Nat) (value : Word) (s : State) : Out := .next (s.writePans (ioNo io) value.toNat)

/-! ### Notifies and resident slots (R366, R367) -/

def execNotify (io : Nat) (value : Word) (s : State) : Out :=
  .next { s with pkg := s.pkg.notify (ioNo io) value.toNat }

/-- The queues of an I/O die whose PEND is set. -/
def Pkg.pendQueues (p : Pkg) (io : Nat) : List Nat :=
  let base := regionBase io + 0x01000000
  p.mem.filterMap (fun c =>
    if base ≤ c.1 ∧ c.1 < base + 128 * 32768 ∧ (c.1 - base) % 128 = 55 ∧ c.2.getLsbD 5 = true then
      some ((c.1 - base) / 128 + (if io = 9 then 32768 else 0))
    else none)

/-- How far a scan of the queues in ascending order, from its present place on, has to go to reach q. -/
def IODie.scanTo (x : IODie) (q : Nat) : Nat := (q % 32768 + 32768 - x.scan) % 32768

/-- The values that a mapping loads from a queue record, in 64 cycles. -/
def Pkg.loadSlot (p : Pkg) (q : Nat) : QSlot :=
  { queue := q, state := .mapped, head := p.qget q 56 4, tail := p.qget q 60 4, ridx := p.qget q 64 4
    fidx := p.qget q 72 4, notified := p.cyc + 64, ready := p.cyc + 64 }

/-- The event: a FREE slot starts to map the next queue in the scan whose PEND is set and whose record is legal, 16
cycles after the mapping before it at the earliest (R365, R367). DEDUCED, log 106. -/
def execSlotMap (io q : Nat) (s : State) : Out :=
  .next (
    let io := ioNo io
    let x := s.pkg.io io
    let may (r : Nat) : Bool := (s.pkg.slot r).isNone && s.pkg.qLegal r
    if decide (x.mapNext ≤ s.pkg.cyc) && decide (x.slots.length < 4096) && queueIo q == io && decide (q < 65536) && s.pkg.qPend q && may q
        && !((s.pkg.pendQueues io).any (fun r => decide (x.scanTo r < x.scanTo q) && may r)) then
      let p := s.pkg.setIo io { x with slots := x.slots ++ [s.pkg.loadSlot q], scan := (q % 32768 + 1) % 32768,
                                        mapNext := s.pkg.cyc + 16 }
      { s with pkg := p.qFlag q 61 false }
    else s)

/-- The event: a slot whose queue has no work, no live task and no notify for 65,536 cycles starts its
write-back (R367). -/
def execSlotUnmap (io q : Nat) (s : State) : Out :=
  .next (
    let io := ioNo io
    match s.pkg.slot q with
    | none => s
    | some sl =>
      if queueIo q ≠ io ∨ sl.state ≠ .mapped ∨ sl.head ≠ sl.tail ∨ s.pkg.cyc < sl.notified + 65536
          ∨ (s.pkg.io io).tasks.any (fun t => t.queue == q) = true then s
      else
        let p := (((s.pkg.qset q 56 4 sl.head).qset q 60 4 sl.tail).qset q 64 4 sl.ridx).qset q 72 4 sl.fidx
        { s with pkg := p.setSlot q (fun s => { s with state := .unmapping false }) })

/-- The event: the write-back completes: the slot is FREE, or, where it is kept, loads its queue again (R367). -/
def execSlotWritebackComplete (io q : Nat) (s : State) : Out :=
  .next (
    let io := ioNo io
    match s.pkg.slot q with
    | none => s
    | some sl =>
      if queueIo q ≠ io then s
      else
        match sl.state with
        | .mapped => s
        | .unmapping false =>
          let x := s.pkg.io io
          { s with pkg := s.pkg.setIo io { x with slots := x.slots.filter (fun y => y.queue != q) } }
        | .unmapping true =>
          { s with pkg := (s.pkg.setSlot q (fun _ => s.pkg.loadSlot q)).qFlag q 61 false })

end Sys2Proof.Machine
end

