-- ==== Sys2Proof/Machine/Mgmt.lean ====
section
/-! DEFINITION. The management controller: service levels and training (R403 to R405), the management block
and its commands (R406, R407), writes and reads of the I/O dies' registers, clocks, power and retention
(R318, R416, R417), and firmware (R418). -/

namespace Sys2Proof.Machine

/-- The management block changed. -/
def Pkg.onMgmt (p : Pkg) (f : Mgmt → Mgmt) : Pkg := { p with mgmt := f p.mgmt }

/-- The management block changed. -/
def State.onMgmt (s : State) (f : Mgmt → Mgmt) : State := { s with pkg := s.pkg.onMgmt f }

/-! ### Interrupts into cores (R46) -/

/-- R46: source n set in a bank; where it is enabled, the event flag is set and a halted bank goes on. -/
def Ctx.raise (c : Ctx) (n : Nat) : Ctx :=
  let c := { c with ipend := setBit c.ipend n true }
  if bit c.imask n then { c with eventFlag := true, halted := false } else c

/-- Source n set in both banks of a core. -/
def Peer.raise (p : Peer) (n : Nat) : Peer := { p with ctx := p.ctx.raise n, other := p.other.raise n }

/-- Something done to each core of a list. -/
def State.eachCore (s : State) (l : List Nat) (f : Peer → Peer) : State :=
  l.foldl (fun s k => s.setCoreAt k (f (s.coreAt k))) s

/-- The cores in service (R404, R405). -/
def Pkg.served (p : Pkg) : List Nat :=
  if p.mgmt.level < 2 then []
  else ((List.range 192).map (fun k => k + 24)).filter (fun k => !p.removed (k / 24))

/-- R413: a value written to WAKE. -/
def State.wake (s : State) (v : Nat) : State :=
  let die := nbits v 11 8
  let core := nbits v 4 0
  if nbits v 63 12 ≠ 0 ∨ nbits v 5 5 ≠ 0 ∨ die < 1 ∨ 8 < die ∨ 23 < core then
    { s with pkg := s.pkg.ignored (regionBase 0 + 0x30048) }
  else
    let l := if nbits v 7 7 = 1 then (List.range 24).map (fun i => 24 * die + i) else [24 * die + core]
    s.eachCore l (fun p =>
      let p := p.setFlags
      if nbits v 6 6 = 1 then p.raise 1 else p)

def execWake (value : Word) (s : State) : Out := .next (s.wake value.toNat)

/-! ### Commands (R407) -/

/-- R407: a command completes with a result; LEVEL3, CLOCK, REMOVE and SNAPSHOT set IPEND.MGMT in every core
in service. DEDUCED, log 100. -/
def State.finishCommand (s : State) (code result : Nat) : State :=
  let s := { s with pkg := (s.pkg.onMgmt (fun m =>
    { m with completed := m.completed + 1, result := result, busy := false })).msi 0 2 }
  if code = 1 ∨ code = 2 ∨ code = 3 ∨ code = 6 then s.eachCore s.pkg.served (fun p => p.raise 2) else s

/-- R318, step 1: a frequency change to HALF or FULL is announced. -/
def Mgmt.change (m : Mgmt) (cyc : Nat) (half : Bool) : Mgmt := { m with switchTo := some half, switchAt := cyc + 4096 }

/-- R416: the change that the requested state and the power windows call for. DEDUCED, log 100. -/
def Mgmt.settle (m : Mgmt) (cyc : Nat) : Mgmt :=
  if m.level < 3 ∨ m.switchTo.isSome ∨ m.switching then m
  else if m.half then (if !m.wantHalf ∧ 100 ≤ m.underCap then m.change cyc false else m)
  else if m.wantHalf ∨ 2 ≤ m.overCap then m.change cyc true
  else m

/-- R405 and R407: the fault of a task with a member on die r: its members there end unsaved, those of a gang
all end, and the others are to stop. DEDUCED, log 101. -/
def State.faultRemoved (s : State) (r : Nat) (t : Task) : State :=
  let there := (List.range t.cores.length).filter (fun m => t.cores.getD m 0 / 24 = r)
  let cause := if t.gang then cGangFail else cRemoteError
  let s := s.passFault t.handle cause (there.headD 0) 0 0 []
  let go := (if t.gang then List.range t.cores.length else there).filter (fun m => !t.ended.contains m)
  let s := go.foldl (fun s m => s.endStrand (t.cores.getD m 0) t.bank) s
  go.foldl (fun s m => s.memberEnded t.handle m) { s with pkg := s.pkg.setTask t.handle (fun u =>
    { u with started := if t.state = .placed then u.started.filter (fun m => !there.contains m) else u.started }) }

/-- A copy whose engine has left service stops with REMOTE. DEDUCED, log 101. -/
def Copy.lost (c : Copy) : Copy := { c with stopped := true, waitXlat := none, status := c.status ||| stRemote ||| stErr }

/-- R405: the strands and engines of die r leave service. DEDUCED, log 101. -/
def State.emptyDie (s : State) (r : Nat) : State :=
  let hit := (s.pkg.io0.tasks ++ s.pkg.io9.tasks).filter (fun t =>
    t.state != .taken && t.state != .ready && t.cores.any (fun k => k / 24 == r))
  let s := hit.foldl (fun s t => s.faultRemoved r t) s
  ((s.coreNo :: s.peers.map (fun p => p.1)).filter (fun k => k / 24 = r)).foldl (fun s k =>
    let p := s.coreAt k
    s.setCoreAt k { p with ctx := p.ctx.vacated, other := p.other.vacated
                           core := { p.core with copies := p.core.copies.map Copy.lost } }) s

/-- R315 and R406: die r is taken out: DIES shows it, the log notes it, and a removal notice goes out on each of
its routes. DEDUCED, log 100. -/
def State.removeDie (s : State) (r : Nat) : State :=
  let p := s.pkg.onMgmt (fun m => { m with dies := setBit m.dies (16 + r) true })
  let notice (e : Nat) : Packet :=
    { src := r, dst := e, stamp := (p.die r).v.getD r 0, deps := [], frame := false, snap := false, ackReq := false, tag := 0
      owner := 240, bank := 0, handle := 0, payload := .removal r }
  let p := { p with net := p.net ++ ((List.range 10).filter (fun e => e != r)).map notice }
  ({ s with pkg := p.log 8 r r }).emptyDie r

/-- n bytes from pa on lie in one backed range. -/
def backedSpan (pa n : Nat) : Bool :=
  let e := pa + n - 1
  (isHbm pa && isHbm e) || (isSram pa && isSram e && decide (pa / 2 ^ 32 = e / 2 ^ 32))
    || (isIoRegion pa && isIoRegion e) || (isHostWindow pa && isHostWindow e)

/-- R418: what the ROM accepts: both key digests and both signatures, and a security version that is high
enough. -/
def imageAccepted (image : List Byte) (svnmin : Nat) : Bool :=
  Config.signaturesVerify image && decide (svnmin ≤ leAt image 4 4)

/-- R407 and R418: FWLOAD of the image at pa: the result, and the image where it is accepted. -/
def Pkg.loadImage (p : Pkg) (pa : Nat) : Nat × Option (List Byte) :=
  if backedSpan pa 1024 = false then (2, none)
  else
    let body := p.readAt (pa + 8) 8
    let n := 17632 + body
    if backedSpan pa n = false then (2, none)
    else if p.readAt pa 2 ≠ 1 ∨ body % 4096 ≠ 0 then (3, none)
    else
      let image := p.mem.readBytes pa n
      if imageAccepted image p.mgmt.svnmin then (0, some image) else (3, none)

/-- R333: the units of a granule that a snapshot preserves as one: 64 KiB, or its 4 KiB parts under
interleave. -/
def Pkg.unitsOf (p : Pkg) (i pa : Nat) : List SnapUnit :=
  let mk (base size : Nat) : SnapUnit :=
    { granule := i, base := base, size := size, state := .pending, slot := [], slotPoison := [], streamed := false }
  if p.interleave ∧ isHbm pa then (List.range 16).map (fun j => mk (pa + 4096 * j) 4096) else [mk pa 65536]

/-- R321: whether the descriptor at pa keeps its limits. -/
def Pkg.descLegal (p : Pkg) (pa : Nat) : Bool :=
  let n := p.readAt pa 8
  let base := p.readAt (pa + 8) 8
  let record := p.readAt (pa + 16) 8
  let counter := p.readAt (pa + 24) 8
  backedSpan pa 64 && decide (1 ≤ n ∧ n ≤ 2 ^ 24) && backedSpan pa (64 + 8 * n)
    && decide (base % 65536 = 0) && isHostWindow base && isHostWindow (base + 65536 * n - 1)
    && backedSpan record 64 && isHostWindow counter && decide (counter % 8 = 0)
    && decide (p.readAt (pa + 32) 32 = 0)
    && (List.range n).all (fun i =>
      let g := p.readAt (pa + 64 + 8 * i) 8
      decide (g % 65536 = 0) && (isHbm g || isSram g))

/-- R321: a snapshot started; granules whose home has been removed are lost. -/
def Pkg.startSnapshot (p : Pkg) (pa : Nat) : Pkg :=
  let n := p.readAt pa 8
  let all := ((List.range n).map (fun i => p.unitsOf i (p.readAt (pa + 64 + 8 * i) 8))).flatten
  let gone (u : SnapUnit) : Bool := p.removed ((p.homeOf u.base).getD 0)
  let lost := (all.filter gone).foldl (fun l u => insertNat u.granule l) []
  { p with snap := some { number := p.snaps, desc := pa, units := all.filter (fun u => !gone u), preserved := 0
                          lost := lost.length }
           snaps := p.snaps + 1 }

/-- R403: a package reset. Host memory, the security fuses and the firmware images outlive it; an image that
FWLOAD has verified is installed. What the environment has put before the machine, and the model's own counter
of free values, stand. DESIGN CHOICE, log 50. DEDUCED, log 95. -/
def State.packageReset (s : State) : State :=
  let m := s.pkg.mgmt
  { State.reset with
    agenda := s.agenda
    free := s.free
    pkg := { Pkg.reset with
      mem := s.pkg.mem.filter (fun c => isHostWindow c.1 || isFleetWindow c.1)
      poisoned := s.pkg.poisoned.filter (fun w => isHostWindow (8 * w) || isFleetWindow (8 * w))
      mgmt := { Mgmt.reset with
        svnmin := m.svnmin
        image := match m.nextImage with
          | some i => some i
          | none => m.image } } }

/-- R407: a command written to MCMD. A write while one is busy, or of a code that names no command, is ignored
and logged (R406); the firmware's failure leaves only FWLOAD and RESET (R404). DEDUCED, log 100. -/
def State.command (s : State) (code arg : Nat) : State :=
  let m := s.pkg.mgmt
  if m.level = 0 then s
  else if m.busy ∨ code = 0 ∨ 7 < code then { s with pkg := s.pkg.ignored (regionBase 0 + 0x30010) }
  else if m.firmware = false ∧ code ≠ 4 ∧ code ≠ 5 then s.finishCommand code 1
  else
    match code with
    | 1 =>
      if arg ≠ 0 then s.finishCommand 1 2
      else if m.level ≠ 2 then s.finishCommand 1 1
      else s.onMgmt (fun m => { (m.change s.pkg.cyc m.wantHalf) with busy := true, thenLevel3 := true })
    | 2 =>
      if 1 < arg then s.finishCommand 2 2
      else (s.onMgmt (fun m => { m with wantHalf := decide (arg = 1) }.settle s.pkg.cyc)).finishCommand 2 0
    | 3 =>
      if arg < 1 ∨ 8 < arg then s.finishCommand 3 2
      else if m.level < 2 ∨ s.pkg.removed arg then s.finishCommand 3 1
      else (s.removeDie arg).onMgmt (fun m => { m with busy := true, removing := some arg, knotPhase := 1 })
    | 4 => if arg ≠ 0 then s.finishCommand 4 2 else s.packageReset
    | 5 =>
      let (r, image) := s.pkg.loadImage arg
      let s := if r = 0 then s.onMgmt (fun m => { m with nextImage := image }) else s
      s.finishCommand 5 r
    | 6 =>
      if m.level < 3 then s.finishCommand 6 1
      else if s.pkg.snap.isSome then s.finishCommand 6 4
      else if s.pkg.descLegal arg = false then s.finishCommand 6 2
      else ({ s with pkg := s.pkg.startSnapshot arg }).finishCommand 6 0
    | _ =>
      if 2 ^ 32 ≤ arg then s.finishCommand 7 2
      else (s.onMgmt (fun m => { m with svnmin := Nat.max m.svnmin arg })).finishCommand 7 0

def execLevel3 (s : State) : Out := .next (s.command 1 0)
def execClock (half : Bool) (s : State) : Out := .next (s.command 2 (if half then 1 else 0))
def execRemove (die : Nat) (s : State) : Out := .next (s.command 3 die)
def execReset (s : State) : Out := .next (s.command 4 0)
def execFwload (pa : Nat) (s : State) : Out := .next (s.command 5 (pa % 2 ^ 56))
def execSnapshot (pa : Nat) (s : State) : Out := .next (s.command 6 (pa % 2 ^ 56))
def execSvnset (version : Nat) (s : State) : Out := .next (s.command 7 (version % 2 ^ 56))

/-! ### Registers of the I/O dies (R345, R364, R366, R406, R415) -/

/-- Offsets of an I/O die's region that hold records in memory: peer entries, region entries and queue
records. DEDUCED, log 71. -/
def isRecord (off : Nat) : Bool :=
  decide (0x40000 ≤ off ∧ off < 0x48000) || decide (0x50000 ≤ off ∧ off < 0x52000)
    || decide (0x01000000 ≤ off ∧ off < 0x01400000)

/-- The value of the register at an offset of an I/O die's region; registers that are written only, and offsets
that name none, read zero. DEDUCED, log 71, 100. -/
def Pkg.register (p : Pkg) (io off : Nat) : Nat :=
  let x := p.io io
  let m := p.mgmt
  if off = 0x10008 then x.done.toNat
  else if off = 0x10010 then x.prbase.toNat
  else if off = 0x10018 then x.prsize.toNat
  else if off = 0x10020 then x.prhead.toNat
  else if off = 0x10028 then x.prtail.toNat
  else if io ≠ 0 then 0
  else if off = 0x30000 then Nat.max 1 m.level
  else if off = 0x30008 then m.dies.toNat
  else if off = 0x30018 then m.completed.toNat + m.result % 256 * 2 ^ 40 + (if m.busy then 2 ^ 63 else 0)
  else if off = 0x30020 then (if m.half then 1 else 0) + (if m.wantHalf then 2 else 0)
  else if off = 0x30028 then m.pwrcap.toNat
  else if off = 0x30030 then m.retcfg.toNat
  else if off = 0x30038 then m.elogbase.toNat
  else if off = 0x30040 then m.eloghead.toNat
  else if off = 0x30050 then m.svnmin
  else 0

/-- n bytes read from an I/O die's region. DEDUCED, log 71. -/
def Pkg.deviceRead (p : Pkg) (io pa n : Nat) : Nat :=
  let off := pa - regionBase io
  if isRecord off then p.readAt pa n else p.register io (off / 8 * 8) / 256 ^ (off % 8) % 256 ^ n

/-- R345: whether a write of these bytes can be accepted now: a 65th invalidation is not. -/
def Pkg.deviceReady (p : Pkg) (io pa : Nat) : Bool :=
  pa != regionBase io + 0x10000 || decide ((p.io io).tinv.length < 64)

/-- A doubleword written to the register at an offset of an I/O die's region. A register that is read only, a
value outside its limits and an offset that names no register are ignored and logged (R406). DEDUCED, log 71, 100. -/
def State.setRegister (s : State) (io off v : Nat) : State :=
  let x := s.pkg.io io
  let set (y : IODie) : State := { s with pkg := s.pkg.setIo io y }
  let bad : State := { s with pkg := s.pkg.ignored (regionBase io + off) }
  if off = 0x10000 then (if nbits v 61 52 = 0 then { s with pkg := s.pkg.writeTinv io v } else bad)
  else if off = 0x10010 then (if v % 4096 = 0 ∧ v < 2 ^ 52 then set { x with prbase := word v } else bad)
  else if off = 0x10018 then (if 6 ≤ v ∧ v ≤ 16 then set { x with prsize := word v } else bad)
  else if off = 0x10028 then { s with pkg := s.pkg.writePrtail io v }
  else if off = 0x10030 then s.writePans io v
  else if off = 0x20000 then { s with pkg := s.pkg.notify io v }
  else if io ≠ 0 then bad
  else if off = 0x30010 then s.command (nbits v 63 56) (nbits v 55 0)
  else if off = 0x30028 then
    (if 1000 ≤ v ∧ v ≤ 2800 then s.onMgmt (fun m => { m with pwrcap := word v }) else bad)
  else if off = 0x30030 then
    (if nbits v 62 32 = 0 ∧ (v = 0 ∨ 4096 ≤ v % 2 ^ 32) then s.onMgmt (fun m => { m with retcfg := word v, retSince := s.pkg.cyc }) else bad)
  else if off = 0x30038 then
    (if nbits v 63 52 = 0 ∧ nbits v 11 4 = 0 ∧ 6 ≤ v % 16 ∧ v % 16 ≤ 12 then
      s.onMgmt (fun m => { m with elogbase := word v })
    else bad)
  else if off = 0x30048 then s.wake v
  else bad

/-- What follows a write of queue-record bytes: room for report items (R387) or fault entries (R382). -/
def State.afterRecord (s : State) (io : Nat) (bytes : List (Nat × Byte)) : State :=
  let base := regionBase io + 0x01000000
  let field (lo : Nat) : Option Nat :=
    (bytes.find? (fun b => decide (base ≤ b.1) && decide (lo ≤ (b.1 - base) % 128 ∧ (b.1 - base) % 128 < lo + 4))).map
      (fun b => (b.1 - base) / 128 + (if io = 9 then 32768 else 0))
  let s := match field 68 with
    | some _ => { s with pkg := s.pkg.flushItems io 64 }
    | none => s
  match field 76 with
  | some q => ((s.pkg.io io).tasks.filter (fun t => t.queue == q && t.state == .stopping)).foldl
      (fun s t => s.finishStopping t.handle) s
  | none => s

/-- A write performs in an I/O die's region: in a record, as memory; at a register, where it is an aligned
doubleword. DEDUCED, log 71. -/
def State.deviceWrite (s : State) (io : Nat) (bytes : List (Nat × Byte)) (poison : List Nat) : State :=
  match bytes with
  | [] => s
  | b :: _ =>
    let off := b.1 - regionBase io
    if isRecord off then
      ({ s with pkg := s.pkg.homeWrite bytes poison false (s.pkg.die io).cut.isNone }).afterRecord io bytes
    else if bytes.length = 8 ∧ off % 8 = 0 then
      s.setRegister io off (bytes.foldr (fun b x => b.2.toNat + 256 * x) 0)
    else { s with pkg := s.pkg.ignored b.1 }

/-- The event: a doubleword is written at a physical address of an I/O die's region (R406). -/
def execRegisterWrite (pa : Nat) (value : Word) (s : State) : Out :=
  .next (
    let io := (s.pkg.homeOf pa).getD 0
    if isIoRegion pa && decide (pa % 8 = 0) && s.pkg.deviceReady io pa then
      s.deviceWrite io (wordBytes pa 8 value.toNat) []
    else s)

/-! ### Reset, bring-up and training (R403 to R405, R418) -/

def execPowerOn (s : State) : Out := .next s.packageReset
def execPerstPackage (s : State) : Out := .next s.packageReset

/-- R403: PERST# at die 9's port resets only that port's link. -/
def execPerstLink (s : State) : Out :=
  .next { s with pkg := s.pkg.setIo 9 { s.pkg.io9 with portUp := false, cxl := false, d3hot := false } }

/-- R404: Level 1, once the ROM has looked at the firmware and the host port is trained. -/
def State.toLevel1 (s : State) : State :=
  if s.pkg.mgmt.level = 0 ∧ s.pkg.mgmt.romDone ∧ s.pkg.io0.portUp then s.onMgmt (fun m => { m with level := 1 }) else s

/-- A value held within two bounds. -/
def clamp (lo hi x : Nat) : Nat := Nat.max lo (Nat.min hi x)

/-- The event: the ROM verifies the installed firmware; what it accepts brings its configuration record with it
(R404, R418). DESIGN CHOICE, log 10. -/
def execFirmwareVerify (s : State) : Out :=
  .next (
    let m := s.pkg.mgmt
    if m.level ≠ 0 ∨ m.romDone then s
    else
      let image := m.image.getD Config.flash
      if imageAccepted image m.svnmin then
        let p := s.pkg.onMgmt (fun m => { m with
          romDone := true, firmware := true, pwrcap := word (clamp 1000 2800 (Config.powerCap image))
          retcfg := Config.retention image &&& 0x80000000FFFFFFFF, ports := Config.enabledPorts image })
        ({ s with pkg := { p with interleave := Config.interleaved image } }).toLevel1
      else (s.onMgmt (fun m => { m with romDone := true })).toLevel1)

/-- R405: a unit's place in the list of what has trained. -/
def trainCode : TrainUnit → Nat
  | .edge e => e
  | .stack i => 16 + i
  | .hostPort io => if io = 9 then 41 else 32

/-- R405: whether a unit can train now. -/
def trainDue (u : TrainUnit) (s : State) : Bool :=
  let m := s.pkg.mgmt
  !m.trained.contains (trainCode u) && !m.failed.contains (trainCode u)
    && (match u with
      | .edge e => decide (e < 13) && decide (m.level = 1) && m.firmware
      | .stack i => decide (i < 16) && decide (m.level = 1) && m.firmware
      | .hostPort io => (io == 0 || io == 9) && !(s.pkg.io io).portUp)

/-- R405: die r out of service before Level 2: every die freezes it. DEDUCED, log 104. -/
def Pkg.freezeOut (p : Pkg) (r : Nat) : Pkg :=
  let p := p.onMgmt (fun m => { m with dies := setBit m.dies (16 + r) true })
  ({ p with dies := p.dies.map (fun (x : Die) => { x with frozenBy := assocSet r (x.v.getD r 0) x.frozenBy }) }).log 8 r r

/-- R316: whether a unit that trains does so again: a trained edge of a package in service. -/
def retrains (u : TrainUnit) (s : State) : Bool :=
  let m := s.pkg.mgmt
  match u with
  | .edge e => decide (e < 13) && m.trained.contains e && decide (2 ≤ m.level) && decide (m.knotPhase = 0)
  | _ => false

/-- The event: a die-to-die edge, an HBM stack or a host port trains, or fails to (R405). The host port may
train again after its link was reset, and an edge in service, which calls for a knot reset (R316). DEDUCED, log 104.
DESIGN CHOICE, log 137. -/
def execLinkTraining (unit : TrainUnit) (ok : Bool) (s : State) : Out :=
  .next (
    if retrains unit s ∧ ok then s.onMgmt (fun m => { m with knotPhase := 1 })
    else if trainDue unit s = false then s
    else if ok then
      match unit with
      | .hostPort io =>
        -- R410: whether the host takes the CXL that the port offers is a free value
        ({ s with
            free := s.free + 1
            pkg := s.pkg.setIo io { s.pkg.io io with portUp := true, cxl := Config.choice s.free % 2 == 1 } }).toLevel1
      | u => s.onMgmt (fun m => { m with trained := insertNat (trainCode u) m.trained })
    else
      let p := (s.pkg.onMgmt (fun m => { m with failed := match unit with
        | .hostPort _ => m.failed
        | u => insertNat (trainCode u) m.failed })).log 7 0 (trainCode unit)
      match unit with
      | .stack i =>
        if s.pkg.interleave ∨ p.removed (1 + i / 2) then { s with pkg := p }
        else { s with pkg := p.freezeOut (1 + i / 2) }
      | _ => { s with pkg := p })

/-- The event: Level 2: every edge and every HBM interface is trained, and memory is written zero (R403 to
R405). DESIGN CHOICE, log 1. DEDUCED, log 105. -/
def execLevel2Entry (s : State) : Out :=
  .next (
    let m := s.pkg.mgmt
    if m.level ≠ 1 ∨ m.firmware = false
        ∨ (List.range 13).all (fun e => m.trained.contains e) = false
        ∨ (List.range 16).all (fun i => m.trained.contains (16 + i) || s.pkg.removed (1 + i / 2)) = false then s
    else
      let keep (pa : Nat) : Bool := !(isHbm pa || inSramWindow pa)
      { s with pkg := { s.pkg with
          mem := s.pkg.mem.filter (fun c => keep c.1)
          poisoned := s.pkg.poisoned.filter (fun w => keep (8 * w))
          mgmt := { m with level := 2, half := true } } })

/-! ### Clocks, power and retention (R318, R416, R417) -/

/-- The event: CYC reaches T, and every core freezes (R318, steps 1 and 2). DESIGN CHOICE, log 48. -/
def execFreqSwitchFreeze (s : State) : Out :=
  .next (
    let m := s.pkg.mgmt
    if m.switchTo.isNone ∨ m.switching then s
    else (if s.pkg.cyc < m.switchAt then s.pass (m.switchAt - s.pkg.cyc) else s).onMgmt (fun m =>
      { m with switching := true, switchAt := Nat.max m.switchAt s.pkg.cyc }))

/-- The event: the cores resume at the new clock, 8,192 package cycles after T, which no core counts (R318, R251), and
the copies whose TIME fell among these start; LEVEL3 completes with it (R404). -/
def execFreqSwitchResume (s : State) : Out :=
  .next (
    let m := s.pkg.mgmt
    match m.switchTo with
    | none => s
    | some half =>
      if m.switching = false then s
      else
        let s := (s.pass (m.switchAt + 8192 - s.pkg.cyc)).mapCores (fun p => { p with core := p.core.startRelocked m })
        let s := s.onMgmt (fun m =>
          { m with half := half, switchTo := none, switching := false, level := if m.thenLevel3 then 3 else m.level
                   thenLevel3 := false })
        let s := if m.thenLevel3 then s.finishCommand 1 0 else s
        s.onMgmt (fun m => m.settle s.pkg.cyc))

/-- The event: the controller has measured the power of one window of 1 ms (R416). -/
def execPowerWindow (watts : Nat) (s : State) : Out :=
  .next (
    if s.pkg.mgmt.level = 0 then s
    else s.onMgmt (fun m =>
      let cap := m.pwrcap.toNat
      { m with overCap := if cap < watts then m.overCap + 1 else 0
               underCap := if 10 * watts < 9 * cap then m.underCap + 1 else 0 }.settle s.pkg.cyc))

/-- R417: whether die-SRAM banks may enter retention. DESIGN CHOICE, log 72. -/
def Mgmt.retains (m : Mgmt) : Bool := bit m.retcfg 63

/-- R417: no access has touched a bank of a die, that is awake, for the configured idle cycles.
DESIGN CHOICE, log 72. -/
def Pkg.bankIdle (p : Pkg) (die bank : Nat) : Bool :=
  let x := p.die die
  let last := Nat.max ((assoc bank x.touched).getD 0) p.mgmt.retSince
  p.mgmt.retains && (assoc bank x.retaining).isNone && decide ((assoc bank x.waking).getD 0 ≤ p.cyc)
    && decide (last + bits p.mgmt.retcfg 31 0 ≤ p.cyc)

/-- The event: an idle die-SRAM bank starts to enter retention, which takes 2,048 cycles (R252, R417).
DESIGN CHOICE, log 72. -/
def execRetentionEntry (die bank : Nat) (s : State) : Out :=
  .next (
    if decide (die < 10 ∧ bank < 512) && s.pkg.bankIdle die bank then
      let x := s.pkg.die die
      { s with pkg := s.pkg.setDie die { x with
          retaining := assocSet bank (s.pkg.cyc + 2048) x.retaining, waking := assocErase bank x.waking } }
    else s)

/-- The event: a die-SRAM bank has left retention, its data as it was (R252): package time reaches the cycle in which
its exit completes. DESIGN CHOICE, log 72. -/
def execRetentionExit (die bank : Nat) (s : State) : Out :=
  .next (
    let (x, w) := (s.pkg.die die).touch s.pkg.cyc bank
    if w = 0 then s
    else
      let s := { s with pkg := s.pkg.setDie die x }.pass w
      let x := s.pkg.die die
      { s with pkg := s.pkg.setDie die { x with waking := assocErase bank x.waking } })

/-- The event: the scrubber reads a word and writes it back corrected: the word's value and any poison of it
stand (R354). DESIGN CHOICE, log 117. -/
def execScrub (_pa : Nat) (s : State) : Out := .next s

end Sys2Proof.Machine
end

