-- ==== Sys2Proof/Machine/Fabric.lean ====
section
/-! DEFINITION. The causal fabric (R278 to R280, R303 to R316): arrival, holding and delivery of packets by
kind, beacons, errors, die removal and knot reset; the host's and the peers' accesses (R411 to R415); and
snapshots (R321 to R324). -/

namespace Sys2Proof.Machine

/-! ### What became of a write or a request (R313, R314) -/

/-- The member of a task that ran on a core. -/
def Pkg.memberOn (p : Pkg) (h : Word) (core : Nat) : Nat :=
  match p.task h with
  | some t => t.cores.idxOf core
  | none =>
    match (p.io (handleIo h)).finished.find? (fun f => f.handle == h) with
    | some f => f.cores.idxOf core
    | none => 0

/-- R314 and R387: a write that cannot be delivered: a report item with its address. -/
def Pkg.lostWrite (p : Pkg) (k : Packet) (bytes : List (Nat × Byte)) : Pkg :=
  let p := p.report k.handle 2 (p.memberOn k.handle k.owner) 0 ((bytes.headD (0, 0)).1) 0
  if k.ackReq then
    let x := p.die k.src
    p.setDie k.src { x with unacked := x.unacked.filter (fun u => !(u.1 == k.tag && p.removed u.2)) }
  else p

/-- R315: a packet that its destination does not take: a request is answered with code 3, a write is reported,
and anything else is dropped. -/
def Pkg.bounce (p : Pkg) (k : Packet) : Pkg :=
  match k.payload with
  | .write bytes .. => p.lostWrite k bytes
  | .readReq _ _ _ =>
    { p with net := p.net ++ [{ k with dst := k.src, deps := [], frame := false, payload := .readReply (errorAnswer 3) }] }
  | .atomic _ va _ _ _ _ =>
    { p with net := p.net ++ [{ k with dst := k.src, deps := [], frame := false, payload := .atomicReply va (errorAnswer 3) }] }
  | _ => p

/-- A context with an answer for its request of a tag. -/
def Ctx.take (c : Ctx) (kind : PendKind) (tag : Nat) (a : Answer) : Ctx :=
  { c with pending := c.pending.map (fun q => if q.kind = kind ∧ q.tag = tag ∧ q.answer = none then
      { q with answer := some a } else q) }

/-- The context waits for the answer to a request of a kind and tag. -/
def Ctx.awaits (c : Ctx) (kind : PendKind) (tag : Nat) : Bool :=
  c.pending.any (fun q => q.kind == kind && q.tag == tag && q.answer.isNone)

/-- A reply reaches the context that asked (R178, R181). One that nothing waits for any more is discarded: it is
logged where a fabricated reply went before it (R313), and an atomic's error is reported where its strand has
ended (R384). DESIGN CHOICE, log 43. DEDUCED, log 67, 108. -/
def State.reply (s : State) (k : Packet) (kind : PendKind) (va : Nat) (a : Answer) : State :=
  let p := s.coreAt k.owner
  let c := p.bankCtx k.bank
  if p.core.fabricated.contains (k.bank, k.tag) then
    let t := s.setCoreAt k.owner { p with core := { p.core with fabricated := p.core.fabricated.erase (k.bank, k.tag) } }
    { t with pkg := t.pkg.log 5 (k.owner / 24) k.tag }
  else if c.holds && c.taskh == k.handle && c.awaits kind k.tag then
    s.setCoreAt k.owner (p.setBankCtx k.bank (c.take kind k.tag a))
  else if c.holds && c.taskh == k.handle && c.awaits .dropped k.tag then
    s.setCoreAt k.owner (p.setBankCtx k.bank { c with
      pending := c.pending.filter (fun q => !(q.kind == .dropped && q.tag == k.tag)) })
  else if kind == .atomic && a.byte8 % 2 == 1 then
    { s with pkg := s.pkg.report k.handle 3 (s.pkg.memberOn k.handle k.owner) 0 va a.byte8 }
  else s

/-! ### Delivery (R278 to R280, R307) -/

/-- R322: whether a write that die src sent with a stamp is pre-cut. -/
def Pkg.preCut (p : Pkg) (src : Nat) (stamp : BitVec 12) : Bool :=
  match (p.die src).cut with
  | none => true
  | some c => cntAbove c stamp

/-- A write performs at its home die (R289): in memory, in an I/O die's region, or through a host port. -/
def State.performWrite (s : State) (d : Nat) (bytes : List (Nat × Byte)) (poison : List Nat) (snap pre : Bool)
    (masks : List (Nat × Byte) := []) : State :=
  let pa := (bytes.headD (0, 0)).1
  if isIoRegion pa then s.deviceWrite d bytes poison
  else
    let p := s.pkg.homeStore bytes masks poison snap pre
    { s with pkg := if isHostWindow pa then p.setIo d { p.io d with dirtyPort := true } else p }

/-- R307: what a read request returns. DEDUCED, log 67. -/
def Pkg.answerRead (p : Pkg) (d pa size : Nat) (acquire : Bool) : Answer :=
  { value := if isIoRegion pa then p.deviceRead d pa size else p.readAt pa size
    byte8 := if (p.homeOf pa).isNone then 81 else 0
    poison := p.poisonIn pa size
    raised := if acquire then p.vOf d else [] }

/-- R313: an atomic performs at its home: its answer, and the state after it. Poison draws code 1. DEDUCED, log 57. -/
def State.performAtomic (s : State) (d : Nat) (k : Packet) (pa op : Nat) (operand expected : Word) (scope : Nat) :
    Answer × State :=
  if s.pkg.poisonedAt pa 8 then ({ errorAnswer 1 with raised := [] }, s)
  else if (s.pkg.homeOf pa).isNone then (errorAnswer 5, s)
  else
    let io := isIoRegion pa
    let old := word (if io then s.pkg.deviceRead d pa 8 else s.pkg.readAt pa 8)
    let new := atomicValue op old operand expected
    let t := if op = 8 ∧ old ≠ expected then s
      else s.performWrite d (wordBytes pa 8 new.toNat) [] k.snap (s.pkg.preCut k.src k.stamp)
    ({ value := old.toNat, byte8 := 6, poison := [], raised := if 5 ≤ scope then s.pkg.vOf d else [] }, t)

/-- R305: the catch-up of die d on a beacon: knot entries and send-record entries that have fallen 1,024 or more
behind are raised. -/
def State.catchUp (s : State) (d : Nat) : State :=
  let x := s.pkg.die d
  let lift (j : Nat) (c : BitVec 12) : BitVec 12 :=
    let v := x.v.getD j 0
    if cntAbove v c ∧ 1024 ≤ (v - c).toNat then v else c
  -- an entry that the record does not list is 0 (R303)
  let row (e : Nat) : List (Nat × BitVec 12) :=
    (List.range 10).foldl (fun r j =>
      let c := (assoc j r).getD 0
      if lift j c = c then r else assocSet j (lift j c) r) (x.record e)
  let sent := (List.range 10).foldl (fun l e => if e = d ∨ row e = x.record e then l else assocSet e (row e) l) x.sent
  let s := { s with pkg := s.pkg.setDie d { x with sent := sent } }
  s.mapCores (fun p =>
    if p.core.die = d then
      { p with core := { p.core with
          knotv := (List.range 10).foldl (fun k j => k.setIfInBounds j (lift j (k.getD j 0))) p.core.knotv } }
    else p)

/-- Entries of a cluster's buffer that leave in turn, while any may. -/
def Pkg.leaveAll (p : Pkg) (cl : Nat) : Nat → Pkg
  | 0 => p
  | n + 1 =>
    let l := p.buffer cl
    match (List.range l.length).find? (fun i => p.mayLeave l i) with
    | some i => (p.leave cl i).leaveAll cl n
    | none => p

/-- The clusters of a die. -/
def dieClusters (d : Nat) : List Nat := if d < 1 ∨ 8 < d then [] else (List.range 6).map (fun c => 6 * (d - 1) + c)

/-- R321: die d cuts: its forwarding buffers drain, its counter advances, and a cut advance goes to every die. The
answer says whether it could. -/
def Pkg.cutDie (p : Pkg) (d number : Nat) : Pkg × Bool :=
  let p := (dieClusters d).foldl (fun p cl => p.leaveAll cl (p.buffer cl).length) p
  if (dieClusters d).all (fun cl => (p.buffer cl).isEmpty) && p.canAdvance d then
    let p := p.advance d (p.die d).v (.cutAdvance number)
    let x := p.die d
    (p.setDie d { x with cut := some (x.v.getD d 0) }, true)
  else (p, false)

/-- R315: die d delivers the removal notice of die r. -/
def Pkg.deliverRemoval (p : Pkg) (d r : Nat) : Pkg :=
  let x := p.die d
  let v := x.v.getD r 0
  let out (k : Packet) : Bool := k.deps.any (fun j => j.1 == r && cntAbove j.2 v)
  let p := p.setDie d { x with frozenBy := assocSet r v x.frozenBy, hold := x.hold.filter (fun k => !out k) }
  (x.hold.filter out).foldl Pkg.bounce p

/-- Words of a span of bytes. -/
def poisonWords (pa n : Nat) : List Nat := (List.range ((pa + n - 1) / 8 - pa / 8 + 1)).map (fun i => pa / 8 + i)

/-- R278: die k.dst delivers a packet. DESIGN CHOICE, log 144. -/
def State.deliver (s : State) (k : Packet) : State :=
  let d := k.dst
  let s := { s with pkg := s.pkg.raiseV d k.src k.stamp }
  let back (payload : Payload) (plain : Bool) (s : State) : State :=
    { s with pkg := s.pkg.send d k.src k.owner k.bank k.handle (s.pkg.die d).v plain payload false false k.tag }
  match k.payload with
  | .write bytes poison _ masks =>
    let s := s.performWrite d bytes poison k.snap (s.pkg.preCut k.src k.stamp) masks
    if k.ackReq then back .ack true s else s
  | .readReq pa size acq =>
    let (c, s) := s.completion pa
    let a := s.pkg.answerRead d pa size acq
    back (.readReply (match c with
      | 0 => a
      | 1 => errorAnswer 5
      | _ => { a with poison := poisonWords pa size })) (!acq) s
  | .atomic pa va op operand expected scope =>
    let (a, t) := s.performAtomic d k pa op operand expected scope
    back (.atomicReply va a) (decide (scope < 5)) t
  | .readReply a => s.reply k .load 0 a
  | .atomicReply va a => s.reply k .atomic va a
  | .ack =>
    let x := s.pkg.die d
    { s with pkg := s.pkg.setDie d { x with unacked := x.unacked.erase (k.tag, k.src) } }
  | .knotAdvance => s
  | .beacon v =>
    let x := s.pkg.die d
    ({ s with pkg := s.pkg.setDie d { x with beacons := assocSet k.src (v.getD d 0) x.beacons } }).catchUp d
  | .cutAdvance n =>
    let p := if (s.pkg.die d).cut.isNone && s.pkg.snap.isSome then (s.pkg.cutDie d n).1 else s.pkg
    let x := p.die d
    { s with pkg := p.setDie d { x with cutSeen := insertNat k.src x.cutSeen } }
  | .removal r => { s with pkg := s.pkg.deliverRemoval d r }

/-! ### Arrival and holding (R278, R307 to R311) -/

/-- R278: every entry that a packet names is delivered at die x. -/
def Die.meets (x : Die) (k : Packet) : Bool := k.deps.all (fun j => cntGe (x.v.getD j.1 0) j.2)

/-- R315: a packet names an entry of a removed die above its frozen value. -/
def Die.dooms (x : Die) (k : Packet) : Bool :=
  k.deps.any (fun j => match assoc j.1 x.frozenBy with
    | some v => cntAbove j.2 v
    | none => false)

/-- R310: a hold-buffer entry is free for source die `src`. -/
def Die.room (x : Die) (src : Nat) : Bool :=
  let mine (e : Nat) : Nat := (x.hold.filter (fun k => k.src == e)).length
  decide (mine src < 16)
    || decide ((List.range 10).foldl (fun n e => n + (mine e - 16)) 0 < 112)

/-- R321: a cut advance has arrived at die d, whose own cut is still to be completed. -/
def Pkg.cutting (p : Pkg) (d : Nat) : Bool :=
  let x := p.die d
  x.cut.isNone && p.snap.isSome && x.hold.any (fun h => h.kind == 0xB)

/-- Whether the delivery itself can happen now: room for an invalidation (R345), for a cut advance the cut
of the die, with nothing delivered before it but the acknowledgements that it may wait for (R321), and a bank of SRAM
that is awake (R252). DESIGN CHOICE, log 51. -/
def Pkg.takes (p : Pkg) (k : Packet) : Bool :=
  (!p.cutting k.dst || k.kind == 0xB || k.kind == 0x7) &&
  match k.payload with
  | .write ((pa, _) :: _) .. => (!isIoRegion pa || p.deviceReady k.dst pa) && p.awake pa
  | .atomic pa _ _ _ _ _ => (!isIoRegion pa || p.deviceReady k.dst pa) && p.awake pa
  | .readReq pa _ _ => p.awake pa
  | .cutAdvance n => (p.die k.dst).cut.isSome || p.snap.isNone || (p.cutDie k.dst n).2
  | _ => true

/-- A beacon is delivered past held packets of its source; its stamp then says nothing of V (R305).
DEDUCED, log 68. -/
def State.deliverBeacon (s : State) (k : Packet) : State :=
  let held := (s.pkg.die k.dst).hold.any (fun h => h.src == k.src)
  s.deliver (if held then { k with stamp := (s.pkg.die k.dst).v.getD k.src 0 } else k)

/-- The oldest packet on the route from one die to another. -/
def Pkg.head (p : Pkg) (src dst : Nat) : Option Packet := p.net.find? (fun k => k.src == src && k.dst == dst)

/-- R252: a packet that waits for an SRAM bank has it leave retention. -/
def Pkg.wake (p : Pkg) (k : Packet) : Pkg :=
  match k.payload with
  | .write ((pa, _) :: _) .. => (p.touchSram pa).1
  | .atomic pa _ _ _ _ _ => (p.touchSram pa).1
  | .readReq pa _ _ => (p.touchSram pa).1
  | _ => p

/-- A packet taken off its link. -/
def State.offLink (s : State) (k : Packet) : State := { s with pkg := { s.pkg with net := s.pkg.net.erase k } }

/-- R278, R307 and R310: a packet at the end of its link is delivered or held. One for which its source has no credit
has not been sent (R311): it waits at its source. DESIGN CHOICE, log 139. -/
def State.land (s : State) (k : Packet) : State :=
  let p := s.pkg
  let x := p.die k.dst
  let s1 := s.offLink k
  let isBeacon := match k.payload with | .beacon _ => true | _ => false
  if k.src = k.dst then
    match k.payload with
    | .write bytes .. => { s1 with pkg := s1.pkg.lostWrite k bytes }
    | _ => s1.deliver k
  else if x.room k.src = false then s
  else if p.removed k.dst ∨ (assoc k.src x.frozenBy).isSome then { s1 with pkg := s1.pkg.bounce k }
  else if isBeacon then s1.deliverBeacon k
  else if x.dooms k then { s1 with pkg := s1.pkg.bounce k }
  else if x.hold.any (fun h => h.src == k.src) || !x.meets k || !p.takes k then
    { s1 with pkg := (s1.pkg.setDie k.dst { x with hold := x.hold ++ [k] }).wake k }
  else s1.deliver k

/-- The event that the oldest packet of a route, of a KIND of R307, reaches the end of its link. -/
def State.arrive' (s : State) (src dst : Nat) (kind : Packet → Bool) : Out :=
  .next (match s.pkg.head src dst with
    | some k => if kind k then s.land k else s
    | none => s)

def execLineWrite (src dst : Nat) (s : State) : Out :=
  s.arrive' src dst (fun k => k.kind == 0x1)
def execPartialWrite (src dst : Nat) (s : State) : Out :=
  s.arrive' src dst (fun k => k.kind == 0x2)
def execReadRequest (src dst : Nat) (s : State) : Out :=
  s.arrive' src dst (fun k => k.kind == 0x3)
def execAtomicPacket (src dst : Nat) (s : State) : Out :=
  s.arrive' src dst (fun k => k.kind == 0x4)
def execReadReply (src dst : Nat) (s : State) : Out :=
  s.arrive' src dst (fun k => k.kind == 0x5)
/-- R313 and R314: an atomic's reply, or the error reply of a read. -/
def execAtomicOrErrorReply (src dst : Nat) (s : State) : Out :=
  s.arrive' src dst (fun k => k.kind == 0x6)
def execOrderAcknowledgement (src dst : Nat) (s : State) : Out :=
  s.arrive' src dst (fun k => k.kind == 0x7)
def execKnotAdvance (src dst : Nat) (s : State) : Out :=
  s.arrive' src dst (fun k => k.kind == 0x8)
/-- R308: a knot frame arrives with the packet that it qualifies. -/
def execKnotFrame (src dst : Nat) (s : State) : Out := s.arrive' src dst (fun k => k.frame)
def execBeacon (src dst : Nat) (s : State) : Out :=
  s.arrive' src dst (fun k => k.kind == 0xA)
def execCutAdvance (src dst : Nat) (s : State) : Out :=
  s.arrive' src dst (fun k => k.kind == 0xB)
def execRemovalNotice (src dst : Nat) (s : State) : Out :=
  s.arrive' src dst (fun k => k.kind == 0xC)

/-- The event: a flit of a reserved KIND arrives; it is dropped and logged (R307). -/
def execReservedKindFlit (src dst : Nat) (s : State) : Out :=
  .next { s with pkg := s.pkg.log 1 dst src }

/-- The event: the oldest held packet of a source is delivered once its entries are met (R278, R310). -/
def execHeldPacketRelease (src dst : Nat) (s : State) : Out :=
  .next (
    let x := s.pkg.die dst
    match x.hold.find? (fun k => k.src == src) with
    | none => s
    | some k =>
      if x.dooms k then { s with pkg := (s.pkg.setDie dst { x with hold := x.hold.erase k }).bounce k }
      else if x.meets k && s.pkg.takes k then
        ({ s with pkg := s.pkg.setDie dst { x with hold := x.hold.erase k } }).deliver k
      else { s with pkg := s.pkg.wake k })

/-- The event: die `die` sends its vector to the other nine (R305). DESIGN CHOICE, log 69. -/
def execBeaconSend (die : Nat) (s : State) : Out :=
  .next (
    if 9 < die then s
    else
      let v := (s.pkg.die die).v.toList
      { s with pkg := (List.range 10).foldl (fun p e =>
          if e = die then p else p.send die e 240 0 0 (p.die die).v true (.beacon v) false false 0) s.pkg })

/-- The event: entry `index` of a cluster's forwarding buffer leaves the die (R277, R312). -/
def execForwardEntryLeave (cluster index : Nat) (s : State) : Out :=
  .next (if s.pkg.mayLeave (s.pkg.buffer cluster) index then { s with pkg := s.pkg.leave cluster index } else s)

/-- The reply packet for a request of the running context, on its link or held. -/
def State.replyFor (s : State) (tag : Nat) (kind : Payload → Bool) : Option (Packet × Bool) :=
  let mine (k : Packet) : Bool := k.dst == s.core.die && k.owner == s.coreNo && k.bank == s.ctx.bank && k.tag == tag
    && kind k.payload
  match s.pkg.net.find? mine with
  | some k => some (k, false)
  | none => ((s.pkg.die s.core.die).hold.find? mine).map (fun k => (k, true))

/-- The reply to a request of the running context is delivered where its place in its route lets it. -/
def State.takeReply (s : State) (tag : Nat) (kind : Payload → Bool) : Out :=
  match s.replyFor tag kind with
  | none => .next s
  | some (k, true) => execHeldPacketRelease k.src k.dst s
  | some (k, false) => s.arrive' k.src k.dst (fun h => h == k)

/-- The event: the data of a scalar load returns (R178). -/
def execScalarLoadReply (tag : Nat) (s : State) : Out :=
  s.takeReply tag (fun p => match p with | .readReply _ => true | _ => false)

/-- The event: the response of an atomic returns (R181). -/
def execAtomicResponse (tag : Nat) (s : State) : Out :=
  s.takeReply tag (fun p => match p with | .atomicReply .. => true | _ => false)

/-- R313 and R412: 2^22 link cycles in package cycles. DEDUCED, log 107. -/
def Pkg.replyLimit (p : Pkg) : Nat := if p.mgmt.half then 2 ^ 19 else 2 ^ 20

/-- A request of the running context that has waited for the limit draws the fabricated reply of code 4. -/
def State.timeOut (s : State) (tag : Nat) (which : Pending → Bool) : State :=
  let due (q : Pending) : Bool :=
    q.tag == tag && q.answer.isNone && decide (q.since + s.pkg.replyLimit ≤ s.pkg.cyc) && which q
  { s with
    ctx := { s.ctx with pending := s.ctx.pending.map (fun q =>
      if due q then
        { q with answer := some { value := 0, byte8 := if q.kind = .atomic then 67 else 65, poison := [], raised := [] } }
      else q) }
    core := { s.core with fabricated := s.core.fabricated ++ (s.ctx.pending.filter due).map (fun q => (s.ctx.bank, q.tag)) } }

/-- The event: no reply within the limit; the source fabricates one (R313, R314). DEDUCED, log 107. -/
def execAtomicReplyTimeout (tag : Nat) (s : State) : Out :=
  .next (s.timeOut tag (fun q => q.kind == .atomic || q.kind == .load))

/-- The event: a read of a host window draws no completion within the limit (R412). DEDUCED, log 107. -/
def execHostCompletionTimeout (tag : Nat) (s : State) : Out :=
  .next (s.timeOut tag (fun q => q.kind == .load && isHostWindow q.pa))

/-! ### Snapshots (R321 to R324) -/

/-- The event: the snapshot controller's cut request reaches a die (R321). -/
def execCutRequest (die : Nat) (s : State) : Out :=
  .next (match s.pkg.snap with
    | none => s
    | some sn => if 9 < die ∨ (s.pkg.die die).cut.isSome then s else { s with pkg := (s.pkg.cutDie die sn.number).1 })

/-- A post-cut write with SNAP that is on its way to a unit. -/
def Pkg.waitingWrite (p : Pkg) (u : SnapUnit) : Bool :=
  let hit (k : Packet) : Bool := k.snap && !p.preCut k.src k.stamp
    && (match k.payload with
      | .write b .. => u.touches b
      | .atomic pa _ _ _ _ _ => u.touches [(pa, 0)]
      | _ => false)
  p.net.any hit || (p.die ((p.homeOf u.base).getD 0)).hold.any hit

/-- The event: the home copies a PENDING unit into a reserve slot for a post-cut write that waits for it
(R323). DESIGN CHOICE, log 51. -/
def execGranulePreserve (index : Nat) (s : State) : Out :=
  .next (match s.pkg.snap with
    | none => s
    | some sn =>
      match sn.units[index]? with
      | none => s
      | some u =>
        if u.state == .pending && (s.pkg.die ((s.pkg.homeOf u.base).getD 0)).cut.isSome && s.pkg.waitingWrite u then
          let first := !sn.units.any (fun x => x.granule == u.granule && x.state == .done && !x.streamed)
          let sn := { sn with units := modifyNth (fun u => u.keep s.pkg.mem s.pkg.poisoned) sn.units index
                              preserved := sn.preserved + (if first then 1 else 0) }
          { s with pkg := { s.pkg with snap := some sn } }
        else s)

/-- R324: die d has delivered the cut advance of every other die in service. -/
def Pkg.closed (p : Pkg) (d : Nat) : Bool :=
  let x := p.die d
  x.cut.isSome && (List.range 10).all (fun e => e == d || x.cutSeen.contains e || p.removed e)

/-- A range of memory with other cells in place of its own. -/
def Memory.fill (m : Memory) (base n : Nat) (cells : List (Nat × Byte)) : Memory :=
  Memory.writeCells (m.filter (fun c => !decide (base ≤ c.1 ∧ c.1 < base + n))) cells

/-- The event: a copier streams one unit of a home whose cut is closed: kept units first, then the others, in
list order (R324). DESIGN CHOICE, log 51. -/
def execSnapshotCopierStream (index : Nat) (s : State) : Out :=
  .next (match s.pkg.snap with
    | none => s
    | some sn =>
      let p := s.pkg
      let home (u : SnapUnit) : Nat := (p.homeOf u.base).getD 0
      match sn.units[index]? with
      | none => s
      | some u =>
        let due (x : SnapUnit) : Bool := !x.streamed && p.closed (home x) && (decide (home x ≤ 4) == decide (home u ≤ 4))
        let goesFirst (x : SnapUnit) : Bool := x.state == .done && u.state == .pending
        if due u && !(sn.units.any (fun x => due x && goesFirst x))
            && !((sn.units.take index).any (fun x => due x && x.state == u.state)) then
          let to_ := p.readAt (sn.desc + 8) 8 + 65536 * u.granule + u.base % 65536
          let src := if u.state = .done then u.slot else cellsIn p.mem u.base u.size
          let bad := if u.state = .done then u.slotPoison
            else p.poisoned.filter (fun w => decide (u.base / 8 ≤ w ∧ w < (u.base + u.size) / 8))
          let mem := p.mem.fill to_ u.size (src.map (fun (c : Nat × Byte) => (to_ + (c.1 - u.base), c.2)))
          let clean := p.poisoned.filter (fun w => !decide (to_ / 8 ≤ w ∧ w < (to_ + u.size) / 8))
          let poisoned := bad.foldl (fun l w => insertNat (to_ / 8 + (w - u.base / 8)) l) clean
          let sn := { sn with units := modifyNth (fun u => { u with streamed := true, state := .done, slot := [], slotPoison := [] })
                                sn.units index }
          let q := { p with mem := mem, poisoned := poisoned, snap := some sn }
          let port := (q.homeOf to_).getD 0
          { s with pkg := if isHostWindow to_ then q.setIo port { q.io port with dirtyPort := true } else q }
        else s)

/-- R324: the snapshot record written, and the snapshot's state gone from every die. A granule whose home has been
removed since, before it was written, is lost too. -/
def Pkg.endSnapshot (p : Pkg) (sn : Snap) (status : Nat) : Pkg :=
  let at_ := p.readAt (sn.desc + 16) 8
  let late := (sn.units.filter (fun u => !u.streamed && p.removed ((p.homeOf u.base).getD 0))).foldl
    (fun l u => insertNat u.granule l) []
  let lost := sn.lost + late.length
  let cuts := (List.range 10).foldl (fun x d => x + (((p.die d).cut.getD 0).toNat) * 2 ^ (12 * d)) 0
  let bytes := wordBytes at_ 64 (status + (if 0 < lost then 4 else 0) + cuts * 2 ^ 64 + sn.preserved * 2 ^ 192
    + lost * 2 ^ 256)
  let p := p.homeWrite bytes [] false (p.die 0).cut.isNone
  { p with snap := none, dies := p.dies.map (fun (x : Die) => { x with cut := none, cutSeen := [] }) }

/-- The event: every unit is written: the record, a host-scope release, and the host version counter (R324,
R214). -/
def execSnapshotComplete (s : State) : Out :=
  .next (match s.pkg.snap with
    | none => s
    | some sn =>
      if sn.units.all (fun u => u.streamed) && (List.range 10).all (fun d => s.pkg.closed d || s.pkg.removed d)
          && s.pkg.canAdvance 0 then
        let counter := s.pkg.readAt (sn.desc + 24) 8
        let p := (s.pkg.endSnapshot sn 1).ioRelease 0
        let p := p.homeWrite (wordBytes counter 8 (p.readAt counter 8 + 1)) [] false (p.die 0).cut.isNone
        { s with pkg := { p with
            io0 := { p.io0 with dirtyPort := false }, io9 := { p.io9 with dirtyPort := false }
            lastPublish := assocSet counter true p.lastPublish } }
      else s)

/-! ### Knot reset (R316) -/

/-- One packet that can still be delivered, off its link or out of its hold buffer. -/
def Pkg.deliverable (p : Pkg) : Option (Packet × Bool) :=
  match p.net with
  | k :: _ => some (k, false)
  | [] =>
    (p.dies.toList.zipIdx.findSome? (fun (x : Die × Nat) =>
      x.1.hold.find? (fun k => (x.1.meets k || x.1.dooms k) && !((x.1.hold.takeWhile (fun h => h != k)).any (fun h => h.src == k.src))))).map
      (fun k => (k, true))

/-- R316, phase 2: packets in flight reach their destinations, and held ones whose entries can be met are
delivered; full hold buffers and devices do not stop them here. DESIGN CHOICE, log 102. -/
def State.flush (s : State) : Nat → State
  | 0 => s
  | n + 1 =>
    match s.pkg.deliverable with
    | none => s
    | some (k, held) =>
      let x := s.pkg.die k.dst
      if held then
        let s1 := { s with pkg := s.pkg.setDie k.dst { x with hold := x.hold.erase k } }
        (if x.dooms k then { s1 with pkg := s1.pkg.bounce k } else s1.deliver k).flush n
      else
        let s1 := s.land k
        (if s1 = s then { s.offLink k with pkg := (s.offLink k).pkg.setDie k.dst { x with hold := x.hold ++ [k] } } else s1).flush n

/-- R316, phase 3: what a held packet that is dropped leaves behind: a report, or an error reply.
DESIGN CHOICE, log 102. -/
def State.dropHeld (s : State) (k : Packet) : State :=
  match k.payload with
  | .write bytes .. => { s with pkg := s.pkg.lostWrite k bytes }
  | .readReq _ _ _ => s.reply k .load 0 (errorAnswer 3)
  | .atomic _ va _ _ _ _ => s.reply k .atomic va (errorAnswer 3)
  | .readReply _ => s.reply k .load 0 (errorAnswer 3)
  | .atomicReply va _ => s.reply k .atomic va { value := 0, byte8 := 67, poison := [], raised := [] }
  | _ => s

/-- R316, phase 4: V, S, every KNOTV and every beacon value zero, and what an answer already received would raise.
DESIGN CHOICE, log 102. -/
def State.zeroKnots (s : State) : State :=
  let z : Knot := Vector.replicate 16 0
  let bar (o : BarObj) : BarObj := { o with knot := z }
  let old (c : Ctx) : Ctx := { c with pending := c.pending.map (fun q =>
    { q with answer := q.answer.map (fun a => { a with raised := [] }) }) }
  let s := s.mapCores (fun p => { p with ctx := old p.ctx, other := old p.other, core := { p.core with
    knotv := z, bars := p.core.bars.map (fun (b : Nat × Barrier) => (b.1, { b.2 with obj := bar b.2.obj })) } })
  let p := s.pkg
  { s with pkg := { p with
      dies := p.dies.map (fun (x : Die) => { x with
        v := z, sent := [], beacons := [], hold := [], unacked := []
        frozenBy := x.frozenBy.map (fun (f : Nat × BitVec 12) => (f.1, 0)) })
      fwd := p.fwd.map (fun (b : Nat × List FwdEntry) => (b.1, b.2.map (fun e => { e with knot := z })))
      teamBars := p.teamBars.map (fun t => { t with obj := bar t.obj }) } }

/-- R316: a whole knot reset. DESIGN CHOICE, log 102. -/
def State.resetKnots (s : State) : State :=
  let s := s.flush (4 * (s.pkg.net.length + (s.pkg.dies.toList.map (fun d => d.hold.length)).foldl (· + ·) 0) + 64)
  let s := (s.pkg.dies.toList.map (fun d => d.hold)).flatten.foldl State.dropHeld s
  let s := match s.pkg.snap with
    | some sn => { s with pkg := s.pkg.endSnapshot sn 2 }
    | none => s
  s.zeroKnots

/-- The event: the knot reset that a removal or an error has called for (R316); a REMOVE completes with it
(R407). DESIGN CHOICE, log 102. -/
def execKnotReset (s : State) : Out :=
  .next (
    let m := s.pkg.mgmt
    if m.knotPhase = 0 then s
    else
      let s := s.resetKnots.onMgmt (fun m => { m with knotPhase := 0, removing := none })
      if m.removing.isSome then s.finishCommand 3 0 else s)

/-! ### The host and the peers (R409 to R415) -/

/-- R409: whether a host access through a port reaches these bytes: the port's own region, HBM, or die SRAM. The
host also writes and reads its own memory behind the port's windows. -/
def Pkg.hostReaches (p : Pkg) (io pa n : Nat) : Bool :=
  let x := p.io io
  let own := isIoRegion pa && (p.homeOf pa).getD 0 == io
  let window := isHostWindow pa && (p.homeOf pa).getD 0 == io
  let memory := (isHbm pa || isSram pa) && decide (2 ≤ p.mgmt.level) && !p.homeGone pa
  x.portUp && !x.d3hot && decide (1 ≤ p.mgmt.level) && decide (0 < n) && backedSpan pa n
    && (own || window || memory)

/-- Earlier packets of an I/O die to the home of a byte have been delivered there, and the home has delivered all that
the I/O die has (R278, R300). DESIGN CHOICE, log 99. -/
def Pkg.portClear (p : Pkg) (io pa : Nat) : Bool :=
  match p.homeOf pa with
  | some h => h == io || (p.routeEmpty io h && p.knows h (p.die io).v)
  | none => false

/-- The event: a host write performs at its home (R285, R409, R411). The posted writes of a port perform in
their issue order, which is the order of these events; those with relaxed ordering in any. DESIGN CHOICE, log 99. -/
def execHostWrite (io pa : Nat) (data : List Byte) (_relaxed poisoned : Bool) (s : State) : Out :=
  .next (
    let io := ioNo io
    let n := data.length
    if s.pkg.hostReaches io pa n && s.pkg.portClear io pa && decide (n ≤ 512)
        && (!isIoRegion pa || s.pkg.deviceReady io pa) then
      let poison := if poisoned then poisonWords pa n else []
      let bytes := bytesAt pa data
      if isIoRegion pa then s.deviceWrite io bytes poison
      else { s with pkg := s.pkg.homeWrite bytes poison false (s.pkg.die io).cut.isNone }
    else s)

/-- The event: a host read completes, after every earlier posted write of the host through its port (R411): its
completion holds one byte that is 1 where it is poisoned, and the bytes; one that reaches nothing draws
unsupported request, an empty completion (R409). -/
def execHostRead (io pa len : Nat) (s : State) : Out :=
  .next (
    let io := ioNo io
    let x := s.pkg.io io
    if x.portUp = false ∨ x.d3hot ∨ 4096 < len then s
    else if s.pkg.hostReaches io pa len = false then
      { s with pkg := s.pkg.setIo io { x with responses := x.responses ++ [[]] } }
    else if s.pkg.portClear io pa = false then s
    else
      let v := if isIoRegion pa then (wordBytes 0 len (s.pkg.deviceRead io pa len)).map (fun b => b.2)
        else s.pkg.mem.readBytes pa len
      let bad : Byte := if s.pkg.poisonedAt pa len then 1 else 0
      { s with pkg := s.pkg.setIo io { x with responses := x.responses ++ [bad :: v] } })

/-- R415: a region entry of an I/O die that admits an inbound access; `want` is 1 for reads, 2 for writes. -/
def Pkg.regionAdmits (p : Pkg) (io rkey pa n want : Nat) : Bool :=
  (List.range 256).any (fun i =>
    let e := regionBase io + 0x00050000 + 32 * i
    let base := p.readAt e 8
    decide (p.readAt (e + 16) 4 = rkey) && decide (p.readAt (e + 20) 1 / want % 2 = 1)
      && decide (0 < n) && decide (base ≤ pa ∧ pa + n ≤ base + p.readAt (e + 8) 8))

/-- The bytes of an inbound access lie in memory of the package. -/
def Pkg.inboundReaches (p : Pkg) (io pa n : Nat) : Bool :=
  decide (2 ≤ p.mgmt.level) && backedSpan pa n && (isHbm pa || isSram pa) && !p.homeGone pa && p.portClear io pa
    && !(p.io io).links.isEmpty

/-- The event: an RDMA WRITE of a peer performs (R414, R415). -/
def execRdmaWriteInbound (io rkey pa : Nat) (data : List Byte) (s : State) : Out :=
  .next (
    let io := ioNo io
    if s.pkg.regionAdmits io rkey pa data.length 2 && s.pkg.inboundReaches io pa data.length then
      { s with pkg := s.pkg.homeWrite (bytesAt pa data) [] false (s.pkg.die io).cut.isNone }
    else s)

/-- The event: an RDMA READ of a peer is answered: with the bytes, or, empty, with a remote access error
(R415). -/
def execRdmaReadInbound (io rkey pa len : Nat) (s : State) : Out :=
  .next (
    let io := ioNo io
    let x := s.pkg.io io
    if s.pkg.regionAdmits io rkey pa len 1 = false then
      { s with pkg := s.pkg.setIo io { x with responses := x.responses ++ [[]] } }
    else if s.pkg.inboundReaches io pa len then
      { s with pkg := s.pkg.setIo io { x with responses := x.responses ++ [s.pkg.mem.readBytes pa len] } }
    else s)

/-- The event: a port enters or leaves D3hot, in which it answers configuration requests only (R409). -/
def execD3hot (io : Nat) (enter : Bool) (s : State) : Out :=
  .next { s with pkg := s.pkg.setIo (ioNo io) { s.pkg.io (ioNo io) with d3hot := enter } }

/-- The event: an enabled scale-out port trains its link, or loses it (R414). -/
def execAutoNegotiation (io port : Nat) (up : Bool) (s : State) : Out :=
  .next (
    let io := ioNo io
    let x := s.pkg.io io
    let on := decide (s.pkg.mgmt.ports / 2 ^ (port + (if io = 9 then 8 else 0)) % 2 = 1)
    if 7 < port then s
    else { s with pkg := s.pkg.setIo io { x with
      links := if up && on then insertNat port x.links else x.links.filter (fun i => i != port) } })

/-- The event: the link partner pauses or resumes the configured priority of a scale-out port (R414). -/
def execPriorityFlowControl (io port : Nat) (pause : Bool) (s : State) : Out :=
  .next (
    let io := ioNo io
    let x := s.pkg.io io
    if 7 < port then s
    else { s with pkg := s.pkg.setIo io { x with
      paused := if pause then insertNat port x.paused else x.paused.filter (fun i => i != port) } })

/-! ### SPDM (R419) -/

/-- An SPDM request answered: the request, and the response joined to the transcript. PRESUMED, log 40. -/
def State.spdm (s : State) (io code : Nat) (request response : List Byte) : State :=
  let io := ioNo io
  let x := s.pkg.io io
  if s.pkg.mgmt.level = 0 ∨ x.portUp = false then s
  else
    { s with pkg := s.pkg.setIo io { x with
        spdm := x.spdm ++ (BitVec.ofNat 8 code :: request) ++ response, responses := x.responses ++ [response] } }

/-- R419: the digest of a list of bytes as bytes. DESIGN CHOICE, log 10. -/
def digest (l : List Byte) : List Byte := (wordBytes 0 48 (Config.sha384 l).toNat).map (fun b => b.2)

/-- R419: a response signed twice: the RSA signature in its standard place, and the opaque element with the
SLH-DSA signature over the same transcript. DESIGN CHOICE, log 10. -/
def signed (transcript body : List Byte) : List Byte :=
  let h := digest (transcript ++ body)
  let slh := Config.slhSignature h
  let n := slh.length
  body ++ (wordBytes 0 384 (Config.rsaSignature h).toNat).map (fun b => b.2)
    ++ [1, 0, BitVec.ofNat 8 n, BitVec.ofNat 8 (n / 256)] ++ slh

/-- R419: what a measurement index measures. -/
def Pkg.measured (p : Pkg) (index : Nat) : List Byte :=
  let le (x : Nat) : List Byte := (wordBytes 0 8 x).map (fun b => b.2)
  let image := p.mgmt.image.getD Config.flash
  match index with
  | 2 => (image.drop 1024).take (leAt image 8 8)
  | 3 => Config.configurationRecord image
  | 4 => Config.measured 4 ++ le p.mgmt.svnmin
  | 5 => le p.mgmt.dies.toNat
  | 6 => le p.mgmt.level
  | _ => Config.measured index

/-- PRESUMED, log 40. -/
def execGetVersion (io : Nat) (s : State) : Out := .next (s.spdm io 0x84 [] [0x04, 0x13])
/-- PRESUMED, log 40. -/
def execGetCapabilities (io : Nat) (s : State) : Out := .next (s.spdm io 0xE1 [] [0x61])
/-- PRESUMED, log 40. -/
def execNegotiateAlgorithms (io : Nat) (s : State) : Out := .next (s.spdm io 0xE3 [] [0x63])
/-- PRESUMED, log 40. -/
def execGetDigests (io : Nat) (s : State) : Out :=
  .next (s.spdm io 0x81 [] (0x01 :: (digest (Config.certificate 0) ++ digest (Config.certificate 1))))
/-- PRESUMED, log 40. -/
def execGetCertificate (io slot : Nat) (s : State) : Out :=
  .next (if slot ≤ 1 then s.spdm io 0x82 [BitVec.ofNat 8 slot] (0x02 :: Config.certificate slot) else s)
/-- PRESUMED, log 40. -/
def execChallenge (io slot : Nat) (s : State) : Out :=
  .next (if slot ≤ 1 then
      s.spdm io 0x83 [BitVec.ofNat 8 slot] (signed (s.pkg.io (ioNo io)).spdm (0x03 :: digest (Config.certificate slot)))
    else s)
/-- PRESUMED, log 40. -/
def execGetMeasurements (io index : Nat) (s : State) : Out :=
  .next (if 1 ≤ index ∧ index ≤ 6 then
      s.spdm io 0xE0 [BitVec.ofNat 8 index]
        (signed (s.pkg.io (ioNo io)).spdm (0x60 :: BitVec.ofNat 8 index :: digest (s.pkg.measured index)))
    else s)

end Sys2Proof.Machine
end

