-- ==== Sys2Proof/Machine/Fpu.lean ====
section
/-! DEFINITION. The FPU family (R116 to R121): IEEE values with ACR.RAT = 0 and slash values with RAT = 1,
in 32 or 64 bits by the size bit Z. -/

namespace Sys2Proof.Machine

/-- The tag of an FPU operation (R116): F32 or F64, SL32 or SL64. -/
def fpTag (rat : Bool) (z : BitVec 1) : BitVec 5 :=
  if rat then (if z = 1 then tSL64 else tSL32) else (if z = 1 then tF64 else tF32)

/-- f[r] as an operand of size Z (R17): all 64 bits, or bits 31:0. -/
def State.fsrc (s : State) (z : BitVec 1) (r : BitVec 5) : Nat :=
  if z = 1 then (s.fr r).toNat else (s.fr r).toNat % 2 ^ 32

/-- The tag in force at issue. -/
def State.ftag (s : State) (z : BitVec 1) : BitVec 5 := fpTag s.ctx.rat z

/-- A result into an f register: a 32-bit one with zeros above (R17). -/
def fpDone (s : State) (d : BitVec 5) (r : Nat × Fx) : Out := scalarDone s (s.setFr d (word r.1)) r.2

/-- A two-operand arithmetic form. -/
def fpBin (op : FpOp) (d a b : BitVec 5) (z : BitVec 1) (s : State) : Out :=
  fpDone s d (fpArith op (s.ftag z) (s.fsrc z a) (s.fsrc z b) s.ctx.rm)

def execFadd (d a b : BitVec 5) (z : BitVec 1) (s : State) : Out := fpBin .add d a b z s
def execFsub (d a b : BitVec 5) (z : BitVec 1) (s : State) : Out := fpBin .sub d a b z s
def execFmul (d a b : BitVec 5) (z : BitVec 1) (s : State) : Out := fpBin .mul d a b z s
def execFdiv (d a b : BitVec 5) (z : BitVec 1) (s : State) : Out := fpBin .div d a b z s
def execFsqrt (d a : BitVec 5) (z : BitVec 1) (s : State) : Out :=
  fpDone s d (fpSqrt (s.ftag z) (s.fsrc z a) s.ctx.rm)
/-- f[d] := f[a] × f[b] + f[d], rounded once. -/
def execFmadd (d a b : BitVec 5) (z : BitVec 1) (s : State) : Out :=
  fpDone s d (fpFused false (s.ftag z) (s.fsrc z a) (s.fsrc z b) (s.fsrc z d) s.ctx.rm)
def execFmin (d a b : BitVec 5) (z : BitVec 1) (s : State) : Out :=
  fpDone s d (fpMinMax false (s.ftag z) (s.fsrc z a) (s.fsrc z b))
def execFmax (d a b : BitVec 5) (z : BitVec 1) (s : State) : Out :=
  fpDone s d (fpMinMax true (s.ftag z) (s.fsrc z a) (s.fsrc z b))

/-- A comparison into a g register. -/
def fpCmpG (op : FpCmp) (d : BitVec 6) (a b : BitVec 5) (z : BitVec 1) (s : State) : Out :=
  let (r, fx) := fpCompare op (s.ftag z) (s.fsrc z a) (s.fsrc z b)
  scalarDone s (s.setGr d (if r then 1 else 0)) fx

def execFeq (d : BitVec 6) (a b : BitVec 5) (z : BitVec 1) (s : State) : Out := fpCmpG .eq d a b z s
def execFlt (d : BitVec 6) (a b : BitVec 5) (z : BitVec 1) (s : State) : Out := fpCmpG .lt d a b z s
def execFle (d : BitVec 6) (a b : BitVec 5) (z : BitVec 1) (s : State) : Out := fpCmpG .le d a b z s

/-- Bits 4:0 of a register field that names an f register. -/
def freg (r : BitVec 6) : BitVec 5 := r.truncate 5

/-- R119: a real rounded to an integer in a g register. -/
def fcvtInt (sg : Bool) (mode : RMode) (d a : BitVec 6) (z : BitVec 1) (s : State) : Out :=
  let (v, f1) := valueOf (s.ftag z) false (s.fsrc z (freg a))
  let (x, f2) := intRound sg 64 v mode
  scalarDone s (s.setGr d (wordI x)) (f1.and f2)

/-- R119: an integer of a g register rounded to the size of the operation. -/
def fcvtFrom (x : Int) (d : BitVec 6) (z : BitVec 1) (s : State) : Out :=
  fpDone s (freg d) (roundTo (s.ftag z) false (Val.ofInt x) s.ctx.rm s.ctx.satinf)

/-- R119: a value of one floating tag rounded into another. -/
def fcvtTag (src dst : BitVec 5) (sz : BitVec 1) (d a : BitVec 6) (s : State) : Out :=
  let (v, f1) := valueOf src false (s.fsrc sz (freg a))
  let (c, f2) := roundTo dst false v s.ctx.rm s.ctx.satinf
  fpDone s (freg d) (c, f1.and f2)

/-- R119, by the conversion code; codes 8 to 63 are unused forms (R56). -/
def execFcvt (d a code : BitVec 6) (z : BitVec 1) (s : State) : Out :=
  match code.toNat with
  | 0 => fcvtTag (s.ftag (1 - z)) (s.ftag z) (1 - z) d a s
  | 1 => fcvtFrom (s.gr a).toInt d z s
  | 2 => fcvtFrom (s.gr a).toNat d z s
  | 3 => fcvtInt true s.ctx.rm d a z s
  | 4 => fcvtInt false s.ctx.rm d a z s
  | 5 => fcvtInt true .rz d a z s
  | 6 => fcvtTag (fpTag false z) (fpTag true z) z d a s
  | 7 => fcvtTag (fpTag true z) (fpTag false z) z d a s
  | _ => trapOut s cIllegalOpcode (s.curWord.zeroExtend 64 ||| word ((s.wordAddr - s.pairAddr).toNat % 16 * 2 ^ 32))

/-- R118: raw bits to a g register, zero-extended for Z = 0. -/
def execFmvg (d : BitVec 6) (a : BitVec 5) (z : BitVec 1) (s : State) : Out := .next (s.setGr d (word (s.fsrc z a)))

/-- R118: raw bits from a g register, with zeros above for Z = 0. -/
def execFmvf (d : BitVec 5) (a : BitVec 6) (z : BitVec 1) (s : State) : Out :=
  .next (s.setFr d (if z = 1 then s.gr a else word ((s.gr a).toNat % 2 ^ 32)))

/-- R118: one class bit, with bit 11 for a non-canonical slash word; reading an illegal B raises NV. -/
def execFclass (d : BitVec 6) (a : BitVec 5) (z : BitVec 1) (s : State) : Out :=
  scalarDone s (s.setGr d (word (fpClass (s.ftag z) (s.fsrc z a)))) (valueOf (s.ftag z) false (s.fsrc z a)).2

/-- R118: the magnitude of a with the sign of b. -/
def execFsgnj (d a b : BitVec 5) (z : BitVec 1) (s : State) : Out :=
  .next (s.setFr d (word (fpSgnj (s.ftag z) (s.fsrc z a) (s.fsrc z b))))

end Sys2Proof.Machine
end

