-- ==== Sys2Proof/WellFormed.lean ====
section
/-! DEFINITION. Which terms of `Instr` have an instruction word: the field values that a form accepts
(R50, R55, R56), beyond what the widths of its fields say. An event has no word. -/

namespace Sys2Proof

/-- A region of R152: `h.all`, `h.up`, `h.lo`, or a band that ends at or before row 127. -/
def regionOk (sel : BitVec 9) : Bool :=
  let low := sel.toNat % 128
  if sel.getLsbD 7 then decide (low / 8 * 8 + (low % 8 + 1) * 8 ≤ 128) else decide (low ≤ 2)

/-- A slice of R28: bit 6 is zero for a column, a diagonal and an anti-diagonal. -/
def sliceOk (sel : BitVec 9) : Bool := decide (sel.toNat / 128 = 0) || !sel.getLsbD 6

/-- A tag code that is not reserved (R31). -/
def tagOk (t : BitVec 5) : Bool := decide (t.toNat ≤ 0x12)

/-- The target tags of `vcvt` and `vcvts` (R219). -/
def convertTag (t : BitVec 5) : Bool := decide (1 ≤ t.toNat ∧ t.toNat ≤ 0x10)

/-- The target tags of `hrq` (R168). -/
def requantTag (t : BitVec 5) : Bool := decide ((1 ≤ t.toNat ∧ t.toNat ≤ 5) ∨ (8 ≤ t.toNat ∧ t.toNat ≤ 0x0D))

/-- The format codes of VQUANT's block forms (R225). -/
def blockTag (q : BitVec 1) (t : BitVec 5) : Bool := t == 0x0A || ((t == 0x08 || t == 0x09) && q == 0)

/-- The conversion codes of `fcvt`, with bit 5 of a field that names an f register zero (R50, R119). -/
def convertCode (d a code : BitVec 6) : Bool :=
  match code.toNat with
  | 0 => !d.getLsbD 5 && !a.getLsbD 5
  | 1 => !d.getLsbD 5
  | 2 => !d.getLsbD 5
  | 3 => !a.getLsbD 5
  | 4 => !a.getLsbD 5
  | 5 => !a.getLsbD 5
  | 6 => !d.getLsbD 5 && !a.getLsbD 5
  | 7 => !d.getLsbD 5 && !a.getLsbD 5
  | _ => false

/-- The instruction has a word. -/
def Instr.wf : Instr → Bool
  | .add .. | .sub .. | .and_ .. | .or_ .. | .xor_ .. | .andn .. | .orn .. | .sll .. | .srl .. | .sra ..
  | .rol .. | .ror .. | .slt .. | .sltn .. | .min .. | .max .. | .minn .. | .maxn .. | .mul .. | .mulh ..
  | .mulhn .. | .div .. | .divn .. | .rem .. | .remn .. | .clz .. | .ctz .. | .popc .. | .bext ..
  | .bdep .. | .sext .. | .zext .. | .addi .. | .andi .. | .ori .. | .xori .. | .slli .. | .srli ..
  | .srai .. | .rori .. | .slti .. | .sltni .. | .lui .. | .pcadd .. | .beq .. | .bne .. | .blt ..
  | .bge .. | .bltn .. | .bgen .. | .jal .. | .jalr .. | .trap .. | .eret .. | .wfe .. | .yield ..
  | .halt .. | .brk .. | .nop .. | .ifence .. | .kread .. | .kwrite .. | .kset .. | .kclr .. | .ldb ..
  | .ldh .. | .ldw .. | .ldd .. | .ldbn .. | .ldhn .. | .ldwn .. | .stb .. | .sth .. | .stw .. | .std ..
  | .ldacqb .. | .ldacqh .. | .ldacqw .. | .ldacqd .. | .strelb .. | .strelh .. | .strelw .. | .streld ..
  | .amoswap .. | .amoadd .. | .amoand .. | .amoor .. | .amoxor .. | .amomax .. | .amomin .. | .amomaxn ..
  | .amorswap .. | .amoradd .. | .amorand .. | .amoror .. | .amorxor .. | .amormax .. | .amormin ..
  | .amormaxn .. | .cas .. | .fenceAcq .. | .fenceRel .. | .fenceAcqrel .. | .binit .. | .barrive ..
  | .bwait .. | .bsync .. | .bxch .. | .btest .. | .bbind .. | .publish .. | .pubwait .. | .fadd ..
  | .fsub .. | .fmul .. | .fdiv .. | .fsqrt .. | .fmadd .. | .fmin .. | .fmax .. | .feq .. | .flt ..
  | .fle .. | .fmvg .. | .fmvf .. | .fclass .. | .fsgnj .. | .vadd .. | .vsub .. | .vmul .. | .vmulh ..
  | .vmin .. | .vmax .. | .vminn .. | .vmaxn .. | .vand .. | .vor .. | .vxor .. | .vandn .. | .vsll ..
  | .vsrl .. | .vsra .. | .vrol .. | .vfadd .. | .vfsub .. | .vfmul .. | .vfmin .. | .vfmax .. | .vfmacc ..
  | .vfnmacc .. | .vfdiv .. | .vfsqrt .. | .vfabs .. | .vfneg .. | .vabs .. | .vneg .. | .vnot ..
  | .vclz .. | .vpopc .. | .vceq .. | .vcne .. | .vclt .. | .vcle .. | .vcltn .. | .vclen .. | .vcflt ..
  | .vcfle .. | .vexp2 .. | .vrcp .. | .vrsq .. | .vlog2 .. | .vtanh .. | .vsin .. | .vcos .. | .verf ..
  | .vrsum .. | .vrfsum .. | .vrmax .. | .vrmin .. | .vramax .. | .vrand .. | .vror .. | .vrxor ..
  | .vgather .. | .vslideup .. | .vslidedn .. | .vcompress .. | .vexpand .. | .vzip .. | .vunzip ..
  | .vbcast .. | .vshlw .. | .vshrw .. | .vfunl .. | .vfunr .. | .vrevb .. | .vbswap .. | .vclzw ..
  | .vpopw .. | .vpack .. | .vunpack .. | .vdeq .. | .vqnt .. | .vround .. | .vdot4s .. | .vdot2f ..
  | .vsladd .. | .vslsub .. | .vslmul .. | .vsldiv .. | .vslmed .. | .vslcvt .. | .vslcanon .. | .vslcmp ..
  | .vmv .. | .vsplat .. | .vextg .. | .vinsg .. | .vid .. | .vmovxRead .. | .vmovxWrite .. | .vmskv ..
  | .vmvp .. | .vsetvl .. | .vcoll .. | .vldu .. | .vlds .. | .vldx .. | .vstu .. | .vsts .. | .vstx ..
  | .vldtr .. | .vldwin .. | .vldz .. | .cpy .. | .cpyt .. | .cpymc .. | .cpyh .. | .cpycancel ..
  | .tmset .. | .tmwalk .. | .tmstep .. | .qlen .. | .qflush .. | .qpeek .. | .vsave .. | .vrest ..
  | .tspawn .. | .tend .. | .tyield .. | .tbank .. | .gjoin .. | .gleave .. | .trec .. => true
  | .loop len _ stg _ => decide (len ≠ 0) && decide (stg.toNat ≤ 4)
  | .fcvt d a code _ => convertCode d a code
  | .vcvt _ _ _ tag _ => convertTag tag
  | .vcvts _ _ _ tag _ => convertTag tag
  | .vretag _ _ tag => tagOk tag
  | .vbamax _ _ q tag _ => blockTag q tag
  | .vbscale _ _ q tag _ => blockTag q tag
  | .vbqnt _ _ q tag _ => blockTag q tag
  | .hrank sel _ _ => regionOk sel
  | .hranks sel _ _ => regionOk sel
  | .hrankx sel _ _ => regionOk sel
  | .hrankg sel _ _ => regionOk sel
  | .hget sel _ => sliceOk sel
  | .hput sel _ => sliceOk sel
  | .hzero sel tag => regionOk sel && tagOk tag && (!sel.getLsbD 8 || tag == 0x0A)
  | .hacc sel _ => sliceOk sel
  | .hbiasc sel _ => regionOk sel && !sel.getLsbD 8
  | .hbiasr sel _ => regionOk sel && !sel.getLsbD 8
  | .hscalc sel _ => regionOk sel && !sel.getLsbD 8
  | .hrelu sel => regionOk sel && !sel.getLsbD 8
  | .hclamp sel _ => regionOk sel && !sel.getLsbD 8
  | .hrq sel _ tag => regionOk sel && requantTag tag && (!sel.getLsbD 8 || tag == 0x0A)
  | .hsumsq sel _ => regionOk sel && !sel.getLsbD 8
  | .hnorm sel _ => regionOk sel && !sel.getLsbD 8
  | .hexp2 sel => regionOk sel && !sel.getLsbD 8
  | .hrcp sel => regionOk sel && !sel.getLsbD 8
  | .htanh sel => regionOk sel && !sel.getLsbD 8
  | .hrsq sel => regionOk sel && !sel.getLsbD 8
  | .hsave sel _ _ => regionOk sel && !sel.getLsbD 8
  | .hrest sel _ _ => regionOk sel && !sel.getLsbD 8
  | .hdmap sel _ => decide (sel.toNat ≤ 3)
  | .loopEndIteration .. | .queueTimeout .. | .watchdog .. | .timer .. | .takeInterrupt .. | .trapEntry ..
  | .faultWindowClose .. | .scalarResultWrite .. | .slashResult .. | .scalarLoadReply .. | .atomicResponse ..
  | .vectorGroupWrite .. | .vectorLoadData .. | .sfuCommit .. | .hsfuCommit .. | .latchCommit ..
  | .hoopRowLand .. | .freezeBegin .. | .lateReplyArrival .. | .correctedError .. | .correctionFreezeEnd ..
  | .freezeTimeout .. | .uncorrectableError .. | .bankSwitch .. | .preempt .. | .contextSave ..
  | .contextRestore .. | .wfeWake .. | .barrierWaitRelease .. | .bxchArrival .. | .binitTeamComplete ..
  | .gjoinRendezvous .. | .tyieldRendezvous .. | .pubwaitSatisfied .. | .publishAck .. | .gangBroadcastExecute ..
  | .gangFail .. | .copyLineLand .. | .copyComplete .. | .cpytStart .. | .cpyhStart .. | .lineWrite ..
  | .partialWrite .. | .readRequest .. | .atomicPacket .. | .readReply .. | .atomicOrErrorReply ..
  | .orderAcknowledgement .. | .knotAdvance .. | .knotFrame .. | .beacon .. | .cutAdvance .. | .removalNotice ..
  | .reservedKindFlit .. | .heldPacketRelease .. | .beaconSend .. | .forwardEntryLeave .. | .atomicReplyTimeout ..
  | .knotReset .. | .cutRequest .. | .granulePreserve .. | .snapshotCopierStream .. | .snapshotComplete ..
  | .freqSwitchFreeze .. | .freqSwitchResume .. | .retentionEntry .. | .retentionExit .. | .scrub ..
  | .tinvAsn .. | .tinvVpn .. | .tinvAll .. | .tinvVpnEveryAsn .. | .invalidationComplete .. | .pans ..
  | .prtailWrite .. | .notify .. | .slotMap .. | .slotUnmap .. | .slotWritebackComplete .. | .takeRecord ..
  | .aliasRetire .. | .taskPlace .. | .taskPromote .. | .strandStart .. | .memberStop .. | .addressSpaceDestroy ..
  | .level3 .. | .clock .. | .remove .. | .reset .. | .fwload .. | .snapshot .. | .svnset .. | .wake ..
  | .registerWrite .. | .powerWindow .. | .powerOn .. | .perstPackage .. | .perstLink .. | .firmwareVerify ..
  | .linkTraining .. | .level2Entry .. | .getVersion .. | .getCapabilities .. | .negotiateAlgorithms ..
  | .getDigests .. | .getCertificate .. | .challenge .. | .getMeasurements .. | .hostWrite .. | .hostRead ..
  | .hostCompletionTimeout .. | .rdmaWriteInbound .. | .rdmaReadInbound .. | .rdmaNak .. | .illegalOpcode ..
  | .fetchFault .. | .spawnRecordAccept .. | .fconsWrite .. | .rconsWrite .. | .d3hot .. | .autoNegotiation ..
  | .priorityFlowControl ..
    => false

end Sys2Proof
end

