-- ==== Sys2Proof/Decode.lean ====
section
/-! DEFINITION. The decoder: instruction words to instructions with their P and C bits (R48 to R56), a
total function that refuses by name; the literal prefix (R52, R53); and the encoder, written from the same
opcode map (R49, R54, R55). -/

namespace Sys2Proof

/-- Why words decode to no instruction: each is an ILLEGAL_OPCODE of R56. -/
inductive DecodeError where
  /-- Major 0x00 or 0x3A to 0x3E (R56). -/
  | reservedMajor
  /-- A selector that names no form (R54, R55). -/
  | unusedForm
  /-- A nonzero reserved field, or a field value that its form does not accept (R50, R55). -/
  | reservedField
  /-- A literal prefix in one of the cases of R52. -/
  | badPrefix
  /-- The bytes end before the instruction does. -/
  | truncated
  deriving DecidableEq, Repr

/-- Bits lo to lo + n − 1 of a word (R13). -/
def field (w lo n : Nat) : Nat := w / 2 ^ lo % 2 ^ n

/-- The same bits as a bit vector. -/
def bv (n w lo : Nat) : BitVec n := BitVec.ofNat n (w / 2 ^ lo)

/-- An immediate from its field and the prefix before its word, if there is one (R53). -/
def immOf {w : Nat} (pre : Option (BitVec 24)) (v : BitVec w) : Imm w :=
  match pre with
  | none => .short v
  | some p => .long (p ++ v)

/-- An instruction whose word's fixed bits hold. -/
def fixed (c : Prop) [Decidable c] (i : Instr) : Except DecodeError Instr :=
  if c then .ok i else .error .reservedField

-- Lean's code generator has no room for constructors with fields beyond the 245th of a type, so what builds
-- an instruction is marked as having no compiled code; the kernel evaluates it as any other definition.
noncomputable section

/-- ALU, major 0x01. -/
def decodeAlu (w : Nat) : Except DecodeError Instr :=
  match field w 0 6 with
  | 0 => .ok (.add (bv 6 w 18) (bv 6 w 12) (bv 6 w 6))
  | 1 => .ok (.sub (bv 6 w 18) (bv 6 w 12) (bv 6 w 6))
  | 2 => .ok (.and_ (bv 6 w 18) (bv 6 w 12) (bv 6 w 6))
  | 3 => .ok (.or_ (bv 6 w 18) (bv 6 w 12) (bv 6 w 6))
  | 4 => .ok (.xor_ (bv 6 w 18) (bv 6 w 12) (bv 6 w 6))
  | 5 => .ok (.andn (bv 6 w 18) (bv 6 w 12) (bv 6 w 6))
  | 6 => .ok (.orn (bv 6 w 18) (bv 6 w 12) (bv 6 w 6))
  | 7 => .ok (.sll (bv 6 w 18) (bv 6 w 12) (bv 6 w 6))
  | 8 => .ok (.srl (bv 6 w 18) (bv 6 w 12) (bv 6 w 6))
  | 9 => .ok (.sra (bv 6 w 18) (bv 6 w 12) (bv 6 w 6))
  | 10 => .ok (.rol (bv 6 w 18) (bv 6 w 12) (bv 6 w 6))
  | 11 => .ok (.ror (bv 6 w 18) (bv 6 w 12) (bv 6 w 6))
  | 12 => .ok (.slt (bv 6 w 18) (bv 6 w 12) (bv 6 w 6))
  | 13 => .ok (.sltn (bv 6 w 18) (bv 6 w 12) (bv 6 w 6))
  | 14 => .ok (.min (bv 6 w 18) (bv 6 w 12) (bv 6 w 6))
  | 15 => .ok (.max (bv 6 w 18) (bv 6 w 12) (bv 6 w 6))
  | 16 => .ok (.minn (bv 6 w 18) (bv 6 w 12) (bv 6 w 6))
  | 17 => .ok (.maxn (bv 6 w 18) (bv 6 w 12) (bv 6 w 6))
  | 18 => .ok (.mul (bv 6 w 18) (bv 6 w 12) (bv 6 w 6))
  | 19 => .ok (.mulh (bv 6 w 18) (bv 6 w 12) (bv 6 w 6))
  | 20 => .ok (.mulhn (bv 6 w 18) (bv 6 w 12) (bv 6 w 6))
  | 21 => .ok (.div (bv 6 w 18) (bv 6 w 12) (bv 6 w 6))
  | 22 => .ok (.divn (bv 6 w 18) (bv 6 w 12) (bv 6 w 6))
  | 23 => .ok (.rem (bv 6 w 18) (bv 6 w 12) (bv 6 w 6))
  | 24 => .ok (.remn (bv 6 w 18) (bv 6 w 12) (bv 6 w 6))
  | 25 => fixed (field w 6 6 = 0) (.clz (bv 6 w 18) (bv 6 w 12))
  | 26 => fixed (field w 6 6 = 0) (.ctz (bv 6 w 18) (bv 6 w 12))
  | 27 => fixed (field w 6 6 = 0) (.popc (bv 6 w 18) (bv 6 w 12))
  | 28 => .ok (.bext (bv 6 w 18) (bv 6 w 12) (bv 6 w 6))
  | 29 => .ok (.bdep (bv 6 w 18) (bv 6 w 12) (bv 6 w 6))
  | 30 => .ok (.sext (bv 6 w 18) (bv 6 w 12) (bv 6 w 6))
  | 31 => .ok (.zext (bv 6 w 18) (bv 6 w 12) (bv 6 w 6))
  | _ => .error .unusedForm

/-- ADDI, major 0x02. -/
def decodeAddi (pre : Option (BitVec 24)) (w : Nat) : Except DecodeError Instr :=
  .ok (.addi (bv 6 w 18) (bv 6 w 12) (immOf pre (bv 12 w 0)))

/-- ANDI, major 0x03. -/
def decodeAndi (pre : Option (BitVec 24)) (w : Nat) : Except DecodeError Instr :=
  .ok (.andi (bv 6 w 18) (bv 6 w 12) (immOf pre (bv 12 w 0)))

/-- ORI, major 0x04. -/
def decodeOri (pre : Option (BitVec 24)) (w : Nat) : Except DecodeError Instr :=
  .ok (.ori (bv 6 w 18) (bv 6 w 12) (immOf pre (bv 12 w 0)))

/-- XORI, major 0x05. -/
def decodeXori (pre : Option (BitVec 24)) (w : Nat) : Except DecodeError Instr :=
  .ok (.xori (bv 6 w 18) (bv 6 w 12) (immOf pre (bv 12 w 0)))

/-- SHI, major 0x06. -/
def decodeShi (w : Nat) : Except DecodeError Instr :=
  match field w 10 2 with
  | 0 => fixed (field w 6 4 = 0) (.slli (bv 6 w 18) (bv 6 w 12) (bv 6 w 0))
  | 1 => fixed (field w 6 4 = 0) (.srli (bv 6 w 18) (bv 6 w 12) (bv 6 w 0))
  | 2 => fixed (field w 6 4 = 0) (.srai (bv 6 w 18) (bv 6 w 12) (bv 6 w 0))
  | 3 => fixed (field w 6 4 = 0) (.rori (bv 6 w 18) (bv 6 w 12) (bv 6 w 0))
  | _ => .error .unusedForm

/-- SLTI, major 0x07. -/
def decodeSlti (pre : Option (BitVec 24)) (w : Nat) : Except DecodeError Instr :=
  .ok (.slti (bv 6 w 18) (bv 6 w 12) (immOf pre (bv 12 w 0)))

/-- SLTNI, major 0x08. -/
def decodeSltni (pre : Option (BitVec 24)) (w : Nat) : Except DecodeError Instr :=
  .ok (.sltni (bv 6 w 18) (bv 6 w 12) (immOf pre (bv 12 w 0)))

/-- LUI, major 0x09. -/
def decodeLui (pre : Option (BitVec 24)) (w : Nat) : Except DecodeError Instr :=
  fixed (field w 12 6 = 0) (.lui (bv 6 w 18) (immOf pre (bv 12 w 0)))

/-- PCADD, major 0x0A. -/
def decodePcadd (pre : Option (BitVec 24)) (w : Nat) : Except DecodeError Instr :=
  fixed (field w 12 6 = 0) (.pcadd (bv 6 w 18) (immOf pre (bv 12 w 0)))

/-- BEQ, major 0x0B. -/
def decodeBeq (pre : Option (BitVec 24)) (w : Nat) : Except DecodeError Instr :=
  .ok (.beq (bv 6 w 18) (bv 6 w 12) (immOf pre (bv 12 w 0)))

/-- BNE, major 0x0C. -/
def decodeBne (pre : Option (BitVec 24)) (w : Nat) : Except DecodeError Instr :=
  .ok (.bne (bv 6 w 18) (bv 6 w 12) (immOf pre (bv 12 w 0)))

/-- BLT, major 0x0D. -/
def decodeBlt (pre : Option (BitVec 24)) (w : Nat) : Except DecodeError Instr :=
  .ok (.blt (bv 6 w 18) (bv 6 w 12) (immOf pre (bv 12 w 0)))

/-- BGE, major 0x0E. -/
def decodeBge (pre : Option (BitVec 24)) (w : Nat) : Except DecodeError Instr :=
  .ok (.bge (bv 6 w 18) (bv 6 w 12) (immOf pre (bv 12 w 0)))

/-- BLTN, major 0x0F. -/
def decodeBltn (pre : Option (BitVec 24)) (w : Nat) : Except DecodeError Instr :=
  .ok (.bltn (bv 6 w 18) (bv 6 w 12) (immOf pre (bv 12 w 0)))

/-- BGEN, major 0x10. -/
def decodeBgen (pre : Option (BitVec 24)) (w : Nat) : Except DecodeError Instr :=
  .ok (.bgen (bv 6 w 18) (bv 6 w 12) (immOf pre (bv 12 w 0)))

/-- JAL, major 0x11. -/
def decodeJal (pre : Option (BitVec 24)) (w : Nat) : Except DecodeError Instr :=
  .ok (.jal (immOf pre (bv 24 w 0)))

/-- JALR, major 0x12. -/
def decodeJalr (pre : Option (BitVec 24)) (w : Nat) : Except DecodeError Instr :=
  .ok (.jalr (bv 6 w 18) (bv 6 w 12) (immOf pre (bv 12 w 0)))

/-- LOOP, major 0x13. -/
def decodeLoop (w : Nat) : Except DecodeError Instr :=
  fixed (field w 0 8 = 0) (.loop (bv 6 w 18) (bv 6 w 12) (bv 3 w 9) (bv 1 w 8))

/-- SYS, major 0x14. -/
def decodeSys (w : Nat) : Except DecodeError Instr :=
  match field w 0 6 with
  | 0 => fixed (field w 6 6 = 0 ∧ field w 18 6 = 0) (.trap (bv 6 w 12))
  | 1 => fixed (field w 6 18 = 0) .eret
  | 2 => fixed (field w 6 18 = 0) .wfe
  | 3 => fixed (field w 6 18 = 0) .yield
  | 4 => fixed (field w 6 18 = 0) .halt
  | 5 => fixed (field w 6 18 = 0) .brk
  | 6 => fixed (field w 6 18 = 0) .nop
  | 7 => fixed (field w 6 18 = 0) .ifence
  | _ => .error .unusedForm

/-- KREG, major 0x15. -/
def decodeKreg (w : Nat) : Except DecodeError Instr :=
  match field w 16 2 with
  | 0 => fixed (field w 12 4 = 0) (.kread (bv 6 w 18) (bv 12 w 0))
  | 1 => fixed (field w 12 4 = 0) (.kwrite (bv 6 w 18) (bv 12 w 0))
  | 2 => fixed (field w 12 4 = 0) (.kset (bv 6 w 18) (bv 12 w 0))
  | 3 => fixed (field w 12 4 = 0) (.kclr (bv 6 w 18) (bv 12 w 0))
  | _ => .error .unusedForm

/-- LD, major 0x16. -/
def decodeLd (pre : Option (BitVec 24)) (w : Nat) : Except DecodeError Instr :=
  match field w 9 3 with
  | 0 => .ok (.ldb (bv 6 w 18) (bv 6 w 12) (immOf pre (bv 9 w 0)))
  | 1 => .ok (.ldh (bv 6 w 18) (bv 6 w 12) (immOf pre (bv 9 w 0)))
  | 2 => .ok (.ldw (bv 6 w 18) (bv 6 w 12) (immOf pre (bv 9 w 0)))
  | 3 => .ok (.ldd (bv 6 w 18) (bv 6 w 12) (immOf pre (bv 9 w 0)))
  | 4 => .ok (.ldbn (bv 6 w 18) (bv 6 w 12) (immOf pre (bv 9 w 0)))
  | 5 => .ok (.ldhn (bv 6 w 18) (bv 6 w 12) (immOf pre (bv 9 w 0)))
  | 6 => .ok (.ldwn (bv 6 w 18) (bv 6 w 12) (immOf pre (bv 9 w 0)))
  | _ => .error .unusedForm

/-- ST, major 0x17. -/
def decodeSt (pre : Option (BitVec 24)) (w : Nat) : Except DecodeError Instr :=
  match field w 9 3 with
  | 0 => .ok (.stb (bv 6 w 18) (bv 6 w 12) (immOf pre (bv 9 w 0)))
  | 1 => .ok (.sth (bv 6 w 18) (bv 6 w 12) (immOf pre (bv 9 w 0)))
  | 2 => .ok (.stw (bv 6 w 18) (bv 6 w 12) (immOf pre (bv 9 w 0)))
  | 3 => .ok (.std (bv 6 w 18) (bv 6 w 12) (immOf pre (bv 9 w 0)))
  | _ => .error .unusedForm

/-- SCOPED, major 0x18. -/
def decodeScoped (w : Nat) : Except DecodeError Instr :=
  match field w 9 3 with
  | 0 => fixed (field w 0 6 = 0) (.ldacqb (bv 6 w 18) (bv 6 w 12) (bv 3 w 6))
  | 1 => fixed (field w 0 6 = 0) (.ldacqh (bv 6 w 18) (bv 6 w 12) (bv 3 w 6))
  | 2 => fixed (field w 0 6 = 0) (.ldacqw (bv 6 w 18) (bv 6 w 12) (bv 3 w 6))
  | 3 => fixed (field w 0 6 = 0) (.ldacqd (bv 6 w 18) (bv 6 w 12) (bv 3 w 6))
  | 4 => fixed (field w 0 6 = 0) (.strelb (bv 6 w 18) (bv 6 w 12) (bv 3 w 6))
  | 5 => fixed (field w 0 6 = 0) (.strelh (bv 6 w 18) (bv 6 w 12) (bv 3 w 6))
  | 6 => fixed (field w 0 6 = 0) (.strelw (bv 6 w 18) (bv 6 w 12) (bv 3 w 6))
  | 7 => fixed (field w 0 6 = 0) (.streld (bv 6 w 18) (bv 6 w 12) (bv 3 w 6))
  | _ => .error .unusedForm

/-- AMO, major 0x19. -/
def decodeAmo (w : Nat) : Except DecodeError Instr :=
  match field w 0 3 with
  | 0 => .ok (.amoswap (bv 6 w 18) (bv 6 w 12) (bv 6 w 6) (bv 3 w 3))
  | 1 => .ok (.amoadd (bv 6 w 18) (bv 6 w 12) (bv 6 w 6) (bv 3 w 3))
  | 2 => .ok (.amoand (bv 6 w 18) (bv 6 w 12) (bv 6 w 6) (bv 3 w 3))
  | 3 => .ok (.amoor (bv 6 w 18) (bv 6 w 12) (bv 6 w 6) (bv 3 w 3))
  | 4 => .ok (.amoxor (bv 6 w 18) (bv 6 w 12) (bv 6 w 6) (bv 3 w 3))
  | 5 => .ok (.amomax (bv 6 w 18) (bv 6 w 12) (bv 6 w 6) (bv 3 w 3))
  | 6 => .ok (.amomin (bv 6 w 18) (bv 6 w 12) (bv 6 w 6) (bv 3 w 3))
  | 7 => .ok (.amomaxn (bv 6 w 18) (bv 6 w 12) (bv 6 w 6) (bv 3 w 3))
  | _ => .error .unusedForm

/-- AMOR, major 0x1A. -/
def decodeAmor (w : Nat) : Except DecodeError Instr :=
  match field w 0 3 with
  | 0 => .ok (.amorswap (bv 6 w 18) (bv 6 w 12) (bv 6 w 6) (bv 3 w 3))
  | 1 => .ok (.amoradd (bv 6 w 18) (bv 6 w 12) (bv 6 w 6) (bv 3 w 3))
  | 2 => .ok (.amorand (bv 6 w 18) (bv 6 w 12) (bv 6 w 6) (bv 3 w 3))
  | 3 => .ok (.amoror (bv 6 w 18) (bv 6 w 12) (bv 6 w 6) (bv 3 w 3))
  | 4 => .ok (.amorxor (bv 6 w 18) (bv 6 w 12) (bv 6 w 6) (bv 3 w 3))
  | 5 => .ok (.amormax (bv 6 w 18) (bv 6 w 12) (bv 6 w 6) (bv 3 w 3))
  | 6 => .ok (.amormin (bv 6 w 18) (bv 6 w 12) (bv 6 w 6) (bv 3 w 3))
  | 7 => .ok (.amormaxn (bv 6 w 18) (bv 6 w 12) (bv 6 w 6) (bv 3 w 3))
  | _ => .error .unusedForm

/-- CAS, major 0x1B. -/
def decodeCas (w : Nat) : Except DecodeError Instr :=
  fixed (field w 0 3 = 0) (.cas (bv 6 w 18) (bv 6 w 12) (bv 6 w 6) (bv 3 w 3))

/-- FENCE, major 0x1C. -/
def decodeFence (w : Nat) : Except DecodeError Instr :=
  match field w 0 2 with
  | 1 => fixed (field w 2 1 = 0 ∧ field w 6 18 = 0) (.fenceAcq (bv 3 w 3))
  | 2 => fixed (field w 2 1 = 0 ∧ field w 6 18 = 0) (.fenceRel (bv 3 w 3))
  | 3 => fixed (field w 2 1 = 0 ∧ field w 6 18 = 0) (.fenceAcqrel (bv 3 w 3))
  | _ => .error .unusedForm

/-- BAR, major 0x1D. -/
def decodeBar (w : Nat) : Except DecodeError Instr :=
  match field w 9 3 with
  | 0 => fixed (field w 18 6 = 0) (.binit (bv 6 w 12) (bv 9 w 0))
  | 1 => fixed (field w 12 6 = 0) (.barrive (bv 6 w 18) (bv 9 w 0))
  | 2 => .ok (.bwait (bv 6 w 18) (bv 6 w 12) (bv 9 w 0))
  | 3 => fixed (field w 12 6 = 0) (.bsync (bv 6 w 18) (bv 9 w 0))
  | 4 => fixed (field w 12 6 = 0) (.bxch (bv 6 w 18) (bv 9 w 0))
  | 5 => fixed (field w 12 6 = 0) (.btest (bv 6 w 18) (bv 9 w 0))
  | 6 => fixed (field w 18 6 = 0) (.bbind (bv 6 w 12) (bv 9 w 0))
  | _ => .error .unusedForm

/-- HOST, major 0x1E. -/
def decodeHost (w : Nat) : Except DecodeError Instr :=
  match field w 0 6 with
  | 0 => fixed (field w 6 6 = 0) (.publish (bv 6 w 18) (bv 6 w 12))
  | 1 => .ok (.pubwait (bv 6 w 18) (bv 6 w 12) (bv 6 w 6))
  | _ => .error .unusedForm

/-- FPU, major 0x1F. -/
def decodeFpu (w : Nat) : Except DecodeError Instr :=
  match field w 0 4 with
  | 0 => fixed (field w 5 1 = 0 ∧ field w 11 1 = 0 ∧ field w 17 1 = 0 ∧ field w 23 1 = 0) (.fadd (bv 5 w 18) (bv 5 w 12) (bv 5 w 6) (bv 1 w 4))
  | 1 => fixed (field w 5 1 = 0 ∧ field w 11 1 = 0 ∧ field w 17 1 = 0 ∧ field w 23 1 = 0) (.fsub (bv 5 w 18) (bv 5 w 12) (bv 5 w 6) (bv 1 w 4))
  | 2 => fixed (field w 5 1 = 0 ∧ field w 11 1 = 0 ∧ field w 17 1 = 0 ∧ field w 23 1 = 0) (.fmul (bv 5 w 18) (bv 5 w 12) (bv 5 w 6) (bv 1 w 4))
  | 3 => fixed (field w 5 1 = 0 ∧ field w 11 1 = 0 ∧ field w 17 1 = 0 ∧ field w 23 1 = 0) (.fdiv (bv 5 w 18) (bv 5 w 12) (bv 5 w 6) (bv 1 w 4))
  | 4 => fixed (field w 5 7 = 0 ∧ field w 17 1 = 0 ∧ field w 23 1 = 0) (.fsqrt (bv 5 w 18) (bv 5 w 12) (bv 1 w 4))
  | 5 => fixed (field w 5 1 = 0 ∧ field w 11 1 = 0 ∧ field w 17 1 = 0 ∧ field w 23 1 = 0) (.fmadd (bv 5 w 18) (bv 5 w 12) (bv 5 w 6) (bv 1 w 4))
  | 6 => fixed (field w 5 1 = 0 ∧ field w 11 1 = 0 ∧ field w 17 1 = 0 ∧ field w 23 1 = 0) (.fmin (bv 5 w 18) (bv 5 w 12) (bv 5 w 6) (bv 1 w 4))
  | 7 => fixed (field w 5 1 = 0 ∧ field w 11 1 = 0 ∧ field w 17 1 = 0 ∧ field w 23 1 = 0) (.fmax (bv 5 w 18) (bv 5 w 12) (bv 5 w 6) (bv 1 w 4))
  | 8 => fixed (field w 5 1 = 0 ∧ field w 11 1 = 0 ∧ field w 17 1 = 0) (.feq (bv 6 w 18) (bv 5 w 12) (bv 5 w 6) (bv 1 w 4))
  | 9 => fixed (field w 5 1 = 0 ∧ field w 11 1 = 0 ∧ field w 17 1 = 0) (.flt (bv 6 w 18) (bv 5 w 12) (bv 5 w 6) (bv 1 w 4))
  | 10 => fixed (field w 5 1 = 0 ∧ field w 11 1 = 0 ∧ field w 17 1 = 0) (.fle (bv 6 w 18) (bv 5 w 12) (bv 5 w 6) (bv 1 w 4))
  | 11 => fixed (field w 5 1 = 0) (.fcvt (bv 6 w 18) (bv 6 w 12) (bv 6 w 6) (bv 1 w 4))
  | 12 => fixed (field w 5 7 = 0 ∧ field w 17 1 = 0) (.fmvg (bv 6 w 18) (bv 5 w 12) (bv 1 w 4))
  | 13 => fixed (field w 5 7 = 0 ∧ field w 23 1 = 0) (.fmvf (bv 5 w 18) (bv 6 w 12) (bv 1 w 4))
  | 14 => fixed (field w 5 7 = 0 ∧ field w 17 1 = 0) (.fclass (bv 6 w 18) (bv 5 w 12) (bv 1 w 4))
  | 15 => fixed (field w 5 1 = 0 ∧ field w 11 1 = 0 ∧ field w 17 1 = 0 ∧ field w 23 1 = 0) (.fsgnj (bv 5 w 18) (bv 5 w 12) (bv 5 w 6) (bv 1 w 4))
  | _ => .error .unusedForm

/-- VINTA, major 0x20. -/
def decodeVinta (w : Nat) : Except DecodeError Instr :=
  match field w 0 3 with
  | 0 => .ok (.vadd (bv 6 w 18) (bv 6 w 12) (bv 6 w 6) (bv 3 w 3))
  | 1 => .ok (.vsub (bv 6 w 18) (bv 6 w 12) (bv 6 w 6) (bv 3 w 3))
  | 2 => .ok (.vmul (bv 6 w 18) (bv 6 w 12) (bv 6 w 6) (bv 3 w 3))
  | 3 => .ok (.vmulh (bv 6 w 18) (bv 6 w 12) (bv 6 w 6) (bv 3 w 3))
  | 4 => .ok (.vmin (bv 6 w 18) (bv 6 w 12) (bv 6 w 6) (bv 3 w 3))
  | 5 => .ok (.vmax (bv 6 w 18) (bv 6 w 12) (bv 6 w 6) (bv 3 w 3))
  | 6 => .ok (.vminn (bv 6 w 18) (bv 6 w 12) (bv 6 w 6) (bv 3 w 3))
  | 7 => .ok (.vmaxn (bv 6 w 18) (bv 6 w 12) (bv 6 w 6) (bv 3 w 3))
  | _ => .error .unusedForm

/-- VINTB, major 0x21. -/
def decodeVintb (w : Nat) : Except DecodeError Instr :=
  match field w 0 3 with
  | 0 => .ok (.vand (bv 6 w 18) (bv 6 w 12) (bv 6 w 6) (bv 3 w 3))
  | 1 => .ok (.vor (bv 6 w 18) (bv 6 w 12) (bv 6 w 6) (bv 3 w 3))
  | 2 => .ok (.vxor (bv 6 w 18) (bv 6 w 12) (bv 6 w 6) (bv 3 w 3))
  | 3 => .ok (.vandn (bv 6 w 18) (bv 6 w 12) (bv 6 w 6) (bv 3 w 3))
  | 4 => .ok (.vsll (bv 6 w 18) (bv 6 w 12) (bv 6 w 6) (bv 3 w 3))
  | 5 => .ok (.vsrl (bv 6 w 18) (bv 6 w 12) (bv 6 w 6) (bv 3 w 3))
  | 6 => .ok (.vsra (bv 6 w 18) (bv 6 w 12) (bv 6 w 6) (bv 3 w 3))
  | 7 => .ok (.vrol (bv 6 w 18) (bv 6 w 12) (bv 6 w 6) (bv 3 w 3))
  | _ => .error .unusedForm

/-- VFLTA, major 0x22. -/
def decodeVflta (w : Nat) : Except DecodeError Instr :=
  match field w 0 3 with
  | 0 => .ok (.vfadd (bv 6 w 18) (bv 6 w 12) (bv 6 w 6) (bv 3 w 3))
  | 1 => .ok (.vfsub (bv 6 w 18) (bv 6 w 12) (bv 6 w 6) (bv 3 w 3))
  | 2 => .ok (.vfmul (bv 6 w 18) (bv 6 w 12) (bv 6 w 6) (bv 3 w 3))
  | 3 => .ok (.vfmin (bv 6 w 18) (bv 6 w 12) (bv 6 w 6) (bv 3 w 3))
  | 4 => .ok (.vfmax (bv 6 w 18) (bv 6 w 12) (bv 6 w 6) (bv 3 w 3))
  | 5 => .ok (.vfmacc (bv 6 w 18) (bv 6 w 12) (bv 6 w 6) (bv 3 w 3))
  | 6 => .ok (.vfnmacc (bv 6 w 18) (bv 6 w 12) (bv 6 w 6) (bv 3 w 3))
  | 7 => .ok (.vfdiv (bv 6 w 18) (bv 6 w 12) (bv 6 w 6) (bv 3 w 3))
  | _ => .error .unusedForm

/-- VUNARY, major 0x23. -/
def decodeVunary (w : Nat) : Except DecodeError Instr :=
  match field w 0 3 with
  | 0 => fixed (field w 6 6 = 0) (.vfsqrt (bv 6 w 18) (bv 6 w 12) (bv 3 w 3))
  | 1 => fixed (field w 6 6 = 0) (.vfabs (bv 6 w 18) (bv 6 w 12) (bv 3 w 3))
  | 2 => fixed (field w 6 6 = 0) (.vfneg (bv 6 w 18) (bv 6 w 12) (bv 3 w 3))
  | 3 => fixed (field w 6 6 = 0) (.vabs (bv 6 w 18) (bv 6 w 12) (bv 3 w 3))
  | 4 => fixed (field w 6 6 = 0) (.vneg (bv 6 w 18) (bv 6 w 12) (bv 3 w 3))
  | 5 => fixed (field w 6 6 = 0) (.vnot (bv 6 w 18) (bv 6 w 12) (bv 3 w 3))
  | 6 => fixed (field w 6 6 = 0) (.vclz (bv 6 w 18) (bv 6 w 12) (bv 3 w 3))
  | 7 => fixed (field w 6 6 = 0) (.vpopc (bv 6 w 18) (bv 6 w 12) (bv 3 w 3))
  | _ => .error .unusedForm

/-- VCMP, major 0x24. -/
def decodeVcmp (w : Nat) : Except DecodeError Instr :=
  match field w 0 3 with
  | 0 => fixed (field w 21 3 = 0) (.vceq (bv 3 w 18) (bv 6 w 12) (bv 6 w 6) (bv 3 w 3))
  | 1 => fixed (field w 21 3 = 0) (.vcne (bv 3 w 18) (bv 6 w 12) (bv 6 w 6) (bv 3 w 3))
  | 2 => fixed (field w 21 3 = 0) (.vclt (bv 3 w 18) (bv 6 w 12) (bv 6 w 6) (bv 3 w 3))
  | 3 => fixed (field w 21 3 = 0) (.vcle (bv 3 w 18) (bv 6 w 12) (bv 6 w 6) (bv 3 w 3))
  | 4 => fixed (field w 21 3 = 0) (.vcltn (bv 3 w 18) (bv 6 w 12) (bv 6 w 6) (bv 3 w 3))
  | 5 => fixed (field w 21 3 = 0) (.vclen (bv 3 w 18) (bv 6 w 12) (bv 6 w 6) (bv 3 w 3))
  | 6 => fixed (field w 21 3 = 0) (.vcflt (bv 3 w 18) (bv 6 w 12) (bv 6 w 6) (bv 3 w 3))
  | 7 => fixed (field w 21 3 = 0) (.vcfle (bv 3 w 18) (bv 6 w 12) (bv 6 w 6) (bv 3 w 3))
  | _ => .error .unusedForm

/-- VSFU, major 0x25. -/
def decodeVsfu (w : Nat) : Except DecodeError Instr :=
  match field w 0 3 with
  | 0 => fixed (field w 6 6 = 0) (.vexp2 (bv 6 w 18) (bv 6 w 12) (bv 3 w 3))
  | 1 => fixed (field w 6 6 = 0) (.vrcp (bv 6 w 18) (bv 6 w 12) (bv 3 w 3))
  | 2 => fixed (field w 6 6 = 0) (.vrsq (bv 6 w 18) (bv 6 w 12) (bv 3 w 3))
  | 3 => fixed (field w 6 6 = 0) (.vlog2 (bv 6 w 18) (bv 6 w 12) (bv 3 w 3))
  | 4 => fixed (field w 6 6 = 0) (.vtanh (bv 6 w 18) (bv 6 w 12) (bv 3 w 3))
  | 5 => fixed (field w 6 6 = 0) (.vsin (bv 6 w 18) (bv 6 w 12) (bv 3 w 3))
  | 6 => fixed (field w 6 6 = 0) (.vcos (bv 6 w 18) (bv 6 w 12) (bv 3 w 3))
  | 7 => fixed (field w 6 6 = 0) (.verf (bv 6 w 18) (bv 6 w 12) (bv 3 w 3))
  | _ => .error .unusedForm

/-- VRED, major 0x26. -/
def decodeVred (w : Nat) : Except DecodeError Instr :=
  match field w 0 3 with
  | 0 => fixed (field w 6 6 = 0) (.vrsum (bv 6 w 18) (bv 6 w 12) (bv 3 w 3))
  | 1 => fixed (field w 6 6 = 0) (.vrfsum (bv 6 w 18) (bv 6 w 12) (bv 3 w 3))
  | 2 => fixed (field w 6 6 = 0) (.vrmax (bv 6 w 18) (bv 6 w 12) (bv 3 w 3))
  | 3 => fixed (field w 6 6 = 0) (.vrmin (bv 6 w 18) (bv 6 w 12) (bv 3 w 3))
  | 4 => fixed (field w 6 6 = 0) (.vramax (bv 6 w 18) (bv 6 w 12) (bv 3 w 3))
  | 5 => fixed (field w 6 6 = 0) (.vrand (bv 6 w 18) (bv 6 w 12) (bv 3 w 3))
  | 6 => fixed (field w 6 6 = 0) (.vror (bv 6 w 18) (bv 6 w 12) (bv 3 w 3))
  | 7 => fixed (field w 6 6 = 0) (.vrxor (bv 6 w 18) (bv 6 w 12) (bv 3 w 3))
  | _ => .error .unusedForm

/-- VPERM, major 0x27. -/
def decodeVperm (w : Nat) : Except DecodeError Instr :=
  match field w 0 3 with
  | 0 => .ok (.vgather (bv 6 w 18) (bv 6 w 12) (bv 6 w 6) (bv 3 w 3))
  | 1 => .ok (.vslideup (bv 6 w 18) (bv 6 w 12) (bv 6 w 6) (bv 3 w 3))
  | 2 => .ok (.vslidedn (bv 6 w 18) (bv 6 w 12) (bv 6 w 6) (bv 3 w 3))
  | 3 => fixed (field w 6 6 = 0) (.vcompress (bv 6 w 18) (bv 6 w 12) (bv 3 w 3))
  | 4 => fixed (field w 6 6 = 0) (.vexpand (bv 6 w 18) (bv 6 w 12) (bv 3 w 3))
  | 5 => .ok (.vzip (bv 6 w 18) (bv 6 w 12) (bv 6 w 6) (bv 3 w 3))
  | 6 => fixed (field w 6 6 = 0) (.vunzip (bv 6 w 18) (bv 6 w 12) (bv 3 w 3))
  | 7 => .ok (.vbcast (bv 6 w 18) (bv 6 w 12) (bv 6 w 6) (bv 3 w 3))
  | _ => .error .unusedForm

/-- VBITS, major 0x28. -/
def decodeVbits (w : Nat) : Except DecodeError Instr :=
  match field w 0 3 with
  | 0 => fixed (field w 3 3 = 0) (.vshlw (bv 6 w 18) (bv 6 w 12) (bv 6 w 6))
  | 1 => fixed (field w 3 3 = 0) (.vshrw (bv 6 w 18) (bv 6 w 12) (bv 6 w 6))
  | 2 => fixed (field w 3 3 = 0) (.vfunl (bv 6 w 18) (bv 6 w 12) (bv 6 w 6))
  | 3 => fixed (field w 3 3 = 0) (.vfunr (bv 6 w 18) (bv 6 w 12) (bv 6 w 6))
  | 4 => fixed (field w 6 6 = 0) (.vrevb (bv 6 w 18) (bv 6 w 12) (bv 3 w 3))
  | 5 => fixed (field w 6 6 = 0) (.vbswap (bv 6 w 18) (bv 6 w 12) (bv 3 w 3))
  | 6 => fixed (field w 3 9 = 0) (.vclzw (bv 6 w 18) (bv 6 w 12))
  | 7 => fixed (field w 3 9 = 0) (.vpopw (bv 6 w 18) (bv 6 w 12))
  | _ => .error .unusedForm

/-- VCONV, major 0x29. -/
def decodeVconv (w : Nat) : Except DecodeError Instr :=
  match field w 0 3 with
  | 0 => .ok (.vcvt (bv 6 w 18) (bv 6 w 12) (bv 1 w 11) (bv 5 w 6) (bv 3 w 3))
  | 1 => .ok (.vcvts (bv 6 w 18) (bv 6 w 12) (bv 1 w 11) (bv 5 w 6) (bv 3 w 3))
  | 2 => .ok (.vpack (bv 6 w 18) (bv 6 w 12) (bv 6 w 6) (bv 3 w 3))
  | 3 => .ok (.vunpack (bv 6 w 18) (bv 6 w 12) (bv 6 w 6) (bv 3 w 3))
  | 4 => fixed (field w 3 3 = 0 ∧ field w 11 1 = 0) (.vretag (bv 6 w 18) (bv 6 w 12) (bv 5 w 6))
  | 5 => .ok (.vdeq (bv 6 w 18) (bv 6 w 12) (bv 6 w 6) (bv 3 w 3))
  | 6 => .ok (.vqnt (bv 6 w 18) (bv 6 w 12) (bv 6 w 6) (bv 3 w 3))
  | 7 => fixed (field w 6 6 = 0) (.vround (bv 6 w 18) (bv 6 w 12) (bv 3 w 3))
  | _ => .error .unusedForm

/-- VQUANT, major 0x2A. -/
def decodeVquant (w : Nat) : Except DecodeError Instr :=
  match field w 0 3 with
  | 0 => .ok (.vbamax (bv 6 w 18) (bv 6 w 12) (bv 1 w 11) (bv 5 w 6) (bv 3 w 3))
  | 1 => .ok (.vbscale (bv 6 w 18) (bv 6 w 12) (bv 1 w 11) (bv 5 w 6) (bv 3 w 3))
  | 2 => .ok (.vbqnt (bv 6 w 18) (bv 6 w 12) (bv 1 w 11) (bv 5 w 6) (bv 3 w 3))
  | 3 => .ok (.vdot4s (bv 6 w 18) (bv 6 w 12) (bv 6 w 6) (bv 3 w 3))
  | 4 => .ok (.vdot2f (bv 6 w 18) (bv 6 w 12) (bv 6 w 6) (bv 3 w 3))
  | _ => .error .unusedForm

/-- VSLASH, major 0x2B. -/
def decodeVslash (w : Nat) : Except DecodeError Instr :=
  match field w 0 3 with
  | 0 => .ok (.vsladd (bv 6 w 18) (bv 6 w 12) (bv 6 w 6) (bv 3 w 3))
  | 1 => .ok (.vslsub (bv 6 w 18) (bv 6 w 12) (bv 6 w 6) (bv 3 w 3))
  | 2 => .ok (.vslmul (bv 6 w 18) (bv 6 w 12) (bv 6 w 6) (bv 3 w 3))
  | 3 => .ok (.vsldiv (bv 6 w 18) (bv 6 w 12) (bv 6 w 6) (bv 3 w 3))
  | 4 => .ok (.vslmed (bv 6 w 18) (bv 6 w 12) (bv 6 w 6) (bv 3 w 3))
  | 5 => .ok (.vslcvt (bv 6 w 18) (bv 6 w 12) (bv 6 w 6) (bv 3 w 3))
  | 6 => fixed (field w 6 6 = 0) (.vslcanon (bv 6 w 18) (bv 6 w 12) (bv 3 w 3))
  | 7 => .ok (.vslcmp (bv 6 w 18) (bv 6 w 12) (bv 6 w 6) (bv 3 w 3))
  | _ => .error .unusedForm

/-- VMOV, major 0x2C. -/
def decodeVmov (w : Nat) : Except DecodeError Instr :=
  match field w 0 3 with
  | 0 => fixed (field w 6 6 = 0) (.vmv (bv 6 w 18) (bv 6 w 12) (bv 3 w 3))
  | 1 => fixed (field w 6 6 = 0) (.vsplat (bv 6 w 18) (bv 6 w 12) (bv 3 w 3))
  | 2 => fixed (field w 3 3 = 0) (.vextg (bv 6 w 18) (bv 6 w 12) (bv 6 w 6))
  | 3 => fixed (field w 3 3 = 0) (.vinsg (bv 6 w 18) (bv 6 w 12) (bv 6 w 6))
  | 4 => fixed (field w 6 12 = 0) (.vid (bv 6 w 18) (bv 3 w 3))
  | 5 =>
    match field w 3 3 with
    | 0 => fixed (field w 12 6 = 0) (.vmovxRead (bv 6 w 18) (bv 6 w 6))
    | 1 => fixed (field w 18 6 = 0) (.vmovxWrite (bv 6 w 12) (bv 6 w 6))
    | _ => .error .unusedForm
  | 6 => fixed (field w 3 9 = 0 ∧ field w 15 3 = 0) (.vmskv (bv 6 w 18) (bv 3 w 12))
  | 7 => fixed (field w 3 9 = 0 ∧ field w 21 3 = 0) (.vmvp (bv 3 w 18) (bv 6 w 12))
  | _ => .error .unusedForm

/-- VSET, major 0x2D. -/
def decodeVset (w : Nat) : Except DecodeError Instr :=
  match field w 0 3 with
  | 0 => fixed (field w 3 3 = 0) (.vsetvl (bv 6 w 18) (bv 6 w 12) (bv 6 w 6))
  | 1 => fixed (field w 3 3 = 0) (.vcoll (bv 6 w 18) (bv 6 w 12) (bv 6 w 6))
  | _ => .error .unusedForm

/-- VLD, major 0x2E. -/
def decodeVld (w : Nat) : Except DecodeError Instr :=
  match field w 0 2 with
  | 0 => fixed (field w 2 1 = 0 ∧ field w 6 6 = 0) (.vldu (bv 6 w 18) (bv 6 w 12) (bv 1 w 5) (bv 2 w 3))
  | 1 => fixed (field w 2 1 = 0) (.vlds (bv 6 w 18) (bv 6 w 12) (bv 6 w 6) (bv 1 w 5) (bv 2 w 3))
  | 2 => fixed (field w 2 1 = 0) (.vldx (bv 6 w 18) (bv 6 w 12) (bv 6 w 6) (bv 1 w 5) (bv 2 w 3))
  | _ => .error .unusedForm

/-- VST, major 0x2F. -/
def decodeVst (w : Nat) : Except DecodeError Instr :=
  match field w 0 2 with
  | 0 => fixed (field w 6 6 = 0) (.vstu (bv 6 w 18) (bv 6 w 12) (bv 1 w 5) (bv 2 w 3) (bv 1 w 2))
  | 1 => .ok (.vsts (bv 6 w 18) (bv 6 w 12) (bv 6 w 6) (bv 1 w 5) (bv 2 w 3) (bv 1 w 2))
  | 2 => .ok (.vstx (bv 6 w 18) (bv 6 w 12) (bv 6 w 6) (bv 1 w 5) (bv 2 w 3) (bv 1 w 2))
  | _ => .error .unusedForm

/-- VLDX, major 0x30. -/
def decodeVldx (w : Nat) : Except DecodeError Instr :=
  match field w 0 2 with
  | 0 => fixed (field w 2 1 = 0) (.vldtr (bv 6 w 18) (bv 6 w 12) (bv 6 w 6) (bv 1 w 5) (bv 2 w 3))
  | 1 => fixed (field w 2 1 = 0) (.vldwin (bv 6 w 18) (bv 6 w 12) (bv 6 w 6) (bv 1 w 5) (bv 2 w 3))
  | 2 => fixed (field w 2 1 = 0 ∧ field w 5 1 = 0) (.vldz (bv 6 w 18) (bv 6 w 12) (bv 6 w 6) (bv 2 w 3))
  | _ => .error .unusedForm

/-- CPY, major 0x31. -/
def decodeCpy (w : Nat) : Except DecodeError Instr :=
  match field w 0 3 with
  | 0 => fixed (field w 3 3 = 0) (.cpy (bv 6 w 18) (bv 6 w 12) (bv 6 w 6))
  | 1 => fixed (field w 3 3 = 0) (.cpyt (bv 6 w 18) (bv 6 w 12) (bv 6 w 6))
  | 2 => fixed (field w 3 3 = 0) (.cpymc (bv 6 w 18) (bv 6 w 12) (bv 6 w 6))
  | 3 => fixed (field w 3 3 = 0) (.cpyh (bv 6 w 18) (bv 6 w 12) (bv 6 w 6))
  | 4 => fixed (field w 3 9 = 0) (.cpycancel (bv 6 w 18) (bv 6 w 12))
  | _ => .error .unusedForm

/-- TMAP, major 0x32. -/
def decodeTmap (w : Nat) : Except DecodeError Instr :=
  match field w 0 3 with
  | 0 => fixed (field w 6 6 = 0 ∧ field w 18 6 = 0) (.tmset (bv 6 w 12) (bv 3 w 3))
  | 1 => fixed (field w 6 12 = 0) (.tmwalk (bv 6 w 18) (bv 3 w 3))
  | 2 => fixed (field w 6 6 = 0) (.tmstep (bv 6 w 18) (bv 6 w 12) (bv 3 w 3))
  | _ => .error .unusedForm

/-- QOP, major 0x33. -/
def decodeQop (w : Nat) : Except DecodeError Instr :=
  match field w 0 6 with
  | 0 => fixed (field w 6 6 = 0) (.qlen (bv 6 w 18) (bv 6 w 12))
  | 1 => fixed (field w 6 6 = 0 ∧ field w 18 6 = 0) (.qflush (bv 6 w 12))
  | 2 => fixed (field w 6 6 = 0) (.qpeek (bv 6 w 18) (bv 6 w 12))
  | _ => .error .unusedForm

/-- HRANK, major 0x34. -/
def decodeHrank (w : Nat) : Except DecodeError Instr :=
  match field w 0 3 with
  | 0 => .ok (.hrank (bv 9 w 15) (bv 6 w 9) (bv 6 w 3))
  | 1 => .ok (.hranks (bv 9 w 15) (bv 6 w 9) (bv 6 w 3))
  | 2 => .ok (.hrankx (bv 9 w 15) (bv 6 w 9) (bv 6 w 3))
  | 3 => .ok (.hrankg (bv 9 w 15) (bv 6 w 9) (bv 6 w 3))
  | _ => .error .unusedForm

/-- HSLICE, major 0x35. -/
def decodeHslice (w : Nat) : Except DecodeError Instr :=
  match field w 0 3 with
  | 0 => fixed (field w 3 6 = 0) (.hget (bv 9 w 15) (bv 6 w 9))
  | 1 => fixed (field w 3 6 = 0) (.hput (bv 9 w 15) (bv 6 w 9))
  | 2 => fixed (field w 8 7 = 0) (.hzero (bv 9 w 15) (bv 5 w 3))
  | 3 => fixed (field w 3 6 = 0) (.hacc (bv 9 w 15) (bv 6 w 9))
  | _ => .error .unusedForm

/-- HEPI, major 0x36. -/
def decodeHepi (w : Nat) : Except DecodeError Instr :=
  match field w 0 3 with
  | 0 => fixed (field w 3 6 = 0) (.hbiasc (bv 9 w 15) (bv 6 w 9))
  | 1 => fixed (field w 3 6 = 0) (.hbiasr (bv 9 w 15) (bv 6 w 9))
  | 2 => fixed (field w 3 6 = 0) (.hscalc (bv 9 w 15) (bv 6 w 9))
  | 3 => fixed (field w 3 12 = 0) (.hrelu (bv 9 w 15))
  | 4 => fixed (field w 3 6 = 0) (.hclamp (bv 9 w 15) (bv 6 w 9))
  | 5 => fixed (field w 8 1 = 0) (.hrq (bv 9 w 15) (bv 6 w 9) (bv 5 w 3))
  | 6 => fixed (field w 3 6 = 0) (.hsumsq (bv 9 w 15) (bv 6 w 9))
  | 7 => fixed (field w 3 6 = 0) (.hnorm (bv 9 w 15) (bv 6 w 9))
  | _ => .error .unusedForm

/-- HSFU, major 0x37. -/
def decodeHsfu (w : Nat) : Except DecodeError Instr :=
  match field w 0 3 with
  | 0 => fixed (field w 3 12 = 0) (.hexp2 (bv 9 w 15))
  | 1 => fixed (field w 3 12 = 0) (.hrcp (bv 9 w 15))
  | 2 => fixed (field w 3 12 = 0) (.htanh (bv 9 w 15))
  | 3 => fixed (field w 3 12 = 0) (.hrsq (bv 9 w 15))
  | _ => .error .unusedForm

/-- HCTX, major 0x38. -/
def decodeHctx (w : Nat) : Except DecodeError Instr :=
  match field w 0 3 with
  | 0 => .ok (.hsave (bv 9 w 15) (bv 6 w 9) (bv 6 w 3))
  | 1 => .ok (.hrest (bv 9 w 15) (bv 6 w 9) (bv 6 w 3))
  | 2 => fixed (field w 15 9 = 0) (.vsave (bv 6 w 9) (bv 6 w 3))
  | 3 => fixed (field w 15 9 = 0) (.vrest (bv 6 w 9) (bv 6 w 3))
  | 4 => fixed (field w 3 6 = 0) (.hdmap (bv 9 w 15) (bv 6 w 9))
  | _ => .error .unusedForm

/-- TASK, major 0x39. -/
def decodeTask (w : Nat) : Except DecodeError Instr :=
  match field w 0 6 with
  | 0 => .ok (.tspawn (bv 6 w 18) (bv 6 w 12) (bv 6 w 6))
  | 1 => fixed (field w 6 6 = 0 ∧ field w 18 6 = 0) (.tend (bv 6 w 12))
  | 2 => fixed (field w 6 18 = 0) .tyield
  | 3 => fixed (field w 6 18 = 0) .tbank
  | 4 => fixed (field w 6 18 = 0) .gjoin
  | 5 => fixed (field w 6 18 = 0) .gleave
  | 6 => fixed (field w 6 6 = 0) (.trec (bv 6 w 18) (bv 6 w 12))
  | _ => .error .unusedForm

/-- R54: the instruction of a word by its major opcode, with the immediate of a prefix before it. -/
def decodeMajor (pre : Option (BitVec 24)) (w : Nat) : Except DecodeError Instr :=
  match field w 24 6 with
  | 0x01 => decodeAlu w
  | 0x02 => decodeAddi pre w
  | 0x03 => decodeAndi pre w
  | 0x04 => decodeOri pre w
  | 0x05 => decodeXori pre w
  | 0x06 => decodeShi w
  | 0x07 => decodeSlti pre w
  | 0x08 => decodeSltni pre w
  | 0x09 => decodeLui pre w
  | 0x0A => decodePcadd pre w
  | 0x0B => decodeBeq pre w
  | 0x0C => decodeBne pre w
  | 0x0D => decodeBlt pre w
  | 0x0E => decodeBge pre w
  | 0x0F => decodeBltn pre w
  | 0x10 => decodeBgen pre w
  | 0x11 => decodeJal pre w
  | 0x12 => decodeJalr pre w
  | 0x13 => decodeLoop w
  | 0x14 => decodeSys w
  | 0x15 => decodeKreg w
  | 0x16 => decodeLd pre w
  | 0x17 => decodeSt pre w
  | 0x18 => decodeScoped w
  | 0x19 => decodeAmo w
  | 0x1A => decodeAmor w
  | 0x1B => decodeCas w
  | 0x1C => decodeFence w
  | 0x1D => decodeBar w
  | 0x1E => decodeHost w
  | 0x1F => decodeFpu w
  | 0x20 => decodeVinta w
  | 0x21 => decodeVintb w
  | 0x22 => decodeVflta w
  | 0x23 => decodeVunary w
  | 0x24 => decodeVcmp w
  | 0x25 => decodeVsfu w
  | 0x26 => decodeVred w
  | 0x27 => decodeVperm w
  | 0x28 => decodeVbits w
  | 0x29 => decodeVconv w
  | 0x2A => decodeVquant w
  | 0x2B => decodeVslash w
  | 0x2C => decodeVmov w
  | 0x2D => decodeVset w
  | 0x2E => decodeVld w
  | 0x2F => decodeVst w
  | 0x30 => decodeVldx w
  | 0x31 => decodeCpy w
  | 0x32 => decodeTmap w
  | 0x33 => decodeQop w
  | 0x34 => decodeHrank w
  | 0x35 => decodeHslice w
  | 0x36 => decodeHepi w
  | 0x37 => decodeHsfu w
  | 0x38 => decodeHctx w
  | 0x39 => decodeTask w
  | 0x3F => .error .badPrefix
  | _ => .error .reservedMajor

/-- A major that no instruction has (R56). -/
def reservedMajor (major : Nat) : Bool := decide (major = 0 ∨ (0x3A ≤ major ∧ major ≤ 0x3E))

/-- The majors that take a literal prefix (R54). -/
def takesPrefix (major : Nat) : Bool :=
  decide ((0x02 ≤ major ∧ major ≤ 0x05) ∨ (0x07 ≤ major ∧ major ≤ 0x12) ∨ major = 0x16 ∨ major = 0x17)

/-- The slot of an instruction word, prefixed by `pre` where there is one. Before a word that is no instruction it is
that word which is at fault (R52, R56). -/
def decodeSlot (pre : Option (BitVec 24)) (w : BitVec 32) : Except DecodeError Slot :=
  if pre.isSome && !takesPrefix (field w.toNat 24 6) && !reservedMajor (field w.toNat 24 6) then .error .badPrefix
  else
    match decodeMajor pre w.toNat with
    | .error e => .error e
    | .ok i =>
      if i.wf then .ok { p := w.getLsbD 31, c := w.getLsbD 30, instr := i } else .error .reservedField

/-- A word is a literal prefix (R52). -/
def isPrefix (w : BitVec 32) : Bool := decide (field w.toNat 24 6 = 0x3F)

/-- R52: the prefix's own immediate; its P and C bits must be 0. -/
def prefixImm (w : BitVec 32) : Except DecodeError (BitVec 24) :=
  if w.getLsbD 31 || w.getLsbD 30 then .error .badPrefix else .ok (bv 24 w.toNat 0)

/-- The instruction at the head of a list of words, with the words it takes. DEDUCED, log 75. -/
def decodeWords : List (BitVec 32) → Except DecodeError (Slot × Nat)
  | [] => .error .truncated
  | w :: rest =>
    if isPrefix w then
      match prefixImm w with
      | .error e => .error e
      | .ok imm =>
        match rest with
        | [] => .error .truncated
        | v :: _ => (decodeSlot (some imm) v).map (fun s => (s, 2))
    else (decodeSlot none w).map (fun s => (s, 1))

/-- Words from bytes, little-endian (R48). -/
def wordsOf : List Byte → List (BitVec 32)
  | a :: b :: c :: d :: r => (d ++ c ++ b ++ a) :: wordsOf r
  | _ => []

/-- The instruction at the head of a list of bytes, with the bytes after it. -/
def decodeBytes (l : List Byte) : Except DecodeError (Slot × List Byte) :=
  (decodeWords (wordsOf l)).map (fun r => (r.1, l.drop (4 * r.2)))

/-- The instruction of a word numbered as the opcode table numbers it: bit 0 is the least significant bit
of the first word. The bits above `nbits` are zero, up to the longest instruction, of two words. -/
def decodeTableWord (nbits w : Nat) : Option Instr :=
  let x := w % 2 ^ nbits
  let bytes := (List.range 8).map (fun i => BitVec.ofNat 8 (x / 2 ^ (8 * i)))
  match decodeBytes bytes with
  | .ok (s, _) => some s.instr
  | .error _ => none

/-! ### The encoder -/

/-- The prefix an immediate needs, and the field of its word (R53). -/
def Imm.pre {w : Nat} : Imm w → Option (BitVec 24)
  | .short _ => none
  | .long v => some (BitVec.ofNat 24 (v.toNat / 2 ^ w))
def Imm.field {w : Nat} : Imm w → Nat
  | .short v => v.toNat
  | .long v => v.toNat % 2 ^ w

/-- A word from its fixed bits and its fields, each with the place of its lowest bit. -/
def put (base : Nat) (l : List (Nat × Nat)) : Nat := l.foldl (fun x f => x + f.1 * 2 ^ f.2) base

/-- The prefix and the word, but for P and C, of an instruction; none for an event. -/
def encodeBase : Instr → Option (Option (BitVec 24) × Nat)
  | .add d a b => some (none, put 0x01000000 [(d.toNat, 18), (a.toNat, 12), (b.toNat, 6)])
  | .sub d a b => some (none, put 0x01000001 [(d.toNat, 18), (a.toNat, 12), (b.toNat, 6)])
  | .and_ d a b => some (none, put 0x01000002 [(d.toNat, 18), (a.toNat, 12), (b.toNat, 6)])
  | .or_ d a b => some (none, put 0x01000003 [(d.toNat, 18), (a.toNat, 12), (b.toNat, 6)])
  | .xor_ d a b => some (none, put 0x01000004 [(d.toNat, 18), (a.toNat, 12), (b.toNat, 6)])
  | .andn d a b => some (none, put 0x01000005 [(d.toNat, 18), (a.toNat, 12), (b.toNat, 6)])
  | .orn d a b => some (none, put 0x01000006 [(d.toNat, 18), (a.toNat, 12), (b.toNat, 6)])
  | .sll d a b => some (none, put 0x01000007 [(d.toNat, 18), (a.toNat, 12), (b.toNat, 6)])
  | .srl d a b => some (none, put 0x01000008 [(d.toNat, 18), (a.toNat, 12), (b.toNat, 6)])
  | .sra d a b => some (none, put 0x01000009 [(d.toNat, 18), (a.toNat, 12), (b.toNat, 6)])
  | .rol d a b => some (none, put 0x0100000A [(d.toNat, 18), (a.toNat, 12), (b.toNat, 6)])
  | .ror d a b => some (none, put 0x0100000B [(d.toNat, 18), (a.toNat, 12), (b.toNat, 6)])
  | .slt d a b => some (none, put 0x0100000C [(d.toNat, 18), (a.toNat, 12), (b.toNat, 6)])
  | .sltn d a b => some (none, put 0x0100000D [(d.toNat, 18), (a.toNat, 12), (b.toNat, 6)])
  | .min d a b => some (none, put 0x0100000E [(d.toNat, 18), (a.toNat, 12), (b.toNat, 6)])
  | .max d a b => some (none, put 0x0100000F [(d.toNat, 18), (a.toNat, 12), (b.toNat, 6)])
  | .minn d a b => some (none, put 0x01000010 [(d.toNat, 18), (a.toNat, 12), (b.toNat, 6)])
  | .maxn d a b => some (none, put 0x01000011 [(d.toNat, 18), (a.toNat, 12), (b.toNat, 6)])
  | .mul d a b => some (none, put 0x01000012 [(d.toNat, 18), (a.toNat, 12), (b.toNat, 6)])
  | .mulh d a b => some (none, put 0x01000013 [(d.toNat, 18), (a.toNat, 12), (b.toNat, 6)])
  | .mulhn d a b => some (none, put 0x01000014 [(d.toNat, 18), (a.toNat, 12), (b.toNat, 6)])
  | .div d a b => some (none, put 0x01000015 [(d.toNat, 18), (a.toNat, 12), (b.toNat, 6)])
  | .divn d a b => some (none, put 0x01000016 [(d.toNat, 18), (a.toNat, 12), (b.toNat, 6)])
  | .rem d a b => some (none, put 0x01000017 [(d.toNat, 18), (a.toNat, 12), (b.toNat, 6)])
  | .remn d a b => some (none, put 0x01000018 [(d.toNat, 18), (a.toNat, 12), (b.toNat, 6)])
  | .clz d a => some (none, put 0x01000019 [(d.toNat, 18), (a.toNat, 12)])
  | .ctz d a => some (none, put 0x0100001A [(d.toNat, 18), (a.toNat, 12)])
  | .popc d a => some (none, put 0x0100001B [(d.toNat, 18), (a.toNat, 12)])
  | .bext d a b => some (none, put 0x0100001C [(d.toNat, 18), (a.toNat, 12), (b.toNat, 6)])
  | .bdep d a b => some (none, put 0x0100001D [(d.toNat, 18), (a.toNat, 12), (b.toNat, 6)])
  | .sext d a n => some (none, put 0x0100001E [(d.toNat, 18), (a.toNat, 12), (n.toNat, 6)])
  | .zext d a n => some (none, put 0x0100001F [(d.toNat, 18), (a.toNat, 12), (n.toNat, 6)])
  | .addi d a imm => some (imm.pre, put 0x02000000 [(d.toNat, 18), (a.toNat, 12), (imm.field, 0)])
  | .andi d a imm => some (imm.pre, put 0x03000000 [(d.toNat, 18), (a.toNat, 12), (imm.field, 0)])
  | .ori d a imm => some (imm.pre, put 0x04000000 [(d.toNat, 18), (a.toNat, 12), (imm.field, 0)])
  | .xori d a imm => some (imm.pre, put 0x05000000 [(d.toNat, 18), (a.toNat, 12), (imm.field, 0)])
  | .slli d a sh => some (none, put 0x06000000 [(d.toNat, 18), (a.toNat, 12), (sh.toNat, 0)])
  | .srli d a sh => some (none, put 0x06000400 [(d.toNat, 18), (a.toNat, 12), (sh.toNat, 0)])
  | .srai d a sh => some (none, put 0x06000800 [(d.toNat, 18), (a.toNat, 12), (sh.toNat, 0)])
  | .rori d a sh => some (none, put 0x06000C00 [(d.toNat, 18), (a.toNat, 12), (sh.toNat, 0)])
  | .slti d a imm => some (imm.pre, put 0x07000000 [(d.toNat, 18), (a.toNat, 12), (imm.field, 0)])
  | .sltni d a imm => some (imm.pre, put 0x08000000 [(d.toNat, 18), (a.toNat, 12), (imm.field, 0)])
  | .lui d imm => some (imm.pre, put 0x09000000 [(d.toNat, 18), (imm.field, 0)])
  | .pcadd d imm => some (imm.pre, put 0x0A000000 [(d.toNat, 18), (imm.field, 0)])
  | .beq a b off => some (off.pre, put 0x0B000000 [(a.toNat, 18), (b.toNat, 12), (off.field, 0)])
  | .bne a b off => some (off.pre, put 0x0C000000 [(a.toNat, 18), (b.toNat, 12), (off.field, 0)])
  | .blt a b off => some (off.pre, put 0x0D000000 [(a.toNat, 18), (b.toNat, 12), (off.field, 0)])
  | .bge a b off => some (off.pre, put 0x0E000000 [(a.toNat, 18), (b.toNat, 12), (off.field, 0)])
  | .bltn a b off => some (off.pre, put 0x0F000000 [(a.toNat, 18), (b.toNat, 12), (off.field, 0)])
  | .bgen a b off => some (off.pre, put 0x10000000 [(a.toNat, 18), (b.toNat, 12), (off.field, 0)])
  | .jal off => some (off.pre, put 0x11000000 [(off.field, 0)])
  | .jalr d a imm => some (imm.pre, put 0x12000000 [(d.toNat, 18), (a.toNat, 12), (imm.field, 0)])
  | .loop len a stg rote => some (none, put 0x13000000 [(len.toNat, 18), (a.toNat, 12), (stg.toNat, 9), (rote.toNat, 8)])
  | .trap a => some (none, put 0x14000000 [(a.toNat, 12)])
  | .eret => some (none, put 0x14000001 [])
  | .wfe => some (none, put 0x14000002 [])
  | .yield => some (none, put 0x14000003 [])
  | .halt => some (none, put 0x14000004 [])
  | .brk => some (none, put 0x14000005 [])
  | .nop => some (none, put 0x14000006 [])
  | .ifence => some (none, put 0x14000007 [])
  | .kread d k => some (none, put 0x15000000 [(d.toNat, 18), (k.toNat, 0)])
  | .kwrite d k => some (none, put 0x15010000 [(d.toNat, 18), (k.toNat, 0)])
  | .kset d k => some (none, put 0x15020000 [(d.toNat, 18), (k.toNat, 0)])
  | .kclr d k => some (none, put 0x15030000 [(d.toNat, 18), (k.toNat, 0)])
  | .ldb d a off => some (off.pre, put 0x16000000 [(d.toNat, 18), (a.toNat, 12), (off.field, 0)])
  | .ldh d a off => some (off.pre, put 0x16000200 [(d.toNat, 18), (a.toNat, 12), (off.field, 0)])
  | .ldw d a off => some (off.pre, put 0x16000400 [(d.toNat, 18), (a.toNat, 12), (off.field, 0)])
  | .ldd d a off => some (off.pre, put 0x16000600 [(d.toNat, 18), (a.toNat, 12), (off.field, 0)])
  | .ldbn d a off => some (off.pre, put 0x16000800 [(d.toNat, 18), (a.toNat, 12), (off.field, 0)])
  | .ldhn d a off => some (off.pre, put 0x16000A00 [(d.toNat, 18), (a.toNat, 12), (off.field, 0)])
  | .ldwn d a off => some (off.pre, put 0x16000C00 [(d.toNat, 18), (a.toNat, 12), (off.field, 0)])
  | .stb d a off => some (off.pre, put 0x17000000 [(d.toNat, 18), (a.toNat, 12), (off.field, 0)])
  | .sth d a off => some (off.pre, put 0x17000200 [(d.toNat, 18), (a.toNat, 12), (off.field, 0)])
  | .stw d a off => some (off.pre, put 0x17000400 [(d.toNat, 18), (a.toNat, 12), (off.field, 0)])
  | .std d a off => some (off.pre, put 0x17000600 [(d.toNat, 18), (a.toNat, 12), (off.field, 0)])
  | .ldacqb d a scope => some (none, put 0x18000000 [(d.toNat, 18), (a.toNat, 12), (scope.toNat, 6)])
  | .ldacqh d a scope => some (none, put 0x18000200 [(d.toNat, 18), (a.toNat, 12), (scope.toNat, 6)])
  | .ldacqw d a scope => some (none, put 0x18000400 [(d.toNat, 18), (a.toNat, 12), (scope.toNat, 6)])
  | .ldacqd d a scope => some (none, put 0x18000600 [(d.toNat, 18), (a.toNat, 12), (scope.toNat, 6)])
  | .strelb d a scope => some (none, put 0x18000800 [(d.toNat, 18), (a.toNat, 12), (scope.toNat, 6)])
  | .strelh d a scope => some (none, put 0x18000A00 [(d.toNat, 18), (a.toNat, 12), (scope.toNat, 6)])
  | .strelw d a scope => some (none, put 0x18000C00 [(d.toNat, 18), (a.toNat, 12), (scope.toNat, 6)])
  | .streld d a scope => some (none, put 0x18000E00 [(d.toNat, 18), (a.toNat, 12), (scope.toNat, 6)])
  | .amoswap d a b scope => some (none, put 0x19000000 [(d.toNat, 18), (a.toNat, 12), (b.toNat, 6), (scope.toNat, 3)])
  | .amoadd d a b scope => some (none, put 0x19000001 [(d.toNat, 18), (a.toNat, 12), (b.toNat, 6), (scope.toNat, 3)])
  | .amoand d a b scope => some (none, put 0x19000002 [(d.toNat, 18), (a.toNat, 12), (b.toNat, 6), (scope.toNat, 3)])
  | .amoor d a b scope => some (none, put 0x19000003 [(d.toNat, 18), (a.toNat, 12), (b.toNat, 6), (scope.toNat, 3)])
  | .amoxor d a b scope => some (none, put 0x19000004 [(d.toNat, 18), (a.toNat, 12), (b.toNat, 6), (scope.toNat, 3)])
  | .amomax d a b scope => some (none, put 0x19000005 [(d.toNat, 18), (a.toNat, 12), (b.toNat, 6), (scope.toNat, 3)])
  | .amomin d a b scope => some (none, put 0x19000006 [(d.toNat, 18), (a.toNat, 12), (b.toNat, 6), (scope.toNat, 3)])
  | .amomaxn d a b scope => some (none, put 0x19000007 [(d.toNat, 18), (a.toNat, 12), (b.toNat, 6), (scope.toNat, 3)])
  | .amorswap d a b scope => some (none, put 0x1A000000 [(d.toNat, 18), (a.toNat, 12), (b.toNat, 6), (scope.toNat, 3)])
  | .amoradd d a b scope => some (none, put 0x1A000001 [(d.toNat, 18), (a.toNat, 12), (b.toNat, 6), (scope.toNat, 3)])
  | .amorand d a b scope => some (none, put 0x1A000002 [(d.toNat, 18), (a.toNat, 12), (b.toNat, 6), (scope.toNat, 3)])
  | .amoror d a b scope => some (none, put 0x1A000003 [(d.toNat, 18), (a.toNat, 12), (b.toNat, 6), (scope.toNat, 3)])
  | .amorxor d a b scope => some (none, put 0x1A000004 [(d.toNat, 18), (a.toNat, 12), (b.toNat, 6), (scope.toNat, 3)])
  | .amormax d a b scope => some (none, put 0x1A000005 [(d.toNat, 18), (a.toNat, 12), (b.toNat, 6), (scope.toNat, 3)])
  | .amormin d a b scope => some (none, put 0x1A000006 [(d.toNat, 18), (a.toNat, 12), (b.toNat, 6), (scope.toNat, 3)])
  | .amormaxn d a b scope => some (none, put 0x1A000007 [(d.toNat, 18), (a.toNat, 12), (b.toNat, 6), (scope.toNat, 3)])
  | .cas d a b scope => some (none, put 0x1B000000 [(d.toNat, 18), (a.toNat, 12), (b.toNat, 6), (scope.toNat, 3)])
  | .fenceAcq scope => some (none, put 0x1C000001 [(scope.toNat, 3)])
  | .fenceRel scope => some (none, put 0x1C000002 [(scope.toNat, 3)])
  | .fenceAcqrel scope => some (none, put 0x1C000003 [(scope.toNat, 3)])
  | .binit a n => some (none, put 0x1D000000 [(a.toNat, 12), (n.toNat, 0)])
  | .barrive d n => some (none, put 0x1D000200 [(d.toNat, 18), (n.toNat, 0)])
  | .bwait d a n => some (none, put 0x1D000400 [(d.toNat, 18), (a.toNat, 12), (n.toNat, 0)])
  | .bsync d n => some (none, put 0x1D000600 [(d.toNat, 18), (n.toNat, 0)])
  | .bxch d n => some (none, put 0x1D000800 [(d.toNat, 18), (n.toNat, 0)])
  | .btest d n => some (none, put 0x1D000A00 [(d.toNat, 18), (n.toNat, 0)])
  | .bbind a n => some (none, put 0x1D000C00 [(a.toNat, 12), (n.toNat, 0)])
  | .publish d a => some (none, put 0x1E000000 [(d.toNat, 18), (a.toNat, 12)])
  | .pubwait d a b => some (none, put 0x1E000001 [(d.toNat, 18), (a.toNat, 12), (b.toNat, 6)])
  | .fadd d a b z => some (none, put 0x1F000000 [(d.toNat, 18), (a.toNat, 12), (b.toNat, 6), (z.toNat, 4)])
  | .fsub d a b z => some (none, put 0x1F000001 [(d.toNat, 18), (a.toNat, 12), (b.toNat, 6), (z.toNat, 4)])
  | .fmul d a b z => some (none, put 0x1F000002 [(d.toNat, 18), (a.toNat, 12), (b.toNat, 6), (z.toNat, 4)])
  | .fdiv d a b z => some (none, put 0x1F000003 [(d.toNat, 18), (a.toNat, 12), (b.toNat, 6), (z.toNat, 4)])
  | .fsqrt d a z => some (none, put 0x1F000004 [(d.toNat, 18), (a.toNat, 12), (z.toNat, 4)])
  | .fmadd d a b z => some (none, put 0x1F000005 [(d.toNat, 18), (a.toNat, 12), (b.toNat, 6), (z.toNat, 4)])
  | .fmin d a b z => some (none, put 0x1F000006 [(d.toNat, 18), (a.toNat, 12), (b.toNat, 6), (z.toNat, 4)])
  | .fmax d a b z => some (none, put 0x1F000007 [(d.toNat, 18), (a.toNat, 12), (b.toNat, 6), (z.toNat, 4)])
  | .feq d a b z => some (none, put 0x1F000008 [(d.toNat, 18), (a.toNat, 12), (b.toNat, 6), (z.toNat, 4)])
  | .flt d a b z => some (none, put 0x1F000009 [(d.toNat, 18), (a.toNat, 12), (b.toNat, 6), (z.toNat, 4)])
  | .fle d a b z => some (none, put 0x1F00000A [(d.toNat, 18), (a.toNat, 12), (b.toNat, 6), (z.toNat, 4)])
  | .fcvt d a code z => some (none, put 0x1F00000B [(d.toNat, 18), (a.toNat, 12), (code.toNat, 6), (z.toNat, 4)])
  | .fmvg d a z => some (none, put 0x1F00000C [(d.toNat, 18), (a.toNat, 12), (z.toNat, 4)])
  | .fmvf d a z => some (none, put 0x1F00000D [(d.toNat, 18), (a.toNat, 12), (z.toNat, 4)])
  | .fclass d a z => some (none, put 0x1F00000E [(d.toNat, 18), (a.toNat, 12), (z.toNat, 4)])
  | .fsgnj d a b z => some (none, put 0x1F00000F [(d.toNat, 18), (a.toNat, 12), (b.toNat, 6), (z.toNat, 4)])
  | .vadd d a b pr => some (none, put 0x20000000 [(d.toNat, 18), (a.toNat, 12), (b.toNat, 6), (pr.toNat, 3)])
  | .vsub d a b pr => some (none, put 0x20000001 [(d.toNat, 18), (a.toNat, 12), (b.toNat, 6), (pr.toNat, 3)])
  | .vmul d a b pr => some (none, put 0x20000002 [(d.toNat, 18), (a.toNat, 12), (b.toNat, 6), (pr.toNat, 3)])
  | .vmulh d a b pr => some (none, put 0x20000003 [(d.toNat, 18), (a.toNat, 12), (b.toNat, 6), (pr.toNat, 3)])
  | .vmin d a b pr => some (none, put 0x20000004 [(d.toNat, 18), (a.toNat, 12), (b.toNat, 6), (pr.toNat, 3)])
  | .vmax d a b pr => some (none, put 0x20000005 [(d.toNat, 18), (a.toNat, 12), (b.toNat, 6), (pr.toNat, 3)])
  | .vminn d a b pr => some (none, put 0x20000006 [(d.toNat, 18), (a.toNat, 12), (b.toNat, 6), (pr.toNat, 3)])
  | .vmaxn d a b pr => some (none, put 0x20000007 [(d.toNat, 18), (a.toNat, 12), (b.toNat, 6), (pr.toNat, 3)])
  | .vand d a b pr => some (none, put 0x21000000 [(d.toNat, 18), (a.toNat, 12), (b.toNat, 6), (pr.toNat, 3)])
  | .vor d a b pr => some (none, put 0x21000001 [(d.toNat, 18), (a.toNat, 12), (b.toNat, 6), (pr.toNat, 3)])
  | .vxor d a b pr => some (none, put 0x21000002 [(d.toNat, 18), (a.toNat, 12), (b.toNat, 6), (pr.toNat, 3)])
  | .vandn d a b pr => some (none, put 0x21000003 [(d.toNat, 18), (a.toNat, 12), (b.toNat, 6), (pr.toNat, 3)])
  | .vsll d a b pr => some (none, put 0x21000004 [(d.toNat, 18), (a.toNat, 12), (b.toNat, 6), (pr.toNat, 3)])
  | .vsrl d a b pr => some (none, put 0x21000005 [(d.toNat, 18), (a.toNat, 12), (b.toNat, 6), (pr.toNat, 3)])
  | .vsra d a b pr => some (none, put 0x21000006 [(d.toNat, 18), (a.toNat, 12), (b.toNat, 6), (pr.toNat, 3)])
  | .vrol d a b pr => some (none, put 0x21000007 [(d.toNat, 18), (a.toNat, 12), (b.toNat, 6), (pr.toNat, 3)])
  | .vfadd d a b pr => some (none, put 0x22000000 [(d.toNat, 18), (a.toNat, 12), (b.toNat, 6), (pr.toNat, 3)])
  | .vfsub d a b pr => some (none, put 0x22000001 [(d.toNat, 18), (a.toNat, 12), (b.toNat, 6), (pr.toNat, 3)])
  | .vfmul d a b pr => some (none, put 0x22000002 [(d.toNat, 18), (a.toNat, 12), (b.toNat, 6), (pr.toNat, 3)])
  | .vfmin d a b pr => some (none, put 0x22000003 [(d.toNat, 18), (a.toNat, 12), (b.toNat, 6), (pr.toNat, 3)])
  | .vfmax d a b pr => some (none, put 0x22000004 [(d.toNat, 18), (a.toNat, 12), (b.toNat, 6), (pr.toNat, 3)])
  | .vfmacc d a b pr => some (none, put 0x22000005 [(d.toNat, 18), (a.toNat, 12), (b.toNat, 6), (pr.toNat, 3)])
  | .vfnmacc d a b pr => some (none, put 0x22000006 [(d.toNat, 18), (a.toNat, 12), (b.toNat, 6), (pr.toNat, 3)])
  | .vfdiv d a b pr => some (none, put 0x22000007 [(d.toNat, 18), (a.toNat, 12), (b.toNat, 6), (pr.toNat, 3)])
  | .vfsqrt d a pr => some (none, put 0x23000000 [(d.toNat, 18), (a.toNat, 12), (pr.toNat, 3)])
  | .vfabs d a pr => some (none, put 0x23000001 [(d.toNat, 18), (a.toNat, 12), (pr.toNat, 3)])
  | .vfneg d a pr => some (none, put 0x23000002 [(d.toNat, 18), (a.toNat, 12), (pr.toNat, 3)])
  | .vabs d a pr => some (none, put 0x23000003 [(d.toNat, 18), (a.toNat, 12), (pr.toNat, 3)])
  | .vneg d a pr => some (none, put 0x23000004 [(d.toNat, 18), (a.toNat, 12), (pr.toNat, 3)])
  | .vnot d a pr => some (none, put 0x23000005 [(d.toNat, 18), (a.toNat, 12), (pr.toNat, 3)])
  | .vclz d a pr => some (none, put 0x23000006 [(d.toNat, 18), (a.toNat, 12), (pr.toNat, 3)])
  | .vpopc d a pr => some (none, put 0x23000007 [(d.toNat, 18), (a.toNat, 12), (pr.toNat, 3)])
  | .vceq d a b pr => some (none, put 0x24000000 [(d.toNat, 18), (a.toNat, 12), (b.toNat, 6), (pr.toNat, 3)])
  | .vcne d a b pr => some (none, put 0x24000001 [(d.toNat, 18), (a.toNat, 12), (b.toNat, 6), (pr.toNat, 3)])
  | .vclt d a b pr => some (none, put 0x24000002 [(d.toNat, 18), (a.toNat, 12), (b.toNat, 6), (pr.toNat, 3)])
  | .vcle d a b pr => some (none, put 0x24000003 [(d.toNat, 18), (a.toNat, 12), (b.toNat, 6), (pr.toNat, 3)])
  | .vcltn d a b pr => some (none, put 0x24000004 [(d.toNat, 18), (a.toNat, 12), (b.toNat, 6), (pr.toNat, 3)])
  | .vclen d a b pr => some (none, put 0x24000005 [(d.toNat, 18), (a.toNat, 12), (b.toNat, 6), (pr.toNat, 3)])
  | .vcflt d a b pr => some (none, put 0x24000006 [(d.toNat, 18), (a.toNat, 12), (b.toNat, 6), (pr.toNat, 3)])
  | .vcfle d a b pr => some (none, put 0x24000007 [(d.toNat, 18), (a.toNat, 12), (b.toNat, 6), (pr.toNat, 3)])
  | .vexp2 d a pr => some (none, put 0x25000000 [(d.toNat, 18), (a.toNat, 12), (pr.toNat, 3)])
  | .vrcp d a pr => some (none, put 0x25000001 [(d.toNat, 18), (a.toNat, 12), (pr.toNat, 3)])
  | .vrsq d a pr => some (none, put 0x25000002 [(d.toNat, 18), (a.toNat, 12), (pr.toNat, 3)])
  | .vlog2 d a pr => some (none, put 0x25000003 [(d.toNat, 18), (a.toNat, 12), (pr.toNat, 3)])
  | .vtanh d a pr => some (none, put 0x25000004 [(d.toNat, 18), (a.toNat, 12), (pr.toNat, 3)])
  | .vsin d a pr => some (none, put 0x25000005 [(d.toNat, 18), (a.toNat, 12), (pr.toNat, 3)])
  | .vcos d a pr => some (none, put 0x25000006 [(d.toNat, 18), (a.toNat, 12), (pr.toNat, 3)])
  | .verf d a pr => some (none, put 0x25000007 [(d.toNat, 18), (a.toNat, 12), (pr.toNat, 3)])
  | .vrsum d a pr => some (none, put 0x26000000 [(d.toNat, 18), (a.toNat, 12), (pr.toNat, 3)])
  | .vrfsum d a pr => some (none, put 0x26000001 [(d.toNat, 18), (a.toNat, 12), (pr.toNat, 3)])
  | .vrmax d a pr => some (none, put 0x26000002 [(d.toNat, 18), (a.toNat, 12), (pr.toNat, 3)])
  | .vrmin d a pr => some (none, put 0x26000003 [(d.toNat, 18), (a.toNat, 12), (pr.toNat, 3)])
  | .vramax d a pr => some (none, put 0x26000004 [(d.toNat, 18), (a.toNat, 12), (pr.toNat, 3)])
  | .vrand d a pr => some (none, put 0x26000005 [(d.toNat, 18), (a.toNat, 12), (pr.toNat, 3)])
  | .vror d a pr => some (none, put 0x26000006 [(d.toNat, 18), (a.toNat, 12), (pr.toNat, 3)])
  | .vrxor d a pr => some (none, put 0x26000007 [(d.toNat, 18), (a.toNat, 12), (pr.toNat, 3)])
  | .vgather d a b pr => some (none, put 0x27000000 [(d.toNat, 18), (a.toNat, 12), (b.toNat, 6), (pr.toNat, 3)])
  | .vslideup d a b pr => some (none, put 0x27000001 [(d.toNat, 18), (a.toNat, 12), (b.toNat, 6), (pr.toNat, 3)])
  | .vslidedn d a b pr => some (none, put 0x27000002 [(d.toNat, 18), (a.toNat, 12), (b.toNat, 6), (pr.toNat, 3)])
  | .vcompress d a pr => some (none, put 0x27000003 [(d.toNat, 18), (a.toNat, 12), (pr.toNat, 3)])
  | .vexpand d a pr => some (none, put 0x27000004 [(d.toNat, 18), (a.toNat, 12), (pr.toNat, 3)])
  | .vzip d a b pr => some (none, put 0x27000005 [(d.toNat, 18), (a.toNat, 12), (b.toNat, 6), (pr.toNat, 3)])
  | .vunzip d a pr => some (none, put 0x27000006 [(d.toNat, 18), (a.toNat, 12), (pr.toNat, 3)])
  | .vbcast d a b pr => some (none, put 0x27000007 [(d.toNat, 18), (a.toNat, 12), (b.toNat, 6), (pr.toNat, 3)])
  | .vshlw d a b => some (none, put 0x28000000 [(d.toNat, 18), (a.toNat, 12), (b.toNat, 6)])
  | .vshrw d a b => some (none, put 0x28000001 [(d.toNat, 18), (a.toNat, 12), (b.toNat, 6)])
  | .vfunl d a b => some (none, put 0x28000002 [(d.toNat, 18), (a.toNat, 12), (b.toNat, 6)])
  | .vfunr d a b => some (none, put 0x28000003 [(d.toNat, 18), (a.toNat, 12), (b.toNat, 6)])
  | .vrevb d a pr => some (none, put 0x28000004 [(d.toNat, 18), (a.toNat, 12), (pr.toNat, 3)])
  | .vbswap d a pr => some (none, put 0x28000005 [(d.toNat, 18), (a.toNat, 12), (pr.toNat, 3)])
  | .vclzw d a => some (none, put 0x28000006 [(d.toNat, 18), (a.toNat, 12)])
  | .vpopw d a => some (none, put 0x28000007 [(d.toNat, 18), (a.toNat, 12)])
  | .vcvt d a q tag pr => some (none, put 0x29000000 [(d.toNat, 18), (a.toNat, 12), (q.toNat, 11), (tag.toNat, 6), (pr.toNat, 3)])
  | .vcvts d a q tag pr => some (none, put 0x29000001 [(d.toNat, 18), (a.toNat, 12), (q.toNat, 11), (tag.toNat, 6), (pr.toNat, 3)])
  | .vpack d a b pr => some (none, put 0x29000002 [(d.toNat, 18), (a.toNat, 12), (b.toNat, 6), (pr.toNat, 3)])
  | .vunpack d a b pr => some (none, put 0x29000003 [(d.toNat, 18), (a.toNat, 12), (b.toNat, 6), (pr.toNat, 3)])
  | .vretag d a tag => some (none, put 0x29000004 [(d.toNat, 18), (a.toNat, 12), (tag.toNat, 6)])
  | .vdeq d a b pr => some (none, put 0x29000005 [(d.toNat, 18), (a.toNat, 12), (b.toNat, 6), (pr.toNat, 3)])
  | .vqnt d a b pr => some (none, put 0x29000006 [(d.toNat, 18), (a.toNat, 12), (b.toNat, 6), (pr.toNat, 3)])
  | .vround d a pr => some (none, put 0x29000007 [(d.toNat, 18), (a.toNat, 12), (pr.toNat, 3)])
  | .vbamax d a q tag pr => some (none, put 0x2A000000 [(d.toNat, 18), (a.toNat, 12), (q.toNat, 11), (tag.toNat, 6), (pr.toNat, 3)])
  | .vbscale d a q tag pr => some (none, put 0x2A000001 [(d.toNat, 18), (a.toNat, 12), (q.toNat, 11), (tag.toNat, 6), (pr.toNat, 3)])
  | .vbqnt d a q tag pr => some (none, put 0x2A000002 [(d.toNat, 18), (a.toNat, 12), (q.toNat, 11), (tag.toNat, 6), (pr.toNat, 3)])
  | .vdot4s d a b pr => some (none, put 0x2A000003 [(d.toNat, 18), (a.toNat, 12), (b.toNat, 6), (pr.toNat, 3)])
  | .vdot2f d a b pr => some (none, put 0x2A000004 [(d.toNat, 18), (a.toNat, 12), (b.toNat, 6), (pr.toNat, 3)])
  | .vsladd d a b pr => some (none, put 0x2B000000 [(d.toNat, 18), (a.toNat, 12), (b.toNat, 6), (pr.toNat, 3)])
  | .vslsub d a b pr => some (none, put 0x2B000001 [(d.toNat, 18), (a.toNat, 12), (b.toNat, 6), (pr.toNat, 3)])
  | .vslmul d a b pr => some (none, put 0x2B000002 [(d.toNat, 18), (a.toNat, 12), (b.toNat, 6), (pr.toNat, 3)])
  | .vsldiv d a b pr => some (none, put 0x2B000003 [(d.toNat, 18), (a.toNat, 12), (b.toNat, 6), (pr.toNat, 3)])
  | .vslmed d a b pr => some (none, put 0x2B000004 [(d.toNat, 18), (a.toNat, 12), (b.toNat, 6), (pr.toNat, 3)])
  | .vslcvt d a b pr => some (none, put 0x2B000005 [(d.toNat, 18), (a.toNat, 12), (b.toNat, 6), (pr.toNat, 3)])
  | .vslcanon d a pr => some (none, put 0x2B000006 [(d.toNat, 18), (a.toNat, 12), (pr.toNat, 3)])
  | .vslcmp d a b pr => some (none, put 0x2B000007 [(d.toNat, 18), (a.toNat, 12), (b.toNat, 6), (pr.toNat, 3)])
  | .vmv d a pr => some (none, put 0x2C000000 [(d.toNat, 18), (a.toNat, 12), (pr.toNat, 3)])
  | .vsplat d a pr => some (none, put 0x2C000001 [(d.toNat, 18), (a.toNat, 12), (pr.toNat, 3)])
  | .vextg d a b => some (none, put 0x2C000002 [(d.toNat, 18), (a.toNat, 12), (b.toNat, 6)])
  | .vinsg d a b => some (none, put 0x2C000003 [(d.toNat, 18), (a.toNat, 12), (b.toNat, 6)])
  | .vid d pr => some (none, put 0x2C000004 [(d.toNat, 18), (pr.toNat, 3)])
  | .vmovxRead d b => some (none, put 0x2C000005 [(d.toNat, 18), (b.toNat, 6)])
  | .vmovxWrite a b => some (none, put 0x2C00000D [(a.toNat, 12), (b.toNat, 6)])
  | .vmskv d a => some (none, put 0x2C000006 [(d.toNat, 18), (a.toNat, 12)])
  | .vmvp d a => some (none, put 0x2C000007 [(d.toNat, 18), (a.toNat, 12)])
  | .vsetvl d a b => some (none, put 0x2D000000 [(d.toNat, 18), (a.toNat, 12), (b.toNat, 6)])
  | .vcoll d a b => some (none, put 0x2D000001 [(d.toNat, 18), (a.toNat, 12), (b.toNat, 6)])
  | .vldu d a mk mfc => some (none, put 0x2E000000 [(d.toNat, 18), (a.toNat, 12), (mk.toNat, 5), (mfc.toNat, 3)])
  | .vlds d a b mk mfc => some (none, put 0x2E000001 [(d.toNat, 18), (a.toNat, 12), (b.toNat, 6), (mk.toNat, 5), (mfc.toNat, 3)])
  | .vldx d a b mk mfc => some (none, put 0x2E000002 [(d.toNat, 18), (a.toNat, 12), (b.toNat, 6), (mk.toNat, 5), (mfc.toNat, 3)])
  | .vstu d a mk mfc uo => some (none, put 0x2F000000 [(d.toNat, 18), (a.toNat, 12), (mk.toNat, 5), (mfc.toNat, 3), (uo.toNat, 2)])
  | .vsts d a b mk mfc uo => some (none, put 0x2F000001 [(d.toNat, 18), (a.toNat, 12), (b.toNat, 6), (mk.toNat, 5), (mfc.toNat, 3), (uo.toNat, 2)])
  | .vstx d a b mk mfc uo => some (none, put 0x2F000002 [(d.toNat, 18), (a.toNat, 12), (b.toNat, 6), (mk.toNat, 5), (mfc.toNat, 3), (uo.toNat, 2)])
  | .vldtr d a b mk mfc => some (none, put 0x30000000 [(d.toNat, 18), (a.toNat, 12), (b.toNat, 6), (mk.toNat, 5), (mfc.toNat, 3)])
  | .vldwin d a b mk mfc => some (none, put 0x30000001 [(d.toNat, 18), (a.toNat, 12), (b.toNat, 6), (mk.toNat, 5), (mfc.toNat, 3)])
  | .vldz d a b mfc => some (none, put 0x30000002 [(d.toNat, 18), (a.toNat, 12), (b.toNat, 6), (mfc.toNat, 3)])
  | .cpy d a b => some (none, put 0x31000000 [(d.toNat, 18), (a.toNat, 12), (b.toNat, 6)])
  | .cpyt d a b => some (none, put 0x31000001 [(d.toNat, 18), (a.toNat, 12), (b.toNat, 6)])
  | .cpymc d a b => some (none, put 0x31000002 [(d.toNat, 18), (a.toNat, 12), (b.toNat, 6)])
  | .cpyh d a b => some (none, put 0x31000003 [(d.toNat, 18), (a.toNat, 12), (b.toNat, 6)])
  | .cpycancel d a => some (none, put 0x31000004 [(d.toNat, 18), (a.toNat, 12)])
  | .tmset a n => some (none, put 0x32000000 [(a.toNat, 12), (n.toNat, 3)])
  | .tmwalk d n => some (none, put 0x32000001 [(d.toNat, 18), (n.toNat, 3)])
  | .tmstep d a n => some (none, put 0x32000002 [(d.toNat, 18), (a.toNat, 12), (n.toNat, 3)])
  | .qlen d a => some (none, put 0x33000000 [(d.toNat, 18), (a.toNat, 12)])
  | .qflush a => some (none, put 0x33000001 [(a.toNat, 12)])
  | .qpeek d a => some (none, put 0x33000002 [(d.toNat, 18), (a.toNat, 12)])
  | .hrank sel a b => some (none, put 0x34000000 [(sel.toNat, 15), (a.toNat, 9), (b.toNat, 3)])
  | .hranks sel a b => some (none, put 0x34000001 [(sel.toNat, 15), (a.toNat, 9), (b.toNat, 3)])
  | .hrankx sel a b => some (none, put 0x34000002 [(sel.toNat, 15), (a.toNat, 9), (b.toNat, 3)])
  | .hrankg sel a b => some (none, put 0x34000003 [(sel.toNat, 15), (a.toNat, 9), (b.toNat, 3)])
  | .hget sel a => some (none, put 0x35000000 [(sel.toNat, 15), (a.toNat, 9)])
  | .hput sel a => some (none, put 0x35000001 [(sel.toNat, 15), (a.toNat, 9)])
  | .hzero sel tag => some (none, put 0x35000002 [(sel.toNat, 15), (tag.toNat, 3)])
  | .hacc sel a => some (none, put 0x35000003 [(sel.toNat, 15), (a.toNat, 9)])
  | .hbiasc sel a => some (none, put 0x36000000 [(sel.toNat, 15), (a.toNat, 9)])
  | .hbiasr sel a => some (none, put 0x36000001 [(sel.toNat, 15), (a.toNat, 9)])
  | .hscalc sel a => some (none, put 0x36000002 [(sel.toNat, 15), (a.toNat, 9)])
  | .hrelu sel => some (none, put 0x36000003 [(sel.toNat, 15)])
  | .hclamp sel a => some (none, put 0x36000004 [(sel.toNat, 15), (a.toNat, 9)])
  | .hrq sel a tag => some (none, put 0x36000005 [(sel.toNat, 15), (a.toNat, 9), (tag.toNat, 3)])
  | .hsumsq sel a => some (none, put 0x36000006 [(sel.toNat, 15), (a.toNat, 9)])
  | .hnorm sel a => some (none, put 0x36000007 [(sel.toNat, 15), (a.toNat, 9)])
  | .hexp2 sel => some (none, put 0x37000000 [(sel.toNat, 15)])
  | .hrcp sel => some (none, put 0x37000001 [(sel.toNat, 15)])
  | .htanh sel => some (none, put 0x37000002 [(sel.toNat, 15)])
  | .hrsq sel => some (none, put 0x37000003 [(sel.toNat, 15)])
  | .hsave sel a b => some (none, put 0x38000000 [(sel.toNat, 15), (a.toNat, 9), (b.toNat, 3)])
  | .hrest sel a b => some (none, put 0x38000001 [(sel.toNat, 15), (a.toNat, 9), (b.toNat, 3)])
  | .vsave a b => some (none, put 0x38000002 [(a.toNat, 9), (b.toNat, 3)])
  | .vrest a b => some (none, put 0x38000003 [(a.toNat, 9), (b.toNat, 3)])
  | .hdmap sel a => some (none, put 0x38000004 [(sel.toNat, 15), (a.toNat, 9)])
  | .tspawn d a b => some (none, put 0x39000000 [(d.toNat, 18), (a.toNat, 12), (b.toNat, 6)])
  | .tend a => some (none, put 0x39000001 [(a.toNat, 12)])
  | .tyield => some (none, put 0x39000002 [])
  | .tbank => some (none, put 0x39000003 [])
  | .gjoin => some (none, put 0x39000004 [])
  | .gleave => some (none, put 0x39000005 [])
  | .trec d a => some (none, put 0x39000006 [(d.toNat, 18), (a.toNat, 12)])
  | .loopEndIteration .. | .queueTimeout .. | .watchdog .. | .timer .. | .takeInterrupt .. | .trapEntry ..
  | .faultWindowClose .. | .scalarResultWrite .. | .slashResult .. | .scalarLoadReply .. | .atomicResponse ..
  | .vectorGroupWrite .. | .vectorLoadData .. | .sfuCommit .. | .hsfuCommit .. | .latchCommit ..
  | .hoopRowLand .. | .freezeBegin .. | .lateReplyArrival .. | .correctedError .. | .correctionFreezeEnd ..
  | .freezeTimeout .. | .uncorrectableError .. | .bankSwitch .. | .preempt .. | .contextSave ..
  | .contextRestore .. | .wfeWake .. | .barrierWaitRelease .. | .bxchArrival .. | .binitTeamComplete ..
  | .gjoinRendezvous .. | .tyieldRendezvous .. | .pubwaitSatisfied .. | .publishAck .. | .gangBroadcastExecute ..
  | .gangFail .. | .copyLineLand .. | .copyComplete .. | .cpytStart .. | .cpyhStart .. | .lineWrite ..
  | .partialWrite .. | .readRequest .. | .atomicPacket .. | .readReply .. | .atomicOrErrorReply ..
  | .orderAcknowledgement .. | .knotAdvance .. | .knotFrame .. | .beacon .. | .cutAdvance .. | .removalNotice ..
  | .reservedKindFlit .. | .heldPacketRelease .. | .beaconSend .. | .forwardEntryLeave .. | .atomicReplyTimeout ..
  | .knotReset .. | .cutRequest .. | .granulePreserve .. | .snapshotCopierStream .. | .snapshotComplete ..
  | .freqSwitchFreeze .. | .freqSwitchResume .. | .retentionEntry .. | .retentionExit .. | .scrub ..
  | .tinvAsn .. | .tinvVpn .. | .tinvAll .. | .tinvVpnEveryAsn .. | .invalidationComplete .. | .pans ..
  | .prtailWrite .. | .notify .. | .slotMap .. | .slotUnmap .. | .slotWritebackComplete .. | .takeRecord ..
  | .aliasRetire .. | .taskPlace .. | .taskPromote .. | .strandStart .. | .memberStop .. | .addressSpaceDestroy ..
  | .level3 .. | .clock .. | .remove .. | .reset .. | .fwload .. | .snapshot .. | .svnset .. | .wake ..
  | .registerWrite .. | .powerWindow .. | .powerOn .. | .perstPackage .. | .perstLink .. | .firmwareVerify ..
  | .linkTraining .. | .level2Entry .. | .getVersion .. | .getCapabilities .. | .negotiateAlgorithms ..
  | .getDigests .. | .getCertificate .. | .challenge .. | .getMeasurements .. | .hostWrite .. | .hostRead ..
  | .hostCompletionTimeout .. | .rdmaWriteInbound .. | .rdmaReadInbound .. | .rdmaNak .. | .illegalOpcode ..
  | .fetchFault .. | .spawnRecordAccept .. | .fconsWrite .. | .rconsWrite .. | .d3hot .. | .autoNegotiation ..
  | .priorityFlowControl ..
    => none

/-- The words of an instruction with its P and C bits. -/
def encode (s : Slot) : Option (List (BitVec 32)) :=
  match encodeBase s.instr with
  | none => none
  | some (pre, n) =>
    let w := BitVec.ofNat 32 (n + s.p.toNat * 2 ^ 31 + s.c.toNat * 2 ^ 30)
    some (match pre with
      | none => [w]
      | some p => [BitVec.ofNat 32 (0x3F000000 + p.toNat), w])

end

end Sys2Proof
end

