-- ==== Sys2Proof/Machine/Names.lean ====
section
/-! DEFINITION. What an instruction word names: its pipe and class (R54), the registers it reads and writes
(R49, R50, R55), the lane-file entries that its names reach (R21, R134), its row set (R59), and from these the
checks of a pair (R58, R60) and of a convoy (R62 to R66). -/

namespace Sys2Proof.Machine

/-! ### Classes (R54, R58) -/

/-- An issue class: a pipe, with S-ctl apart from S (R58). -/
inductive IssueClass where
  | s | sctl | m | va | vs | vm | hr | he
  deriving DecidableEq, Repr

/-- The major opcode of a word. -/
def majorOf (w : BitVec 32) : Nat := field w.toNat 24 6

/-- R54: the class of an instruction word. DEDUCED, log 16. -/
def classOf (w : BitVec 32) : IssueClass :=
  let mj := majorOf w
  let f3 := field w.toNat 0 3
  if mj ≤ 0x0A then .s
  else if mj ≤ 0x13 then .sctl
  else if mj = 0x14 then (if field w.toNat 0 6 = 6 then .s else .sctl)
  else if mj = 0x15 then .s
  else if mj ≤ 0x1E then .m
  else if mj = 0x1F then .s
  else if mj ≤ 0x24 then .va
  else if mj = 0x25 then .vs
  else if mj = 0x26 then .va
  else if mj ≤ 0x28 then .vs
  else if mj = 0x2A ∧ f3 = 0 then .vs
  else if mj ≤ 0x2D then .va
  else if mj ≤ 0x30 then .vm
  else if mj ≤ 0x33 then .m
  else if mj = 0x34 then .hr
  else if mj ≤ 0x38 then .he
  else .sctl

/-- A vector instruction: a word of the VA, VS or VM pipe (R65). -/
def isVector (w : BitVec 32) : Bool :=
  match classOf w with
  | .va => true
  | .vs => true
  | .vm => true
  | _ => false

/-- A VSFU instruction (R140). -/
def isVsfu (w : BitVec 32) : Bool := majorOf w == 0x25

/-- A vector store (R187). -/
def isVstore (w : BitVec 32) : Bool := majorOf w == 0x2F

/-- A vector or window load. -/
def isVload (w : BitVec 32) : Bool := majorOf w == 0x2E || majorOf w == 0x30

/-! ### Registers (R49, R50, R55) -/

/-- The registers an instruction word names: g, f and p registers by number, and v names, each with whether it
is read whole (R134). -/
structure Names where
  gr : List Nat := []
  gw : List Nat := []
  fr : List Nat := []
  fw : List Nat := []
  pr : List Nat := []
  pw : List Nat := []
  vr : List (Nat × Bool) := []
  vw : List Nat := []
  deriving DecidableEq, Repr

/-- FPU forms (R116, R119). -/
def fpuNames (w : Nat) : Names :=
  let d := field w 18 6
  let a := field w 12 6
  let b := field w 6 6
  let fn := field w 0 4
  if fn = 4 then { fr := [a], fw := [d] }
  else if fn = 5 then { fr := [a, b, d], fw := [d] }
  else if fn ≤ 7 ∨ fn = 15 then { fr := [a, b], fw := [d] }
  else if fn ≤ 10 then { fr := [a, b], gw := [d] }
  else if fn = 11 then
    if b = 1 ∨ b = 2 then { gr := [a], fw := [d] }
    else if 3 ≤ b ∧ b ≤ 5 then { fr := [a], gw := [d] }
    else { fr := [a], fw := [d] }
  else if fn = 13 then { gr := [a], fw := [d] }
  else { fr := [a], gw := [d] }

/-- Vector forms of the VA and VS pipes. -/
def vectorNames (mj w : Nat) : Names :=
  let d := field w 18 6
  let a := field w 12 6
  let b := field w 6 6
  let fn := field w 0 3
  let p := [field w 3 3]
  match mj with
  | 0x20 => { vr := [(a, false), (b, false)], vw := [d], pr := p }
  | 0x21 => { vr := [(a, false), (b, false)], vw := [d], pr := p }
  | 0x22 =>
    { vr := [(a, false), (b, false)] ++ (if fn = 5 ∨ fn = 6 then [(d, false)] else []), vw := [d], pr := p }
  | 0x23 => { vr := [(a, false)], vw := [d], pr := p }
  | 0x24 => { vr := [(a, false), (b, false)], pw := [d], pr := p }
  | 0x25 => { vr := [(a, false)], vw := [d], pr := p }
  | 0x26 => { vr := [(a, false)], gw := [d], pr := p }
  | 0x27 =>
    match fn with
    | 0 => { vr := [(a, true), (b, false)], vw := [d], pr := p }
    | 1 => { vr := [(a, false)], gr := [b], vw := [d], pr := p }
    | 2 => { vr := [(a, true)], gr := [b], vw := [d], pr := p }
    | 4 => { vr := [(a, false)], vw := [d], pr := p }
    | 5 => { vr := [(a, false), (b, false)], vw := [d], pr := p }
    | 7 => { vr := [(a, true)], gr := [b], vw := [d], pr := p }
    | _ => { vr := [(a, true)], vw := [d], pr := p }
  | 0x28 =>
    if fn ≤ 1 then { vr := [(a, true)], gr := [b], vw := [d] }
    else if fn ≤ 3 then { vr := [(a, true), (d, true)], gr := [b], vw := [d] }
    else { vr := [(a, decide (6 ≤ fn))], vw := [d], pr := p }
  | 0x29 =>
    match fn with
    | 2 => { vr := [(a, true), (b, true)], vw := [d], pr := p }
    | 3 => { vr := [(a, true)], gr := [b], vw := [d], pr := p }
    | 4 => { vr := [(a, false)], vw := [d] }
    | 5 => { vr := [(a, false), (b, true), (d, false)], vw := [d], pr := p }
    | 6 => { vr := [(a, false), (b, true), (d, false)], vw := [d], pr := p }
    | _ => { vr := [(a, false)], vw := [d], pr := p }
  | 0x2A =>
    if 3 ≤ fn then { vr := [(a, false), (b, false), (d, false)], vw := [d], pr := p }
    else { vr := [(a, decide (fn = 0))], vw := [d], pr := p }
  | 0x2B =>
    match fn with
    | 5 => { vr := [(a, false)], gr := [b], vw := [d], pr := p }
    | 6 => { vr := [(a, false)], vw := [d], pr := p }
    | _ => { vr := [(a, false), (b, false)], vw := [d], pr := p }
  | 0x2C =>
    match fn with
    | 0 => { vr := [(a, false)], vw := [d], pr := p }
    | 1 => { gr := [a], vw := [d], pr := p }
    | 2 => { vr := [(a, true)], gr := [b], gw := [d] }
    | 3 => { gr := [a, b], vw := [d] }
    | 4 => { vw := [d], pr := p }
    | 5 => if p = [0] then { gr := [b], vw := [d] } else { gr := [b], vr := [(a, true)] }
    | 6 => { pr := [a], vw := [d] }
    | _ => { vr := [(a, true)], pw := [d] }
  | _ => { gr := [a, b], gw := [d] }

/-- Vector memory forms (R184): MK reads p7. -/
def vmemNames (mj w : Nat) : Names :=
  let d := field w 18 6
  let a := field w 12 6
  let b := field w 6 6
  let fn := field w 0 2
  let p := if field w 5 1 = 1 then [7] else []
  match mj with
  | 0x2E =>
    match fn with
    | 0 => { gr := [a], vw := [d], pr := p }
    | 1 => { gr := [a, b], vw := [d], pr := p }
    | _ => { gr := [a], vr := [(b, false)], vw := [d], pr := p }
  | 0x2F =>
    match fn with
    | 0 => { gr := [a], vr := [(d, false)], pr := p }
    | 1 => { gr := [a, b], vr := [(d, false)], pr := p }
    | _ => { gr := [a], vr := [(d, false), (b, false)], pr := p }
  | _ =>
    match fn with
    | 1 => { gr := [a, b], vr := [(d, false)], vw := [d], pr := p }
    | 2 => { gr := [a, b], gw := [b], vw := [d] }
    | _ => { gr := [a, b], vw := [d], pr := p }

/-- The registers of a word, prefix apart. -/
def namesOf (w32 : BitVec 32) : Names :=
  let w := w32.toNat
  let mj := field w 24 6
  let d := field w 18 6
  let a := field w 12 6
  let b := field w 6 6
  let fn := field w 0 6
  let ha := field w 9 6
  let hb := field w 3 6
  if mj = 0x01 then
    { gr := if fn = 28 ∨ fn = 29 ∨ fn < 25 then [a, b] else [a], gw := [d] }
  else if mj ≤ 0x08 then { gr := [a], gw := [d] }
  else if mj ≤ 0x0A then { gw := [d] }
  else if mj ≤ 0x10 then { gr := [d, a] }
  else if mj = 0x11 then { gw := [1] }
  else if mj = 0x12 then { gr := [a], gw := [d] }
  else if mj = 0x13 then { gr := [a] }
  else if mj = 0x14 then { gr := if fn = 0 then [a] else [] }
  else if mj = 0x15 then (if field w 16 2 = 0 then { gw := [d] } else { gr := [d] })
  else if mj = 0x16 then { gr := [a], gw := [d] }
  else if mj = 0x17 then { gr := [a, d] }
  else if mj = 0x18 then (if field w 11 1 = 0 then { gr := [a], gw := [d] } else { gr := [a, d] })
  else if mj ≤ 0x1A then { gr := [a, b], gw := [d] }
  else if mj = 0x1B then { gr := [a, b, d], gw := [d] }
  else if mj = 0x1C then {}
  else if mj = 0x1D then
    match field w 9 3 with
    | 0 => { gr := [a] }
    | 2 => { gr := [a], gw := [d] }
    | 6 => { gr := [a] }
    | _ => { gw := [d] }
  else if mj = 0x1E then { gr := [a, b], gw := [d] }
  else if mj = 0x1F then fpuNames w
  else if mj ≤ 0x2D then vectorNames mj w
  else if mj ≤ 0x30 then vmemNames mj w
  else if mj = 0x31 then { gr := if field w 0 3 = 4 then [a] else [a, b], gw := [d] }
  else if mj = 0x32 then
    match field w 0 3 with
    | 0 => { gr := [a] }
    | 1 => { vw := [d] }
    | _ => { gr := [a], gw := [d] }
  else if mj = 0x33 then { gr := [a], gw := if fn = 1 then [] else [d] }
  else if mj = 0x34 then { vr := [(ha, true), (hb, true)] }
  else if mj = 0x35 then
    match field w 0 3 with
    | 0 => { vw := [ha] }
    | 2 => {}
    | _ => { vr := [(ha, true)] }
  else if mj = 0x36 then
    match field w 0 3 with
    | 3 => {}
    | 6 => { vw := [ha] }
    | _ => { vr := [(ha, true)] }
  else if mj = 0x37 then {}
  else if mj = 0x38 then (if field w 0 3 = 4 then { gw := [ha] } else { gr := [ha, hb] })
  else
    match fn with
    | 0 => { gr := [a, b], gw := [d] }
    | 1 => { gr := [a] }
    | 6 => { gr := [a], gw := [d] }
    | _ => {}

/-- g0 and p0 are constants: no instruction depends on them (R17, R20). -/
def Names.live (l : List Nat) : List Nat := l.filter (fun n => n != 0)

/-! ### Lane-file entries (R21, R148) -/

/-- The entries among references. -/
def entriesOf (l : List VRef) : List Nat :=
  l.filterMap (fun r => match r with
    | .entry e => some e
    | .queue _ => none)

/-- The queues among references. -/
def queuesOf (l : List VRef) : List Nat :=
  l.filterMap (fun r => match r with
    | .entry _ => none
    | .queue q => some q)

/-- `vmovx`, which reaches one more entry through g[b] (R148). -/
def isVmovx (w : BitVec 32) : Bool := majorOf w == 0x2C && field w.toNat 0 3 == 5

/-- The sources that a word names, by reference, each with whether it is read whole. -/
def Ctx.sources (c : Ctx) (w : BitVec 32) : List (VRef × Bool) :=
  let n := namesOf w
  n.vr.map (fun v => (c.vref v.1, v.2))
    ++ (if isVmovx w && field w.toNat 3 3 == 0 then [(.entry (bits (c.gAt (field w.toNat 6 6)) 7 0), true)] else [])

/-- The destinations of a word by reference. -/
def Ctx.targets (c : Ctx) (w : BitVec 32) : List VRef :=
  let n := namesOf w
  let d := if majorOf w == 0x30 && field w.toNat 0 2 == 1 then
      (List.range (bits (c.gAt (field w.toNat 6 6)) 18 16 + 1)).map (fun i => field w.toNat 18 6 + i)
    else n.vw
  d.map c.vref
    ++ (if isVmovx w && field w.toNat 3 3 != 0 then [.entry (bits (c.gAt (field w.toNat 6 6)) 7 0)] else [])

/-! ### Row sets (R59) -/

/-- R157: the restartable forms, whose row set begins at HCUR.ROW. -/
def isRestartable (w : BitVec 32) : Bool :=
  let f3 := field w.toNat 0 3
  (majorOf w == 0x35 && f3 == 2) || (majorOf w == 0x36 && f3 != 6) || (majorOf w == 0x38 && decide (f3 ≤ 1))

/-- The rows a Hoop word reads or writes; none outside the Hoop, and for a form that fails its own checks. Those of a
restartable form are cut to the rows from HCUR.ROW upward (R152). -/
def State.rowSet (s : State) (w : BitVec 32) : List Nat :=
  let mj := majorOf w
  let sel : BitVec 9 := BitVec.ofNat 9 (field w.toNat 15 9)
  let f3 := field w.toNat 0 3
  let region (full : Bool) : List Nat := match s.regionRows sel full with
    | .ok l => if isRestartable w then l.filter (fun r => decide (s.ctx.hcurRow ≤ r)) else l
    | .error _ => []
  if mj = 0x34 ∨ mj = 0x36 ∨ mj = 0x37 then region false
  else if mj = 0x35 then
    if f3 = 2 then region false
    else match sliceRow sel with
      | some r => [r]
      | none => List.range s.ctx.hRows
  else if mj = 0x38 ∧ f3 ≤ 1 then region true
  else []

/-! ### Names that data gives (R161, R174) -/

/-- R174: the entries that `vsave` or `vrest` moves, from VSTART upward: for a save those that are dirty or have a
write pending, or every one under FULL (R242). -/
def State.movedEntries (s : State) (w : BitVec 32) : List Nat :=
  let l := (List.range s.ctx.lfSize).filter (fun e => decide (s.ctx.vsn ≤ e))
  if field w.toNat 0 3 = 3 ∨ bit (s.ctx.gAt (field w.toNat 3 6)) 0 = true then l
  else l.filter (fun e => s.ctx.dirty.getLsbD e || s.ctx.live.any (fun x => match x.kind with
    | .sfuEntry n => n == e
    | .bamax n => n == e
    | _ => false))

/-- R161: the B entries of the groups from 1 upward of a grouped rank update, as its descriptor counts them: none
where the first group's entry is not there yet. -/
def State.groupRefs (s : State) (w : BitVec 32) : List VRef :=
  let a := s.ctx.vref (field w.toNat 9 6)
  let b := s.ctx.vref (field w.toNat 3 6)
  let first : Option Entry := match b with
    | .entry e => some (s.entry e)
    | .queue q => if a = b then (s.queue q)[1]? else (s.queue q)[0]?
  match first with
  | none => []
  | some d => ((List.range (elem 8 d.data 512 % 8 + 1)).drop 1).map (fun g => s.ctx.vref (groupName (field w.toNat 3 6) g))

/-- Every source of a word, with those that its data names: the further B entries of `hrankg` (R161) and the entries
that `vsave` reads (R174). -/
def State.readsOf (s : State) (w : BitVec 32) : List (VRef × Bool) :=
  s.ctx.sources w
    ++ (if majorOf w = 0x34 ∧ field w.toNat 0 3 = 3 then (s.groupRefs w).map (fun r => (r, true)) else [])
    ++ (if majorOf w = 0x38 ∧ field w.toNat 0 3 = 2 then (s.movedEntries w).map (fun e => (VRef.entry e, false)) else [])

/-- Every destination of a word, with the entries that `vrest` writes (R174). -/
def State.writesOf (s : State) (w : BitVec 32) : List VRef :=
  s.ctx.targets w ++ (if majorOf w = 0x38 ∧ field w.toNat 0 3 = 3 then (s.movedEntries w).map VRef.entry else [])

/-- Two row sets share no row. -/
def rowsApart (a b : List Nat) : Bool := !a.any (fun r => b.contains r)

/-! ### Pairs (R58, R60) -/

/-- The P and C bits of a word (R48). -/
def bitP (w : BitVec 32) : Bool := w.getLsbD 31
def bitC (w : BitVec 32) : Bool := w.getLsbD 30

/-- R60: the lowest reason for which a pair is illegal. DEDUCED, log 16. -/
def State.pairReason (s : State) (w1 w2 : BitVec 32) : Option Nat :=
  let a := classOf w1
  let b := classOf w2
  let hoop := (a == .he && b == .he) || (a == .hr && b == .he) || (a == .he && b == .hr)
  if a = b ∧ a ≠ .he then some 1
  else if hoop && !rowsApart (s.rowSet w1) (s.rowSet w2) then some 2
  else if (a = .m ∧ b = .vm) ∨ (a = .vm ∧ b = .m) then some 3
  else if a = .sctl then some 4
  else if bitP w2 then some 5
  else if bitC w1 then some 6
  else none

/-! ### Convoys (R62 to R66) -/

/-- The record of an instruction in its convoy. -/
def State.issued (s : State) (off : Nat) (w : BitVec 32) (i : Instr) : Issued :=
  { off := off, word := w, instr := i, reads := entriesOf ((s.readsOf w).map (fun x => x.1))
    writes := entriesOf (s.writesOf w)
    whole := entriesOf (((s.readsOf w).filter (fun x => x.2)).map (fun x => x.1)) }

/-- The predicates a word reads and writes, p0 apart. -/
def predReads (w : BitVec 32) : List Nat := Names.live ((namesOf w).pr.map (fun p => p % 8))
def predWrites (w : BitVec 32) : List Nat := Names.live ((namesOf w).pw.map (fun p => p % 8))

/-- R65: instruction x chains on the earlier instruction y. -/
def Issued.chainsOn (x y : Issued) : Bool :=
  isVector y.word && !isVsfu y.word
    && (x.reads.any (fun e => y.writes.contains e) || (predReads x.word).any (fun p => (predWrites y.word).contains p))

/-- An instruction of a list chains on an earlier one. -/
def chainedIn : List Issued → List Issued → Bool
  | _, [] => false
  | before, x :: rest => before.any (fun y => x.chainsOn y) || chainedIn (before ++ [x]) rest

/-- R65: what a chained convoy may hold: vector instructions but VSFU, VRED, VSET, `vldz` and those that name a
queue port, and S instructions of majors 0x01 to 0x0A; a branch of majors 0x0B to 0x10 only at its end, where
R63 puts it. -/
def mayChain (c : Ctx) (x : Issued) : Bool :=
  let mj := majorOf x.word
  let ports := queuesOf ((c.sources x.word).map (fun r => r.1) ++ c.targets x.word)
  if isVector x.word then
    !(mj == 0x25 || mj == 0x26 || mj == 0x2D || (mj == 0x30 && field x.word.toNat 0 2 == 2)) && ports.isEmpty
  else decide (mj ≤ 0x10)

/-- R134 and R159: an instruction reads whole an entry or a predicate that an earlier instruction of its convoy
writes. Outside the Hoop chapter an earlier VSFU instruction does not count, since the read sees what the entry held
before it (R143). DEDUCED, log 124. -/
def readsWhole (before : List Issued) (x : Issued) : Bool :=
  let preds := if majorOf x.word == 0x2C && field x.word.toNat 0 3 == 6 then predReads x.word else []
  let hoop := decide (0x34 ≤ majorOf x.word ∧ majorOf x.word ≤ 0x38)
  before.any (fun y => (hoop || !isVsfu y.word)
    && (x.whole.any (fun e => y.writes.contains e) || preds.any (fun p => (predWrites y.word).contains p)))

/-- R187 and R399: a store with BSCALE, or one that takes the staging path, which does not chain on its source. -/
def State.wholeStore (s : State) (x : Issued) : Bool :=
  let f := s.ctx.mfc.getD (field x.word.toNat 3 2) 0
  isVstore x.word && bit f 15 && (bit f 12 || bit f 13 || decide (s.pkg.mgmt.level = 2))

/-- Such a store's source is written by an earlier instruction of its convoy. -/
def State.scaledChains (s : State) (before : List Issued) (x : Issued) : Bool :=
  s.wholeStore x && before.any (fun y => isVector y.word && !isVsfu y.word
    && (entriesOf [s.ctx.vref (field x.word.toNat 18 6)]).any (fun e => y.writes.contains e))

/-- R65: an instruction writes a register that it reads itself, or that an earlier one of the convoy reads. -/
def sourceBroken (before : List Issued) (x : Issued) : Bool :=
  let all := before ++ [x]
  let nx := namesOf x.word
  let hit (w : List Nat) (r : Names → List Nat) : Bool := all.any (fun y => (Names.live w).any (fun k => (r (namesOf y.word)).contains k))
  hit nx.gw Names.gr || (nx.fw.any (fun k => all.any (fun y => (namesOf y.word).fr.contains k)))
    || (predWrites x.word).any (fun p => all.any (fun y => (predReads y.word).contains p))
    || x.writes.any (fun e => all.any (fun y => y.reads.contains e))

/-- The first instruction of a list that breaks the source condition exists. -/
def sourcesBroken : List Issued → List Issued → Bool
  | _, [] => false
  | before, x :: rest => sourceBroken before x || sourcesBroken (before ++ [x]) rest

/-- R62: two instructions that may not stand in one convoy: of one pipe other than S. A legal HE pair counts as
one instruction, so a pair's second HE does not count against its first. -/
def samePipe (a b : IssueClass) : Bool := a == b && a != .s && a != .sctl

/-- The last word of the active loop's body (R63). -/
def Ctx.endsBody (c : Ctx) (a : Word) : Bool :=
  bit c.lc 42 && (a == c.first + word (4 * bits c.lc 37 32) - 4)

/-- R66: why the convoy `before` fails at instruction x; `partner` is the first instruction of x's own pair, `at_` the
address of x's word, and `pre` says that a literal prefix stands before it. -/
def State.convoyReason (s : State) (before : List Issued) (partner : Option Issued) (x : Issued) (at_ : Word)
    (pre : Bool) : Option Nat :=
  let c := s.ctx
  let all := before ++ partner.toList ++ [x]
  let hePair : Bool := match partner with
    | some y => classOf y.word == .he && classOf x.word == .he
    | none => false
  let others := if hePair then before else before ++ partner.toList
  let chained := chainedIn [] all
  if 16 ≤ x.off then some 1
  else if others.any (fun y => samePipe (classOf y.word) (classOf x.word)) then some 2
  else if readsWhole (before ++ partner.toList) x || s.scaledChains (before ++ partner.toList) x
      || (chained && all.any (fun y => !mayChain c y)) then some 3
  else if chained && sourcesBroken [] all then some 4
  -- a prefix, whose C bit is 0 (R52), may not be the last word of a loop body
  else if ((classOf x.word == .sctl || c.endsBody at_) && !bitC x.word) || (pre && c.endsBody (at_ - 4)) then some 5
  else none

end Sys2Proof.Machine
end

