-- ==== Sys2Proof/Machine/Timing.lean ====
section
/-! DEFINITION. When a pair issues and when its results land (R96, R121, R132, R135, R155, R156, R178, R190,
R217, R241 to R243, R265, R396). The meanings form every result at issue; the board keeps what the scoreboards
would hold back, so that a later pair issues in the cycle the manual gives and the exposed results of R143,
R170 and R228 are seen, or not yet seen, as the manual says. -/

namespace Sys2Proof.Machine

/-! ### What an instruction waits for -/

/-- R242: the instructions that may issue while a fault window is open. DEDUCED, log 27. -/
def Ctx.runaheadSafe (c : Ctx) (w : BitVec 32) : Bool :=
  let mj := majorOf w
  let ports := queuesOf ((c.sources w).map (fun r => r.1) ++ c.targets w)
  if mj ≤ 0x12 then true
  else if mj = 0x1F then c.enables == 0
  else
    match classOf w with
    | .va => ports.isEmpty && mj != 0x2D && !(mj == 0x2A && field w.toNat 0 3 == 1)
    | .vs => ports.isEmpty && mj != 0x25 && mj != 0x2A
    | _ => false

/-- R396: an FPU instruction that rounds to a slash tag. -/
def Ctx.scalarSlash (c : Ctx) (w : BitVec 32) : Bool :=
  majorOf w == 0x1F && (match field w.toNat 0 4 with
    | 0 | 1 | 2 | 3 | 4 | 5 => c.rat
    | 11 => field w.toNat 6 6 == 6 || (c.rat && field w.toNat 6 6 ≤ 2)
    | _ => false)

/-- A vector instruction on slash tags (R235). -/
def State.vectorSlash (s : State) (w : BitVec 32) : Bool :=
  majorOf w == 0x2B || ((majorOf w == 0x22 || majorOf w == 0x23)
    && (s.ctx.sources w).any (fun r => isSlash (s.tagOf r.1)))

/-- R25: what the named v sources of a word hold, in operand order, each pop of a
queue giving its next entry. -/
def State.operands (s : State) (l : List Nat) : List Entry :=
  (l.foldl (fun (acc : List Entry × State) n =>
    match acc.2.takeV (BitVec.ofNat 6 n) with
    | .ok (e, u) => (acc.1 ++ [e], u)
    | .error _ => (acc.1 ++ [Entry.zero], acc.2)) ([], s)).1

/-- R91 and R235: n of element i of a vector slash word; 0 for a result that is exact and for the forms that do not
round. -/
def State.slashSteps (s : State) (w : BitVec 32) (i : Nat) : Nat :=
  let l := s.operands ((namesOf w).vr.map (fun r => r.1))
  let t := (l.headD Entry.zero).tag
  let wide := decide (t = tSL64)
  let x (k : Nat) : Nat := elem (tagWidth t) (l.getD k Entry.zero).data i
  let m := s.ctx.rm
  match majorOf w, field w.toNat 0 3 with
  | 0x2B, 0 => slashArithSteps .add wide (x 0) (x 1) m
  | 0x2B, 1 => slashArithSteps .sub wide (x 0) (x 1) m
  | 0x2B, 2 => slashArithSteps .mul wide (x 0) (x 1) m
  | 0x2B, 3 => slashArithSteps .div wide (x 0) (x 1) m
  | 0x2B, 4 => halfUp (slashRound wide (slashMediant (slashDecode wide (x 0)).1 (slashDecode wide (x 1)).1).1 m).2.2
  | 0x2B, 5 => halfUp (slashRoundB (decide (t = tF64 ∨ t = tSL64)) (s.ctx.gAt (field w.toNat 6 6)).toNat
      (valueOf t false (x 0)).1 m).2.2
  | 0x22, 0 => slashArithSteps .add wide (x 0) (x 1) m
  | 0x22, 1 => slashArithSteps .sub wide (x 0) (x 1) m
  | 0x22, 2 => slashArithSteps .mul wide (x 0) (x 1) m
  | 0x22, 5 => slashFusedSteps false wide (x 0) (x 1) (x 2) m
  | 0x22, 6 => slashFusedSteps true wide (x 0) (x 1) (x 2) m
  | 0x22, 7 => slashArithSteps .div wide (x 0) (x 1) m
  | 0x23, 0 => slashSqrtSteps wide (x 0) m
  | _, _ => 0

/-- R235: the cycles for which a lane of the slash unit works on a vector slash word: 1 + 2n for each processed
element of its own. -/
def State.laneTime (s : State) (w : BitVec 32) (lane : Nat) : Nat :=
  let t := ((s.operands ((namesOf w).vr.map (fun r => r.1))).headD Entry.zero).tag
  let n := s.count (if t = tF64 ∨ t = tSL64 then 64 else 32)
  let pr : BitVec 3 := BitVec.ofNat 3 (field w.toNat 3 3)
  (((List.range (n / 16 + 1)).map (fun k => 16 * k + lane)).filter (fun i =>
    decide (s.ctx.vsn ≤ i) && decide (i < n) && s.active pr i)).foldl (fun m i => m + 1 + 2 * s.slashSteps w i) 0

/-- R235: T, the largest total over the 16 lanes, and at least 1. -/
def State.slashTime (s : State) (w : BitVec 32) : Nat :=
  (List.range 16).foldl (fun m l => Nat.max m (s.laneTime w l)) 1

/-- R91 and R121: n of an FPU instruction that rounds to a slash tag. -/
def State.fpuSteps (s : State) (w : BitVec 32) : Nat :=
  let z : BitVec 1 := BitVec.ofNat 1 (field w.toNat 4 1)
  let wide := decide (z = 1)
  let f (at_ : Nat) : Nat := s.fsrc z (BitVec.ofNat 5 (field w.toNat at_ 6))
  let m := s.ctx.rm
  let to_ (v : Val) : Nat := halfUp (slashRound wide v m).2.2
  match field w.toNat 0 4 with
  | 0 => slashArithSteps .add wide (f 12) (f 6) m
  | 1 => slashArithSteps .sub wide (f 12) (f 6) m
  | 2 => slashArithSteps .mul wide (f 12) (f 6) m
  | 3 => slashArithSteps .div wide (f 12) (f 6) m
  | 4 => slashSqrtSteps wide (f 12) m
  | 5 => slashFusedSteps false wide (f 12) (f 6) (f 18) m
  | 11 =>
    match field w.toNat 6 6 with
    | 0 => to_ (slashDecode (!wide) (s.fsrc (1 - z) (BitVec.ofNat 5 (field w.toNat 12 6)))).1
    | 1 => to_ (Val.ofInt (s.ctx.gAt (field w.toNat 12 6)).toInt)
    | 2 => to_ (Val.ofInt (s.ctx.gAt (field w.toNat 12 6)).toNat)
    | 6 => to_ (valueOf (fpTag false z) false (f 12)).1
    | _ => 0
  | _ => 0

/-- The k-register a KREG word names; none for other words. -/
def kregOf (w : BitVec 32) : Option Nat := if majorOf w = 0x15 then some (field w.toNat 0 12) else none

/-- R36: a form that can record a flag for some operand values. DEDUCED, log 17. -/
def recordsFlag (w : BitVec 32) : Bool :=
  let mj := majorOf w
  let f3 := field w.toNat 0 3
  match mj with
  | 0x1F => let fn := field w.toNat 0 4; !(fn == 12 || fn == 13 || fn == 15)
  | 0x22 => true
  | 0x23 => f3 == 0
  | 0x24 => !(decide (2 ≤ f3) && decide (f3 ≤ 5))
  | 0x25 => true
  | 0x26 => decide (1 ≤ f3) && decide (f3 ≤ 4)
  | 0x29 => f3 != 4
  | 0x2A => true
  | 0x2B => true
  | 0x2E => true
  | 0x2F => true
  | 0x30 => field w.toNat 0 2 != 2
  | 0x34 => true
  | 0x35 => f3 == 3
  | 0x36 => f3 != 3
  | 0x37 => true
  | _ => false

/-- R36: a form that can count a saturation; all but `fcvt` can count an underflow too. DEDUCED, log 17. -/
def countsEvent (w : BitVec 32) : Bool :=
  let f3 := field w.toNat 0 3
  match majorOf w with
  | 0x1F => field w.toNat 0 4 == 11
  | 0x29 => f3 == 0 || f3 == 1 || f3 == 2 || f3 == 6
  | 0x2A => f3 == 2
  | 0x2E => true
  | 0x2F => true
  | 0x30 => field w.toNat 0 2 != 2
  | 0x36 => f3 == 5
  | _ => false

/-- R36 and R157: the k-registers a form can change, as the board names them. DEDUCED, log 17. -/
def changesOf (w : BitVec 32) : List Res :=
  let mj := majorOf w
  let f3 := field w.toNat 0 3
  (if recordsFlag w then [.acr] else [])
    ++ (if countsEvent w then (if mj = 0x1F then [.satcnt] else [.satcnt, .undcnt]) else [])
    ++ (if mj = 0x2A ∧ f3 = 0 then [.amaxk] else [])
    ++ (if 0x20 ≤ mj ∧ mj ≤ 0x30 ∨ mj = 0x38 ∧ (f3 = 2 ∨ f3 = 3) then [.vstart] else [])
    ++ (if mj = 0x35 ∧ f3 = 2 ∨ mj = 0x36 ∧ f3 ≠ 6 ∨ mj = 0x38 ∧ f3 ≤ 1 then [.hcur] else [])

/-- R36 and R115: a KREG word waits for everything that can change the k-register: a read of one of six, and a
write of one of three. DEDUCED, log 17. -/
def kregWaits (w : BitVec 32) (r : Res) : Bool :=
  match kregOf w with
  | none => false
  | some k =>
    let reads := field w.toNat 16 2 == 0
    match r with
    | .acr => k == 0x008
    | .satcnt => k == 0x015
    | .undcnt => k == 0x016
    | .vstart => reads && k == 0x001
    | .hcur => reads && k == 0x002
    | .amaxk => reads && k == 0x014
    | _ => false

/-- R36: a KREG word waits for the commit of a shadow result of a form that can change its register.
DEDUCED, log 17. -/
def shadowChanges (w : BitVec 32) (k : ShadowKind) : Bool :=
  kregWaits w .acr || (match k with
    | .hsfu _ => false
    | .sfuEntry _ => kregWaits w .vstart
    | .sfuQueue _ => kregWaits w .vstart
    | .bscale => kregWaits w .vstart
    | _ => kregWaits w .vstart || kregWaits w .amaxk)

/-- A rank instruction, whose rows a later one need not wait for (R155). -/
def isRank (w : BitVec 32) : Bool := majorOf w == 0x34

/-- R175: an `hdmap` of the rank status word, which waits for every earlier rank form to land. -/
def readsRankStatus (w : BitVec 32) : Bool :=
  majorOf w == 0x38 && field w.toNat 0 3 == 4 && decide (field w.toNat 15 9 < 2)

/-- The pipes of a class (R54). -/
def pipesOf : IssueClass → List Res
  | .va => [.pipeVA]
  | .vs => [.pipeVS]
  | .vm => [.pipeVM]
  | .hr => [.pipeHR]
  | _ => []

/-- A later instruction whose word is w waits for this board entry; `chains` says that w reads the entry or
predicate in a chain of its own convoy. DEDUCED, log 27. -/
def State.holdsWord (s : State) (w : BitVec 32) (rows : List Nat) (safe chains : Bool) (b : Busy) : Bool :=
  let n := namesOf w
  let refs := (s.readsOf w).map (fun r => r.1)
  let outs := s.writesOf w
  match b.res with
  | .g k => n.gr.contains k || n.gw.contains k
  | .f k => n.fr.contains k || n.fw.contains k
  | .p k => (predWrites w).contains k || ((predReads w).contains k && !chains)
  | .lane e => (entriesOf outs).contains e || ((entriesOf refs).contains e && !chains)
  | .read e => (entriesOf outs).contains e
  | .row r => (rows.contains r && !(isRank w && b.width == 1)) || (b.width == 1 && readsRankStatus w)
  | .queue q => (queuesOf refs).contains q || (queuesOf outs).contains q
  | .pipeHE0 => false
  | .pipeHE1 => false
  | .slash => s.ctx.scalarSlash w || s.vectorSlash w
  | .window => !safe
  | .hold => true
  | .vl => false
  | .acr => kregWaits w b.res
  | .satcnt => kregWaits w b.res
  | .undcnt => kregWaits w b.res
  | .amaxk => kregWaits w b.res
  | .vstart => kregWaits w b.res
  | .hcur => kregWaits w b.res
  | r => (pipesOf (classOf w)).contains r

/-- R64: the results that hold the first instruction of the next convoy: lane-file entries, predicates, queue
pushes, and g registers written by vector instructions, which `width` marks. -/
def Busy.holdsConvoy (b : Busy) : Bool :=
  match b.res with
  | .lane _ => true
  | .p _ => true
  | .queue _ => true
  | .g _ => b.width == 1
  | _ => false

/-- R142, R170, R226: a word waits for the commit of a shadow result: a writer of its destination, and for
`vbamax` a reader too. -/
def State.shadowHolds (s : State) (w : BitVec 32) (rows : List Nat) (r : Shadow) : Bool :=
  let refs := entriesOf ((s.readsOf w).map (fun x => x.1))
  let outs := entriesOf (s.writesOf w)
  match r.kind with
  | .sfuEntry e => outs.contains e
  | .bamax e => outs.contains e || refs.contains e
  | .hsfu k => rows.contains k && !(majorOf w == 0x35 && field w.toNat 0 3 == 0)
      && !(majorOf w == 0x38 && field w.toNat 0 3 == 0)
      && !(majorOf w == 0x36 && field w.toNat 0 3 == 6)
  | _ => false

/-- R65: a word reads an entry or predicate in a chain of its convoy. -/
def State.chainsNow (s : State) (w : BitVec 32) : Bool :=
  s.ctx.convoy.any (fun y => (s.issued 0 w .nop).chainsOn y)

/-- The latest cycle of a list that passes a core cycle t. -/
def latest (t : Nat) (l : List Nat) : Nat := l.foldl Nat.max t

/-- R270: the cycles by which a member-varying condition holds a gang's pair beyond the one in which it is met: Λ until
the sequencer counts it as met, and Λ more until the pair executes. DESIGN CHOICE, log 35. -/
def State.varyLag (s : State) : Nat := 2 * s.crossLag

/-- The core cycle from which a board entry no longer holds a pair (R270). -/
def State.heldUntil (s : State) (b : Busy) : Nat := b.due + (if b.vary then s.varyLag else 0)

/-- The core cycle in which a word can issue at the earliest, from core cycle t on (R241). -/
def State.readyCycle (s : State) (t : Nat) (w : BitVec 32) (safe : Bool) : Nat :=
  let rows := s.rowSet w
  let chains := s.chainsNow w
  let mine := s.ctx.board.filter (s.holdsWord w rows safe chains)
  let shared := s.other.board.filter (fun b => match b.res with
    | .slash => s.ctx.scalarSlash w || s.vectorSlash w
    | r => (pipesOf (classOf w)).contains r)
  let live := s.ctx.live.filter (fun r => shadowChanges w r.kind || s.shadowHolds w rows r)
  latest t ((mine ++ shared).map s.heldUntil ++ live.map (fun r => r.at_))

/-- The HE ports' free cycles, both banks' use of them counted (R156). DEDUCED, log 18. -/
def State.hePorts (s : State) : Nat × Nat :=
  let at_ (r : Res) : Nat := latest 0 (((s.ctx.board ++ s.other.board).filter (fun b => b.res == r)).map (fun b => b.due))
  (at_ .pipeHE0, at_ .pipeHE1)

/-- The core cycle in which a pair can issue (R241), from the present one on. -/
def State.pairCycle (s : State) (l : List (BitVec 32)) : Nat :=
  let safe := l.all (fun w => s.ctx.runaheadSafe w)
  let t := l.foldl (fun t w => s.readyCycle t w safe) s.now
  let t := if s.ctx.convoy.isEmpty then
      latest t ((s.ctx.board.filter Busy.holdsConvoy).map s.heldUntil) else t
  let he := (l.filter (fun w => classOf w == .he)).length
  let (a, b) := s.hePorts
  if he = 0 then t else if he = 1 then Nat.max t (Nat.min a b) else Nat.max t (Nat.max a b)

/-- R243: the stall reason of a wait for a resource. -/
def Res.waitReason : Res → Nat
  | .g _ | .f _ | .vl | .acr | .satcnt | .undcnt | .amaxk | .vstart | .hcur => 1
  | .p _ | .lane _ | .read _ | .queue _ => 2
  | .row _ => 3
  | .pipeVA | .pipeVS | .pipeVM | .pipeHR | .pipeHE0 | .pipeHE1 => 4
  | .slash => 8
  | .window | .hold => 7

/-- R243: what the words of a pair still wait for in core cycle t. DEDUCED, log 49. -/
def State.waitReason (s : State) (l : List (BitVec 32)) (t : Nat) : Nat :=
  let safe := l.all (fun w => s.ctx.runaheadSafe w)
  let hit (b : Busy) : Bool := decide (t < b.due) && l.any (fun w => s.holdsWord w (s.rowSet w) safe (s.chainsNow w) b)
  match s.ctx.board.find? hit with
  | some b => b.res.waitReason
  | none => if s.ctx.convoy.isEmpty && s.ctx.board.any (fun b => b.holdsConvoy && decide (t < b.due)) then 5 else 4

/-- Core time reaches cycle t, or the commit before it that leaves an ARITH trap to take (R244). -/
def State.reachTrap (s : State) (t : Nat) : Nat → State
  | 0 => s.reach t
  | n + 1 =>
    match (s.ctx.live.filter (fun r => decide (r.at_ ≤ t))).map (fun r => r.at_) with
    | [] => s.reach t
    | a :: l =>
      let c := l.foldl Nat.min a
      let u := if c ≤ s.now then s.commitUpTo c else s.reach c
      if u.ctx.sfuTrap.isSome then u else u.reachTrap t n

/-- Waits that no cycle ends: R204, for the registers of the context's live copies. The answer is the stall
reason. -/
def State.copyHolds (s : State) (l : List (BitVec 32)) : Option Nat :=
  let mine := (s.core.copies ++ s.pkg.io0.bobbin ++ s.pkg.io9.bobbin).filter (fun c =>
    c.owner == s.coreNo && c.bank == s.ctx.bank && c.handle == s.ctx.taskh && !c.ended)
  let regs := (l.map (fun w => Names.live ((namesOf w).gr ++ (namesOf w).gw))).flatten
  let reads := (l.map (fun w => entriesOf ((s.readsOf w).map (fun r => r.1)))).flatten
  let writes := (l.map (fun w => entriesOf (s.writesOf w))).flatten
  let span (e n : Nat) : List Nat := (List.range ((n + 15) / 16)).map (fun j => e + j)
  let into (c : Copy) : List Nat := match c.dst with
    | .lanes m e => if (if c.form = 2 then decide (c.mask / 2 ^ s.ctx.member % 2 = 1) else m == s.ctx.member)
        then span e c.lines else []
    | _ => []
  let from_ (c : Copy) : List Nat := match c.src with
    | .lanes m e => if m = s.ctx.member then span e c.lines else []
    | _ => []
  if mine.any (fun c => c.bound.isNone && regs.contains c.dest) then some 1
  else if mine.any (fun c => (into c).any (fun e => reads.contains e || writes.contains e)
      || (from_ c).any (fun e => writes.contains e)) then some 2
  else none

/-! ### When results land -/

/-- The element width of a vector word and the number of elements that it counts (R132, R188, R190, R215, R217): `s` is
the state before it and `u` the one after, whose destination tag a form without a v source takes. -/
def State.extent (s u : State) (w : BitVec 32) : Nat × Nat :=
  let f3 := field w.toNat 0 3
  let va := ((s.operands ((namesOf w).vr.map (fun r => r.1))).headD Entry.zero).tag
  let vd : BitVec 5 := match (s.ctx.targets w).head? with
    | some (.entry e) => (u.entry e).tag
    | some (.queue q) => ((u.queue q).getLastD Entry.zero).tag
    | none => va
  let same (x : Nat) : Nat × Nat := (x, s.count x)
  let code : BitVec 5 := BitVec.ofNat 5 (field w.toNat 6 5)
  let q := field w.toNat 11 1 == 1
  -- R215: the two sides of a conversion, with E2M1 pairs
  let conv (dt : BitVec 5) (e2m1 : Bool) : Nat × Nat :=
    let pair := e2m1 && (va == tNarrow || dt == tNarrow) && va != dt
    let ws := unitWidth pair (va == tNarrow) va
    let wd := unitWidth pair (dt == tNarrow) dt
    (Nat.max ws wd, s.convCount pair ws wd)
  match majorOf w with
  | 0x29 =>
    match f3 with
    | 0 => conv code (!q)
    | 1 => conv code (!q)
    | 2 => same (tagWidth va)
    | 3 => same (2 * tagWidth va)
    | 4 => (64, 128)
    | 5 => conv vd true
    | 6 => conv vd true
    | _ => same (tagWidth va)
  | 0x2A =>
    match f3 with
    | 0 => (tagWidth va, if s.gangMembers.isEmpty then s.convCount false (tagWidth va) 8 else s.count (tagWidth va))
    | 1 => (tagWidth va, s.convCount false (tagWidth va) 8)
    | 2 => conv code (!q)
    | _ => same 32
  | 0x2B => same (if f3 = 5 then (if va = tF64 ∨ va = tSL64 then 64 else 32) else tagWidth va)
  | 0x2C => same (tagWidth (if f3 = 0 then va else vd))
  | _ =>
    if classOf w = .vm then
      let reg (at_ : Nat) : BitVec 6 := BitVec.ofNat 6 (field w.toNat at_ 6)
      let f := vformat (s.ctx.mfcWord (BitVec.ofNat 2 (field w.toNat 3 2)))
        (if isVstore w then s.tagOf (s.vref (reg 18)) else s.loadTag (reg 18))
      let n := s.count (tagWidth f.t)
      let ix := s.tagOf (s.vref (reg 6))
      (tagWidth f.t, if majorOf w ≠ 0x30 ∧ field w.toNat 0 2 = 2 then Nat.min n (vlmax (tagWidth ix)) else n)
    else same (tagWidth va)

/-- R134, R222 and R226: the vector forms that do not begin at VSTART. -/
def startsAtZero (w : BitVec 32) : Bool :=
  let f3 := field w.toNat 0 3
  (majorOf w == 0x29 && (f3 == 2 || f3 == 3 || f3 == 4)) || (majorOf w == 0x2A && f3 == 0)

/-- The groups of an instruction, from the state before it and the one after: the element width and the number
of groups (R132, R215). -/
def State.groups (s u : State) (w : BitVec 32) : Nat × Nat :=
  let (width, n) := s.extent u w
  (width, Nat.max 1 (((n - (if startsAtZero w then 0 else s.ctx.vsn)) * width + 1023) / 1024))

/-- Occupancy, first-group time and whether the whole entry is written at that time, of the VA, VS and VM pipes
(R132, R190, R217). `n` counts the elements, `en` says that the access converts and `staged` that a store takes the staging path (R187,
R399). -/
def vectorTimes (w : BitVec 32) (slash : Nat) (g n m : Nat) (en staged : Bool) : Nat × Nat × Bool :=
  let f3 := field w.toNat 0 3
  let x := if en then 1 else 0
  match majorOf w with
  | 0x20 => if f3 = 2 ∨ f3 = 3 then (g, 4, false) else (g, 2, false)
  | 0x21 => (g, 2, false)
  | 0x22 => if 0 < slash then (slash, slash + 3, true) else if f3 = 7 then (4 * g, 16, false) else (g, 5, false)
  | 0x23 => if 0 < slash then (slash, slash + 3, true) else if f3 = 0 then (4 * g, 16, false) else (g, 2, false)
  | 0x24 => (g, 2, false)
  | 0x25 => (g, 16, true)
  | 0x26 => (g, g + 6, true)
  | 0x27 => (g, 3, false)
  | 0x28 => if f3 = 4 ∨ f3 = 5 then (g, 2, false) else (8, 10, true)
  | 0x29 =>
    match f3 with
    | 2 => (2 * g, 2 * g + 3, true)
    | 3 => (g, g + 3, true)
    | 4 => (8, 2, false)
    | _ => (g, 3, false)
  | 0x2A =>
    match f3 with
    | 0 => (g, g + 3, true)
    | 3 => (g, 4, false)
    | 4 => (g, 5, false)
    | _ => (g, 3, false)
  | 0x2B => (slash, slash + 3, true)
  | 0x2C =>
    match f3 with
    | 5 => (8, 9, true)
    | 0 | 1 | 4 => (g, 2, false)
    | _ => (1, 3, true)
  | 0x2D => (1, 1, true)
  | 0x2E => if field w.toNat 0 2 = 0 then (g + x, 21 + 2 * x, false)
            else (Nat.max g ((n + 15) / 16) + x, 22 + 2 * x, false)
  | 0x2F => if staged then (2 * g + 8, 21 + 2 * x, false)
            else if field w.toNat 0 2 = 0 then (g + x, 21 + 2 * x, false)
            else (Nat.max g ((n + 15) / 16) + x, 22 + 2 * x, false)
  | _ =>
    match field w.toNat 0 2 with
    | 0 => (2 * g + x, 24 + 2 * x, false)
    | 1 => (8 * m + x, 8 * m + 20 + 2 * x, true)
    | _ => ((n + 63) / 64 + g, (n + 63) / 64 + g + 20, true)

/-- The distinct 64 KiB pages of a list of addresses, in ascending order. DEDUCED, log 30. -/
def pagesOf (l : List Nat) : List Nat := l.foldl (fun m a => insertNat (a / 65536) m) []

/-- The active elements of an access of major 0x2E or 0x2F, or of `vldtr`, each with the virtual addresses that it
names, its block's scale byte among them (R187, R188, R191). DEDUCED, log 30. -/
def State.elementsOf (s : State) (w : BitVec 32) : List (Nat × List Nat) :=
  let reg (at_ : Nat) : BitVec 6 := BitVec.ofNat 6 (field w.toNat at_ 6)
  let f := vformat (s.ctx.mfcWord (BitVec.ofNat 2 (field w.toNat 3 2)))
    (if isVstore w then s.tagOf (s.vref (reg 18)) else s.loadTag (reg 18))
  let form := field w.toNat 0 2
  let ix := match s.vref (reg 6) with
    | .entry e => s.entry e
    | .queue q => (s.queue q).headD Entry.zero
  let n := if form = 2 then Nat.min (s.moved f) (vlmax (tagWidth ix.tag)) else s.moved f
  let ea := (s.gr (reg 12)).toNat
  let nr := bits (s.gr (reg 6)) 39 32 + 1
  let place (i : Nat) : Place :=
    if majorOf w = 0x30 then unitPlace (ea + i % nr * bits (s.gr (reg 6)) 31 0) f.mbits (i / nr)
    else if form = 0 then unitPlace ea f.mbits i
    else atOffset ea (if form = 1 then (i : Int) * (s.gr (reg 6)).toInt else indexOf ix i)
  ((List.range n).filter (fun i => decide (s.ctx.vsn ≤ i) && s.vmasked (BitVec.ofNat 1 (field w.toNat 5 1)) f i)).map
    (fun i => (i, (place i).1 ::
      (if f.bscale then [(wordI ((ea : Int) + f.soff + ((i / 32 : Nat) : Int))).toNat] else [])))

/-- The addresses of each element. DEDUCED, log 30. -/
def State.touchedBy (s : State) (w : BitVec 32) : List (List Nat) := (s.elementsOf w).map (fun x => x.2)

/-- All of them. DEDUCED, log 30. -/
def State.touched (s : State) (w : BitVec 32) : List Nat := (s.touchedBy w).flatten

/-- The pages of an image that an HCTX instruction checks in its window, in the order it checks them (R242). -/
def State.imagePagesOf (s : State) (w : BitVec 32) : List Nat :=
  let base := (s.ctx.gAt (field w.toNat 9 6)).toNat
  let full := bit (s.ctx.gAt (field w.toNat 3 6)) 0
  let k := if field w.toNat 0 3 ≤ 1 then hoopImage else laneImage
  let l := match field w.toNat 0 3 with
    | 0 => (s.rowSet w).filter (fun r => full || s.ctx.hdirty.getLsbD r || s.ctx.live.any (Shadow.onRow r))
    | 1 => s.rowSet w
    | _ => s.movedEntries w
  pagesOf (l.flatMap (fun n => [(base + k.size * n) % 2 ^ 64, (base + k.tags + n) % 2 ^ 64]))

/-- The extra cycles, by the k-th of its own free values, of an access whose data does not all come from the own die's
SRAM (R178, R190). DESIGN CHOICE, log 8. -/
def State.farLatency (s : State) (l : List Nat) (k : Nat := 0) : Nat :=
  if l.any (fun va => match s.translate .gather va .read with
    | .ok (t, _) => !(isSram t.pa && s.pkg.homeOf t.pa == some s.core.die)
    | .error _ => false)
  then Config.latency (s.free + k) else 0

/-- R242: the cycles after its issue in which the window of an HCTX instruction closes; a restore's not before its
tag bytes have returned, which takes as long as a load (R178). DEDUCED, log 28. -/
def State.imageWindow (s : State) (w : BitVec 32) : Nat :=
  let pages := (s.imagePagesOf w).length
  let base := (s.ctx.gAt (field w.toNat 9 6)).toNat
  let tags : List Nat := match field w.toNat 0 3 with
    | 1 => (s.rowSet w).map (fun r => (base + hoopImage.tags + r) % 2 ^ 64)
    | 3 => (s.movedEntries w).map (fun e => (base + laneImage.tags + e) % 2 ^ 64)
    | _ => []
  if tags.isEmpty then 2 + pages else Nat.max (2 + pages) (20 + s.farLatency tags)

/-- The elements of a word are listed by `elementsOf`. -/
def listsElements (w : BitVec 32) : Bool :=
  majorOf w == 0x2E || majorOf w == 0x2F || (majorOf w == 0x30 && decide (field w.toNat 0 2 = 0))

/-- R343: Tt, the largest number of distinct runs that the elements of an access take from one bank of the gather
TLB; a run in the unit-stride register costs nothing. -/
def State.bankRuns (s u : State) (w : BitVec 32) : Nat :=
  if listsElements w = false then 0
  else
    let pages := (pagesOf (s.touched w)).filter (fun p => !(s.core.unit.any (fun t => t.covers s.ctx.asn p)))
    let run (p : Nat) : Nat := ((u.core.gather.find? (fun t => t.covers s.ctx.asn p)).map (fun t => t.vbase)).getD p
    latest 0 ((List.range 16).map (fun b =>
      ((pages.filter (fun p => p % 16 == b)).foldl (fun l p => insertNat (run p) l) []).length))

/-- R342 and R343: the cycles that a TLB entry of the virtual granule takes to come from the L2 TLB; the time of a
walk is not counted. DEDUCED, log 9. -/
def State.fillCycles (s : State) (which : TlbKind) (vpn : Nat) : Nat :=
  if (s.core.tlb which).any (fun t => t.covers s.ctx.asn vpn) then 0
  else if (s.pkg.l2Of (clusterOf s.coreNo)).any (fun t => t.covers s.ctx.asn vpn) then 12 else 0

/-- The addresses that group j of a vector memory access names, one for each page. A nibble of tag 0x0A counts half
a byte (R185). -/
def State.groupPages (s : State) (w : BitVec 32) (width j : Nat) : List Nat :=
  let reg : BitVec 6 := BitVec.ofNat 6 (field w.toNat 18 6)
  let f := vformat (s.ctx.mfcWord (BitVec.ofNat 2 (field w.toNat 3 2)))
    (if isVstore w then s.tagOf (s.vref reg) else s.loadTag reg)
  let width := if f.t = tNarrow then 4 else width
  pagesOf (((s.elementsOf w).filter (fun x => (x.1 - s.ctx.vsn) * width / 1024 == j)).flatMap (fun x => x.2))

/-- R343: the fill time that delays group j of a vector memory access. -/
def State.groupFill (s : State) (w : BitVec 32) (width j : Nat) : Nat :=
  if listsElements w = false then 0 else latest 0 ((s.groupPages w width j).map (s.fillCycles .gather))

/-- R190 and R266: the extra cycles with which the data of group j arrives, where it comes from other memory than the
own die's SRAM. DESIGN CHOICE, log 8. -/
def State.groupLate (s : State) (w : BitVec 32) (width j : Nat) : Nat :=
  if listsElements w = false then 0
  else s.farLatency ((s.groupPages w width j).map (fun p => 65536 * p)) (j + 1)

/-- The addresses of a vector memory access, one for each page, or its base. DESIGN CHOICE, log 8. -/
def State.reached (s : State) (w : BitVec 32) : List Nat :=
  if majorOf w = 0x2E ∨ majorOf w = 0x2F then (pagesOf (s.touched w)).map (fun p => 65536 * p)
  else [(s.ctx.gAt (field w.toNat 12 6)).toNat]

/-- R177: the address of a scalar load; every other memory form's is g[a]. -/
def State.loadAddr (s : State) (i : Instr) (w : BitVec 32) : Word :=
  match i with
  | .ldb _ a off => s.memAddr a off 1
  | .ldh _ a off => s.memAddr a off 2
  | .ldw _ a off => s.memAddr a off 4
  | .ldd _ a off => s.memAddr a off 8
  | .ldbn _ a off => s.memAddr a off 1
  | .ldhn _ a off => s.memAddr a off 2
  | .ldwn _ a off => s.memAddr a off 4
  | _ => s.ctx.gAt (field w.toNat 12 6)

/-- R341 and R342: the address that an instruction translates in the L1 TLB. -/
def State.l1Address (s : State) (i : Instr) (w : BitVec 32) : Option Nat :=
  let mj := majorOf w
  if mj = 0x17 then
    match i with
    | .stb _ a off => some (s.memAddr a off 1).toNat
    | .sth _ a off => some (s.memAddr a off 2).toNat
    | .stw _ a off => some (s.memAddr a off 4).toNat
    | .std _ a off => some (s.memAddr a off 8).toNat
    | _ => none
  else if (0x16 ≤ mj ∧ mj ≤ 0x1B) ∨ mj = 0x1E ∨ (mj = 0x32 ∧ field w.toNat 0 3 = 0) then some (s.loadAddr i w).toNat
  else none

/-- R342: the cycles for which L1 misses hold a pair. DEDUCED, log 9. -/
def State.l1Hold (s : State) (l : List Issue) : Nat :=
  l.foldl (fun n it => n + ((s.l1Address it.slot.instr it.word).map (fun va => s.fillCycles .l1 (va / 65536))).getD 0) 0

/-- The core cycle in which a pair can issue (R241, R342). -/
def State.issueCycle (s : State) (l : List Issue) : Nat := s.pairCycle (l.map (fun it => it.word)) + s.l1Hold l

/-- R265: the cycles in which the G groups of an instruction are written, each times G: the first at `first`, one
per step of occ ÷ G cycles, and none before the cycle `need` in which its producers' groups are written.
DEDUCED, log 15. -/
def groupCycles (g start first occ : Nat) (need : Nat → Nat) : Nat → Nat → Nat → List Nat
  | 0, _, _ => []
  | n + 1, j, prev =>
    let c := Nat.max (g * (start + first) + occ * j)
      (Nat.max (if j = 0 then 0 else prev + occ) (g * (need j + first)))
    c :: groupCycles g start first occ need n (j + 1) c

/-- n ÷ g in whole cycles, rounded up. DEDUCED, log 15. -/
def cyclesOf (g n : Nat) : Nat := (n + g - 1) / g

/-- The cycle in which the producers on the board have written the elements of group j of a chained consumer of
width `width`; 0 where nothing of the chain is still to come. -/
def State.producerCycle (s : State) (w : BitVec 32) (width j : Nat) : Nat :=
  let lastElem := s.ctx.vsn + (j + 1) * (1024 / width) - 1
  let x := s.issued 0 w .nop
  latest 0 ((s.ctx.board.filter (fun b => !b.groups.isEmpty && (match b.res with
    | .lane e => x.reads.contains e
    | .p k => (predReads w).contains k
    | _ => false))).map (fun b =>
      b.groups.getD ((lastElem - s.ctx.vsn) * b.width / 1024) (b.groups.getLastD b.due)))

/-- A board entry without groups. -/
def Busy.plain (r : Res) (due : Nat) : Busy := { res := r, due := due, fresh := false, groups := [], width := 0 }

/-- Board entries of a vector word that has issued at core cycle t: `s` is the state before it and `u` the one
after. A form that writes its destination whole starts when its chained source is whole. DESIGN CHOICE, log 8.
DEDUCED, log 123, 125. -/
def State.vectorPosts (s u : State) (w : BitVec 32) (t : Nat) : List Busy :=
  let (width, g) := s.groups u w
  let n := (s.extent u w).2
  let slash := if s.vectorSlash w then s.slashTime w else 0
  let m := bits (s.ctx.gAt (field w.toNat 6 6)) 18 16 + 1
  let mem := classOf w == .vm
  let en := mem && bit (s.ctx.mfc.getD (field w.toNat 3 2) 0) 15
  let f := s.ctx.mfc.getD (field w.toNat 3 2) 0
  let staged := en && (bit f 12 || bit f 13 || decide (s.pkg.mgmt.level = 2))
  let (occ, first, whole) := vectorTimes w slash g (if majorOf w = 0x30 then n else (s.touchedBy w).length) m en staged
  let far := if mem && !listsElements w then s.farLatency (s.reached w) else 0
  let occ := if mem then Nat.max occ (s.bankRuns u w) else occ
  let first := first + far + (match majorOf w with
    | 0x26 => u.crossLag
    | 0x27 => u.crossLag
    | 0x2A => if field w.toNat 0 3 ≤ 1 then u.crossLag else 0
    | 0x2C => if field w.toNat 0 3 = 2 ∨ field w.toNat 0 3 = 3 then u.crossLag else 0
    | _ => 0)
  let late (j : Nat) : Nat := if mem then Nat.max (s.groupFill w width j) (s.groupLate w width j) else 0
  let start := if whole then latest t ((List.range g).map (s.producerCycle w width)) else t
  let exact := groupCycles g t first occ (fun j =>
    Nat.max (s.producerCycle w width j) (if late j = 0 then 0 else t + late j + cyclesOf g (occ * j))) g 0 0
  let cycles := if whole then [start + first] else exact.map (cyclesOf g)
  let last := latest (t + first) cycles
  let free := Nat.max (t + occ) (if whole then start + occ else cyclesOf g (latest 0 exact + occ - g * first))
  let vary := decide (0 < slash) || (mem && (decide (0 < far) || (List.range g).any (fun j => decide (0 < late j))))
  let mark (b : Busy) : Busy := { b with vary := vary }
  let pipes := (pipesOf (classOf w)).map (fun r => mark (Busy.plain r free))
  -- R135 and R142: an entry that is read is held until its last group has been taken
  let taken := if whole then start + occ else last - first
  let reads := (entriesOf ((s.readsOf w).map (fun r => r.1))).map (fun e => mark (Busy.plain (.read e) taken))
  let lanes := (entriesOf (s.writesOf w)).map (fun e => mark
    { res := .lane e, due := last, fresh := !s.ctx.dirty.getLsbD e, groups := cycles, width := width })
  let preds := (predWrites w).map (fun p => mark { res := .p p, due := last, fresh := false, groups := cycles, width := width })
  let regs := (Names.live (namesOf w).gw).map (fun k => mark { Busy.plain (.g k) last with width := 1 })
  let pushes := (queuesOf (s.writesOf w)).map (fun q => mark (Busy.plain (.queue q) last))
  let changes := (changesOf w).map (fun r => mark (Busy.plain r last))
  let window := if isVstore w then [Busy.plain .window (t + 2 + (pagesOf (s.touched w)).length)] else if mem then [mark (Busy.plain .window last)] else []
  let hold := if s.ctx.enables != 0 && recordsFlag w && (!mem || en) then [mark (Busy.plain .hold last)] else []
  let lane := if 0 < slash then [mark (Busy.plain .slash (start + s.laneTime w 0))] else []
  -- the results of VSFU and `vbamax` are shadow results, which the board does not hold (R64)
  if majorOf w = 0x25 ∨ (majorOf w = 0x2A ∧ field w.toNat 0 3 = 0) then pipes ++ reads
  else pipes ++ reads ++ lanes ++ preds ++ regs ++ pushes ++ window ++ hold ++ lane ++ changes

/-- The latency of an FPU form (R91, R121). -/
def State.fpuLatency (s : State) (w : BitVec 32) : Nat :=
  let fn := field w.toNat 0 4
  if s.ctx.scalarSlash w then 4 + 2 * s.fpuSteps w
  else if fn ≤ 2 ∨ fn = 5 then 4
  else if fn ≤ 4 then (if field w.toNat 4 1 = 0 then 12 else 20)
  else if fn = 11 then 3
  else 1

/-- The bit length of a magnitude (R96). -/
def magnitudeBits (signed : Bool) (x : Word) : Nat :=
  let m := if signed then x.toInt.natAbs else x.toNat
  if m = 0 then 0 else Nat.log2 m + 1

/-- Board entries of a scalar or memory word. DESIGN CHOICE, log 8. -/
def State.scalarPosts (s : State) (i : Instr) (w : BitVec 32) (t : Nat) : List Busy :=
  let mj := majorOf w
  let fn := field w.toNat 0 6
  let n := namesOf w
  let to_ (lat : Nat) : List Busy :=
    (Names.live n.gw).map (fun k => Busy.plain (.g k) (t + lat)) ++ n.fw.map (fun k => Busy.plain (.f k) (t + lat))
  let varied (l : List Busy) : List Busy := l.map (fun b => { b with vary := true })
  if mj = 0x01 then
    if 21 ≤ fn ∧ fn ≤ 24 then
      varied (to_ (4 + (magnitudeBits (fn % 2 == 1) (s.ctx.gAt (field w.toNat 12 6)) + 3) / 4))
    else to_ (if 18 ≤ fn ∧ fn ≤ 20 then 3 else if 25 ≤ fn ∧ fn ≤ 29 then 2 else 1)
  else if mj ≤ 0x15 then to_ 1
  else if mj = 0x16 ∨ mj = 0x18 ∨ mj = 0x19 ∨ mj = 0x1A ∨ mj = 0x1B then
    if n.gw.isEmpty then [Busy.plain .window (t + 2)]
    else
      let va := (s.loadAddr i w).toNat
      let lat := if mj = 0x16 then 20 + s.farLatency [va] else Config.latency s.free
      let lat := match s.translate .l1 va .read with
        | .ok (x, _) => if mj = 0x16 ∧ (s.cacheLine x.pa).isSome ∧ isHbm x.pa then 3 else lat
        | .error _ => lat
      (if mj = 0x16 ∧ lat = 20 then id else varied) (Busy.plain .window (t + lat) :: to_ lat)
  else if mj = 0x17 then [Busy.plain .window (t + 2)]
  else if mj = 0x1F then
    let lat := s.fpuLatency w
    (if s.ctx.scalarSlash w then varied else id) <| to_ lat ++ (changesOf w).map (fun r => Busy.plain r (t + lat)) ++ (if s.ctx.enables != 0 && recordsFlag w then [Busy.plain .hold (t + lat)] else [])
      ++ (if s.ctx.scalarSlash w then [Busy.plain .slash (t + lat - 3)] else [])
  else if mj = 0x32 ∧ field w.toNat 0 3 = 0 then
    [Busy.plain .window (t + 20 + s.farLatency [(s.ctx.gAt (field w.toNat 12 6)).toNat])]
  else if mj = 0x32 ∧ field w.toNat 0 3 = 1 then
    let n := field w.toNat 3 3
    let (tag, k) := s.boxShape n
    let far := s.farLatency ((List.range k).filterMap (boxAddress s.ctx n (tagWidth tag / 8)))
    let due := t + 24 + 2 * ((k * tagWidth tag + 8191) / 8192) + far
    Busy.plain .window due :: (entriesOf (s.ctx.targets w)).map (fun e =>
        { Busy.plain (.lane e) due with fresh := !s.ctx.dirty.getLsbD e })
      ++ (queuesOf (s.ctx.targets w)).map (fun q => Busy.plain (.queue q) due)
  else if mj = 0x31 then to_ (if field w.toNat 0 3 = 4 then 4 else 1)
  else if mj = 0x33 then to_ 2
  else if mj = 0x39 then varied (to_ (1 + Config.latency s.free))
  else to_ 1

/-- The landing of row group g of a row set (R156). -/
def rowGroups (t base : Nat) (rows : List Nat) (fresh : Nat → Bool) (rank : Bool) : List Busy :=
  (List.range rows.length).map (fun i =>
    { res := .row (rows.getD i 0), due := t + base + (if rank then 0 else i / 8), fresh := fresh (rows.getD i 0)
      groups := [], width := if rank then 1 else 0 })

/-- Board entries of a Hoop word (R155, R156, R172, R174), of whose rows or entries only those below `lim` are still
to move. DEDUCED, log 18, 123. -/
def State.hoopPosts (s : State) (w : BitVec 32) (t port lim : Nat) : List Busy :=
  let mj := majorOf w
  let f3 := field w.toNat 0 3
  let rows := s.rowSet w
  let fresh (r : Nat) : Bool := !s.ctx.hdirty.getLsbD r
  let n8 := (rows.length + 7) / 8
  let he (occ : Nat) : Busy := Busy.plain (if port = 0 then .pipeHE0 else .pipeHE1) (t + occ)
  let out (lat : Nat) : List Busy :=
    (entriesOf (s.ctx.targets w)).map (fun e =>
      { Busy.plain (.lane e) (t + lat) with fresh := !s.ctx.dirty.getLsbD e })
    ++ (queuesOf (s.ctx.targets w)).map (fun q => Busy.plain (.queue q) (t + lat))
  let reads (lat : Nat) : List Busy :=
    (entriesOf ((s.readsOf w).map (fun r => r.1))).map (fun e => Busy.plain (.read e) (t + lat))
  let hold (lat : Nat) : List Busy := if s.ctx.enables != 0 && recordsFlag w then [Busy.plain .hold (t + lat)] else []
  let one := if rows.length = 1 then 1 else 2
  if mj = 0x34 then
    let picot := field w.toNat 23 1 = 1
    let tag := match (s.ctx.sources w).head? with
      | some r => s.tagOf r.1
      | none => 0
    let o := match rankClassOf (decide picot) tag with
      | some k => (rankClass k).occ
      | none => 2
    let g := if f3 = 3 then (s.groupRefs w).length + 1 else 1
    Busy.plain .pipeHR (t + g * o) :: reads (g * o) ++ rowGroups t (g * o + 5) rows fresh true ++ hold (g * o + 5)
  else if mj = 0x35 then
    match f3 with
    | 0 => he one :: out (one + 2)
    | 1 => he one :: reads one ++ rows.map (fun r => { Busy.plain (.row r) (t + one + 2) with fresh := fresh r })
    | 2 => he n8 :: rowGroups t 2 rows fresh false
    | _ => he one :: reads one ++ rows.map (fun r => { Busy.plain (.row r) (t + one + 4) with fresh := fresh r })
        ++ hold (one + 4)
  else if mj = 0x36 then
    if f3 = 6 then he n8 :: out (n8 + 6) ++ hold (n8 + 6)
    else he n8 :: reads n8 ++ rowGroups t 4 rows fresh false ++ hold (n8 + 3)
  else if mj = 0x37 then [he n8]
  else
    let full := bit (s.ctx.gAt (field w.toNat 3 6)) 0
    let window := Busy.plain .window (t + s.imageWindow w)
    let slot (step j : Nat) : Nat := t + 1 + step * j
    match f3 with
    | 0 =>
      let saved (r : Nat) : Bool := full || s.ctx.hdirty.getLsbD r || s.ctx.live.any (Shadow.onRow r)
      let mine := rows.filter (fun r => decide (r < lim))
      -- a row that is not saved is passed over when the save comes to it
      he (1 + 2 * (mine.filter saved).length) :: window :: mine.map (fun r =>
        { Busy.plain (.row r) (slot 2 (mine.filter (fun k => saved k && decide (k < r))).length) with
            clears := saved r && s.ctx.hdirty.getLsbD r })
    | 1 =>
      let mine := rows.filter (fun r => decide (r < lim))
      he (1 + 2 * mine.length) :: window :: (List.range mine.length).map (fun j =>
        Busy.plain (.row (mine.getD j 0)) (slot 2 j + 3))
    | 2 =>
      let mine := (s.movedEntries w).filter (fun e => decide (e < lim))
      he (1 + 4 * mine.length) :: window :: (List.range mine.length).map (fun j =>
        { Busy.plain (.read (mine.getD j 0)) (slot 4 j) with clears := s.ctx.dirty.getLsbD (mine.getD j 0) })
    | 3 =>
      let mine := (s.movedEntries w).filter (fun e => decide (e < lim))
      he (1 + 4 * mine.length) :: window :: (List.range mine.length).map (fun j =>
        Busy.plain (.lane (mine.getD j 0)) (slot 4 j + 3))
    | _ => he 1 :: (Names.live (namesOf w).gw).map (fun k => Busy.plain (.g k) (t + 2))

/-- The board entries of a Hoop word with those of the k-registers it can change, which complete with the last. -/
def withChanges (w : BitVec 32) (t : Nat) (l : List Busy) : List Busy :=
  l ++ (changesOf w).map (fun r => Busy.plain r (latest t (l.map (fun b => b.due))))

/-- R343: the last address of an access that the unit-stride register follows. -/
def State.lastReached (s u : State) (w : BitVec 32) : Option Nat :=
  let form := field w.toNat 0 3
  let base (at_ : Nat) : Nat := (s.ctx.gAt (field w.toNat at_ 6)).toNat
  let slot (k : ImageKind) (l : List Nat) : Option Nat :=
    l.getLast?.map (fun n => (base 9 + (if form % 2 = 0 then k.tags + n else k.size * n)) % 2 ^ 64)
  match majorOf w with
  | 0x2E => if form % 4 = 2 then none else ((s.touchedBy w).getLast?).bind List.head?
  | 0x2F => if form % 4 = 2 then none else ((s.touchedBy w).getLast?).bind List.head?
  | 0x30 =>
    match form % 4 with
    | 0 => ((s.touchedBy w).getLast?).bind List.head?
    | 1 =>
      let f := vformat (s.ctx.mfcWord (BitVec.ofNat 2 (field w.toNat 3 2))) (s.loadTag (BitVec.ofNat 6 (field w.toNat 18 6)))
      let sl := Nat.min (base 6 % 2 ^ 13) ((base 6 / 2 ^ 16 % 8 + 1) * vlmax f.wbits)
      if sl = 0 then none else some (unitPlace (base 12) f.mbits (sl - 1)).1
    | _ => some ((base 12 + ((u.ctx.gAt (field w.toNat 6 6)).toNat - 1)) % 2 ^ 64)
  | 0x32 =>
    let n := field w.toNat 3 3
    let (tag, k) := s.boxShape n
    if form = 1 then (((List.range k).filterMap (boxAddress s.ctx n (tagWidth tag / 8))).getLast?) else none
  | 0x38 =>
    let full := bit (s.ctx.gAt (field w.toNat 3 6)) 0
    let rows := s.rowSet w
    match form with
    | 0 => slot hoopImage (rows.filter (fun r => full || s.ctx.hdirty.getLsbD r))
    | 1 => slot hoopImage rows
    | 2 => slot laneImage (s.restartEntries.filter (fun e => full || s.ctx.dirty.getLsbD e))
    | 3 => slot laneImage s.restartEntries
    | _ => none
  | _ => none

/-- R343: the unit-stride register after a word: the run of the last address that the access translated. -/
def State.unitAfter (s u : State) (w : BitVec 32) : Option Tlb :=
  match s.lastReached u w with
  | none => u.core.unit
  | some va =>
    match (u.core.tlb .gather).find? (fun t => t.covers u.ctx.asn (va / 65536)) with
    | some t => some t
    | none => u.core.unit

/-- The board after a word that issued at core cycle `t`: `s` is the state before it and `u` the one after; what
has landed leaves the board. Of an HCTX instruction only the rows or entries below `lim` are still to move.
DESIGN CHOICE, log 110. -/
def State.postBelow (s u : State) (it : Issue) (t lim : Nat) : State :=
  let w := it.word
  let port := if s.hePorts.1 ≤ s.hePorts.2 then 0 else 1
  let l := match classOf w with
    | .s => s.scalarPosts it.slot.instr w t
    | .sctl => s.scalarPosts it.slot.instr w t
    | .m => s.scalarPosts it.slot.instr w t
    | .hr => withChanges w t (s.hoopPosts w t port lim)
    | .he => withChanges w t (s.hoopPosts w t port lim)
    | _ => s.vectorPosts u w t
  { u with free := u.free + 32
           core := { u.core with unit := s.unitAfter u w }
           ctx := { u.ctx with board := u.ctx.board.filter (fun b => decide (t < u.heldUntil b)) ++ l } }

/-- The same for an instruction that runs to its end. -/
def State.post (s u : State) (it : Issue) (t : Nat) : State := s.postBelow u it t 1024

/-- R97 and R113: the cycles from a pair's issue to that of the pair after it, by the pair's last word: a word that
costs no cycle has the next pair issue in the cycle after it, and `ifence` costs 8 more. -/
def nextGap (w : BitVec 32) (taken : Bool) : Nat :=
  if majorOf w = 0x14 ∧ field w.toNat 0 6 = 7 then 9
  else if taken = false then 1
  else if majorOf w = 0x12 ∨ (majorOf w = 0x14 ∧ field w.toNat 0 6 = 1) then 3
  else 2

end Sys2Proof.Machine
end

