-- ==== Sys2Proof/Machine/Issue.lean ====
section
/-! DEFINITION. How a pair issues (R61, R62, R67, R107, R111, R242, R244): its instructions in order over a
given meaning, what a trap or a stall of one of them leaves of the other, the broken chain, and what follows a
pair that completes or traps. -/

namespace Sys2Proof.Machine

/-- What executing one instruction comes to. -/
inductive Ran where
  | done (t : State)
  | stalled (t : State)
  | trapped (t : State) (r : TrapRec)
  | stop (o : Out)

/-- What issuing a pair comes to. -/
inductive PairOut where
  | done (t : State)
  | trap (t : State)
  | stall (t : State)
  | stop (o : Out)

/-- The state in which an instruction of the pair executes. -/
def State.facing (s : State) (it : Issue) (second : Bool) : State :=
  { s with wordAddr := it.addr, curWord := it.word, second := second, trap := none, stalled := false }

/-- A vector form whose result commits apart from it (R143, R226): a broken chain does not execute it again. -/
def isPosted (w : BitVec 32) : Bool := majorOf w == 0x25 || (majorOf w == 0x2A && field w.toNat 0 3 == 0)

/-- R62, R65 and R67: the open convoy after an instruction of it, `s` being the state before and `u` the one
after: its record, whether a chain has begun, what its entries held before, and in a replay VSTART for the next
vector instruction. -/
def State.noted (s u : State) (it : Issue) : State :=
  let c := s.ctx
  let x := s.issued ((it.addr - c.convoyStart).toNat / 4) it.word it.slot.instr
  let v := isVector it.word
  let fresh := if v && !isPosted it.word then x.writes.filter (fun e => !(c.snapLane.any (fun k => k.1 == e))) else []
  let first := c.convoy.isEmpty
  if u.ctx.holds = false then u
  else
    { u with ctx := { u.ctx with
        convoy := c.convoy ++ [x]
        chained := c.chained || c.convoy.any (fun y => x.chainsOn y)
        snapLane := c.snapLane ++ fresh.map (fun e => (e, s.entry e))
        snapPred := if first then c.p else c.snapPred
        snapDirty := if first then c.dirty else c.snapDirty
        snapCounts := if first then (c.acr, c.satcnt, c.undcnt) else c.snapCounts
        snapVs := if first then c.vstart else c.snapVs
        vstart := if c.replayed && v then c.vstart else u.ctx.vstart } }

/-- One instruction executed over a meaning, with its results on the board. -/
def runOne (ex : Instr → State → Out) (s : State) (it : Issue) (second : Bool) : Ran :=
  match ex it.slot.instr (s.facing it second) with
  | .next t =>
    match t.trap with
    | some r => .trapped t r
    | none => if t.stalled then .stalled t else .done (s.noted (s.post t it s.now) it)
  | o => .stop o

/-! ### What a pair leaves behind (R96, R123, R242) -/

/-- Why a pair waits for a load, an atomic or a spawn that an earlier pair has left behind: it names its register, or
the window is open and an instruction is not runahead-safe. -/
def State.leftHolds (s : State) (words : List (BitVec 32)) : Option Nat :=
  let l := s.ctx.pending.filter (fun q => q.issued && q.kind != .dropped)
  if l.any (fun q => q.dest != 0 && words.any (fun w =>
      (namesOf w).gr.contains q.dest || (namesOf w).gw.contains q.dest)) then some 1
  else if l.any (fun q => q.kind != .spawn) && words.any (fun w => !s.ctx.runaheadSafe w) then some 7
  else none

/-- A load or atomic whose pair has issued is unanswered: its window is open (R242). -/
def Ctx.leftOpen (c : Ctx) : Bool := c.pending.any (fun q => q.issued && (q.kind == .load || q.kind == .atomic))

/-! ### Stalls (R61) -/

/-- A stall leaves nothing of the pair but what the stalling instruction has under way. -/
def State.mergeStall (s t : State) (w : BitVec 32) : State :=
  let far := classOf w == .m || classOf w == .vm || majorOf w == 0x39
  { s with
    stalled := true
    free := t.free
    peers := if far then t.peers else s.peers
    pkg := if far then t.pkg else s.pkg
    core := { t.core with lane := s.core.lane, hoop := s.core.hoop, queues := s.core.queues, undo := s.core.undo }
    ctx := { s.ctx with pending := if far then t.ctx.pending else s.ctx.pending
                        fences := if far then t.ctx.fences else s.ctx.fences
                        wait := t.ctx.wait, stallReason := t.ctx.stallReason, stallQueue := t.ctx.stallQueue
                        stall := s.ctx.stallFrom s.now t.ctx.stallReason } }

/-- A TASK instruction that waits after its pair's first instruction took effect: the first is not issued
again. `t` is the state after the first, `u` the one in which the second waits. DEDUCED, log 38. -/
def State.keepFirst (t u : State) (w : BitVec 32) : State :=
  let m := t.mergeStall u w
  { m with ctx := { m.ctx with skip1 := true } }

/-- The second word reads or writes a register that the first writes. -/
def Ctx.dependsOn (c : Ctx) (w1 w2 : BitVec 32) : Bool :=
  let a := namesOf w1
  let b := namesOf w2
  (Names.live a.gw).any (fun k => b.gr.contains k || b.gw.contains k)
    || a.fw.any (fun k => b.fr.contains k || b.fw.contains k)
    || (predWrites w1).any (fun k => (predReads w2).contains k || (predWrites w2).contains k)
    || (c.targets w1).any (fun r => (c.targets w2).contains r || ((c.sources w2).map (fun x => x.1)).contains r)

/-- R242: an access of the pair may not be left behind: its partner depends on it, or is S-ctl and not runahead-safe,
so that it holds issue until the window closes; nor in a gang. DESIGN CHOICE, log 73. -/
def Ctx.mustWait (c : Ctx) (l : List Issue) : Bool :=
  c.gang || (match l with
    | [x, y] => c.dependsOn x.word y.word
        || [x, y].any (fun it => classOf it.word == .sctl && !c.runaheadSafe it.word)
    | _ => false)

/-! ### Late traps (R242, R244) -/

/-- The core cycle in which the windows and holds on a board have closed. -/
def Ctx.closing (c : Ctx) (t : Nat) : Nat :=
  latest t ((c.board.filter (fun b => b.res == .window || b.res == .hold)).map (fun b => b.due))

/-- R246: a trap recognised n cycles after the cycle in which its shadow was captured: results that were due by
then have committed, and the others are n cycles nearer. `s` is the state before the instruction. DEDUCED, log 42. -/
def State.closeShadow (s v : State) (n : Nat) : State :=
  if s.ctx.system then v
  else
    let old := v.ctx.held.take s.ctx.held.length
    let new := v.ctx.held.drop s.ctx.held.length
    let due := (new.filter (fun r => decide (r.at_ ≤ n))).foldl (fun a r => insertShadow r a) []
    let held := old ++ (new.filter (fun r => decide (n < r.at_))).map (fun r => { r with at_ := r.at_ - n })
    let v := due.foldl State.commit { v with ctx := { v.ctx with held := held } }
    let w := shadowWord held
    { v with ctx := { v.ctx with sfuTrap := none, sfshadow := w, estat := setBit v.ctx.estat 3 (w != 0) } }

/-- R172 to R174 and R242: the pages that an access checks one after another, from the cycle after its issue on; none
for other accesses. -/
def State.checkedPages (s : State) (w : BitVec 32) : Option (List Nat) :=
  if majorOf w = 0x38 ∧ field w.toNat 0 3 ≤ 3 then some (s.imagePagesOf w)
  else if majorOf w = 0x2F then some (pagesOf (s.touched w))
  else none

/-- R237 and R244: the cycles after its issue in which a translation or permission fault of an access is detected,
which closes its window. DEDUCED, log 136. -/
def State.foundAt (s : State) (w : BitVec 32) (r : TrapRec) : Option Nat :=
  if r.cause = cTranslation ∨ r.cause = cPermission then
    (s.checkedPages w).bind (fun l => (l.findIdx? (fun p => p == r.eval.toNat / 65536)).map (fun i => i + 1))
  else none

/-- R242: the row or entry at which the fault of an HCTX instruction stops it. -/
def Ctx.stopsAt (c : Ctx) (w : BitVec 32) : Nat :=
  if majorOf w = 0x38 then (if field w.toNat 0 3 ≤ 1 then c.hcurRow else if field w.toNat 0 3 ≤ 3 then c.vsn else 1024)
  else 1024

/-- A trap of the instruction `it` recognised when its window or hold closes: `s` is the state before the
instruction and `v` the one in which it has trapped with `r`. DEDUCED, log 42, 136. -/
def State.closeLate (s v : State) (it : Issue) (r : TrapRec) : State :=
  let u := s.postBelow v it s.now (v.ctx.stopsAt it.word)
  match s.foundAt it.word r with
  | some n =>
    let t := (s.closeShadow u n).pass n
    { t with ctx := { t.ctx with board := t.ctx.board.filter (fun b => b.res != .window) } }
  | none =>
    let n := u.ctx.closing s.now - s.now
    (s.closeShadow u n).pass n

/-- The older state's value where the newer one still has the one between. -/
def pick {α : Type} [DecidableEq α] (old mid new : α) : α := if new = mid then old else new

/-- ACR's recorded flags clear (R39). -/
def State.flagless (s : State) : State := { s with ctx := { s.ctx with acr := s.ctx.acr &&& ~~~(0x3F00 : Word) } }

/-- R242: the effects of a discarded first instruction taken back: `s` is the state before it, `t` the one after
it and `v` the one in which the second, executed from `t` with no flag recorded, has trapped. DEDUCED, log 85. -/
def State.unrun (s t v : State) : State :=
  { v with
    core := { v.core with
      lane := Vector.zipWith (fun p n => pick p.1 p.2 n) (Vector.zipWith Prod.mk s.core.lane t.core.lane) v.core.lane }
    ctx := { v.ctx with
      g := Vector.zipWith (fun p n => pick p.1 p.2 n) (Vector.zipWith Prod.mk s.ctx.g t.ctx.g) v.ctx.g
      f := Vector.zipWith (fun p n => pick p.1 p.2 n) (Vector.zipWith Prod.mk s.ctx.f t.ctx.f) v.ctx.f
      p := Vector.zipWith (fun p n => pick p.1 p.2 n) (Vector.zipWith Prod.mk s.ctx.p t.ctx.p) v.ctx.p
      dirty := v.ctx.dirty &&& ~~~(t.ctx.dirty &&& ~~~s.ctx.dirty)
      acr := s.ctx.acr ||| v.ctx.acr
      satcnt := s.ctx.satcnt + (v.ctx.satcnt - t.ctx.satcnt)
      undcnt := s.ctx.undcnt + (v.ctx.undcnt - t.ctx.undcnt) } }

/-! ### Taking the effects of a window back (R242) -/

/-- An instruction that reads through a fault window. -/
def isRead (w : BitVec 32) : Bool :=
  (classOf w == .m && decide (majorOf w ≤ 0x1E)) || majorOf w == 0x2E || majorOf w == 0x30

/-- The registers that the words of a list write noted beside those already written since. -/
def Undo.note (u : Undo) (s : State) (words : List (BitVec 32)) : Undo :=
  { u with gs := u.gs ++ (words.map (fun w => (namesOf w).gw)).flatten
           fs := u.fs ++ (words.map (fun w => (namesOf w).fw)).flatten
           ps := u.ps ++ (words.map predWrites).flatten
           entries := u.entries ++ (words.map (fun w => entriesOf (s.writesOf w))).flatten }

/-- R242 and R250: the pair `l` has issued, `s` being the state before it and `t` the one after it: where it reads
through a window that is still open, what its fault would take back is kept; what issues under an open window is
noted. DEDUCED, log 126. -/
def State.withUndo (ex : Instr → State → Out) (s t : State) (l : List Issue) : State :=
  let due := if t.ctx.pending.any (fun q => q.issued && q.kind == .load) then none
    else some (t.ctx.closing s.now)
  match l.find? (fun it => isRead it.word) with
  | some x =>
    if t.ctx.holds = false ∨ due = some s.now then t
    else
      let y := l.find? (fun it => it.addr != x.addr)
      let stands := y.any (fun it => !(s.ctx.runaheadSafe it.word) && classOf it.word != .sctl)
      let second := (l.headD x).addr != x.addr
      let base := match y, stands with
        | some it, true => (match runOne ex s it (!second) with
          | .done v => v
          | _ => s)
        | _, _ => s
      let u : Undo :=
        { bank := s.ctx.bank, pair := s.pairAddr, skip := if stands then (if second then 1 else 2) else 0
          ctx := base.ctx, lane := base.core.lane, gs := [], fs := [], ps := [], entries := [], due := due }
      { t with core := { t.core with
        undo := some (u.note s (if stands then [x.word] else l.map (fun it => it.word))) } }
  | none =>
    match t.core.undo with
    | none => t
    | some u => { t with core := { t.core with undo := some (u.note s (l.map (fun it => it.word))) } }

/-- The elements of a vector at the listed places taken from an older one. -/
def takenBack {α : Type} {n : Nat} (v old : Vector α n) (l : List Nat) : Vector α n :=
  l.foldl (fun v i => match old[i]? with
    | some x => v.setIfInBounds i x
    | none => v) v

/-- R242: what issued at and under an open window leaves no effect. DEDUCED, log 126. -/
def State.undone (s : State) (u : Undo) : State :=
  let c := s.ctx
  let dirty := u.entries.foldl (fun d e =>
    if u.ctx.dirty.getLsbD e then d ||| (1#256 <<< e) else d &&& ~~~(1#256 <<< e)) c.dirty
  { s with
    core := { s.core with lane := takenBack s.core.lane u.lane (u.entries.map (fun e => c.lfBase + e)), undo := none }
    ctx := { c with
      g := takenBack c.g u.ctx.g u.gs, f := takenBack c.f u.ctx.f u.fs, p := takenBack c.p u.ctx.p u.ps
      dirty := dirty, acr := u.ctx.acr, satcnt := u.ctx.satcnt, undcnt := u.ctx.undcnt, vstart := u.ctx.vstart
      lc := u.ctx.lc, first := u.ctx.first, vwb := u.ctx.vwb, vrb := u.ctx.vrb
      convoy := u.ctx.convoy, convoyStart := u.ctx.convoyStart, convoyWords := u.ctx.convoyWords
      chained := u.ctx.chained, replayed := u.ctx.replayed, skip1 := u.ctx.skip1, skip2 := u.ctx.skip2
      snapLane := u.ctx.snapLane, snapPred := u.ctx.snapPred, snapDirty := u.ctx.snapDirty
      snapCounts := u.ctx.snapCounts, snapVs := u.ctx.snapVs }
    pairAddr := u.pair }

/-- A trap of the pair whose window is open (R242, R250). -/
def State.undoTrap (s : State) (u : Undo) (cause : Nat) (eval : Word) : State :=
  let t := (s.undone u).takeTrap cause eval true
  { t with ctx := { t.ctx with
      estat := if u.skip = 0 then t.ctx.estat else setBit t.ctx.estat (if u.skip = 1 then 8 else 9) true } }

/-! ### The broken chain (R67) -/

/-- An instruction of the open convoy, to be executed again. -/
def Ctx.again (c : Ctx) (y : Issued) : Issue :=
  { addr := c.convoyStart + word (4 * y.off), word := y.word, slot := { p := false, c := false, instr := y.instr } }

/-- R67: an element fault of x breaks a chain: the convoy's first chaining instruction has issued. `ahead` holds
the convoy's later instructions that issue before the fault is recognised. DEDUCED, log 41. -/
def State.chainBroken (s : State) (x : Issue) (ahead : List Issue) : Bool :=
  let l := (x :: ahead).map (fun it => s.issued 0 it.word it.slot.instr)
  isVector x.word && (s.ctx.chained || chainedIn [] (s.ctx.convoy ++ l))

/-- The lane file, predicates, DIRTY and counts as the open convoy found them. -/
def State.rewound (s : State) : State :=
  let c := s.ctx
  { s with
    core := c.snapLane.foldl (fun k e => k.putEntry c e.1 e.2) s.core
    ctx := if c.convoy.isEmpty then c
      else { c with p := c.snapPred, dirty := c.snapDirty, acr := c.snapCounts.1, satcnt := c.snapCounts.2.1
                    undcnt := c.snapCounts.2.2, vstart := c.snapVs } }

/-- R67: every vector instruction of a broken chain completes exactly the elements below i, but for a store that
has performed. `l` is the faulting instruction and those that issued after it. DEDUCED, log 37, 41. -/
def rerunChain (ex : Instr → State → Out) (s : State) (l : List Issue) (i : Nat) : State :=
  let c := s.ctx
  let old := (c.convoy.filter (fun y => isVector y.word && !isVstore y.word && !isPosted y.word)).map c.again
  let base := s.rewound
  let base := { base with ctx := { base.ctx with cut := some i } }
  let t := (old ++ l).foldl (fun u it => match runOne ex u it false with
    | .done v => v
    | _ => u) base
  { t with ctx := { t.ctx with cut := none, vstart := word i }, stalled := false }

/-- R67: the trap of a broken chain: it names the convoy's first word, with REPLAY set. DEDUCED, log 37, 41. -/
def breakChain (ex : Instr → State → Out) (s : State) (l : List Issue) (i : Nat) (r : TrapRec) : State :=
  let t := { rerunChain ex s l i with pairAddr := s.ctx.convoyStart }
  let t := (t.reach (t.ctx.closing s.now)).takeTrap r.cause r.eval true r.park
  { t with ctx := { t.ctx with estat := setBit t.ctx.estat 4 true } }

/-- The later instructions of a convoy that execute before a load's fault is recognised: up to the first one that
an open window holds, the final branch apart. DEDUCED, log 41. -/
def Ctx.aheadOf (c : Ctx) (l : List Issue) : List Issue :=
  (l.takeWhile (fun it => c.runaheadSafe it.word)).filter (fun it => isVector it.word || decide (majorOf it.word ≤ 0x0A))

/-- A trap of x recognised late, x issuing alone or its partner apart. -/
def lateTrap (ex : Instr → State → Out) (s : State) (x : Issue) (ahead : List Issue) (t : State) (r : TrapRec) : State :=
  if s.chainBroken x ahead then breakChain ex s (x :: ahead) t.ctx.vsn r else s.closeLate t x r

/-- R67: the element at which a later instruction of the list breaks the chain that a vector store stands in; `done`
has executed since s. DEDUCED, log 41. -/
def chainFault (ex : Instr → State → Out) (s : State) : State → List Issue → List Issue → Option Nat
  | _, _, [] => none
  | t, done, y :: l =>
    match runOne ex t y false with
    | .done u => chainFault ex s u (done ++ [y]) l
    | .trapped u r =>
      let all := s.ctx.convoy ++ (done ++ [y]).map (fun it => s.issued 0 it.word it.slot.instr)
      if r.late && isVector y.word && !isVstore y.word && (s.ctx.chained || chainedIn [] all) then some u.ctx.vsn else none
    | _ => none

/-- R67: what executes the pair: a vector store whose chain breaks later in its convoy makes only its elements below
the break visible. `ahead` holds the convoy's later instructions. DEDUCED, log 41. -/
def shortened (ex : Instr → State → Out) (s : State) (l ahead : List Issue) (i : Instr) (u : State) : Out :=
  if isVstore u.curWord then
    match chainFault ex s s [] (l ++ ahead) with
    | some n =>
      match ex i { u with ctx := { u.ctx with cut := some n } } with
      | .next v => .next { v with ctx := { v.ctx with cut := none } }
      | o => o
    | none => ex i u
  else ex i u

/-! ### The pair -/

/-- A pair's one instruction, or the one that a SKIP bit leaves. -/
def runAlone (ex : Instr → State → Out) (s : State) (x : Issue) (second : Bool) (ahead : List Issue) : PairOut :=
  match runOne ex s x second with
  | .done t => .done t
  | .stalled t => .stall (s.mergeStall t x.word)
  | .trapped t r => .trap (if r.late then lateTrap ex s x ahead t r else t)
  | .stop o => .stop o

/-- The second instruction of a pair, once the first has answered `t`; `s` is the state before both.
DEDUCED, log 85. -/
def runSecond (ex : Instr → State → Out) (s t : State) (x y : Issue) (ahead : List Issue) : PairOut :=
  match runOne ex t y true with
  | .done u => .done u
  | .stop o => .stop o
  | .stalled u => .stall (if majorOf y.word = 0x39 then t.keepFirst u y.word else s.mergeStall u y.word)
  | .trapped u r =>
    .trap (
      if r.row then
        -- R158: the rows below the faulting one stand, and the first instruction leaves nothing (R61)
        match runOne ex s y true with
        | .trapped v _ => v
        | _ => s.takeTrap r.cause r.eval false r.park
      else if r.late = false then s.takeTrap r.cause r.eval false r.park
      else if t.chainBroken y ahead then breakChain ex t (y :: ahead) u.ctx.vsn r
      else if s.ctx.runaheadSafe x.word then
        match runOne ex t.flagless y true with
        | .trapped v q => s.unrun t (t.closeLate v y q)
        | _ => s.unrun t (t.closeLate u y r)
      else
        let v := t.closeLate u y r
        { v with ctx := { v.ctx with estat := setBit v.ctx.estat 8 true } })

/-- The first instruction of a pair has trapped late: its partner is discarded where it is runahead-safe, S-ctl
or dependent, and otherwise took effect at its issue and stands (R242). DEDUCED, log 85. -/
def firstLate (ex : Instr → State → Out) (s : State) (x y : Issue) (ahead : List Issue) (t : State) (r : TrapRec) : PairOut :=
  let gone := PairOut.trap (s.closeLate t x r)
  let after := if isVector y.word then y :: s.ctx.aheadOf ahead else s.ctx.aheadOf (y :: ahead)
  if s.chainBroken x after then .trap (breakChain ex s (x :: after) t.ctx.vsn r)
  else if s.ctx.runaheadSafe y.word || classOf y.word == .sctl || s.ctx.dependsOn x.word y.word then gone
  else
    match runOne ex s y true with
    | .stop o => .stop o
    | .stalled u => .stall (s.mergeStall u y.word)
    | .trapped u q => if q.late then gone else .trap u
    | .done u =>
      match runOne ex u x false with
      | .trapped v q =>
        let w := u.closeLate v x q
        .trap { w with ctx := { w.ctx with estat := setBit w.ctx.estat 9 true } }
      | _ => gone

/-- R61: both instructions of a pair. A memory access performs only when the other instruction can no longer
trap. DESIGN CHOICE, log 110. -/
def runBoth (ex : Instr → State → Out) (s : State) (x y : Issue) (ahead : List Issue) : PairOut :=
  match runOne ex s x false with
  | .stop o => .stop o
  | .stalled t =>
    let first := PairOut.stall (s.mergeStall t x.word)
    if classOf x.word = .m ∧ s.ctx.dependsOn x.word y.word = false then
      match runOne ex s y true with
      | .trapped u q => if q.late then first else .trap u
      | _ => first
    else first
  | .trapped t r => if r.late then firstLate ex s x y ahead t r else .trap t
  | .done t => runSecond ex s t x y ahead

/-- The pair's instructions, but for those that a SKIP bit marks as done (R111). DESIGN CHOICE, log 22. -/
def runPair (ex : Instr → State → Out) (s : State) (l : List Issue) (ahead : List Issue) : PairOut :=
  let run := shortened ex s l ahead
  let far := if l.any (fun it => isVload it.word) then s.ctx.aheadOf ahead else []
  match l with
  | [] => .done s
  | [x] => if s.ctx.skip1 then .done s else runAlone run s x false far
  | x :: y :: _ =>
    if s.ctx.skip1 ∧ s.ctx.skip2 then .done s
    else if s.ctx.skip1 then runAlone run s y true far
    else if s.ctx.skip2 then runAlone run s x false far
    else runBoth run s x y far

/-! ### After the pair -/

/-- `eret`, whose pair resumes another (R111). -/
def isEret (w : BitVec 32) : Bool := majorOf w == 0x14 && field w.toNat 0 6 == 1

/-- `yield` (R113). -/
def isYield (w : BitVec 32) : Bool := majorOf w == 0x14 && field w.toNat 0 6 == 3

/-- A pair has completed: an active loop's body may end (R107), a word with C set or a transfer ends the convoy
(R62), and issue goes on behind it. -/
def State.finishPair (s : State) (l : List Issue) : State :=
  let last := l.getLastD { addr := s.pairAddr, word := 0, slot := { p := false, c := false, instr := .nop } }
  let s := if s.taken = false ∧ s.ctx.endsBody last.addr = true then s.endIteration else s
  let ends := bitC last.word || s.taken
  let back := isEret last.word && s.taken
  let c := s.ctx
  let c := if c.holds = false ∨ c.stopped = true then c
    else { c with
      pc := s.npc, stall := 0, atYield := isYield last.word
      skip1 := back && c.skip1, skip2 := back && c.skip2
      convoy := if ends then [] else c.convoy
      convoyWords := if ends then 0 else c.convoyWords
      chained := if ends then false else c.chained
      snapLane := if ends then [] else c.snapLane
      vstart := if ends && c.replayed && !back then 0 else c.vstart
      replayed := c.replayed && (back || !ends) }
  { s with ctx := c, trap := none, stalled := false, taken := false, switch := false }

/-- R97: the cycles to the next pair's issue after a pair. -/
def State.gapAfter (s : State) (l : List Issue) : Nat := nextGap ((l.getLast?).elim 0 (fun it => it.word)) s.taken

/-- The next pair issues R97's cycles later, or on the other bank after every shadow result of this one has committed
and 4 cycles in which neither issues (R126, R253, R398). -/
def State.completePair (s : State) (l : List Issue) : State :=
  let t := s.finishPair l
  if s.switch then ((t.pass 1).shadowsDone.pass 4).swapBanks else t.pass (s.gapAfter l)

/-- An access whose pair has trapped: the reply of a load or an atomic that is still to come is discarded when it
arrives. DESIGN CHOICE, log 43. -/
def Pending.drop (q : Pending) : Option Pending :=
  if q.kind = .dropped then some q
  else if q.kind = .spawn ∧ q.issued = true then some q
  else if (q.kind = .load ∨ q.kind = .atomic) ∧ q.answer = none then some { q with kind := .dropped }
  else none

/-- A pair has trapped: issue goes on at the handler, whose first word begins a convoy. -/
def State.afterTrap (s : State) : State :=
  { s with
    ctx := { s.ctx with pc := s.npc, convoy := [], convoyWords := 0, chained := false, replayed := false, snapLane := []
                        stall := 0, board := [], atYield := false
                        pending := s.ctx.pending.filterMap Pending.drop }
    core := { s.core with undo := none }
    trap := none, stalled := false, taken := false, switch := false }

/-- R244: the core cycles from the recognition of a trap to its handler's first pair: the drain, one cycle to the
trap registers, and two more. -/
def State.entryTime (s : State) : Nat := (s.ctx.drained s.now - s.now) + 3

/-- The two together. -/
def State.settleTrap (s : State) : State := s.afterTrap.pass s.entryTime

/-- What the answer to a load or atomic that its pair has left behind comes to: its result, or the trap of its pair
(R178, R181, R242). -/
def State.takeAnswer (s : State) (q : Pending) (a : Answer) : State :=
  let t := s.settle q
  if q.kind = .atomic then t.responded q a
  else
    match t.loaded q a, s.core.undo with
    | .ok v, _ => { v with core := { v.core with undo := none } }
    | .error (.late v c e), some u => (v.undoTrap u c e).settleTrap
    | .error (.late v c e), none => (v.takeTrap c e true).settleTrap
    | .error _, _ => t

/-- The oldest load or atomic that its pair has left behind and that is answered. -/
def Ctx.answeredLeft (c : Ctx) : Option (Pending × Answer) :=
  c.pending.findSome? (fun q =>
    if q.issued && (q.kind == .load || q.kind == .atomic) then q.answer.map (fun a => (q, a)) else none)

/-- The state in which a pair at pc begins to issue. -/
def State.startPair (s : State) (next : Word) : State :=
  { s with pairAddr := s.ctx.pc, npc := next, trap := none, stalled := false, taken := false, switch := false }

end Sys2Proof.Machine
end

