-- ==== Sys2Proof/Machine/Members.lean ====
section
/-! DEFINITION. The instructions that have a word, as a pair issues them. The events of the part are not
issued: here they do nothing. -/

namespace Sys2Proof.Machine

/-- The meaning of an instruction that a pair holds. -/
def runInstr (i : Instr) (s : State) : Out :=
  match i with
  | .add d a b => execAdd d a b s
  | .sub d a b => execSub d a b s
  | .and_ d a b => execAnd d a b s
  | .or_ d a b => execOr d a b s
  | .xor_ d a b => execXor d a b s
  | .andn d a b => execAndn d a b s
  | .orn d a b => execOrn d a b s
  | .sll d a b => execSll d a b s
  | .srl d a b => execSrl d a b s
  | .sra d a b => execSra d a b s
  | .rol d a b => execRol d a b s
  | .ror d a b => execRor d a b s
  | .slt d a b => execSlt d a b s
  | .sltn d a b => execSltn d a b s
  | .min d a b => execMin d a b s
  | .max d a b => execMax d a b s
  | .minn d a b => execMinn d a b s
  | .maxn d a b => execMaxn d a b s
  | .mul d a b => execMul d a b s
  | .mulh d a b => execMulh d a b s
  | .mulhn d a b => execMulhn d a b s
  | .div d a b => execDiv d a b s
  | .divn d a b => execDivn d a b s
  | .rem d a b => execRem d a b s
  | .remn d a b => execRemn d a b s
  | .clz d a => execClz d a s
  | .ctz d a => execCtz d a s
  | .popc d a => execPopc d a s
  | .bext d a b => execBext d a b s
  | .bdep d a b => execBdep d a b s
  | .sext d a n => execSext d a n s
  | .zext d a n => execZext d a n s
  | .addi d a imm => execAddi d a imm s
  | .andi d a imm => execAndi d a imm s
  | .ori d a imm => execOri d a imm s
  | .xori d a imm => execXori d a imm s
  | .slli d a sh => execSlli d a sh s
  | .srli d a sh => execSrli d a sh s
  | .srai d a sh => execSrai d a sh s
  | .rori d a sh => execRori d a sh s
  | .slti d a imm => execSlti d a imm s
  | .sltni d a imm => execSltni d a imm s
  | .lui d imm => execLui d imm s
  | .pcadd d imm => execPcadd d imm s
  | .beq a b off => execBeq a b off s
  | .bne a b off => execBne a b off s
  | .blt a b off => execBlt a b off s
  | .bge a b off => execBge a b off s
  | .bltn a b off => execBltn a b off s
  | .bgen a b off => execBgen a b off s
  | .jal off => execJal off s
  | .jalr d a imm => execJalr d a imm s
  | .loop len a stg rote => execLoop len a stg rote s
  | .trap a => execTrap a s
  | .eret => execEret s
  | .wfe => execWfe s
  | .yield => execYield s
  | .halt => execHalt s
  | .brk => execBrk s
  | .nop => execNop s
  | .ifence => execIfence s
  | .kread d k => execKread d k s
  | .kwrite d k => execKwrite d k s
  | .kset d k => execKset d k s
  | .kclr d k => execKclr d k s
  | .ldb d a off => execLdb d a off s
  | .ldh d a off => execLdh d a off s
  | .ldw d a off => execLdw d a off s
  | .ldd d a off => execLdd d a off s
  | .ldbn d a off => execLdbn d a off s
  | .ldhn d a off => execLdhn d a off s
  | .ldwn d a off => execLdwn d a off s
  | .stb d a off => execStb d a off s
  | .sth d a off => execSth d a off s
  | .stw d a off => execStw d a off s
  | .std d a off => execStd d a off s
  | .ldacqb d a scope => execLdacqb d a scope s
  | .ldacqh d a scope => execLdacqh d a scope s
  | .ldacqw d a scope => execLdacqw d a scope s
  | .ldacqd d a scope => execLdacqd d a scope s
  | .strelb d a scope => execStrelb d a scope s
  | .strelh d a scope => execStrelh d a scope s
  | .strelw d a scope => execStrelw d a scope s
  | .streld d a scope => execStreld d a scope s
  | .amoswap d a b scope => execAmoswap d a b scope s
  | .amoadd d a b scope => execAmoadd d a b scope s
  | .amoand d a b scope => execAmoand d a b scope s
  | .amoor d a b scope => execAmoor d a b scope s
  | .amoxor d a b scope => execAmoxor d a b scope s
  | .amomax d a b scope => execAmomax d a b scope s
  | .amomin d a b scope => execAmomin d a b scope s
  | .amomaxn d a b scope => execAmomaxn d a b scope s
  | .amorswap d a b scope => execAmorswap d a b scope s
  | .amoradd d a b scope => execAmoradd d a b scope s
  | .amorand d a b scope => execAmorand d a b scope s
  | .amoror d a b scope => execAmoror d a b scope s
  | .amorxor d a b scope => execAmorxor d a b scope s
  | .amormax d a b scope => execAmormax d a b scope s
  | .amormin d a b scope => execAmormin d a b scope s
  | .amormaxn d a b scope => execAmormaxn d a b scope s
  | .cas d a b scope => execCas d a b scope s
  | .fenceAcq scope => execFenceAcq scope s
  | .fenceRel scope => execFenceRel scope s
  | .fenceAcqrel scope => execFenceAcqrel scope s
  | .binit a n => execBinit a n s
  | .barrive d n => execBarrive d n s
  | .bwait d a n => execBwait d a n s
  | .bsync d n => execBsync d n s
  | .bxch d n => execBxch d n s
  | .btest d n => execBtest d n s
  | .bbind a n => execBbind a n s
  | .publish d a => execPublish d a s
  | .pubwait d a b => execPubwait d a b s
  | .fadd d a b z => execFadd d a b z s
  | .fsub d a b z => execFsub d a b z s
  | .fmul d a b z => execFmul d a b z s
  | .fdiv d a b z => execFdiv d a b z s
  | .fsqrt d a z => execFsqrt d a z s
  | .fmadd d a b z => execFmadd d a b z s
  | .fmin d a b z => execFmin d a b z s
  | .fmax d a b z => execFmax d a b z s
  | .feq d a b z => execFeq d a b z s
  | .flt d a b z => execFlt d a b z s
  | .fle d a b z => execFle d a b z s
  | .fcvt d a code z => execFcvt d a code z s
  | .fmvg d a z => execFmvg d a z s
  | .fmvf d a z => execFmvf d a z s
  | .fclass d a z => execFclass d a z s
  | .fsgnj d a b z => execFsgnj d a b z s
  | .vadd d a b pr => execVadd d a b pr s
  | .vsub d a b pr => execVsub d a b pr s
  | .vmul d a b pr => execVmul d a b pr s
  | .vmulh d a b pr => execVmulh d a b pr s
  | .vmin d a b pr => execVmin d a b pr s
  | .vmax d a b pr => execVmax d a b pr s
  | .vminn d a b pr => execVminn d a b pr s
  | .vmaxn d a b pr => execVmaxn d a b pr s
  | .vand d a b pr => execVand d a b pr s
  | .vor d a b pr => execVor d a b pr s
  | .vxor d a b pr => execVxor d a b pr s
  | .vandn d a b pr => execVandn d a b pr s
  | .vsll d a b pr => execVsll d a b pr s
  | .vsrl d a b pr => execVsrl d a b pr s
  | .vsra d a b pr => execVsra d a b pr s
  | .vrol d a b pr => execVrol d a b pr s
  | .vfadd d a b pr => execVfadd d a b pr s
  | .vfsub d a b pr => execVfsub d a b pr s
  | .vfmul d a b pr => execVfmul d a b pr s
  | .vfmin d a b pr => execVfmin d a b pr s
  | .vfmax d a b pr => execVfmax d a b pr s
  | .vfmacc d a b pr => execVfmacc d a b pr s
  | .vfnmacc d a b pr => execVfnmacc d a b pr s
  | .vfdiv d a b pr => execVfdiv d a b pr s
  | .vfsqrt d a pr => execVfsqrt d a pr s
  | .vfabs d a pr => execVfabs d a pr s
  | .vfneg d a pr => execVfneg d a pr s
  | .vabs d a pr => execVabs d a pr s
  | .vneg d a pr => execVneg d a pr s
  | .vnot d a pr => execVnot d a pr s
  | .vclz d a pr => execVclz d a pr s
  | .vpopc d a pr => execVpopc d a pr s
  | .vceq d a b pr => execVceq d a b pr s
  | .vcne d a b pr => execVcne d a b pr s
  | .vclt d a b pr => execVclt d a b pr s
  | .vcle d a b pr => execVcle d a b pr s
  | .vcltn d a b pr => execVcltn d a b pr s
  | .vclen d a b pr => execVclen d a b pr s
  | .vcflt d a b pr => execVcflt d a b pr s
  | .vcfle d a b pr => execVcfle d a b pr s
  | .vexp2 d a pr => execVexp2 d a pr s
  | .vrcp d a pr => execVrcp d a pr s
  | .vrsq d a pr => execVrsq d a pr s
  | .vlog2 d a pr => execVlog2 d a pr s
  | .vtanh d a pr => execVtanh d a pr s
  | .vsin d a pr => execVsin d a pr s
  | .vcos d a pr => execVcos d a pr s
  | .verf d a pr => execVerf d a pr s
  | .vrsum d a pr => execVrsum d a pr s
  | .vrfsum d a pr => execVrfsum d a pr s
  | .vrmax d a pr => execVrmax d a pr s
  | .vrmin d a pr => execVrmin d a pr s
  | .vramax d a pr => execVramax d a pr s
  | .vrand d a pr => execVrand d a pr s
  | .vror d a pr => execVror d a pr s
  | .vrxor d a pr => execVrxor d a pr s
  | .vgather d a b pr => execVgather d a b pr s
  | .vslideup d a b pr => execVslideup d a b pr s
  | .vslidedn d a b pr => execVslidedn d a b pr s
  | .vcompress d a pr => execVcompress d a pr s
  | .vexpand d a pr => execVexpand d a pr s
  | .vzip d a b pr => execVzip d a b pr s
  | .vunzip d a pr => execVunzip d a pr s
  | .vbcast d a b pr => execVbcast d a b pr s
  | .vshlw d a b => execVshlw d a b s
  | .vshrw d a b => execVshrw d a b s
  | .vfunl d a b => execVfunl d a b s
  | .vfunr d a b => execVfunr d a b s
  | .vrevb d a pr => execVrevb d a pr s
  | .vbswap d a pr => execVbswap d a pr s
  | .vclzw d a => execVclzw d a s
  | .vpopw d a => execVpopw d a s
  | .vcvt d a q tag pr => execVcvt d a q tag pr s
  | .vcvts d a q tag pr => execVcvts d a q tag pr s
  | .vpack d a b pr => execVpack d a b pr s
  | .vunpack d a b pr => execVunpack d a b pr s
  | .vretag d a tag => execVretag d a tag s
  | .vdeq d a b pr => execVdeq d a b pr s
  | .vqnt d a b pr => execVqnt d a b pr s
  | .vround d a pr => execVround d a pr s
  | .vbamax d a q tag pr => execVbamax d a q tag pr s
  | .vbscale d a q tag pr => execVbscale d a q tag pr s
  | .vbqnt d a q tag pr => execVbqnt d a q tag pr s
  | .vdot4s d a b pr => execVdot4s d a b pr s
  | .vdot2f d a b pr => execVdot2f d a b pr s
  | .vsladd d a b pr => execVsladd d a b pr s
  | .vslsub d a b pr => execVslsub d a b pr s
  | .vslmul d a b pr => execVslmul d a b pr s
  | .vsldiv d a b pr => execVsldiv d a b pr s
  | .vslmed d a b pr => execVslmed d a b pr s
  | .vslcvt d a b pr => execVslcvt d a b pr s
  | .vslcanon d a pr => execVslcanon d a pr s
  | .vslcmp d a b pr => execVslcmp d a b pr s
  | .vmv d a pr => execVmv d a pr s
  | .vsplat d a pr => execVsplat d a pr s
  | .vextg d a b => execVextg d a b s
  | .vinsg d a b => execVinsg d a b s
  | .vid d pr => execVid d pr s
  | .vmovxRead d b => execVmovxRead d b s
  | .vmovxWrite a b => execVmovxWrite a b s
  | .vmskv d a => execVmskv d a s
  | .vmvp d a => execVmvp d a s
  | .vsetvl d a b => execVsetvl d a b s
  | .vcoll d a b => execVcoll d a b s
  | .vldu d a mk mfc => execVldu d a mk mfc s
  | .vlds d a b mk mfc => execVlds d a b mk mfc s
  | .vldx d a b mk mfc => execVldx d a b mk mfc s
  | .vstu d a mk mfc uo => execVstu d a mk mfc uo s
  | .vsts d a b mk mfc uo => execVsts d a b mk mfc uo s
  | .vstx d a b mk mfc uo => execVstx d a b mk mfc uo s
  | .vldtr d a b mk mfc => execVldtr d a b mk mfc s
  | .vldwin d a b mk mfc => execVldwin d a b mk mfc s
  | .vldz d a b mfc => execVldz d a b mfc s
  | .cpy d a b => execCpy d a b s
  | .cpyt d a b => execCpyt d a b s
  | .cpymc d a b => execCpymc d a b s
  | .cpyh d a b => execCpyh d a b s
  | .cpycancel d a => execCpycancel d a s
  | .tmset a n => execTmset a n s
  | .tmwalk d n => execTmwalk d n s
  | .tmstep d a n => execTmstep d a n s
  | .qlen d a => execQlen d a s
  | .qflush a => execQflush a s
  | .qpeek d a => execQpeek d a s
  | .hrank sel a b => execHrank sel a b s
  | .hranks sel a b => execHranks sel a b s
  | .hrankx sel a b => execHrankx sel a b s
  | .hrankg sel a b => execHrankg sel a b s
  | .hget sel a => execHget sel a s
  | .hput sel a => execHput sel a s
  | .hzero sel tag => execHzero sel tag s
  | .hacc sel a => execHacc sel a s
  | .hbiasc sel a => execHbiasc sel a s
  | .hbiasr sel a => execHbiasr sel a s
  | .hscalc sel a => execHscalc sel a s
  | .hrelu sel => execHrelu sel s
  | .hclamp sel a => execHclamp sel a s
  | .hrq sel a tag => execHrq sel a tag s
  | .hsumsq sel a => execHsumsq sel a s
  | .hnorm sel a => execHnorm sel a s
  | .hexp2 sel => execHexp2 sel s
  | .hrcp sel => execHrcp sel s
  | .htanh sel => execHtanh sel s
  | .hrsq sel => execHrsq sel s
  | .hsave sel a b => execHsave sel a b s
  | .hrest sel a b => execHrest sel a b s
  | .vsave a b => execVsave a b s
  | .vrest a b => execVrest a b s
  | .hdmap sel a => execHdmap sel a s
  | .tspawn d a b => execTspawn d a b s
  | .tend a => execTend a s
  | .tyield => execTyield s
  | .tbank => execTbank s
  | .gjoin => execGjoin s
  | .gleave => execGleave s
  | .trec d a => execTrec d a s
  | .loopEndIteration .. | .queueTimeout .. | .watchdog .. | .timer .. | .takeInterrupt .. | .trapEntry ..
  | .faultWindowClose .. | .scalarResultWrite .. | .slashResult .. | .scalarLoadReply .. | .atomicResponse ..
  | .vectorGroupWrite .. | .vectorLoadData .. | .sfuCommit .. | .hsfuCommit .. | .latchCommit ..
  | .hoopRowLand .. | .freezeBegin .. | .lateReplyArrival .. | .correctedError .. | .correctionFreezeEnd ..
  | .freezeTimeout .. | .uncorrectableError .. | .bankSwitch .. | .preempt .. | .contextSave ..
  | .contextRestore .. | .wfeWake .. | .barrierWaitRelease .. | .bxchArrival .. | .binitTeamComplete ..
  | .gjoinRendezvous .. | .tyieldRendezvous .. | .pubwaitSatisfied .. | .publishAck ..
  | .gangBroadcastExecute .. | .gangFail .. | .copyLineLand .. | .copyComplete .. | .cpytStart ..
  | .cpyhStart .. | .lineWrite .. | .partialWrite .. | .readRequest .. | .atomicPacket .. | .readReply ..
  | .atomicOrErrorReply .. | .orderAcknowledgement .. | .knotAdvance .. | .knotFrame .. | .beacon ..
  | .cutAdvance .. | .removalNotice .. | .reservedKindFlit .. | .heldPacketRelease .. | .beaconSend ..
  | .forwardEntryLeave .. | .atomicReplyTimeout .. | .knotReset .. | .cutRequest .. | .granulePreserve ..
  | .snapshotCopierStream .. | .snapshotComplete .. | .freqSwitchFreeze .. | .freqSwitchResume ..
  | .retentionEntry .. | .retentionExit .. | .scrub .. | .tinvAsn .. | .tinvVpn .. | .tinvAll ..
  | .tinvVpnEveryAsn .. | .invalidationComplete .. | .pans .. | .prtailWrite .. | .notify .. | .slotMap ..
  | .slotUnmap .. | .slotWritebackComplete .. | .takeRecord .. | .aliasRetire .. | .taskPlace ..
  | .taskPromote .. | .strandStart .. | .memberStop .. | .addressSpaceDestroy .. | .level3 .. | .clock ..
  | .remove .. | .reset .. | .fwload .. | .snapshot .. | .svnset .. | .wake .. | .registerWrite ..
  | .powerWindow .. | .powerOn .. | .perstPackage .. | .perstLink .. | .firmwareVerify .. | .linkTraining ..
  | .level2Entry .. | .getVersion .. | .getCapabilities .. | .negotiateAlgorithms .. | .getDigests ..
  | .getCertificate .. | .challenge .. | .getMeasurements .. | .hostWrite .. | .hostRead ..
  | .hostCompletionTimeout .. | .rdmaWriteInbound .. | .rdmaReadInbound .. | .rdmaNak .. | .illegalOpcode ..
  | .fetchFault .. | .spawnRecordAccept .. | .fconsWrite .. | .rconsWrite .. | .d3hot .. | .autoNegotiation ..
  | .priorityFlowControl ..
    => .next s

end Sys2Proof.Machine
end

