-- ==== Sys2Proof/Machine/Gang.lean ====
section
/-! DEFINITION. A trap that no instruction raises, taken by a strand or by its whole gang (R244, R273), and the
execution of a broadcast pair in every member of a gang (R268 to R271, R273). -/

namespace Sys2Proof.Machine

/-! ### The members of a gang -/

/-- The running strand, or every member of its gang in member order, by core and bank. DESIGN CHOICE, log 97. -/
def State.mates (s : State) : List (Nat × Nat) :=
  if s.ctx.gang then s.teamCores.filterMap (fun k => (s.bankOf k s.ctx.taskh).map (fun b => (k, b)))
  else [(s.coreNo, s.ctx.bank)]

/-- The contexts of `mates`. -/
def State.mateCtxs (s : State) : List Ctx := s.mates.map (fun k => (s.coreAt k.1).bankCtx k.2)

/-- A pair of the running strand's gang waits to be executed. -/
def State.broadcasting (s : State) : Bool := s.ctx.gang && s.pkg.gangs.any (fun g => g.handle == s.ctx.taskh)

/-- Core k's time set to a core cycle. DESIGN CHOICE, log 6. -/
def State.setClock (s : State) (k t : Nat) : State :=
  let p := s.coreAt k
  let f := p.core.freeze
  s.setCoreAt k { p with core := { p.core with
    clock := t, freeze := { f with later := f.later.filter (fun r => decide (t < r.1)) } } }

/-- Time passes for the running strand and, in a gang, for the other members with it (R268). -/
def State.passTeam (s : State) (mates : List (Nat × Nat)) (n : Nat) : State :=
  let others := mates.filter (fun k => k.1 != s.coreNo)
  -- R272: a late reply of a member holds every member
  let later := (others.map (fun k => (s.coreAt k.1).core.freeze.later)).flatten
  let f := s.core.freeze
  let u := if later.isEmpty then s else { s with core := { s.core with freeze := { f with later := f.later ++ later } } }
  let t := u.pass n
  others.foldl (fun t k => t.setClock k.1 t.core.clock) t

/-- R268: the broadcast lag of the running strand's gang; 0 outside one. -/
def State.gangLag (s : State) : Nat := if s.ctx.gang then lagOf (s.mates.map (fun k => k.1)) else 0

/-- The running strand's pending broadcast is withdrawn. -/
def State.dropBroadcast (s : State) : State :=
  { s with pkg := { s.pkg with gangs := s.pkg.gangs.filter (fun g => g.handle != s.ctx.taskh) } }

/-! ### Traps of a whole gang (R273) -/

/-- A trap that a strand, or every member of its gang, takes at the next pair: `own` is a member's EVAL and fault
request, by its core, and none for a member that has not faulted; `epc` and `fix` give EPC and what is particular
to the trap. DEDUCED, log 36. -/
def State.allTrap (s : State) (cause : Nat) (own : Nat → Option (Word × Option Park))
    (epc : Ctx → Word := fun c => c.pc) (fix : Ctx → Ctx := fun c => c) : State :=
  let mates := s.mates
  let n := mates.foldl (fun n k => Nat.max n (s.inCtxWith k.1 k.2 (fun u => (u, u.entryTime))).2) 0
  let parks := mates.any (fun k => (own k.1).any (fun o => o.2.isSome))
  let t := mates.foldl (fun t k => t.inCtx k.1 k.2 (fun u =>
    let u := { u.startPair u.ctx.pc with pairAddr := epc u.ctx }
    let v := match own k.1 with
      | some (e, p) => u.takeTrap cause e false p
      | none =>
        let v := u.takeTrap cause 0
        { v with ctx := { v.ctx with g := u.ctx.g } }
    { v with ctx := { fix v.ctx with parkedWith := parks && v.ctx.parked.isNone } }.afterTrap)) s
  -- R268: the handler's first pair executes Λ cycles after the sequencer issues it
  t.dropBroadcast.passTeam mates (n + s.gangLag)

/-- A trap of the running strand alone, which its gang takes with it. -/
def State.trapNow (s : State) (cause : Nat) (eval : Word) : State :=
  s.allTrap cause (fun k => if k = s.coreNo then some (eval, none) else none)

/-! ### Uniform operands (R269) -/

/-- The g registers of a word that are read from the sequencer. -/
def uniformRegs (w : BitVec 32) : List Nat :=
  let mj := majorOf w
  let a := field w.toNat 12 6
  let b := field w.toNat 6 6
  let k := field w.toNat 0 12
  let f3 := field w.toNat 0 3
  if 0x0B ≤ mj ∧ mj ≤ 0x13 then (namesOf w).gr
  else if mj = 0x15 ∧ field w.toNat 16 2 ≠ 0 ∧ (k ≤ 6 ∨ k = 8) then [field w.toNat 18 6]
  else if mj = 0x2D then [a, b]
  else if mj = 0x27 ∧ (f3 = 1 ∨ f3 = 2 ∨ f3 = 7) then [b]
  else if mj = 0x2C ∧ f3 = 2 then [b]
  else if mj = 0x2C ∧ f3 = 3 then [a, b]
  else []

/-- A context's g registers of a list taken from another. -/
def Ctx.borrow (c lead : Ctx) (l : List Nat) : Ctx := l.foldl (fun c k => c.setG k (lead.gAt k)) c

/-- A TASK instruction: in a gang its effect is the sequencer's alone, but for `trec` (R269); `gjoin` finds its
gang joined. DEDUCED, log 38. -/
def memberSkips (lead : Bool) (w : BitVec 32) : Bool :=
  majorOf w == 0x39 && (field w.toNat 0 6 == 4 || (!lead && field w.toNat 0 6 != 6))

/-- The meaning of an instruction in a member, with the sequencer's uniform operands. -/
def memberExec (leader : Ctx) (lead : Bool) (i : Instr) (s : State) : Out :=
  if memberSkips lead s.curWord then .next s
  else
    let l := (uniformRegs s.curWord).filter (fun k => k != 0)
    let kept := l.filter (fun k => !(namesOf s.curWord).gw.contains k)
    match runInstr i { s with ctx := s.ctx.borrow leader l } with
    | .next t => .next { t with ctx := t.ctx.borrow s.ctx kept }
    | o => o

/-! ### One instruction in every member -/

/-- What an instruction of a broadcast pair came to in one member. -/
structure MemberOut where
  core : Nat
  npc : Word
  taken : Bool
  fault : Option (Nat × TrapRec)  -- VSTART as the fault left it, and the trap
  deriving DecidableEq, Repr

/-- The members as they stand, kept for the instructions that cross elements (R271). -/
def State.snapGang (s : State) (mates : List (Nat × Nat)) : State :=
  { s with pkg := { s.pkg with gangs := s.pkg.gangs.map (fun g =>
      if g.handle = s.ctx.taskh then { g with snap := mates.map (fun k => (k.1, s.coreAt k.1)) } else g) } }

/-- An instruction executed in every member, in member order. With `cut`, only the elements below it. A member
that faults is left as it was, and so is one on a core of `without`. DESIGN CHOICE, log 39, 97. -/
def State.gangPhase (s : State) (mates : List (Nat × Nat)) (it : Issue) (second : Bool) (cut : Option Nat)
    (without : List Nat := []) : State × List MemberOut :=
  let s := s.snapGang mates
  let leader := (s.mateCtxs).headD s.ctx
  let first := (mates.headD (0, 0)).1
  mates.foldl (fun (acc : State × List MemberOut) k =>
    let r := acc.1.inCtxWith k.1 k.2 (fun u =>
      if without.contains k.1 then (u, { core := k.1, npc := u.npc, taken := false, fault := none })
      else
      match runOne (memberExec leader (k.1 == first)) { u with ctx := { u.ctx with cut := cut } } it second with
      | .done t =>
        ({ t with ctx := { t.ctx with cut := none } },
         { core := k.1, npc := t.npc, taken := t.taken, fault := none })
      | .trapped t q => (u, { core := k.1, npc := u.npc, taken := false, fault := some (t.ctx.vsn, q) })
      | _ => (u, { core := k.1, npc := u.npc, taken := false, fault := none }))
    (r.1, acc.2 ++ [r.2])) (s, [])

/-! ### The broadcast pair (R268, R270, R273) -/

/-- What a pair would come to in one member alone. -/
inductive Probe where
  | go | stall | trap (r : TrapRec)
  deriving DecidableEq, Repr

/-- R270: whether a member can execute the pair: a stall leaves what the stalling instruction has under way, and
nothing else leaves anything. Each instruction comes with the sequencer's registers as it finds them. -/
def State.probe (u : State) (lead : Bool) (l : List (Issue × Bool × Ctx)) : State × Probe :=
  let wait (r : Nat) : State :=
    { u with ctx := { u.ctx with stallReason := r, stall := u.ctx.stallFrom u.now r } }
  let check (t : State) (it : Issue) (second : Bool) (leader : Ctx) : Except (State × Probe) State :=
    match runOne (memberExec leader lead) t it second with
    | .done v => .ok v
    | .stalled v => .error ({ u.mergeStall v it.word with stalled := u.stalled }, .stall)
    | .trapped _ r => if r.late then .ok t else .error (u, .trap r)
    | .stop _ => .ok t
  match u.copyHolds (l.map (fun x => x.1.word)) with
  | some r => (wait r, .stall)
  | none =>
    match l.foldl (fun (acc : Except (State × Probe) State) x => match acc with
      | .error e => .error e
      | .ok t => check t x.1 x.2.1 x.2.2) (.ok u) with
    | .error e => e
    | .ok _ => ({ u with ctx := { u.ctx with stall := 0 } }, .go)

/-- R61 and R269: a part of a pair, each instruction with the sequencer's registers as it finds them; `u` is the
sequencer's state. -/
def State.asLed (u : State) : List (Issue × Bool) → List (Issue × Bool × Ctx)
  | [] => []
  | x :: l => (x.1, x.2, u.ctx) :: (match runOne (memberExec u.ctx true) u x.1 x.2 with
    | .done v => v.asLed l
    | _ => u.asLed l)

/-- The lowest member's fault decides the cause; the members that share it keep their own EVAL and request. -/
def ownFaults (l : List (Nat × TrapRec)) : Nat × (Nat → Option (Word × Option Park)) :=
  let cause := (l.head?).elim 0 (fun x => x.2.cause)
  (cause, fun k => match l.find? (fun x => x.1 == k) with
    | some x => if x.2.cause = cause then some (x.2.eval, x.2.park) else none
    | none => none)

/-- A change made in every member. -/
def State.eachMate (s : State) (mates : List (Nat × Nat)) (f : State → State) : State :=
  mates.foldl (fun s k => s.inCtx k.1 k.2 f) s

/-- The state as the context in bank b of core k sees it. -/
def State.seenFrom (s : State) (k b : Nat) : State := (s.inCtxWith k b (fun t => (t, t))).2

/-- R273: an element fault of instruction `it` in some member: every member completes its elements below the
lowest faulting one. `s` is the state before the pair, `a` the one in which the instructions of the pair before
`it` have executed, and `partner` is the pair's other instruction. DEDUCED, log 36, 37. -/
def State.gangElementFault (s a : State) (mates : List (Nat × Nat)) (it : Issue) (second : Bool)
    (partner : Option Issue) (faults : List (Nat × Nat × TrapRec)) : State :=
  let i := faults.foldl (fun n f => Nat.min n f.2.1) 2048
  let (cause, own) := ownFaults (faults.map (fun f => (f.1, f.2.2)))
  let c := (s.mateCtxs).headD s.ctx
  let leader := (a.mateCtxs).headD a.ctx
  if (a.inCtxWith (mates.headD (0, 0)).1 (mates.headD (0, 0)).2 (fun u => (u, u.chainBroken it []))).2 then
    let t := a.eachMate mates (fun u => rerunChain (memberExec leader true) u [it] i)
    t.allTrap cause own (fun c => c.convoyStart) (fun c => { c with estat := setBit c.estat 4 true })
  else
    let stands := match partner with
      | some y => !(c.runaheadSafe y.word) && classOf y.word != .sctl
          && (second || !(c.dependsOn it.word y.word))
      | none => false
    let gone := second && partner.isSome && !stands
    -- a discarded first instruction records nothing (R73)
    let base := if second then (if gone then a.eachMate mates State.flagless else a)
      else match partner with
        | some y => if stands then (s.gangPhase mates y true none).1 else s
        | none => s
    let t := (base.gangPhase mates it second (some i)).1
    let t := if gone then
        mates.foldl (fun t k => t.inCtx k.1 k.2 (fun v => (s.seenFrom k.1 k.2).unrun (a.seenFrom k.1 k.2) v)) t
      else t
    let t := t.eachMate mates (fun u => u.setVs i)
    t.allTrap cause own (fun c => c.pc) (fun c =>
      if stands then { c with estat := setBit c.estat (if second then 8 else 9) true } else c)

/-- A late fault of an instruction of the pair: an element fault keeps the elements below it; any other leaves
nothing of the pair in any member. DEDUCED, log 36. -/
def State.gangLate (s a : State) (mates : List (Nat × Nat)) (it : Issue) (second : Bool) (partner : Option Issue)
    (l : List MemberOut) : State :=
  let faults := l.filterMap (fun m => m.fault.map (fun f => (m.core, f.1, f.2)))
  if isVector it.word then s.gangElementFault a mates it second partner faults
  else
    let (cause, own) := ownFaults (faults.map (fun f => (f.1, f.2.2)))
    s.allTrap cause own

/-- The pair has completed in every member, as the sequencer's decision has it. -/
def State.gangComplete (s : State) (mates : List (Nat × Nat)) (g : Broadcast) (l : List MemberOut) : State :=
  let (npc, taken) := match l.head? with
    | some m => (m.npc, m.taken)
    | none => (g.next, false)
  let gap := nextGap ((g.slots.getLast?).elim 0 (fun it => it.word)) taken
  let t := s.eachMate mates (fun u => { u with npc := npc, taken := taken }.finishPair g.slots)
  { t with pkg := { t.pkg with gangs := t.pkg.gangs.filter (fun x => x.handle != g.handle) } }.passTeam mates gap

/-- The instructions of a broadcast pair that execute now, each with whether it is the pair's second, and whether
the pair is complete after them: a TASK instruction executes once its partner has. DEDUCED, log 38. -/
def broadcastPart (c : Ctx) (l : List Issue) : List (Issue × Bool) × Bool :=
  match l with
  | [] => ([], true)
  | [x] => (if c.skip1 then [] else [(x, false)], true)
  | x :: y :: _ =>
    if majorOf y.word = 0x39 ∧ c.skip1 = false then ([(x, false)], false)
    else ((if c.skip1 then [] else [(x, false)]) ++ (if c.skip2 then [] else [(y, true)]), true)

/-- The part of the pair has executed in every member. DEDUCED, log 38. -/
def State.gangDone (s : State) (mates : List (Nat × Nat)) (g : Broadcast) (whole : Bool) (l : List MemberOut) : State :=
  if whole then s.gangComplete mates g l
  else s.eachMate mates (fun u => { u with ctx := { u.ctx with skip1 := true } })

/-- R268 and R270: the instructions executed in every member; no member stalls or traps precisely on them.
DESIGN CHOICE, log 35. -/
def State.gangRun (s : State) (mates : List (Nat × Nat)) (g : Broadcast) (part : List (Issue × Bool)) (whole : Bool) : State :=
  let faulted (l : List MemberOut) : Bool := l.any (fun m => m.fault.isSome)
  match part with
  | [] => s.gangDone mates g whole []
  | [(x, f)] =>
    let (a, l) := s.gangPhase mates x f none
    if faulted l then s.gangLate s mates x f none l else a.gangDone mates g whole l
  | (x, _) :: (y, _) :: _ =>
    let (a, l) := s.gangPhase mates x false none
    if faulted l then s.gangLate s mates x false (some y) l
    else
      let (b, m) := a.gangPhase mates y true none
      if faulted m then s.gangLate a mates y true (some x) m else b.gangDone mates g whole m

/-! ### Traps of what has committed or responded (R143, R182, R273) -/

/-- R143, R170, R182 and R229: a trap that a context owes: its cause, its EVAL and, of a REMOTE_ERROR, APPLIED. -/
def Ctx.owed (c : Ctx) : Option (Nat × Word × Option Bool) :=
  match c.remoteError with
  | some (_, e, applied) => some (cRemoteError, e, some applied)
  | none => c.sfuTrap.map (fun e => (cArith, e, none))

/-- What the strand or the members of its gang owe, by core. -/
def State.owed (s : State) : List (Nat × Nat × Word × Option Bool) :=
  s.mates.filterMap (fun k => (((s.coreAt k.1).bankCtx k.2).owed).map (fun o => (k.1, o)))

/-- R273: they are taken at the pair that would issue, with the cause of the lowest member. -/
def State.takeOwed (s : State) : State :=
  match s.owed with
  | [] => s
  | (k, cause, e, a) :: l =>
    let same := ((k, cause, e, a) :: l).filter (fun x => x.2.1 == cause)
    let t := s.eachMate s.mates (fun u =>
      if cause = cRemoteError then { u with ctx := { u.ctx with remoteError := none } }
      else { u with ctx := { u.ctx with sfuTrap := none } })
    let t := t.allTrap cause (fun k => (same.find? (fun x => x.1 == k)).map (fun x => (x.2.2.1, none)))
    same.foldl (fun t x => match x.2.2.2, t.bankOf x.1 s.ctx.taskh with
      | some applied, some b => t.inCtx x.1 b (fun u => u.setApplied applied)
      | _, _ => t) t

/-- The cycle by time t in which a live result of a context commits with an enabled flag; t where none does. -/
def Ctx.trapCommit (c : Ctx) (t : Nat) : Nat :=
  ((c.live.filter (fun r => decide (r.at_ ≤ t) && r.flags &&& c.enables != 0)).map (fun r => r.at_)).foldl Nat.min t

/-- The event: every member of the running strand's gang executes its pending pair (R268). DESIGN CHOICE, log 35. -/
def execGangBroadcastExecute (s : State) : Out :=
  .next (
    if s.ctx.gang = false then s
    else
      match s.pkg.gangs.find? (fun g => g.handle == s.ctx.taskh) with
      | none => s
      | some g =>
        let mates := s.mates
        let words := g.slots.map (fun it => it.word)
        -- R270: the cycle in which every member could issue the pair
        let s := s.snapGang mates
        let ready (s : State) : Nat :=
          mates.foldl (fun t k => Nat.max t (s.inCtxWith k.1 k.2 (fun u => (u, u.pairCycle words))).2) s.now
        let t := ready s
        -- R244: a commit before then may leave a trap to take
        let t := Nat.max s.now ((s.mateCtxs).foldl (fun n c => Nat.min n (c.trapCommit t)) t)
        let s := s.passTeam mates (t - s.now)
        let s := s.eachMate mates (fun u => { u.commitUpTo t with pairAddr := g.pair, npc := g.next })
        if !s.owed.isEmpty then s.takeOwed
        else
        -- R247: the first resumed pair has nothing else to wait for
        let old := s
        let s := s.eachMate mates State.resumed
        let again := ready s
        let s := (s.passTeam mates (again - s.now)).eachMate mates (fun u => u.commitUpTo again)
        let s := { s with pairAddr := g.pair, npc := g.next, taken := false }
        let leader := (s.mateCtxs).headD s.ctx
        let first := (mates.headD (0, 0)).1
        let (part, whole) := broadcastPart leader g.slots
        let led := (s.inCtxWith first ((mates.headD (0, 0)).2) (fun u => (u, u.asLed part))).2
        let stalled := (s.mateCtxs).any (fun c => c.stall != 0)
        let (u, l) := mates.foldl (fun (acc : State × List (Nat × Probe)) k =>
          let r := acc.1.inCtxWith k.1 k.2 (fun u => u.probe (k.1 == first) led)
          (r.1, acc.2 ++ [(k.1, r.2)])) (s, [])
        let traps := l.filterMap (fun x => match x.2 with
          | .trap r => some (x.1, r)
          | _ => none)
        if !traps.isEmpty then
          let (cause, own) := ownFaults traps
          s.allTrap cause own
        else if l.any (fun x => x.2 == .stall) then
          -- a pair that stalls has not issued
          { u.eachMate mates (fun v =>
              let c := (old.coreAt v.coreNo).bankCtx v.ctx.bank
              if c.resume then { v with ctx := { v.ctx with live := c.live, held := c.held, resume := true } } else v)
            with stalled := true }
        else if stalled then
          -- R270: a condition of a member that has only now been met
          let s := s.passTeam mates (2 * s.gangLag)
          (s.eachMate mates (fun u => u.commitUpTo s.now)).gangRun mates g part whole
        else s.gangRun mates g part whole)

end Sys2Proof.Machine
end

