-- ==== Sys2Proof/Machine/Events.lean ====
section
/-! DEFINITION. The events of a core's own time and faults: limits on stalls (R26, R243), the timer and
interrupts (R46), traps that wait for their pair (R143, R182, R244), results that land (R96, R132, R155, R190,
R245), freezes (R249, R250), uncorrectable errors (R355 to R357), the failure of a gang (R274, R275), and the
decode checks of a pair as they are recognised (R56, R57). -/

namespace Sys2Proof.Machine

/-! ### Limits on stalls -/

/-- The running bank's next pair has stalled. -/
def State.hasStalled (s : State) : Bool := s.ctx.ready && decide (0 < s.ctx.stall) && !s.frozen

/-- The strand or the members of its gang whose pair has stalled for what `f` says, by core, and how long the first of
them has stalled. -/
def State.stalledMates (s : State) (f : Ctx → Bool) : List Nat × Nat :=
  let hit (c : Ctx) : Bool := c.stall != 0 && f c
  ((s.mates.filter (fun k => hit ((s.coreAt k.1).bankCtx k.2))).map (fun k => k.1),
    (s.mateCtxs.filter hit).foldl (fun n c => Nat.max n (c.stallTime s.now)) 0)

/-- The event: a queue stall has lasted QTO cycles (R26). DESIGN CHOICE, log 48. -/
def execQueueTimeout (q : Nat) (s : State) : Out :=
  .next (
    let (l, n) := s.stalledMates (fun c => c.stallReason == 11 && c.stallQueue == q)
    if s.ctx.ready && !s.frozen && !l.isEmpty then
      (s.passTeam s.mates (s.ctx.qto.toNat - n)).allTrap cQueueTimeout
        (fun k => if l.contains k then some (word q, none) else none)
    else s)

/-- The event: a pair has stalled for 2^24 consecutive core cycles for a reason of R243. DESIGN CHOICE, log 48. -/
def execWatchdog (reason : Nat) (s : State) : Out :=
  .next (
    let (l, n) := s.stalledMates (fun c => c.stallReason == reason)
    if s.ctx.ready && !s.frozen && decide (1 ≤ reason ∧ reason ≤ 10) && !l.isEmpty then
      (s.passTeam s.mates (2 ^ 24 - n)).allTrap cWatchdog
        (fun k => if l.contains k then some (word reason, none) else none)
    else s)

/-! ### The timer and interrupts (R46) -/

/-- The event: CYC reaches the running bank's TCMP, and TIMER is set. DESIGN CHOICE, log 48. -/
def execTimer (s : State) : Out := .next (s.passTeam s.mates (s.ctx.tcmp.toNat - s.pkg.cyc))

/-- The sources that are pending and enabled. -/
def Ctx.sources_ (c : Ctx) : Word := c.ipend &&& c.imask

/-- R46 and R255: an interrupt can be taken now: a source is pending and enabled in the strand or in a member of
its gang, IE is set there, and all of them stand at a point. -/
def State.interrupted (s : State) : Bool :=
  let l := s.mateCtxs
  l.all (fun c => c.holds && !c.stopped && c.parked.isNone && !c.halted && c.atPoint)
    && l.any (fun c => c.ie && c.sources_ != 0)
    && (!s.broadcasting || l.any (fun c => c.wait.isSome))

/-- The event: a pending enabled source is taken at the next point, once no window is open (R46, R255, R273).
DEDUCED, log 77. -/
def execTakeInterrupt (s : State) : Out :=
  .next (
    if s.interrupted && !s.frozen then
      let t := s.mates.foldl (fun t k => Nat.max t (s.inCtxWith k.1 k.2 (fun u => (u, u.ctx.closing u.now))).2) s.now
      let s := s.passTeam s.mates (t - s.now)
      s.allTrap 0 (fun k => (s.bankOf k s.ctx.taskh).map (fun b => (((s.coreAt k).bankCtx b).sources_, none))
        |>.or (if k = s.coreNo then some (s.ctx.sources_, none) else none))
    else s)

/-! ### Traps that wait for their pair -/

/-- The event: a trap recognised at a commit or on a response writes the trap registers and enters its handler
(R244). -/
def execTrapEntry (cause : Nat) (eval : Word) (s : State) : Out :=
  .next (
    if s.ctx.ready = false ∨ s.frozen = true then s
    else
      match s.owed.head? with
      | some (_, c, e, _) => if c = cause ∧ e = eval then s.takeOwed else s
      | none => s)

/-! ### Results that land -/

/-- Core time reaches the next due cycle of a board entry of a kind. -/
def State.awaitBoard (s : State) (f : Busy → Bool) : State :=
  let due := (s.ctx.board.filter (fun b => f b && decide (s.now < b.due))).map (fun b => b.due)
  match due with
  | [] => s
  | t :: l => if s.frozen then s else (s.passTeam s.mates (l.foldl Nat.min t - s.now)).commitUpTo (l.foldl Nat.min t)

/-- The event: the oldest open fault window closes without a trap (R242): what issued under it stands. -/
def execFaultWindowClose (s : State) : Out := .next (s.awaitBoard (fun b => b.res == .window || b.res == .hold))

/-- The event: a result lands in g[d], or in f[d − 64], and its scoreboard is free (R96). -/
def execScalarResultWrite (d : Nat) (s : State) : Out :=
  .next (s.awaitBoard (fun b => if d < 64 then b.res == .g d else b.res == .f (d - 64)))

/-- The event: a slash result lands in f[d] and its lane is free (R91). -/
def execSlashResult (d : Nat) (s : State) : Out := .next (s.awaitBoard (fun b => b.res == .f d || b.res == .slash))

/-- The event: the next element group of an entry is written (R132, R265). -/
def execVectorGroupWrite (entry : Nat) (s : State) : Out := .next (s.awaitBoard (fun b => b.res == .lane entry))

/-- The event: the data of a vector load reaches an entry (R190). -/
def execVectorLoadData (entry : Nat) (s : State) : Out :=
  .next (s.awaitBoard (fun b => b.res == .lane entry || b.res == .window))

/-- Core time reaches the next commit of a live shadow result of a kind. -/
def State.awaitShadow (s : State) (f : ShadowKind → Bool) : State :=
  match (s.ctx.live.filter (fun r => f r.kind)).map (fun r => r.at_) with
  | [] => s
  | t :: l =>
    let c := l.foldl Nat.min t
    if s.frozen then s else (s.passTeam s.mates (c - s.now)).commitUpTo c

/-- The event: a VSFU result commits (R143). -/
def execSfuCommit (s : State) : Out :=
  .next (s.awaitShadow (fun k => match k with
    | .sfuEntry _ => true
    | .sfuQueue _ => true
    | _ => false))

/-- The event: an HSFU result commits (R170). -/
def execHsfuCommit (s : State) : Out :=
  .next (s.awaitShadow (fun k => match k with
    | .hsfu _ => true
    | _ => false))

/-- The event: a latch result commits (R228). -/
def execLatchCommit (s : State) : Out :=
  .next (s.awaitShadow (fun k => match k with
    | .bamax _ => true
    | .bamaxQueue _ => true
    | .bamaxPeer => true
    | .bscale => true
    | _ => false))

/-- The event: a row lands and its pending bit clears (R155). -/
def execHoopRowLand (row : Nat) (s : State) : Out := .next (s.awaitBoard (fun b => b.res == .row row))

/-! ### Freezes (R249, R250) -/

/-- A change of the freezes of the core in focus, or of every member's core in a gang (R272). -/
def State.onFreeze (s : State) (f : Freeze → Freeze) : State :=
  s.eachMate s.mates (fun u => { u with core := { u.core with freeze := f u.core.freeze } })

/-- The event: the reply of a fixed-latency access at `va` is not there in the cycle it is due; 0 for a gang
broadcast. DESIGN CHOICE, log 98. -/
def execFreezeBegin (va : Word) (s : State) : Out :=
  .next (if s.core.freeze.late.isSome then s
    else s.onFreeze (fun f => { f with late := some va, lateSince := s.pkg.cyc }))

/-- The event: the late reply arrives, before the limit of R250, and the waiting core cycle takes place. When it
arrives is a free value. DESIGN CHOICE, log 8, 98. -/
def execLateReplyArrival (s : State) : Out :=
  .next (if s.core.freeze.late.isNone then s
    else
      let t := s.core.freeze.lateSince + 1 + Config.latency s.free % 65535
      let s := { s with free := s.free + 1 }
      (s.pass (t - s.pkg.cyc)).onFreeze (fun f => { f with late := none }))

/-- The event: single-bit errors in words of the core's arrays are corrected and written back (R354); each word
freezes the core for 12 package cycles, from the cycle after the read. DESIGN CHOICE, log 98, 117. -/
def execCorrectedError (words : Nat) (s : State) : Out :=
  .next (if words = 0 then s
    else s.onFreeze (fun f => { f with correctUntil := Nat.max s.pkg.cyc f.correctUntil + 12 * words }))

/-- The event: the correction freeze ends. DESIGN CHOICE, log 98. -/
def execCorrectionFreezeEnd (s : State) : Out :=
  .next (if s.core.freeze.correctUntil = 0 then s
    else (s.pass (s.core.freeze.correctUntil - s.pkg.cyc)).onFreeze (fun f => { f with correctUntil := 0 }))

/-- The event: a late-reply freeze reaches 65,536 package cycles: it ends, and the context traps FREEZE_TIMEOUT
(R250). A gang broadcast that is late so long fails its gang instead (R272). DESIGN CHOICE, log 48, 98. -/
def execFreezeTimeout (s : State) : Out :=
  .next (match s.core.freeze.late with
    | none => s
    | some va =>
      if s.ctx.gang && va == 0 then s
      else
        let t := (s.pass (s.core.freeze.lateSince + 65536 - s.pkg.cyc)).onFreeze (fun f => { f with late := none })
        -- R249: a correction that is still in force is over first
        let t := (t.pass (t.core.freeze.correctUntil - t.pkg.cyc)).onFreeze (fun f => { f with correctUntil := 0 })
        -- at the pair of the late access, whose window is still open
        let open_ (u : Undo) : Bool := u.bank == t.ctx.bank && u.due.elim true (fun d => decide (t.now < d))
        match t.core.undo.filter open_ with
        | some u => if t.ctx.ready && !t.ctx.gang then (t.undoTrap u cFreezeTimeout va).settleTrap
            else if t.ctx.ready then t.trapNow cFreezeTimeout va else t
        | none => if t.ctx.ready then t.trapNow cFreezeTimeout va else t)

/-! ### The failure of a gang (R274, R275) -/

/-- R275: a member entry's 16 bits. -/
def memberEntry (rows : Nat) (failed timeout : Bool) : Nat := rows + failed.toNat * 2 ^ 8 + 2 ^ 9 + timeout.toNat * 2 ^ 10

/-- R274, step 2: the pair that the sequencer has broadcast last executes in every member but the failing one.
DEDUCED, log 45. -/
def State.lastBroadcast (s : State) (failing : List Nat) : State :=
  match s.pkg.gangs.find? (fun g => g.handle == s.ctx.taskh) with
  | none => s
  | some g =>
    let mates := s.mates
    let u := s.eachMate mates (fun u => { u with pairAddr := g.pair, npc := g.next })
    let part := (broadcastPart ((s.mateCtxs).headD s.ctx) g.slots).1
    (part.foldl (fun a x => (a.gangPhase mates x.1 x.2 none failing).1) u).dropBroadcast

/-- R274, step 3: the rows of the failing member that are poisoned: the one that holds the error, and those of Hoop
instructions that had not landed, the pair `late` that it has still to execute among them. -/
def State.spoiltRows (s : State) (row : Nat) (late : List (BitVec 32)) : List Nat :=
  (List.range s.ctx.hRows).filter (fun r => r == row || late.any (fun w => (s.rowSet w).contains r)
    || s.ctx.board.any (fun b => b.res == .row r && decide (s.now < b.due))
    || s.ctx.live.any (fun x => x.kind == .hsfu r))

/-- The rows of a list poisoned. -/
def State.poisonRows (s : State) (l : List Nat) : State :=
  l.foldl (fun s r => { s with core := { s.core with
    hoop := s.core.hoop.setIfInBounds (s.ctx.hBase + r) { s.row r with poison := true } } }) s

/-- R256 and R274: the running context saved into its area, where the scheduler has assigned a backed one.
DEDUCED, log 44. -/
def State.saveTo (s : State) (area : Nat) : State :=
  if area ≠ 0 ∧ area % 4096 = 0 ∧ s.pkg.areaBacked area = true then (s.capture).writeImage area else s

/-- R274: the gang of the running strand fails at a member: no pair is broadcast any more, the failing member's
unlanded rows are poisoned, every member's context is saved, and the task ends with GANG_FAIL. DEDUCED, log 45. -/
def State.failGang (s : State) (t : Task) (member row : Nat) (timeout : Bool) : State :=
  let mates := s.mates
  let s := s.onFreeze (fun f => { f with late := none })
  let late := match s.pkg.gangs.find? (fun g => g.handle == t.handle) with
    | some g => g.slots.map (fun it => it.word)
    | none => []
  let spoilt := match t.cores[member]? with
    | some k => (s.inCtxWith k t.bank (fun u => (u, u.spoiltRows row late))).2
    | none => []
  let s := s.lastBroadcast (t.cores[member]?).toList
  let s := match t.cores[member]? with
    | some k => s.inCtx k t.bank (fun u => u.poisonRows spoilt)
    | none => s
  let epc := ((s.mateCtxs).headD s.ctx).pc
  let entries := ((List.range 16).map (fun m =>
    if m < t.size then
      memberEntry (bits t.allocWord 31 24 - (if m = member then spoilt.length else 0)) (m == member && !timeout)
        (m == member && timeout)
    else 0))
  let rest := (entries.map (fun e => [BitVec.ofNat 8 e, BitVec.ofNat 8 (e / 256)])).flatten
  let s := mates.foldl (fun s k => s.inCtx k.1 k.2 (fun u => u.saveTo (t.saves.getD u.ctx.member u.ctx.saveArea))) s
  let s := s.passFault t.handle cGangFail member epc 0 rest
  let s := mates.foldl (fun s k => s.endStrand k.1 k.2) s
  (List.range t.size).foldl (fun s m => s.memberEnded t.handle m) s

/-- The event: a gang fails at a member, where a row of it holds the error, or where a broadcast has been late for
the limit of R250. A pair whose broadcast is late is one that its surviving members still execute. DESIGN CHOICE, log 48. -/
def execGangFail (member row : Nat) (timeout : Bool) (s : State) : Out :=
  .next (match s.myTask with
    | none => s
    | some t =>
      let late := match s.core.freeze.late with
        | some va => va == 0
        | none => false
      if s.ctx.gang = false ∨ t.gang = false ∨ t.size ≤ member ∨ (s.broadcasting && !timeout) = true ∨ (timeout && !late) = true then s
      else
        let s := if timeout then s.pass (s.core.freeze.lateSince + 65536 - s.pkg.cyc) else s
        s.failGang t member row timeout)

/-! ### Uncorrectable errors (R355 to R357) -/

/-- R357: the words of a saved image that an error has damaged, by the code of byte 32 of the fault record: the
scalar block with the tensor maps, or the shadow area (R257). The error names no register, so all of them.
DESIGN CHOICE, log 63. -/
def damagedWords (place : Nat) : List Nat :=
  if place = 1 then poisonRange 0 0xA00 true
  else poisonRange 0xC00 0xC00 true ++ poisonRange 0xA000 0x4000 true ++ poisonRange 0x10000 0x10000 true

/-- R357: the damaged state of a context saved at an area, poisoned there. DESIGN CHOICE, log 63. -/
def State.spoilImage (s : State) (area place : Nat) : State :=
  if area ≠ 0 ∧ area % 4096 = 0 ∧ s.pkg.areaBacked area = true then
    { s with pkg := { s.pkg with
        poisoned := (damagedWords place).foldl (fun l w => insertNat (area / 8 + w) l) s.pkg.poisoned } }
  else s

/-- R357 and R382: the running context cannot be recovered: its gang fails, or it is saved, with what was damaged
poisoned, and its task ends with a fault record that names it and its save area.
DEDUCED, log 44. DESIGN CHOICE, log 63. -/
def State.unrecoverable (s : State) (place : Nat) : State :=
  match s.myTask with
  | none => s.endStrand s.coreNo s.ctx.bank
  | some t =>
    if s.ctx.gang then s.failGang t s.ctx.member 256 false
    else
      let c := s.ctx
      let area := t.saves.getD c.member c.saveArea
      let s := (s.saveTo area).spoilImage area place
      let rest := [BitVec.ofNat 8 place] ++ List.replicate 7 0 ++ wordsBytes [area]
      let s := s.passFault t.handle cPoison c.member c.pc 0 rest
      (s.endStrand s.coreNo c.bank).memberEnded t.handle c.member

/-- The gang task whose member, in either bank of the core in focus, has an entry, row or queue. -/
def State.gangOwner (s : State) (f : Ctx → Bool) : Option Nat :=
  if s.ctx.holds && s.ctx.gang && f s.ctx then some s.ctx.bank
  else if s.other.holds && s.other.gang && f s.other then some s.other.bank
  else none

/-- An error in data of the core in focus: a gang member's gang fails, or the data is poisoned. -/
def State.spoilData (s : State) (f : Ctx → Bool) (row : Ctx → Nat) (poison : State → State) : State :=
  match s.gangOwner f with
  | some b =>
    let t := poison s
    t.inCtx t.coreNo b (fun u => match u.myTask with
      | some k => u.failGang k u.ctx.member (row u.ctx) false
      | none => u)
  | none => poison s

/-- R313: the reply of an atomic that has just updated the word in which an uncorrectable error is found is that of
code 2. DESIGN CHOICE, log 140. -/
def State.foundAfter (s : State) (pa : Nat) (k : Packet) : Packet :=
  match k.payload with
  | .atomicReply va a =>
    let c := (s.coreAt k.owner).bankCtx k.bank
    if a.byte8 = 6 ∧ c.pending.any (fun q => q.kind == .atomic && q.tag == k.tag && q.pa / 8 == pa / 8) = true then
      { k with payload := .atomicReply va { a with byte8 := 39 } }
    else k
  | _ => k

/-- The event: an uncorrectable error is found (R274, R355 to R357). DEDUCED, log 46. DESIGN CHOICE, log 117. -/
def execUncorrectableError (place : ErrorPlace) (s : State) : Out :=
  .next (match place with
    | .scalar => if s.ctx.holds then s.unrecoverable 1 else s
    | .sfuBuffer => if s.ctx.holds then s.unrecoverable 2 else s
    | .lane e =>
      s.spoilData (fun c => decide (c.lfBase ≤ e ∧ e < c.lfBase + c.lfSize)) (fun _ => 256) (fun s =>
        { s with core := { s.core with
            lane := s.core.lane.setIfInBounds e { s.core.lane.getD e Entry.zero with poison := true } } })
    | .row r =>
      s.spoilData (fun c => decide (c.hBase ≤ r ∧ r < c.hBase + c.hRows)) (fun c => r - c.hBase) (fun s =>
        { s with core := { s.core with
            hoop := s.core.hoop.setIfInBounds r { s.core.hoop.getD r Row.zero with poison := true } } })
    | .queue q i =>
      s.spoilData (fun c => c.owns q) (fun _ => 256) (fun s =>
        s.setQueue q (modifyNth (fun (e : Entry) => { e with poison := true }) (s.queue q) i))
    | .memory pa =>
      if (s.pkg.homeOf pa).isSome then
        { s with pkg := { s.pkg with poisoned := insertNat (pa / 8) s.pkg.poisoned, net := s.pkg.net.map (s.foundAfter pa) } }
      else s
    | .tlb => { s with core := { s.core with l1 := [], gather := [], unit := none, stream := [] } }
    | .cache pa => { s with core := { s.core with cache := s.core.cache.filter (fun l => l.line != pa / 64) } }
    | .knot =>
      if s.pkg.mgmt.knotPhase = 0 then { s with pkg := { s.pkg with mgmt := { s.pkg.mgmt with knotPhase := 1 } } } else s)

/-! ### Decode checks as they are recognised (R56, R57) -/

/-- R57: a trap of the decode checks is taken once every open window has closed. DEDUCED, log 75. -/
def State.decodeTrap (s : State) (cause : Nat) (eval : Word) (p : Option Park := none) : State :=
  let t := s.mates.foldl (fun t k => Nat.max t (s.inCtxWith k.1 k.2 (fun u => (u, u.ctx.closing u.now))).2) s.now
  let s := s.passTeam s.mates (t - s.now)
  (s.eachMate s.mates (fun u => u.commitUpTo t)).allTrap cause
    (fun k => if k = s.coreNo then some (eval, p) else none)

/-- The event: the pair at the program counter would issue with a word that is no instruction, `offset` bytes
behind it (R56). DEDUCED, log 75. -/
def execIllegalOpcode (w : BitVec 32) (offset : Nat) (s : State) : Out :=
  .next (
    let va := s.ctx.pc + word offset
    if s.ctx.ready = false ∨ 16 ≤ offset ∨ offset % 4 ≠ 0 then s
    else
      match s.translate .l1 va.toNat .fetch with
      | .error _ => s
      | .ok (t, s1) =>
        if s1.pkg.readAt t.pa 4 = w.toNat ∧ s1.pkg.poisonedAt t.pa 4 = false then
          s1.decodeTrap cIllegalOpcode (w.zeroExtend 64 ||| word (offset * 2 ^ 32))
        else s)

/-- The event: the fetch of a word of the pair at the program counter faults (R57). -/
def execFetchFault (va : Word) (s : State) : Out :=
  .next (
    if s.ctx.ready = false ∨ 16 ≤ (va - s.ctx.pc).toNat ∨ (va - s.ctx.pc).toNat % 4 ≠ 0 then s
    else
      match s.translate .l1 va.toNat .fetch with
      | .ok (t, s1) =>
        if t.tlb.mt == 2 || t.tlb.mt == 4 then s1.decodeTrap cPermission va
        else if s1.pkg.poisonedAt t.pa 4 then s1.decodeTrap cPoison va else s
      | .error .outOfRange => s.decodeTrap cTranslation va
      | .error (.missing l ea) => s.decodeTrap cTranslation va (some (parkOf va.toNat l ea false .fetch 0))
      | .error (.malformed l ea) => s.decodeTrap cTranslation va (some (parkOf va.toNat l ea true .fetch 0))
      | .error .denied => s.decodeTrap cPermission va
      | .error .wait => s)

end Sys2Proof.Machine
end

