-- ==== Sys2Proof/Machine/Dispatch.lean ====
section
/-! DEFINITION. The dispatch: one arm per constructor of `Instr`, each one call of its meaning. -/

namespace Sys2Proof.Machine

/-- The meaning of an instruction or an event in a state. -/
def exec (i : Instr) (s : State) : Host.Outcome State Fault Refusal :=
  match i with
  | .add d a b => Sys2Proof.Machine.execAdd d a b s
  | .sub d a b => Sys2Proof.Machine.execSub d a b s
  | .and_ d a b => Sys2Proof.Machine.execAnd d a b s
  | .or_ d a b => Sys2Proof.Machine.execOr d a b s
  | .xor_ d a b => Sys2Proof.Machine.execXor d a b s
  | .andn d a b => Sys2Proof.Machine.execAndn d a b s
  | .orn d a b => Sys2Proof.Machine.execOrn d a b s
  | .sll d a b => Sys2Proof.Machine.execSll d a b s
  | .srl d a b => Sys2Proof.Machine.execSrl d a b s
  | .sra d a b => Sys2Proof.Machine.execSra d a b s
  | .rol d a b => Sys2Proof.Machine.execRol d a b s
  | .ror d a b => Sys2Proof.Machine.execRor d a b s
  | .slt d a b => Sys2Proof.Machine.execSlt d a b s
  | .sltn d a b => Sys2Proof.Machine.execSltn d a b s
  | .min d a b => Sys2Proof.Machine.execMin d a b s
  | .max d a b => Sys2Proof.Machine.execMax d a b s
  | .minn d a b => Sys2Proof.Machine.execMinn d a b s
  | .maxn d a b => Sys2Proof.Machine.execMaxn d a b s
  | .mul d a b => Sys2Proof.Machine.execMul d a b s
  | .mulh d a b => Sys2Proof.Machine.execMulh d a b s
  | .mulhn d a b => Sys2Proof.Machine.execMulhn d a b s
  | .div d a b => Sys2Proof.Machine.execDiv d a b s
  | .divn d a b => Sys2Proof.Machine.execDivn d a b s
  | .rem d a b => Sys2Proof.Machine.execRem d a b s
  | .remn d a b => Sys2Proof.Machine.execRemn d a b s
  | .clz d a => Sys2Proof.Machine.execClz d a s
  | .ctz d a => Sys2Proof.Machine.execCtz d a s
  | .popc d a => Sys2Proof.Machine.execPopc d a s
  | .bext d a b => Sys2Proof.Machine.execBext d a b s
  | .bdep d a b => Sys2Proof.Machine.execBdep d a b s
  | .sext d a n => Sys2Proof.Machine.execSext d a n s
  | .zext d a n => Sys2Proof.Machine.execZext d a n s
  | .addi d a imm => Sys2Proof.Machine.execAddi d a imm s
  | .andi d a imm => Sys2Proof.Machine.execAndi d a imm s
  | .ori d a imm => Sys2Proof.Machine.execOri d a imm s
  | .xori d a imm => Sys2Proof.Machine.execXori d a imm s
  | .slli d a sh => Sys2Proof.Machine.execSlli d a sh s
  | .srli d a sh => Sys2Proof.Machine.execSrli d a sh s
  | .srai d a sh => Sys2Proof.Machine.execSrai d a sh s
  | .rori d a sh => Sys2Proof.Machine.execRori d a sh s
  | .slti d a imm => Sys2Proof.Machine.execSlti d a imm s
  | .sltni d a imm => Sys2Proof.Machine.execSltni d a imm s
  | .lui d imm => Sys2Proof.Machine.execLui d imm s
  | .pcadd d imm => Sys2Proof.Machine.execPcadd d imm s
  | .beq a b off => Sys2Proof.Machine.execBeq a b off s
  | .bne a b off => Sys2Proof.Machine.execBne a b off s
  | .blt a b off => Sys2Proof.Machine.execBlt a b off s
  | .bge a b off => Sys2Proof.Machine.execBge a b off s
  | .bltn a b off => Sys2Proof.Machine.execBltn a b off s
  | .bgen a b off => Sys2Proof.Machine.execBgen a b off s
  | .jal off => Sys2Proof.Machine.execJal off s
  | .jalr d a imm => Sys2Proof.Machine.execJalr d a imm s
  | .loop len a stg rote => Sys2Proof.Machine.execLoop len a stg rote s
  | .loopEndIteration => Sys2Proof.Machine.execLoopEndIteration s
  | .trap a => Sys2Proof.Machine.execTrap a s
  | .eret => Sys2Proof.Machine.execEret s
  | .wfe => Sys2Proof.Machine.execWfe s
  | .yield => Sys2Proof.Machine.execYield s
  | .halt => Sys2Proof.Machine.execHalt s
  | .brk => Sys2Proof.Machine.execBrk s
  | .nop => Sys2Proof.Machine.execNop s
  | .ifence => Sys2Proof.Machine.execIfence s
  | .kread d k => Sys2Proof.Machine.execKread d k s
  | .kwrite d k => Sys2Proof.Machine.execKwrite d k s
  | .kset d k => Sys2Proof.Machine.execKset d k s
  | .kclr d k => Sys2Proof.Machine.execKclr d k s
  | .ldb d a off => Sys2Proof.Machine.execLdb d a off s
  | .ldh d a off => Sys2Proof.Machine.execLdh d a off s
  | .ldw d a off => Sys2Proof.Machine.execLdw d a off s
  | .ldd d a off => Sys2Proof.Machine.execLdd d a off s
  | .ldbn d a off => Sys2Proof.Machine.execLdbn d a off s
  | .ldhn d a off => Sys2Proof.Machine.execLdhn d a off s
  | .ldwn d a off => Sys2Proof.Machine.execLdwn d a off s
  | .stb d a off => Sys2Proof.Machine.execStb d a off s
  | .sth d a off => Sys2Proof.Machine.execSth d a off s
  | .stw d a off => Sys2Proof.Machine.execStw d a off s
  | .std d a off => Sys2Proof.Machine.execStd d a off s
  | .ldacqb d a scope => Sys2Proof.Machine.execLdacqb d a scope s
  | .ldacqh d a scope => Sys2Proof.Machine.execLdacqh d a scope s
  | .ldacqw d a scope => Sys2Proof.Machine.execLdacqw d a scope s
  | .ldacqd d a scope => Sys2Proof.Machine.execLdacqd d a scope s
  | .strelb d a scope => Sys2Proof.Machine.execStrelb d a scope s
  | .strelh d a scope => Sys2Proof.Machine.execStrelh d a scope s
  | .strelw d a scope => Sys2Proof.Machine.execStrelw d a scope s
  | .streld d a scope => Sys2Proof.Machine.execStreld d a scope s
  | .amoswap d a b scope => Sys2Proof.Machine.execAmoswap d a b scope s
  | .amoadd d a b scope => Sys2Proof.Machine.execAmoadd d a b scope s
  | .amoand d a b scope => Sys2Proof.Machine.execAmoand d a b scope s
  | .amoor d a b scope => Sys2Proof.Machine.execAmoor d a b scope s
  | .amoxor d a b scope => Sys2Proof.Machine.execAmoxor d a b scope s
  | .amomax d a b scope => Sys2Proof.Machine.execAmomax d a b scope s
  | .amomin d a b scope => Sys2Proof.Machine.execAmomin d a b scope s
  | .amomaxn d a b scope => Sys2Proof.Machine.execAmomaxn d a b scope s
  | .amorswap d a b scope => Sys2Proof.Machine.execAmorswap d a b scope s
  | .amoradd d a b scope => Sys2Proof.Machine.execAmoradd d a b scope s
  | .amorand d a b scope => Sys2Proof.Machine.execAmorand d a b scope s
  | .amoror d a b scope => Sys2Proof.Machine.execAmoror d a b scope s
  | .amorxor d a b scope => Sys2Proof.Machine.execAmorxor d a b scope s
  | .amormax d a b scope => Sys2Proof.Machine.execAmormax d a b scope s
  | .amormin d a b scope => Sys2Proof.Machine.execAmormin d a b scope s
  | .amormaxn d a b scope => Sys2Proof.Machine.execAmormaxn d a b scope s
  | .cas d a b scope => Sys2Proof.Machine.execCas d a b scope s
  | .fenceAcq scope => Sys2Proof.Machine.execFenceAcq scope s
  | .fenceRel scope => Sys2Proof.Machine.execFenceRel scope s
  | .fenceAcqrel scope => Sys2Proof.Machine.execFenceAcqrel scope s
  | .binit a n => Sys2Proof.Machine.execBinit a n s
  | .barrive d n => Sys2Proof.Machine.execBarrive d n s
  | .bwait d a n => Sys2Proof.Machine.execBwait d a n s
  | .bsync d n => Sys2Proof.Machine.execBsync d n s
  | .bxch d n => Sys2Proof.Machine.execBxch d n s
  | .btest d n => Sys2Proof.Machine.execBtest d n s
  | .bbind a n => Sys2Proof.Machine.execBbind a n s
  | .publish d a => Sys2Proof.Machine.execPublish d a s
  | .pubwait d a b => Sys2Proof.Machine.execPubwait d a b s
  | .fadd d a b z => Sys2Proof.Machine.execFadd d a b z s
  | .fsub d a b z => Sys2Proof.Machine.execFsub d a b z s
  | .fmul d a b z => Sys2Proof.Machine.execFmul d a b z s
  | .fdiv d a b z => Sys2Proof.Machine.execFdiv d a b z s
  | .fsqrt d a z => Sys2Proof.Machine.execFsqrt d a z s
  | .fmadd d a b z => Sys2Proof.Machine.execFmadd d a b z s
  | .fmin d a b z => Sys2Proof.Machine.execFmin d a b z s
  | .fmax d a b z => Sys2Proof.Machine.execFmax d a b z s
  | .feq d a b z => Sys2Proof.Machine.execFeq d a b z s
  | .flt d a b z => Sys2Proof.Machine.execFlt d a b z s
  | .fle d a b z => Sys2Proof.Machine.execFle d a b z s
  | .fcvt d a code z => Sys2Proof.Machine.execFcvt d a code z s
  | .fmvg d a z => Sys2Proof.Machine.execFmvg d a z s
  | .fmvf d a z => Sys2Proof.Machine.execFmvf d a z s
  | .fclass d a z => Sys2Proof.Machine.execFclass d a z s
  | .fsgnj d a b z => Sys2Proof.Machine.execFsgnj d a b z s
  | .vadd d a b pr => Sys2Proof.Machine.execVadd d a b pr s
  | .vsub d a b pr => Sys2Proof.Machine.execVsub d a b pr s
  | .vmul d a b pr => Sys2Proof.Machine.execVmul d a b pr s
  | .vmulh d a b pr => Sys2Proof.Machine.execVmulh d a b pr s
  | .vmin d a b pr => Sys2Proof.Machine.execVmin d a b pr s
  | .vmax d a b pr => Sys2Proof.Machine.execVmax d a b pr s
  | .vminn d a b pr => Sys2Proof.Machine.execVminn d a b pr s
  | .vmaxn d a b pr => Sys2Proof.Machine.execVmaxn d a b pr s
  | .vand d a b pr => Sys2Proof.Machine.execVand d a b pr s
  | .vor d a b pr => Sys2Proof.Machine.execVor d a b pr s
  | .vxor d a b pr => Sys2Proof.Machine.execVxor d a b pr s
  | .vandn d a b pr => Sys2Proof.Machine.execVandn d a b pr s
  | .vsll d a b pr => Sys2Proof.Machine.execVsll d a b pr s
  | .vsrl d a b pr => Sys2Proof.Machine.execVsrl d a b pr s
  | .vsra d a b pr => Sys2Proof.Machine.execVsra d a b pr s
  | .vrol d a b pr => Sys2Proof.Machine.execVrol d a b pr s
  | .vfadd d a b pr => Sys2Proof.Machine.execVfadd d a b pr s
  | .vfsub d a b pr => Sys2Proof.Machine.execVfsub d a b pr s
  | .vfmul d a b pr => Sys2Proof.Machine.execVfmul d a b pr s
  | .vfmin d a b pr => Sys2Proof.Machine.execVfmin d a b pr s
  | .vfmax d a b pr => Sys2Proof.Machine.execVfmax d a b pr s
  | .vfmacc d a b pr => Sys2Proof.Machine.execVfmacc d a b pr s
  | .vfnmacc d a b pr => Sys2Proof.Machine.execVfnmacc d a b pr s
  | .vfdiv d a b pr => Sys2Proof.Machine.execVfdiv d a b pr s
  | .vfsqrt d a pr => Sys2Proof.Machine.execVfsqrt d a pr s
  | .vfabs d a pr => Sys2Proof.Machine.execVfabs d a pr s
  | .vfneg d a pr => Sys2Proof.Machine.execVfneg d a pr s
  | .vabs d a pr => Sys2Proof.Machine.execVabs d a pr s
  | .vneg d a pr => Sys2Proof.Machine.execVneg d a pr s
  | .vnot d a pr => Sys2Proof.Machine.execVnot d a pr s
  | .vclz d a pr => Sys2Proof.Machine.execVclz d a pr s
  | .vpopc d a pr => Sys2Proof.Machine.execVpopc d a pr s
  | .vceq d a b pr => Sys2Proof.Machine.execVceq d a b pr s
  | .vcne d a b pr => Sys2Proof.Machine.execVcne d a b pr s
  | .vclt d a b pr => Sys2Proof.Machine.execVclt d a b pr s
  | .vcle d a b pr => Sys2Proof.Machine.execVcle d a b pr s
  | .vcltn d a b pr => Sys2Proof.Machine.execVcltn d a b pr s
  | .vclen d a b pr => Sys2Proof.Machine.execVclen d a b pr s
  | .vcflt d a b pr => Sys2Proof.Machine.execVcflt d a b pr s
  | .vcfle d a b pr => Sys2Proof.Machine.execVcfle d a b pr s
  | .vexp2 d a pr => Sys2Proof.Machine.execVexp2 d a pr s
  | .vrcp d a pr => Sys2Proof.Machine.execVrcp d a pr s
  | .vrsq d a pr => Sys2Proof.Machine.execVrsq d a pr s
  | .vlog2 d a pr => Sys2Proof.Machine.execVlog2 d a pr s
  | .vtanh d a pr => Sys2Proof.Machine.execVtanh d a pr s
  | .vsin d a pr => Sys2Proof.Machine.execVsin d a pr s
  | .vcos d a pr => Sys2Proof.Machine.execVcos d a pr s
  | .verf d a pr => Sys2Proof.Machine.execVerf d a pr s
  | .vrsum d a pr => Sys2Proof.Machine.execVrsum d a pr s
  | .vrfsum d a pr => Sys2Proof.Machine.execVrfsum d a pr s
  | .vrmax d a pr => Sys2Proof.Machine.execVrmax d a pr s
  | .vrmin d a pr => Sys2Proof.Machine.execVrmin d a pr s
  | .vramax d a pr => Sys2Proof.Machine.execVramax d a pr s
  | .vrand d a pr => Sys2Proof.Machine.execVrand d a pr s
  | .vror d a pr => Sys2Proof.Machine.execVror d a pr s
  | .vrxor d a pr => Sys2Proof.Machine.execVrxor d a pr s
  | .vgather d a b pr => Sys2Proof.Machine.execVgather d a b pr s
  | .vslideup d a b pr => Sys2Proof.Machine.execVslideup d a b pr s
  | .vslidedn d a b pr => Sys2Proof.Machine.execVslidedn d a b pr s
  | .vcompress d a pr => Sys2Proof.Machine.execVcompress d a pr s
  | .vexpand d a pr => Sys2Proof.Machine.execVexpand d a pr s
  | .vzip d a b pr => Sys2Proof.Machine.execVzip d a b pr s
  | .vunzip d a pr => Sys2Proof.Machine.execVunzip d a pr s
  | .vbcast d a b pr => Sys2Proof.Machine.execVbcast d a b pr s
  | .vshlw d a b => Sys2Proof.Machine.execVshlw d a b s
  | .vshrw d a b => Sys2Proof.Machine.execVshrw d a b s
  | .vfunl d a b => Sys2Proof.Machine.execVfunl d a b s
  | .vfunr d a b => Sys2Proof.Machine.execVfunr d a b s
  | .vrevb d a pr => Sys2Proof.Machine.execVrevb d a pr s
  | .vbswap d a pr => Sys2Proof.Machine.execVbswap d a pr s
  | .vclzw d a => Sys2Proof.Machine.execVclzw d a s
  | .vpopw d a => Sys2Proof.Machine.execVpopw d a s
  | .vcvt d a q tag pr => Sys2Proof.Machine.execVcvt d a q tag pr s
  | .vcvts d a q tag pr => Sys2Proof.Machine.execVcvts d a q tag pr s
  | .vpack d a b pr => Sys2Proof.Machine.execVpack d a b pr s
  | .vunpack d a b pr => Sys2Proof.Machine.execVunpack d a b pr s
  | .vretag d a tag => Sys2Proof.Machine.execVretag d a tag s
  | .vdeq d a b pr => Sys2Proof.Machine.execVdeq d a b pr s
  | .vqnt d a b pr => Sys2Proof.Machine.execVqnt d a b pr s
  | .vround d a pr => Sys2Proof.Machine.execVround d a pr s
  | .vbamax d a q tag pr => Sys2Proof.Machine.execVbamax d a q tag pr s
  | .vbscale d a q tag pr => Sys2Proof.Machine.execVbscale d a q tag pr s
  | .vbqnt d a q tag pr => Sys2Proof.Machine.execVbqnt d a q tag pr s
  | .vdot4s d a b pr => Sys2Proof.Machine.execVdot4s d a b pr s
  | .vdot2f d a b pr => Sys2Proof.Machine.execVdot2f d a b pr s
  | .vsladd d a b pr => Sys2Proof.Machine.execVsladd d a b pr s
  | .vslsub d a b pr => Sys2Proof.Machine.execVslsub d a b pr s
  | .vslmul d a b pr => Sys2Proof.Machine.execVslmul d a b pr s
  | .vsldiv d a b pr => Sys2Proof.Machine.execVsldiv d a b pr s
  | .vslmed d a b pr => Sys2Proof.Machine.execVslmed d a b pr s
  | .vslcvt d a b pr => Sys2Proof.Machine.execVslcvt d a b pr s
  | .vslcanon d a pr => Sys2Proof.Machine.execVslcanon d a pr s
  | .vslcmp d a b pr => Sys2Proof.Machine.execVslcmp d a b pr s
  | .vmv d a pr => Sys2Proof.Machine.execVmv d a pr s
  | .vsplat d a pr => Sys2Proof.Machine.execVsplat d a pr s
  | .vextg d a b => Sys2Proof.Machine.execVextg d a b s
  | .vinsg d a b => Sys2Proof.Machine.execVinsg d a b s
  | .vid d pr => Sys2Proof.Machine.execVid d pr s
  | .vmovxRead d b => Sys2Proof.Machine.execVmovxRead d b s
  | .vmovxWrite a b => Sys2Proof.Machine.execVmovxWrite a b s
  | .vmskv d a => Sys2Proof.Machine.execVmskv d a s
  | .vmvp d a => Sys2Proof.Machine.execVmvp d a s
  | .vsetvl d a b => Sys2Proof.Machine.execVsetvl d a b s
  | .vcoll d a b => Sys2Proof.Machine.execVcoll d a b s
  | .vldu d a mk mfc => Sys2Proof.Machine.execVldu d a mk mfc s
  | .vlds d a b mk mfc => Sys2Proof.Machine.execVlds d a b mk mfc s
  | .vldx d a b mk mfc => Sys2Proof.Machine.execVldx d a b mk mfc s
  | .vstu d a mk mfc uo => Sys2Proof.Machine.execVstu d a mk mfc uo s
  | .vsts d a b mk mfc uo => Sys2Proof.Machine.execVsts d a b mk mfc uo s
  | .vstx d a b mk mfc uo => Sys2Proof.Machine.execVstx d a b mk mfc uo s
  | .vldtr d a b mk mfc => Sys2Proof.Machine.execVldtr d a b mk mfc s
  | .vldwin d a b mk mfc => Sys2Proof.Machine.execVldwin d a b mk mfc s
  | .vldz d a b mfc => Sys2Proof.Machine.execVldz d a b mfc s
  | .cpy d a b => Sys2Proof.Machine.execCpy d a b s
  | .cpyt d a b => Sys2Proof.Machine.execCpyt d a b s
  | .cpymc d a b => Sys2Proof.Machine.execCpymc d a b s
  | .cpyh d a b => Sys2Proof.Machine.execCpyh d a b s
  | .cpycancel d a => Sys2Proof.Machine.execCpycancel d a s
  | .tmset a n => Sys2Proof.Machine.execTmset a n s
  | .tmwalk d n => Sys2Proof.Machine.execTmwalk d n s
  | .tmstep d a n => Sys2Proof.Machine.execTmstep d a n s
  | .qlen d a => Sys2Proof.Machine.execQlen d a s
  | .qflush a => Sys2Proof.Machine.execQflush a s
  | .qpeek d a => Sys2Proof.Machine.execQpeek d a s
  | .hrank sel a b => Sys2Proof.Machine.execHrank sel a b s
  | .hranks sel a b => Sys2Proof.Machine.execHranks sel a b s
  | .hrankx sel a b => Sys2Proof.Machine.execHrankx sel a b s
  | .hrankg sel a b => Sys2Proof.Machine.execHrankg sel a b s
  | .hget sel a => Sys2Proof.Machine.execHget sel a s
  | .hput sel a => Sys2Proof.Machine.execHput sel a s
  | .hzero sel tag => Sys2Proof.Machine.execHzero sel tag s
  | .hacc sel a => Sys2Proof.Machine.execHacc sel a s
  | .hbiasc sel a => Sys2Proof.Machine.execHbiasc sel a s
  | .hbiasr sel a => Sys2Proof.Machine.execHbiasr sel a s
  | .hscalc sel a => Sys2Proof.Machine.execHscalc sel a s
  | .hrelu sel => Sys2Proof.Machine.execHrelu sel s
  | .hclamp sel a => Sys2Proof.Machine.execHclamp sel a s
  | .hrq sel a tag => Sys2Proof.Machine.execHrq sel a tag s
  | .hsumsq sel a => Sys2Proof.Machine.execHsumsq sel a s
  | .hnorm sel a => Sys2Proof.Machine.execHnorm sel a s
  | .hexp2 sel => Sys2Proof.Machine.execHexp2 sel s
  | .hrcp sel => Sys2Proof.Machine.execHrcp sel s
  | .htanh sel => Sys2Proof.Machine.execHtanh sel s
  | .hrsq sel => Sys2Proof.Machine.execHrsq sel s
  | .hsave sel a b => Sys2Proof.Machine.execHsave sel a b s
  | .hrest sel a b => Sys2Proof.Machine.execHrest sel a b s
  | .vsave a b => Sys2Proof.Machine.execVsave a b s
  | .vrest a b => Sys2Proof.Machine.execVrest a b s
  | .hdmap sel a => Sys2Proof.Machine.execHdmap sel a s
  | .tspawn d a b => Sys2Proof.Machine.execTspawn d a b s
  | .tend a => Sys2Proof.Machine.execTend a s
  | .tyield => Sys2Proof.Machine.execTyield s
  | .tbank => Sys2Proof.Machine.execTbank s
  | .gjoin => Sys2Proof.Machine.execGjoin s
  | .gleave => Sys2Proof.Machine.execGleave s
  | .trec d a => Sys2Proof.Machine.execTrec d a s
  | .queueTimeout q => Sys2Proof.Machine.execQueueTimeout q s
  | .watchdog reason => Sys2Proof.Machine.execWatchdog reason s
  | .timer => Sys2Proof.Machine.execTimer s
  | .takeInterrupt => Sys2Proof.Machine.execTakeInterrupt s
  | .trapEntry cause eval => Sys2Proof.Machine.execTrapEntry cause eval s
  | .faultWindowClose => Sys2Proof.Machine.execFaultWindowClose s
  | .scalarResultWrite d => Sys2Proof.Machine.execScalarResultWrite d s
  | .slashResult d => Sys2Proof.Machine.execSlashResult d s
  | .scalarLoadReply tag => Sys2Proof.Machine.execScalarLoadReply tag s
  | .atomicResponse tag => Sys2Proof.Machine.execAtomicResponse tag s
  | .vectorGroupWrite entry => Sys2Proof.Machine.execVectorGroupWrite entry s
  | .vectorLoadData entry => Sys2Proof.Machine.execVectorLoadData entry s
  | .sfuCommit => Sys2Proof.Machine.execSfuCommit s
  | .hsfuCommit => Sys2Proof.Machine.execHsfuCommit s
  | .latchCommit => Sys2Proof.Machine.execLatchCommit s
  | .hoopRowLand row => Sys2Proof.Machine.execHoopRowLand row s
  | .freezeBegin va => Sys2Proof.Machine.execFreezeBegin va s
  | .lateReplyArrival => Sys2Proof.Machine.execLateReplyArrival s
  | .correctedError words => Sys2Proof.Machine.execCorrectedError words s
  | .correctionFreezeEnd => Sys2Proof.Machine.execCorrectionFreezeEnd s
  | .freezeTimeout => Sys2Proof.Machine.execFreezeTimeout s
  | .uncorrectableError place => Sys2Proof.Machine.execUncorrectableError place s
  | .bankSwitch => Sys2Proof.Machine.execBankSwitch s
  | .preempt => Sys2Proof.Machine.execPreempt s
  | .contextSave area => Sys2Proof.Machine.execContextSave area s
  | .contextRestore area => Sys2Proof.Machine.execContextRestore area s
  | .wfeWake => Sys2Proof.Machine.execWfeWake s
  | .barrierWaitRelease => Sys2Proof.Machine.execBarrierWaitRelease s
  | .bxchArrival => Sys2Proof.Machine.execBxchArrival s
  | .binitTeamComplete n => Sys2Proof.Machine.execBinitTeamComplete n s
  | .gjoinRendezvous => Sys2Proof.Machine.execGjoinRendezvous s
  | .tyieldRendezvous othersReady => Sys2Proof.Machine.execTyieldRendezvous othersReady s
  | .pubwaitSatisfied => Sys2Proof.Machine.execPubwaitSatisfied s
  | .publishAck io => Sys2Proof.Machine.execPublishAck io s
  | .gangBroadcastExecute => Sys2Proof.Machine.execGangBroadcastExecute s
  | .gangFail member row timeout => Sys2Proof.Machine.execGangFail member row timeout s
  | .copyLineLand id line => Sys2Proof.Machine.execCopyLineLand id line s
  | .copyComplete id => Sys2Proof.Machine.execCopyComplete id s
  | .cpytStart id => Sys2Proof.Machine.execCpytStart id s
  | .cpyhStart id => Sys2Proof.Machine.execCpyhStart id s
  | .lineWrite src dst => Sys2Proof.Machine.execLineWrite src dst s
  | .partialWrite src dst => Sys2Proof.Machine.execPartialWrite src dst s
  | .readRequest src dst => Sys2Proof.Machine.execReadRequest src dst s
  | .atomicPacket src dst => Sys2Proof.Machine.execAtomicPacket src dst s
  | .readReply src dst => Sys2Proof.Machine.execReadReply src dst s
  | .atomicOrErrorReply src dst => Sys2Proof.Machine.execAtomicOrErrorReply src dst s
  | .orderAcknowledgement src dst => Sys2Proof.Machine.execOrderAcknowledgement src dst s
  | .knotAdvance src dst => Sys2Proof.Machine.execKnotAdvance src dst s
  | .knotFrame src dst => Sys2Proof.Machine.execKnotFrame src dst s
  | .beacon src dst => Sys2Proof.Machine.execBeacon src dst s
  | .cutAdvance src dst => Sys2Proof.Machine.execCutAdvance src dst s
  | .removalNotice src dst => Sys2Proof.Machine.execRemovalNotice src dst s
  | .reservedKindFlit src dst => Sys2Proof.Machine.execReservedKindFlit src dst s
  | .heldPacketRelease src dst => Sys2Proof.Machine.execHeldPacketRelease src dst s
  | .beaconSend die => Sys2Proof.Machine.execBeaconSend die s
  | .forwardEntryLeave cluster index => Sys2Proof.Machine.execForwardEntryLeave cluster index s
  | .atomicReplyTimeout tag => Sys2Proof.Machine.execAtomicReplyTimeout tag s
  | .knotReset => Sys2Proof.Machine.execKnotReset s
  | .cutRequest die => Sys2Proof.Machine.execCutRequest die s
  | .granulePreserve index => Sys2Proof.Machine.execGranulePreserve index s
  | .snapshotCopierStream index => Sys2Proof.Machine.execSnapshotCopierStream index s
  | .snapshotComplete => Sys2Proof.Machine.execSnapshotComplete s
  | .freqSwitchFreeze => Sys2Proof.Machine.execFreqSwitchFreeze s
  | .freqSwitchResume => Sys2Proof.Machine.execFreqSwitchResume s
  | .retentionEntry die bank => Sys2Proof.Machine.execRetentionEntry die bank s
  | .retentionExit die bank => Sys2Proof.Machine.execRetentionExit die bank s
  | .scrub pa => Sys2Proof.Machine.execScrub pa s
  | .tinvAsn io asn => Sys2Proof.Machine.execTinvAsn io asn s
  | .tinvVpn io asn vpn => Sys2Proof.Machine.execTinvVpn io asn vpn s
  | .tinvAll io => Sys2Proof.Machine.execTinvAll io s
  | .tinvVpnEveryAsn io vpn => Sys2Proof.Machine.execTinvVpnEveryAsn io vpn s
  | .invalidationComplete io => Sys2Proof.Machine.execInvalidationComplete io s
  | .pans io value => Sys2Proof.Machine.execPans io value s
  | .prtailWrite io value => Sys2Proof.Machine.execPrtailWrite io value s
  | .notify io value => Sys2Proof.Machine.execNotify io value s
  | .slotMap io q => Sys2Proof.Machine.execSlotMap io q s
  | .slotUnmap io q => Sys2Proof.Machine.execSlotUnmap io q s
  | .slotWritebackComplete io q => Sys2Proof.Machine.execSlotWritebackComplete io q s
  | .takeRecord io q => Sys2Proof.Machine.execTakeRecord io q s
  | .aliasRetire io index => Sys2Proof.Machine.execAliasRetire io index s
  | .taskPlace handle cores bank lfBase hBase => Sys2Proof.Machine.execTaskPlace handle cores bank lfBase hBase s
  | .taskPromote handle => Sys2Proof.Machine.execTaskPromote handle s
  | .strandStart handle member => Sys2Proof.Machine.execStrandStart handle member s
  | .memberStop handle member => Sys2Proof.Machine.execMemberStop handle member s
  | .addressSpaceDestroy root => Sys2Proof.Machine.execAddressSpaceDestroy root s
  | .level3 => Sys2Proof.Machine.execLevel3 s
  | .clock half => Sys2Proof.Machine.execClock half s
  | .remove die => Sys2Proof.Machine.execRemove die s
  | .reset => Sys2Proof.Machine.execReset s
  | .fwload pa => Sys2Proof.Machine.execFwload pa s
  | .snapshot pa => Sys2Proof.Machine.execSnapshot pa s
  | .svnset version => Sys2Proof.Machine.execSvnset version s
  | .wake value => Sys2Proof.Machine.execWake value s
  | .registerWrite pa value => Sys2Proof.Machine.execRegisterWrite pa value s
  | .powerWindow watts => Sys2Proof.Machine.execPowerWindow watts s
  | .powerOn => Sys2Proof.Machine.execPowerOn s
  | .perstPackage => Sys2Proof.Machine.execPerstPackage s
  | .perstLink => Sys2Proof.Machine.execPerstLink s
  | .firmwareVerify => Sys2Proof.Machine.execFirmwareVerify s
  | .linkTraining unit ok => Sys2Proof.Machine.execLinkTraining unit ok s
  | .level2Entry => Sys2Proof.Machine.execLevel2Entry s
  | .getVersion io => Sys2Proof.Machine.execGetVersion io s
  | .getCapabilities io => Sys2Proof.Machine.execGetCapabilities io s
  | .negotiateAlgorithms io => Sys2Proof.Machine.execNegotiateAlgorithms io s
  | .getDigests io => Sys2Proof.Machine.execGetDigests io s
  | .getCertificate io slot => Sys2Proof.Machine.execGetCertificate io slot s
  | .challenge io slot => Sys2Proof.Machine.execChallenge io slot s
  | .getMeasurements io index => Sys2Proof.Machine.execGetMeasurements io index s
  | .hostWrite io pa data relaxed poisoned => Sys2Proof.Machine.execHostWrite io pa data relaxed poisoned s
  | .hostRead io pa len => Sys2Proof.Machine.execHostRead io pa len s
  | .hostCompletionTimeout tag => Sys2Proof.Machine.execHostCompletionTimeout tag s
  | .rdmaWriteInbound io rkey pa data => Sys2Proof.Machine.execRdmaWriteInbound io rkey pa data s
  | .rdmaReadInbound io rkey pa len => Sys2Proof.Machine.execRdmaReadInbound io rkey pa len s
  | .rdmaNak id => Sys2Proof.Machine.execRdmaNak id s
  | .illegalOpcode word offset => Sys2Proof.Machine.execIllegalOpcode word offset s
  | .fetchFault va => Sys2Proof.Machine.execFetchFault va s
  | .spawnRecordAccept io => Sys2Proof.Machine.execSpawnRecordAccept io s
  | .fconsWrite io q value => Sys2Proof.Machine.execFconsWrite io q value s
  | .rconsWrite io q value => Sys2Proof.Machine.execRconsWrite io q value s
  | .d3hot io enter => Sys2Proof.Machine.execD3hot io enter s
  | .autoNegotiation io port up => Sys2Proof.Machine.execAutoNegotiation io port up s
  | .priorityFlowControl io port pause => Sys2Proof.Machine.execPriorityFlowControl io port pause s

end Sys2Proof.Machine
end

