-- ==== Sys2Proof/Machine/Fetch.lean ====
section
/-! DEFINITION. The fetch of a pair (R48, R52, R57, R58, R341): its words from memory through the level-1 TLB, what
they decode to, and the later words of a convoy. -/

namespace Sys2Proof.Machine

/-- One instruction as it was fetched: the address of its first word, its prefix and its own word. -/
structure Raw where
  addr : Word
  pre : Option (BitVec 32)
  word : BitVec 32
  deriving DecidableEq, Repr

/-- The address of the instruction's own word, its prefix apart. -/
def Raw.at_ (r : Raw) : Word := if r.pre.isSome then r.addr + 4 else r.addr

/-- The address behind the instruction. -/
def Raw.next (r : Raw) : Word := r.at_ + 4

/-- Why a fetch has no word: its home is not ready yet, or it faults. -/
inductive FetchStop where
  | wait
  | fault (va : Word)
  deriving DecidableEq, Repr

/-- The word at a virtual address, fetched by the running context; no fetch may come from a DEVICE or FLEET granule
(R334). DEDUCED, log 24. -/
def State.fetchWord (s : State) (va : Word) : Except FetchStop (BitVec 32 × State) :=
  match s.translate .l1 va.toNat .fetch with
  | .error .wait => .error .wait
  | .error _ => .error (.fault va)
  | .ok (t, s1) =>
    if s1.readyAt t.pa 4 = false then .error .wait
    else if (t.tlb.mt == 2 || t.tlb.mt == 4) || s1.pkg.poisonedAt t.pa 4 then .error (.fault va)
    else
      let s2 := s1.trip ((s1.pkg.homeOf t.pa).getD s1.core.die)
      .ok (BitVec.ofNat 32 (s1.pkg.readAt t.pa 4), { s2 with pkg := (s2.pkg.touchSram t.pa).1 })

/-- The instruction whose first word is at an address. -/
def State.fetchRaw (s : State) (va : Word) : Except FetchStop (Raw × State) := do
  let (w, s) ← s.fetchWord va
  if isPrefix w then
    let (v, s) ← s.fetchWord (va + 4)
    .ok ({ addr := va, pre := some w, word := v }, s)
  else .ok ({ addr := va, pre := none, word := w }, s)

/-- R58: the pair at an address: one instruction, or two where the first has P set. -/
def State.fetchPair (s : State) (va : Word) : Except FetchStop (List Raw × State) := do
  let (a, s) ← s.fetchRaw va
  if bitP a.word then
    let (b, s) ← s.fetchRaw a.next
    .ok ([a, b], s)
  else .ok ([a], s)

-- Decoding builds instructions, which have no compiled code.
noncomputable section

/-- What an instruction decodes to, or the word at fault and its address (R52, R56). -/
def Raw.decode (r : Raw) : Except (BitVec 32 × Word) Issue :=
  match decodeWords (r.pre.toList ++ [r.word]) with
  | .ok (slot, _) => .ok { addr := r.at_, word := r.word, slot := slot, pre := r.pre.isSome }
  | .error .badPrefix => .error (r.pre.getD r.word, r.addr)
  | .error _ => .error (r.word, r.at_)

/-- R57: the instructions of a pair, or its first word at fault. -/
def decodePair : List Raw → Except (BitVec 32 × Word) (List Issue)
  | [] => .ok []
  | r :: l =>
    match r.decode with
    | .error e => .error e
    | .ok it => (decodePair l).map (fun k => it :: k)

/-- The instructions from an address to the end of the convoy, as far as they can be fetched and decoded. -/
def State.fetchAhead (s : State) (va : Word) : Nat → List Issue
  | 0 => []
  | n + 1 =>
    match s.fetchRaw va with
    | .error _ => []
    | .ok (r, s1) =>
      match r.decode with
      | .error _ => []
      | .ok it => it :: (if bitC r.word then [] else s1.fetchAhead r.next n)

/-- The later instructions of the convoy behind a pair with a vector access: those that a faulting load could have
issued before its fault is recognised, and those that may break the chain of a store (R67). DEDUCED, log 41. -/
def State.aheadOfPair (s : State) (l : List Issue) (next : Word) : List Issue :=
  let last := (l.getLast?).elim 0 (fun it => it.word)
  if l.any (fun it => isVload it.word || isVstore it.word) && !bitC last then s.fetchAhead next 16 else []

/-- The pair at the program counter has `w`, `off` bytes behind it, as a word at fault. DESIGN CHOICE, log 47. -/
def State.refuses (s : State) (w : BitVec 32) (off : Nat) : Bool :=
  match s.fetchPair s.ctx.pc with
  | .error _ => false
  | .ok (l, _) =>
    match decodePair l with
    | .error (v, a) => v == w && a == s.ctx.pc + BitVec.ofNat 64 off
    | .ok _ => false

end

end Sys2Proof.Machine
end

