-- ==== Sys2Proof/Machine/Run.lean ====
section
/-! DEFINITION. What the core in focus does of itself: it issues its next pair (R241), takes a trap, an interrupt
or a bank switch that is due, or, where none of these can happen, lets the fabric and the copies go on, or time
pass. -/

namespace Sys2Proof.Machine

-- These decode and name events, for which there is no compiled code.
noncomputable section

/-! ### What goes on beside issue -/

/-- The event of a packet that reaches the end of its link. -/
def Packet.event (k : Packet) : Instr :=
  match k.payload with
  | .write _ _ full _ => if full then .lineWrite k.src k.dst else .partialWrite k.src k.dst
  | .readReq _ _ _ => .readRequest k.src k.dst
  | .atomic _ _ _ _ _ _ => .atomicPacket k.src k.dst
  | .readReply a => if a.byte8 % 2 = 0 then .readReply k.src k.dst else .atomicOrErrorReply k.src k.dst
  | .atomicReply _ _ => .atomicOrErrorReply k.src k.dst
  | .ack => .orderAcknowledgement k.src k.dst
  | .knotAdvance => .knotAdvance k.src k.dst
  | .beacon _ => .beacon k.src k.dst
  | .cutAdvance _ => .cutAdvance k.src k.dst
  | .removal _ => .removalNotice k.src k.dst

/-- What a wait of the running context may end with (R255). -/
def Ctx.waitEvents (c : Ctx) : List Instr :=
  match c.wait with
  | none => []
  | some w =>
    match w.kind with
    | .wfe => []
    | .bwait => [.barrierWaitRelease]
    | .flip => [.barrierWaitRelease]
    | .puts => [.bxchArrival]
    | .pubwait => [.pubwaitSatisfied]
    | .binit => [.binitTeamComplete w.place]
    | .gjoin => [.gjoinRendezvous]
    | .tyield => [.tyieldRendezvous false, .tyieldRendezvous true]

/-- What can go on in the package while the core in focus issues nothing: packets and held packets, forwarding
entries that leave, copies, spawn records, and the ends of waits. DESIGN CHOICE, log 5. -/
def State.underway (s : State) : List Instr :=
  let p := s.pkg
  let copies := s.core.copies ++ p.io0.bobbin ++ p.io9.bobbin
  s.ctx.waitEvents
    ++ (List.range 10).flatMap (fun d => (p.die d).hold.map (fun k => Instr.heldPacketRelease k.src d))
    ++ p.net.map Packet.event
    ++ p.fwd.flatMap (fun b => (List.range b.2.length).map (fun i => Instr.forwardEntryLeave b.1 i))
    ++ copies.flatMap (fun c =>
      if c.finished then [Instr.copyComplete c.id]
      else if c.started then
        ((List.range c.lines).filter (fun l => !c.landed.contains l)).map (fun l => Instr.copyLineLand c.id l)
      else [if c.form = 3 then Instr.cpyhStart c.id else Instr.cpytStart c.id])
    ++ (if p.io0.spawns.isEmpty then [] else [Instr.spawnRecordAccept 0])
    ++ (if p.io9.spawns.isEmpty then [] else [Instr.spawnRecordAccept 9])

/-- The first of a list of events that changes anything; a cycle passes where none does. DESIGN CHOICE, log 5. -/
def State.firstOf (s : State) : List Instr → Out
  | [] => .next (s.passTeam s.mates 1)
  | i :: l =>
    match exec i s with
    | .next t => if t = s then s.firstOf l else .next t
    | o => o

/-- The core in focus issues nothing: a frozen core's freeze ends (R249), or something else goes on, or a cycle
passes. DESIGN CHOICE, log 5. -/
def State.progress (s : State) : Out :=
  if s.pkg.mgmt.switching then exec .freqSwitchResume s
  else if s.core.freeze.late.isSome then exec .lateReplyArrival s
  else if s.core.freeze.correctUntil ≠ 0 then exec .correctionFreezeEnd s
  else s.firstOf s.underway

/-! ### Issue -/

/-- The pair has stalled for another cycle: a limit of R26 or R243 is reached in the strand or a member of its gang,
the core switches to a ready bank at a wait (R253), or something else goes on. DESIGN CHOICE, log 39. DEDUCED, log 49. -/
def State.stallOn (s : State) : Out :=
  let c := s.ctx
  let t := { s with stalled := false }
  let stalled (n : Nat) (m : Ctx) : Bool := m.stall != 0 && decide (n ≤ m.stallTime s.now)
  match s.mateCtxs.find? (fun m => m.stallReason == 11 && stalled m.qto.toNat m) with
  | some m => exec (.queueTimeout m.stallQueue) t
  | none =>
    match s.mateCtxs.find? (fun m => decide (1 ≤ m.stallReason ∧ m.stallReason ≤ 10) && stalled (2 ^ 24) m) with
    | some m => exec (.watchdog m.stallReason) t
    | none => if c.wait.isSome && s.other.ready && c.idle && !c.gang then exec .bankSwitch t else t.progress

/-- The pair stalls before it begins. DEDUCED, log 49. -/
def State.holdPair (s : State) (reason : Nat) : Out :=
  State.stallOn { s with ctx := { s.ctx with stallReason := reason, stall := s.ctx.stallFrom s.now reason } }

/-- R66: why the convoy fails at an instruction of the pair: the reason, and the offset of its word. -/
def State.convoyFailure (s : State) (l : List Issue) : Option (Nat × Nat) :=
  let c := s.ctx
  let start := if c.convoy.isEmpty then s.ctx.pc else c.convoyStart
  let off (it : Issue) : Nat := (it.addr - start).toNat / 4
  let mine (it : Issue) : Issued := s.issued (off it) it.word it.slot.instr
  let before := c.convoy.filter (fun y => decide (y.off < (l.map off).headD 0))
  let at_ (partner : Option Issue) (x : Issue) : Option (Nat × Nat) :=
    (s.convoyReason before (partner.map mine) (mine x) x.addr x.pre).map (fun r =>
      (r, if r = 1 then 16 else if r = 5 ∧ x.pre = true ∧ c.endsBody (x.addr - 4) = true then off x - 1 else off x))
  match l with
  | [] => none
  | [x] => at_ none x
  | x :: y :: _ => (at_ none x).or (at_ (some x) y)

/-- R242: a trap that the fault of an open window would discard waits until the window has closed. -/
def State.orHold (s : State) (o : Out) : Out := if s.ctx.leftOpen then s.holdPair 7 else o

/-- A decoded pair issues: in a gang it is broadcast, else its instructions execute (R241, R268). -/
def State.issuePair (s : State) (l : List Issue) (next : Word) : Out :=
  let s := s.startPair next
  let s := if s.ctx.convoy.isEmpty then { s with ctx := { s.ctx with convoyStart := s.ctx.pc } } else s
  if s.ctx.gang then
    .next { s with pkg := { s.pkg with
      gangs := s.pkg.gangs ++ [{ handle := s.ctx.taskh, slots := l, pair := s.pairAddr, next := next, snap := [] }] } }
  else
    let old := s.ctx
    let s := { s.resumed with sync := s.ctx.mustWait l }
    match runPair exec s l (s.aheadOfPair l next) with
    | .done t => .next ((s.withUndo exec t l).completePair l)
    | .trap t => s.orHold (.next t.settleTrap)
    | .stall t =>
      -- R247: a pair that stalls has not issued
      State.stallOn (if old.resume then
        { t with ctx := { t.ctx with live := old.live, held := old.held, resume := true } } else t)
    | .stop o => o

/-- R57: the instruction of a pair that is system-only, at user level. -/
def State.notPrivileged (s : State) (l : List Issue) : Option Issue :=
  if s.ctx.system then none
  else l.find? (fun it => isSystemOnly it.slot.instr)

/-- A decoded pair that R60 allows: the convoy and privilege checks, the waits before issue, and its issue. -/
def State.checkedPair (s : State) (l : List Issue) (next : Word) : Out :=
  let words := l.map (fun it => it.word)
  match s.convoyFailure l with
  | some (r, off) => s.orHold (.next (s.decodeTrap cIllegalConvoy (word (r + off * 2 ^ 8))))
  | none =>
    match s.notPrivileged l with
    | some it =>
      let t := { s with curWord := it.word, wordAddr := it.addr, pairAddr := s.ctx.pc }
      s.orHold (.next (s.decodeTrap cPrivilege t.wordEval))
    | none =>
    match (if s.ctx.gang then none else (s.copyHolds words).or (s.leftHolds words)) with
    | some r => s.holdPair r
    | none =>
      let due := s.issueCycle l
      let began := s.ctx.stallFrom s.now 1 - 1
      if !s.ctx.gang && decide (began + 2 ^ 24 ≤ due) then
        let reason := s.waitReason words (began + 2 ^ 24)
        -- R243: the wait for what has issued has lasted the limit
        exec (.watchdog reason) { s.reach (began + 2 ^ 24) with
          ctx := { (s.reach (began + 2 ^ 24)).ctx with stallReason := reason, stall := began + 1 } }
      else
      let t := if s.ctx.gang then s else s.reachTrap due s.ctx.live.length
      -- R247: a first resumed pair that only the held results hold back
      let t := if !s.ctx.gang && t.ctx.resume && t.now < t.resumed.issueCycle l then
          t.resumed.reachTrap (t.resumed.issueCycle l) t.resumed.ctx.live.length else t
      match t.ctx.sfuTrap with
      | some e => t.orHold (exec (.trapEntry cArith e) t)
      | none => if t.interrupted then exec .takeInterrupt t else t.issuePair l next

/-- The pair at the program counter: its fetch and decode checks in the order of R57, the cycle in which it can
issue, and its issue. -/
def State.nextPair (s : State) : Out :=
  let pc := s.ctx.pc
  match s.fetchPair pc with
  | .error .wait => s.holdPair 0
  | .error (.fault va) => s.orHold (exec (.fetchFault va) s)
  | .ok (raws, s1) =>
    match decodePair raws with
    | .error (w, a) => s.orHold (exec (.illegalOpcode w (a - pc).toNat) s)
    | .ok l =>
      let next := (raws.getLast?).elim pc Raw.next
      let illegal := match l with
        | [x, y] => s1.pairReason x.word y.word
        | _ => none
      match illegal with
      | some r => s1.orHold (.next (s1.decodeTrap cIllegalPair (word r)))
      | none => s1.checkedPair l next

/-- R277: an entry that has been in a forwarding buffer for the longest time it may, or one that goes before it.
DEDUCED, log 58. -/
def State.overdue (s : State) : Option (Nat × Nat) :=
  s.pkg.fwd.findSome? (fun b =>
    (s.pkg.nextToLeave b.1 (fun e => decide (e.cyc + 2048 ≤ s.pkg.cyc))).map (fun i => (b.1, i)))

/-- What the core in focus does where the environment puts nothing before it. DESIGN CHOICE, log 5. -/
def State.advance (s : State) : Out :=
  let c := s.ctx
  match s.overdue with
  | some (cl, i) => exec (.forwardEntryLeave cl i) s
  | none =>
  if s.frozen then s.progress
  else if !c.ready then (if s.other.ready && c.idle then exec .bankSwitch s else s.progress)
  -- R254: an answered bank comes back at the running bank's next convoy boundary
  else if s.other.back && s.other.ready && c.convoy.isEmpty && c.idle && !c.skip1 && !c.skip2 then exec .bankSwitch s
  else if s.stopping.isSome then s.firstOf (s.stopping.toList.map (fun x => Instr.memberStop x.1 x.2) ++ s.underway)
  else if s.interrupted then exec .takeInterrupt s
  else if s.broadcasting then
    match exec .gangBroadcastExecute s with
    | .next t => if t.stalled then t.stallOn else .next t
    | o => o
  else if c.follower then s.progress
  else if c.gang && s.mateCtxs.any (fun m => !m.ready) then s.progress
  else
    match c.answeredLeft with
    | some (q, a) => .next (s.takeAnswer q a)
    | none =>
      if c.leftOpen then s.nextPair
      else
        match s.owed.head? with
        | some (_, cause, e, _) => exec (.trapEntry cause e) s
        | none => s.nextPair

/-! ### Events and placing -/

/-- An event of the part, which no pair issues. DESIGN CHOICE, log 47. -/
def isEvent (i : Instr) : Bool := (encodeBase i).isNone

/-- An event can occur: a word at fault is one only where it does not decode. DESIGN CHOICE, log 47. -/
def State.occurs (s : State) (i : Instr) : Bool :=
  match i with
  | .illegalOpcode w off => s.refuses w off
  | _ => isEvent i

/-! ### A program put in place -/

/-- The granules of a placed program's code and data, in die 1's SRAM (R332). -/
def placedCode : Nat := sramBase 1 + 0x100000
def placedData : Nat := sramBase 1 + 0x110000

/-- Where a placed program's four page tables lie: one of each level, 8 KiB each (R336). -/
def placedTable (i : Nat) : Nat := sramBase 1 + 0x2000 * i

/-- Memory with the page tables that map virtual granule 0 to the data and granule 1 to the code, both PLAIN with
R, W and X set (R336, R337). DESIGN CHOICE, log 2. -/
def Memory.placeTables (m : Memory) : Memory :=
  let m := m.writeLE (placedTable 0) 8 (placedTable 1 + 1)
  let m := m.writeLE (placedTable 1) 8 (placedTable 2 + 1)
  let m := m.writeLE (placedTable 2) 8 (placedTable 3 + 1)
  let m := m.writeLE (placedTable 3) 8 (placedData + 0xEF)
  m.writeLE (placedTable 3 + 8) 8 (placedCode + 0xEF)

/-- A strand at user level in bank 0 of core 0 of die 1, about to issue what stands in its code granule: where
bring-up, the placing of a task and the start of its strand lead from reset (R18, R403 to R405).
DESIGN CHOICE, log 2. -/
def State.placeStrand (s : State) (bytes n : Nat) : State :=
  { s with
    ctx := { Ctx.reset 1 0 with holds := true, estat := 2, root := placedTable 0, pc := 0x10000 }
    agenda := []
    pkg := { s.pkg with mem := (s.pkg.mem.placeTables).writeLE placedCode n bytes
                        mgmt := { s.pkg.mgmt with level := 3, half := false } } }

end

end Sys2Proof.Machine
end

