-- ==== Sys2Proof/Machine/Step.lean ====
section
/-! DEFINITION. One step of the machine, and a program's first instruction put where the next step fetches it. -/

namespace Sys2Proof.Machine

-- The step decodes and names events, for which there is no compiled code.
noncomputable section

/-- One step: the environment's next action, an event that can occur or the choice of the core that acts next, or
what the core in focus does. DESIGN CHOICE, log 2, 5, 47. -/
def step (s : State) : Host.Outcome State Fault Refusal :=
  match s.agenda with
  | [] => s.advance
  | .focus k :: rest =>
    let t := { s with agenda := rest }
    .next (if 24 ≤ k ∧ k < 216 then t.focusOn k else t)
  | .event i :: rest =>
    let t := { s with agenda := rest }
    if t.occurs i then exec i t else .next t

/-- A program of one instruction, `nbits` bits of `w` with zeros above up to two words, stands where `step` fetches
next: in the code of a strand that has been placed and started. DESIGN CHOICE, log 2. -/
def State.withFetchWord (s : State) (nbits w : Nat) : State := s.placeStrand (w % 2 ^ nbits) 8

end

end Sys2Proof.Machine
end

