-- ==== Sys2Proof/Safety.lean ====
section
/-! DEFINITION. What the claims speak of: the invariant of the machine, an instruction that completes, the ways a
state follows from another (a register written, control transferred, a trap taken), and what each leaves as it
stands. -/

namespace Sys2Proof.Safety

open Sys2Proof.Machine

/-- The invariant of every state: physical memory is in its canonical form. -/
def Inv (s : State) : Prop := Memory.wf s.pkg.mem = true

/-- The instruction completes: it answers a next state, of which `P` holds. -/
def Yields (i : Instr) (s : State) (P : State → Prop) : Prop := ∃ t, exec i s = .next t ∧ P t

/-- Every byte of physical memory reads in `t` as in `s`. -/
def SameMemory (s t : State) : Prop := ∀ pa, t.pkg.mem.read pa = s.pkg.mem.read pa

/-- R17: `t` is `s` with g[d] := v, where g0 stays zero. Nothing but the g registers differs, and of them only d. -/
def WroteG (s t : State) (d : BitVec 6) (v : Word) : Prop :=
  t = { s with ctx := { s.ctx with g := t.ctx.g } } ∧ t.gr d = (if d = 0 then 0 else v) ∧ ∀ r, r ≠ d → t.gr r = s.gr r

/-- R44: `t` is the state after `s` takes a trap: EPC, ECAUSE and EVAL, PPL and PIE from PL and IE, IE clear, the
level system, and issue goes on at TVEC + 64 × cause. The g, f and p registers and the package keep their values. -/
def Trapped (s t : State) (cause : Nat) (eval : Word) : Prop :=
  t.ctx.epc = s.pairAddr ∧ t.ctx.ecause = BitVec.ofNat 64 cause ∧ t.ctx.eval = eval
  ∧ t.ctx.estat.getLsbD 0 = s.ctx.estat.getLsbD 7 ∧ t.ctx.estat.getLsbD 2 = s.ctx.estat.getLsbD 1
  ∧ t.ctx.estat.getLsbD 1 = false ∧ t.ctx.estat.getLsbD 7 = true
  ∧ t.npc = s.ctx.tvec + BitVec.ofNat 64 (64 * cause) ∧ t.taken = true
  ∧ t.ctx.g = s.ctx.g ∧ t.ctx.f = s.ctx.f ∧ t.ctx.p = s.ctx.p ∧ t.pkg = s.pkg

/-- R51 and R108: `t` is `s` with control transferred to an address; a target outside the body of an active loop
clears LC.ON. -/
def Jumped (s t : State) (to_ : Word) : Prop :=
  t = { s with npc := to_, taken := true, ctx := { s.ctx with lc := t.ctx.lc } }
  ∧ t.ctx.lc = (if s.ctx.lc.getLsbD 42 = true ∧ 4 * (s.ctx.lc.toNat / 2 ^ 32 % 64) ≤ (to_ - s.ctx.first).toNat
      then s.ctx.lc &&& ~~~(1#64 <<< 42) else s.ctx.lc)

/-- R36: a counter that stops at 2^64 − 1, raised by n. -/
def counted (x : Word) (n : Nat) : Word := BitVec.ofNat 64 (Nat.min (x.toNat + n) (2 ^ 64 - 1))

/-- R73: a context with flags ORed into the sticky flags of ACR and the counts added. -/
def recorded (c : Ctx) (fx : Fx) : Ctx :=
  { c with acr := c.acr ||| (fx.flags.zeroExtend 64 <<< 8), satcnt := counted c.satcnt fx.sat
           undcnt := counted c.undcnt fx.und }

/-- R73: a flag of the record is enabled in ACR.TE or SATE. -/
def enabledIn (s : State) (fx : Fx) : Prop := fx.flags &&& BitVec.ofNat 6 (s.ctx.acr.toNat / 2 ^ 16) ≠ 0

/-- R17 and R73: `t` is `s` with f[d] := v and the flags and counts recorded. -/
def WroteF (s t : State) (d : BitVec 5) (v : Word) (fx : Fx) : Prop :=
  t = { s with ctx := { recorded s.ctx fx with f := t.ctx.f } } ∧ t.fr d = v ∧ ∀ r, r ≠ d → t.fr r = s.fr r

/-- R17 and R73: `t` is `s` with g[d] := v and the flags and counts recorded. -/
def WroteGFlags (s t : State) (d : BitVec 6) (v : Word) (fx : Fx) : Prop :=
  t = { s with ctx := { recorded s.ctx fx with g := t.ctx.g } } ∧ t.gr d = (if d = 0 then 0 else v)
  ∧ ∀ r, r ≠ d → t.gr r = s.gr r

/-- R121: a scalar operation with a record of flags either completes with `P`, or, where a flag is enabled, traps
ARITH with its flags in EVAL and its destination unchanged. -/
def CompletesOrTraps (i : Instr) (s : State) (fx : Fx) (P : State → Prop) : Prop :=
  (¬ enabledIn s fx → Yields i s P)
  ∧ (enabledIn s fx → Yields i s (fun t => Trapped s t 0x09 (fx.flags.zeroExtend 64)))

end Sys2Proof.Safety
end

