-- ==== Sys2Proof/Certificates/Slice0/Obligations.lean ====
section
/-! DEFINITION. The statements about the model, from the numbered rules of the manual: each docstring names the
rules it formalises. -/

/-! ### Scalar integer instructions (R98 to R102) -/

namespace Sys2Proof.Claims

open Sys2Proof.Machine Sys2Proof.Safety

/-- The value of an immediate, sign-extended to 64 bits (R53, R100). -/
def imm64 {w : Nat} : Imm w → Word
  | .short v => v.signExtend 64
  | .long v => v.signExtend 64

/-- The positions of the set bits of a word, in ascending order. -/
def positions (x : Word) : List Nat := (List.range 64).filter (fun i => x.getLsbD i)

/-- 1 or 0. -/
def oneIf (b : Bool) : Word := if b then 1 else 0

/-- R98: each ALU form of two registers with the value it writes, from A = g[a] and B = g[b]. -/
def aluForms : List ((BitVec 6 → BitVec 6 → BitVec 6 → Instr) × (Word → Word → Word)) :=
  [ (.add, fun x y => word (x.toNat + y.toNat)),
    (.sub, fun x y => wordI (x.toInt - y.toInt)),
    (.and_, fun x y => x &&& y),
    (.or_, fun x y => x ||| y),
    (.xor_, fun x y => x ^^^ y),
    (.andn, fun x y => x &&& ~~~y),
    (.orn, fun x y => x ||| ~~~y),
    (.sll, fun x y => word (x.toNat * 2 ^ (y.toNat % 64))),
    (.srl, fun x y => word (x.toNat / 2 ^ (y.toNat % 64))),
    (.sra, fun x y => wordI (x.toInt / 2 ^ (y.toNat % 64))),
    (.rol, fun x y => word (x.toNat * 2 ^ (y.toNat % 64) + x.toNat / 2 ^ (64 - y.toNat % 64))),
    (.ror, fun x y => word (x.toNat / 2 ^ (y.toNat % 64) + x.toNat * 2 ^ (64 - y.toNat % 64))),
    (.slt, fun x y => oneIf (decide (x.toInt < y.toInt))),
    (.sltn, fun x y => oneIf (decide (x.toNat < y.toNat))),
    (.min, fun x y => wordI (Min.min x.toInt y.toInt)),
    (.max, fun x y => wordI (Max.max x.toInt y.toInt)),
    (.minn, fun x y => word (Nat.min x.toNat y.toNat)),
    (.maxn, fun x y => word (Nat.max x.toNat y.toNat)),
    (.mul, fun x y => wordI (x.toInt * y.toInt)),
    (.mulh, fun x y => wordI ((x.toInt * y.toInt) / 2 ^ 64)),
    (.mulhn, fun x y => word (x.toNat * y.toNat / 2 ^ 64)),
    (.div, fun x y => if y = 0 then wordI (-1) else wordI (x.toInt.tdiv y.toInt)),
    (.divn, fun x y => if y = 0 then wordI (-1) else word (x.toNat / y.toNat)),
    (.rem, fun x y => if y = 0 then x else wordI (x.toInt - y.toInt * x.toInt.tdiv y.toInt)),
    (.remn, fun x y => if y = 0 then x else word (x.toNat % y.toNat)),
    (.bext, fun x y => word (((positions y).zipIdx.map (fun p => (x.getLsbD p.1).toNat * 2 ^ p.2)).sum)),
    (.bdep, fun x y => word (((positions y).zipIdx.map (fun p => (x.getLsbD p.2).toNat * 2 ^ p.1)).sum)) ]

/-- R98: each ALU form of one register with the value it writes. -/
def bitForms : List ((BitVec 6 → BitVec 6 → Instr) × (Word → Word)) :=
  [ (.clz, fun x => word ((List.range 64).takeWhile (fun i => !x.getLsbD (63 - i))).length),
    (.ctz, fun x => word ((List.range 64).takeWhile (fun i => !x.getLsbD i)).length),
    (.popc, fun x => word (positions x).length) ]

/-- R98 to R101: the forms whose second operand is a number in the word: the bit index n of `sext` and `zext`, and
the shift amounts of SHI. -/
def amountForms : List ((BitVec 6 → BitVec 6 → BitVec 6 → Instr) × (Word → Nat → Word)) :=
  [ (.sext, fun x n => wordI (Int.bmod x.toNat (2 ^ (n + 1)))),
    (.zext, fun x n => word (x.toNat % 2 ^ (n + 1))),
    (.slli, fun x n => word (x.toNat * 2 ^ n)),
    (.srli, fun x n => word (x.toNat / 2 ^ n)),
    (.srai, fun x n => wordI (x.toInt / 2 ^ n)),
    (.rori, fun x n => word (x.toNat / 2 ^ n + x.toNat * 2 ^ (64 - n))) ]

/-- R100: each immediate form with the value it writes, from g[a] and I. -/
def immForms : List ((BitVec 6 → BitVec 6 → Imm 12 → Instr) × (Word → Word → Word)) :=
  [ (.addi, fun x y => word (x.toNat + y.toNat)),
    (.andi, fun x y => x &&& y),
    (.ori, fun x y => x ||| y),
    (.xori, fun x y => x ^^^ y),
    (.slti, fun x y => oneIf (decide (x.toInt < y.toInt))),
    (.sltni, fun x y => oneIf (decide (x.toNat < y.toNat))) ]

end Sys2Proof.Claims

open Sys2Proof Sys2Proof.Machine Sys2Proof.Safety Sys2Proof.Claims

/-- R98 and R99: each ALU form of two registers writes its result to g[d] and changes nothing else; a write to g0
is discarded. -/
def Sys2Proof.Claims.AluFormsWriteTheirResult : Prop :=
  ∀ p ∈ aluForms, ∀ (d a b : BitVec 6) (s : State),
    Yields (p.1 d a b) s (fun t => WroteG s t d (p.2 (s.gr a) (s.gr b)))

/-- R98, R100 to R102: the one-register ALU forms, `sext`, `zext`, the SHI forms, the immediate forms, `lui` and
`pcadd` write their result to g[d] and change nothing else. -/
def Sys2Proof.Claims.ImmediateAndBitFormsWriteTheirResult : Prop :=
  (∀ p ∈ bitForms, ∀ (d a : BitVec 6) (s : State), Yields (p.1 d a) s (fun t => WroteG s t d (p.2 (s.gr a))))
  ∧ (∀ p ∈ amountForms, ∀ (d a n : BitVec 6) (s : State),
      Yields (p.1 d a n) s (fun t => WroteG s t d (p.2 (s.gr a) n.toNat)))
  ∧ (∀ p ∈ immForms, ∀ (d a : BitVec 6) (i : Imm 12) (s : State),
      Yields (p.1 d a i) s (fun t => WroteG s t d (p.2 (s.gr a) (imm64 i))))
  ∧ (∀ (d : BitVec 6) (i : Imm 12) (s : State),
      Yields (.lui d i) s (fun t => WroteG s t d (word ((imm64 i).toNat * 2 ^ 28))))
  ∧ (∀ (d : BitVec 6) (i : Imm 12) (s : State),
      Yields (.pcadd d i) s (fun t => WroteG s t d (s.wordAddr + imm64 i)))

/-- R98 and R99: each ALU form of two registers writes its result to g[d] and changes nothing else; a write to g0 is
discarded. R98, R100 to R102: the one-register ALU forms, `sext`, `zext`, the SHI forms, the immediate forms, `lui`
and `pcadd` write their result to g[d] and change nothing else. -/
def Obligations.IntegerFormsWriteTheirResult : Prop :=
  Claims.AluFormsWriteTheirResult ∧ Claims.ImmediateAndBitFormsWriteTheirResult

/-! ### Control, the counted loop and the system instructions (R103 to R113) -/

namespace Sys2Proof.Claims

/-- R103: each branch with its condition. -/
def branchForms : List ((BitVec 6 → BitVec 6 → Imm 12 → Instr) × (Word → Word → Bool)) :=
  [ (.beq, fun x y => decide (x = y)),
    (.bne, fun x y => decide (x ≠ y)),
    (.blt, fun x y => decide (x.toInt < y.toInt)),
    (.bge, fun x y => decide (y.toInt ≤ x.toInt)),
    (.bltn, fun x y => decide (x.toNat < y.toNat)),
    (.bgen, fun x y => decide (y.toNat ≤ x.toNat)) ]

/-- The target of an offset in words from the word executing (R51). -/
def targetOf {w : Nat} (s : State) (off : Imm w) : Word := s.wordAddr + 4 * imm64 off

/-- R107, start_iteration: the stage predicates and COUNT in `t` after it runs on the predicates `p` and the loop
register `lc`. -/
def StartedIteration (p : Vector Pred 8) (lc : Word) (t : State) : Prop :=
  (∀ i : Fin 8, t.ctx.p[i.val] =
    if i.val < 4 ∨ lc.toNat / 2 ^ 38 % 8 ≤ i.val - 4 then p[i.val]
    else if i.val = 4 then (if 0 < lc.toNat % 2 ^ 32 then BitVec.allOnes 1024 else 0)
    else p[i.val - 1])
  ∧ t.ctx.lc = (if 0 < lc.toNat % 2 ^ 32 then lc - 1 else lc)

/-- R107: the body runs again at its end: source iterations remain, or a stage before the last is filled. -/
def runsAgain (s : State) : Prop :=
  0 < s.ctx.lc.toNat % 2 ^ 32 ∨ ∃ i : Fin 3, i.val + 2 ≤ s.ctx.lc.toNat / 2 ^ 38 % 8 ∧ s.ctx.p[4 + i.val] ≠ 0

end Sys2Proof.Claims

/-- R103: each branch transfers control to its target exactly where its condition holds, and otherwise changes
nothing. -/
def Sys2Proof.Claims.BranchesTransferOnTheirCondition : Prop :=
  ∀ p ∈ branchForms, ∀ (a b : BitVec 6) (off : Imm 12) (s : State),
    Yields (p.1 a b off) s (fun t => if p.2 (s.gr a) (s.gr b) then Jumped s t (targetOf s off) else t = s)

/-- R104: `jal` and an aligned `jalr` write the link and transfer control; `jalr` reads g[a] before it writes g[d],
and a target that is not a multiple of 4 traps MISALIGNED with EVAL = T and writes no link. -/
def Sys2Proof.Claims.JumpsLinkAndTransfer : Prop :=
  (∀ (off : Imm 24) (s : State),
    Yields (.jal off) s (fun t => ∃ u, WroteG s u 1 (s.wordAddr + 4) ∧ Jumped u t (targetOf s off)))
  ∧ (∀ (d a : BitVec 6) (i : Imm 12) (s : State), (s.gr a + imm64 i).toNat % 4 = 0 →
    Yields (.jalr d a i) s (fun t => ∃ u, WroteG s u d (s.wordAddr + 4) ∧ Jumped u t (s.gr a + imm64 i)))
  ∧ (∀ (d a : BitVec 6) (i : Imm 12) (s : State), (s.gr a + imm64 i).toNat % 4 ≠ 0 →
    Yields (.jalr d a i) s (fun t => Trapped s t 0x05 (s.gr a + imm64 i)))

/-- R105 to R107: `loop` with a trip count of 0 skips the body and clears LC.ON; with another trip count it sets LC,
clears the stage predicates, starts the first iteration and leaves the rest of the state. -/
def Sys2Proof.Claims.LoopStartsOrSkips : Prop :=
  ∀ (len a : BitVec 6) (stg : BitVec 3) (rote : BitVec 1) (s : State), (Instr.loop len a stg rote).wf = true →
    Yields (.loop len a stg rote) s (fun t =>
      if (s.gr a).toNat % 2 ^ 32 = 0 then
        t = { s with npc := s.wordAddr + 4 + 4 * BitVec.ofNat 64 len.toNat, taken := true
                     ctx := { s.ctx with lc := s.ctx.lc &&& ~~~(1#64 <<< 42) } }
      else
        t = { s with ctx := { s.ctx with p := t.ctx.p, lc := t.ctx.lc, first := s.wordAddr + 4 } }
        ∧ t.ctx.lc.toNat = 2 ^ 42 + rote.toNat * 2 ^ 41 + stg.toNat * 2 ^ 38 + len.toNat * 2 ^ 32
            + ((s.gr a).toNat % 2 ^ 32 - 1)
        ∧ ∀ i : Fin 8, t.ctx.p[i.val] = if i.val < 4 ∨ stg.toNat ≤ i.val - 4 then s.ctx.p[i.val]
            else if i.val = 4 then BitVec.allOnes 1024 else 0)

/-- R107: at the end of the body of an active loop the ring rotates where ROTE is set, and the body runs again from
`first` while iterations remain or a stage is filled; else LC.ON is cleared and issue goes on after the body. With
no active loop the event changes nothing. -/
def Sys2Proof.Claims.LoopEndRunsAgainOrLeaves : Prop :=
  ∀ s : State, Yields .loopEndIteration s (fun t =>
    if s.ctx.lc.getLsbD 42 = false then t = s
    else
      (t = { s with npc := t.npc, taken := true
                    ctx := { s.ctx with p := t.ctx.p, lc := t.ctx.lc, vrb := t.ctx.vrb, pc := t.npc } }
      ∧ t.ctx.vrb.toNat % 2 ^ 8 = s.ctx.vrb.toNat % 2 ^ 8 ∧ t.ctx.vrb.toNat / 2 ^ 12 = s.ctx.vrb.toNat / 2 ^ 12
      ∧ t.ctx.vrb.toNat / 2 ^ 8 % 16 = (if s.ctx.lc.getLsbD 41 = true then (s.ctx.vrb.toNat / 2 ^ 8 % 16 + 11) % 12
          else s.ctx.vrb.toNat / 2 ^ 8 % 16)
      ∧ (runsAgain s → t.npc = s.ctx.first ∧ StartedIteration s.ctx.p s.ctx.lc t)
      ∧ (¬ runsAgain s → t.npc = s.ctx.first + BitVec.ofNat 64 (4 * (s.ctx.lc.toNat / 2 ^ 32 % 64))
          ∧ t.ctx.p = s.ctx.p ∧ t.ctx.lc = s.ctx.lc &&& ~~~(1#64 <<< 42))))

/-- R103: each branch transfers control to its target exactly where its condition holds, and otherwise changes
nothing. R104: `jal` and an aligned `jalr` write the link and transfer control; `jalr` reads g[a] before it writes
g[d], and a target that is not a multiple of 4 traps MISALIGNED with EVAL = T and writes no link. R105 to R107: `loop`
with a trip count of 0 skips the body and clears LC.ON; with another trip count it sets LC, clears the stage
predicates, starts the first iteration and leaves the rest of the state. R107: at the end of the body of an active
loop the ring rotates where ROTE is set, and the body runs again from `first` while iterations remain or a stage is
filled; else LC.ON is cleared and issue goes on after the body. With no active loop the event changes nothing. -/
def Obligations.BranchesJumpsAndLoopsTransferControl : Prop :=
  Claims.BranchesTransferOnTheirCondition ∧ Claims.JumpsLinkAndTransfer ∧ Claims.LoopStartsOrSkips ∧ Claims.LoopEndRunsAgainOrLeaves


/-- R44 and R110: `trap ga` takes USER_TRAP with EVAL = g[a], and `brk` takes BREAK with EVAL = 0; EPC is the first word
of their pair, and where one is its second instruction, the first leaves no effect. -/
def Sys2Proof.Claims.TrapAndBreakEnterTheHandler : Prop :=
  (∀ (a : BitVec 6) (s : State), Yields (.trap a) s (fun t => Trapped s t 0x0A (s.gr a)))
  ∧ (∀ s : State, Yields .brk s (fun t => Trapped s t 0x11 0))
  ∧ (∀ (s u : State) (x y : Issue) (ahead : List Issue), s.ctx.skip1 = false → s.ctx.skip2 = false →
      runOne exec s x false = .done u →
      (∀ a, y.slot.instr = .trap a → ∃ t, runPair exec s [x, y] ahead = .trap t ∧ Trapped s t 0x0A (u.gr a))
      ∧ (y.slot.instr = .brk → ∃ t, runPair exec s [x, y] ahead = .trap t ∧ Trapped s t 0x11 0))

/-- R111: at system level `eret` takes the level and IE from PPL and PIE, rebuilds `first` of an active loop from
LC.POS, takes SKIP1 and SKIP2 into the next pair and clears them, has the held results resume with that pair where
ESTAT.SH is set, which it clears, and goes on at EPC; registers, LC and the package keep their values. -/
def Sys2Proof.Claims.EretReturnsFromTheHandler : Prop :=
  ∀ s : State, s.ctx.estat.getLsbD 7 = true → Yields .eret s (fun t =>
    t.ctx.estat.getLsbD 7 = s.ctx.estat.getLsbD 0 ∧ t.ctx.estat.getLsbD 1 = s.ctx.estat.getLsbD 2
    ∧ t.npc = s.ctx.epc ∧ t.taken = true
    ∧ t.ctx.skip1 = s.ctx.estat.getLsbD 8 ∧ t.ctx.skip2 = s.ctx.estat.getLsbD 9
    ∧ t.ctx.estat.getLsbD 8 = false ∧ t.ctx.estat.getLsbD 9 = false
    ∧ t.ctx.resume = s.ctx.estat.getLsbD 3 ∧ t.ctx.estat.getLsbD 3 = false
    ∧ t.ctx.replayed = s.ctx.estat.getLsbD 4
    ∧ t.ctx.first = (if s.ctx.lc.getLsbD 42 = true then s.ctx.epc - BitVec.ofNat 64 (4 * (s.ctx.lc.toNat / 2 ^ 43 % 64))
        else s.ctx.first)
    ∧ t.ctx.g = s.ctx.g ∧ t.ctx.f = s.ctx.f ∧ t.ctx.p = s.ctx.p ∧ t.ctx.lc = s.ctx.lc ∧ t.pkg = s.pkg ∧ t.core = s.core)

/-- R44 and R110: `trap ga` takes USER_TRAP with EVAL = g[a], and `brk` takes BREAK with EVAL = 0; EPC is the first
word of their pair, and where one is its second instruction, the first leaves no effect. R111: at system level `eret`
takes the level and IE from PPL and PIE, rebuilds `first` of an active loop from LC.POS, takes SKIP1 and SKIP2 into
the next pair and clears them, has the held results resume with that pair where ESTAT.SH is set, which it clears, and
goes on at EPC; registers, LC and the package keep their values. -/
def Obligations.TrapsEnterTheHandlerAndEretReturns : Prop :=
  Claims.TrapAndBreakEnterTheHandler ∧ Claims.EretReturnsFromTheHandler


/-- R112 and R113: `nop`, `yield` and `ifence` change nothing; `halt` at system level stops issue; `wfe` with the
event flag set clears it and completes, and without it waits; the event that ends a stalled `wfe` clears the flag,
and that instruction is not issued again; in a frozen core it does not happen (R248). -/
def Sys2Proof.Claims.SystemInstructionsTakeEffect : Prop :=
  ∀ s : State,
    (∀ i ∈ [Instr.nop, Instr.yield, Instr.ifence], Yields i s (fun t => t = s))
    ∧ (s.ctx.estat.getLsbD 7 = true → Yields .halt s (fun t => t = { s with ctx := { s.ctx with halted := true } }))
    ∧ (s.ctx.eventFlag = true → Yields .wfe s (fun t => t = { s with ctx := { s.ctx with eventFlag := false, wait := none } }))
    ∧ (s.ctx.eventFlag = false → Yields .wfe s (fun t => t.stalled = true ∧ t.ctx.eventFlag = false ∧ t.ctx.g = s.ctx.g
        ∧ t.pkg = s.pkg ∧ t.core = s.core))
    ∧ (s.frozen = true → Yields .wfeWake s (fun t => t = s))
    ∧ (∀ w : WaitRec, s.ctx.wait = some w → w.kind = .wfe → s.frozen = false → Yields .wfeWake s (fun t =>
        t = { s with ctx := { s.ctx with wait := none, eventFlag := false, skip1 := s.ctx.skip1 || !w.second
                                         skip2 := s.ctx.skip2 || w.second } }))

/-- R16: at user level `eret` and `halt` trap PRIVILEGE, with the instruction word and its byte offset from EPC in
EVAL, and have no other effect. -/
def Sys2Proof.Claims.SystemOnlyInstructionsTrapAtUserLevel : Prop :=
  ∀ i ∈ [Instr.eret, Instr.halt], ∀ s : State, s.ctx.estat.getLsbD 7 = false →
    Yields i s (fun t => Trapped s t 0x10 (s.curWord.zeroExtend 64 ||| BitVec.ofNat 64 ((s.wordAddr - s.pairAddr).toNat % 16 * 2 ^ 32))
      ∧ t.ctx.halted = s.ctx.halted)

/-- R112 and R113: `nop`, `yield` and `ifence` change nothing; `halt` at system level stops issue; `wfe` with the
event flag set clears it and completes, and without it waits; the event that ends a stalled `wfe` clears the flag, and
that instruction is not issued again; in a frozen core it does not happen (R248). R16: at user level `eret` and `halt`
trap PRIVILEGE, with the instruction word and its byte offset from EPC in EVAL, and have no other effect. -/
def Obligations.SystemInstructionsTakeEffectAtTheirLevel : Prop :=
  Claims.SystemInstructionsTakeEffect ∧ Claims.SystemOnlyInstructionsTrapAtUserLevel

/-! ### k-registers (R34 to R46, R114) -/

namespace Sys2Proof.Claims

/-- R34: the k-registers whose value stands in the context: the number of each and its value. -/
def kStored : List (BitVec 12 × (State → Word)) :=
  [ (0x000, fun s => s.ctx.vl), (0x001, fun s => s.ctx.vstart), (0x002, fun s => s.ctx.hcur),
    (0x003, fun s => s.ctx.hshape), (0x004, fun s => s.ctx.vwb), (0x005, fun s => s.ctx.vrb),
    (0x008, fun s => s.ctx.acr), (0x009, fun s => s.ctx.mfc[0]), (0x00A, fun s => s.ctx.mfc[1]),
    (0x00B, fun s => s.ctx.mfc[2]), (0x00C, fun s => s.ctx.mfc[3]), (0x014, fun s => s.ctx.amaxk),
    (0x015, fun s => s.ctx.satcnt), (0x016, fun s => s.ctx.undcnt),
    (0x030, fun s => word s.pkg.cyc), (0x031, fun s => s.ctx.team), (0x032, fun s => s.ctx.taskh),
    (0x033, fun s => word s.ctx.bank), (0x800, fun s => s.ctx.estat), (0x801, fun s => s.ctx.epc),
    (0x802, fun s => s.ctx.ecause), (0x803, fun s => s.ctx.eval), (0x804, fun s => s.ctx.tvec),
    (0x805, fun s => s.ctx.alloc), (0x806, fun s => s.ctx.qto), (0x807, fun s => s.ctx.sfshadow),
    (0x808, fun s => s.ctx.ipend), (0x809, fun s => s.ctx.imask), (0x80A, fun s => s.ctx.tcmp) ]

/-- Access to a register is allowed: one whose Access is SYS is open at system level alone (R16). -/
def kOpen (s : State) (k : BitVec 12) : Prop := k.toNat < 0x800 ∨ s.ctx.estat.getLsbD 7 = true

/-- R34 to R46: a register that a `kwrite` can set to any value within its map, with that map and its effect. -/
structure KPlain where
  number : BitVec 12
  legal : State → Word → Bool
  put : State → Word → State

/-- The registers whose write stores the value and does nothing else, with the ranges of R38 to R44. -/
def kPlain : List KPlain :=
  [ ⟨0x000, fun _ v => decide (v.toNat ≤ 1024), fun s v => { s with ctx := { s.ctx with vl := v } }⟩,
    ⟨0x001, fun _ v => decide (v.toNat < 2 ^ 11), fun s v => { s with ctx := { s.ctx with vstart := v } }⟩,
    ⟨0x002, fun _ v => decide (v.toNat < 2 ^ 7), fun s v => { s with ctx := { s.ctx with hcur := v } }⟩,
    ⟨0x003, fun s v => decide (v.toNat < 2 ^ 15 ∧ 1 ≤ v.toNat / 2 ^ 8 ∧ v.toNat / 2 ^ 8 ≤ 64 ∧ 1 ≤ v.toNat % 2 ^ 8
        ∧ v.toNat % 2 ^ 8 ≤ s.ctx.alloc.toNat / 2 ^ 24 % 2 ^ 8),
      fun s v => { s with ctx := { s.ctx with hshape := v } }⟩,
    ⟨0x004, fun _ v => decide (v.toNat ≤ 232 ∧ v.toNat % 8 = 0), fun s v => { s with ctx := { s.ctx with vwb := v } }⟩,
    ⟨0x005, fun _ v => decide (v.toNat / 2 ^ 8 ≤ 11 ∧ v.toNat % 2 ^ 8 ≤ 228 ∧ v.toNat % 2 ^ 8 % 4 = 0),
      fun s v => { s with ctx := { s.ctx with vrb := v } }⟩,
    ⟨0x008, fun _ v => decide (v.toNat % 2 ^ 3 ≤ 4 ∧ v.toNat / 2 ^ 5 % 2 ^ 3 = 0 ∧ v.toNat / 2 ^ 14 % 2 ^ 2 = 0
        ∧ v.toNat < 2 ^ 22), fun s v => { s with ctx := { s.ctx with acr := v } }⟩,
    ⟨0x015, fun _ _ => true, fun s v => { s with ctx := { s.ctx with satcnt := v } }⟩,
    ⟨0x016, fun _ _ => true, fun s v => { s with ctx := { s.ctx with undcnt := v } }⟩,
    ⟨0x801, fun _ _ => true, fun s v => { s with ctx := { s.ctx with epc := v } }⟩,
    ⟨0x802, fun _ v => decide (v.toNat < 2 ^ 8), fun s v => { s with ctx := { s.ctx with ecause := v } }⟩,
    ⟨0x803, fun _ _ => true, fun s v => { s with ctx := { s.ctx with eval := v } }⟩,
    ⟨0x804, fun _ v => decide (v.toNat % 2 ^ 8 = 0), fun s v => { s with ctx := { s.ctx with tvec := v } }⟩,
    ⟨0x806, fun _ v => decide (1 ≤ v.toNat ∧ v.toNat < 2 ^ 32), fun s v => { s with ctx := { s.ctx with qto := v } }⟩ ]

/-- The register that a number of R34 names as read-only. -/
def kFixed (n : Nat) : Prop :=
  (0x010 ≤ n ∧ n ≤ 0x014) ∨ (0x020 ≤ n ∧ n ≤ 0x025) ∨ (0x030 ≤ n ∧ n ≤ 0x033)

/-- The numbers that R34 lists. -/
def kListed (n : Nat) : Prop :=
  n ≤ 0x006 ∨ (0x008 ≤ n ∧ n ≤ 0x00C) ∨ (0x010 ≤ n ∧ n ≤ 0x016) ∨ (0x020 ≤ n ∧ n ≤ 0x025)
  ∨ (0x030 ≤ n ∧ n ≤ 0x033) ∨ (0x040 ≤ n ∧ n ≤ 0x07F) ∨ (0x800 ≤ n ∧ n ≤ 0x80A)

end Sys2Proof.Claims

/-- R34 and R114: `kread` writes the register's value to g[d], for every register that stands in the context, for
the tensor maps, for the knot vector, and for LC with POS the word's own place while a loop is active. -/
def Sys2Proof.Claims.KreadReturnsTheRegister : Prop :=
  (∀ k ∈ kStored, ∀ (d : BitVec 6) (s : State), kOpen s k.1 → Yields (.kread d k.1) s (fun t => WroteG s t d (k.2 s)))
  ∧ (∀ (i : Fin 64) (d : BitVec 6) (s : State),
      Yields (.kread d (BitVec.ofNat 12 (0x040 + i.val))) s (fun t => WroteG s t d s.ctx.tm[i.val]))
  ∧ (∀ (w : Fin 4) (d : BitVec 6) (s : State), ∃ v : Word,
      (∀ j : Fin 5, v.toNat / 2 ^ (12 * j.val) % 2 ^ 12 =
        if h : 5 * w.val + j.val < 10 then (s.core.knotv[5 * w.val + j.val]).toNat else 0)
      ∧ v.toNat < 2 ^ 60 ∧ Yields (.kread d (BitVec.ofNat 12 (0x010 + w.val))) s (fun t => WroteG s t d v))
  ∧ (∀ (d : BitVec 6) (s : State), s.ctx.lc.getLsbD 42 = false →
      Yields (.kread d 0x006) s (fun t => WroteG s t d s.ctx.lc))
  ∧ (∀ (d : BitVec 6) (s : State), s.ctx.lc.getLsbD 42 = true → ∃ v : Word,
      v.toNat / 2 ^ 43 % 64 = (s.wordAddr - s.ctx.first).toNat / 4 % 64 ∧ v.toNat % 2 ^ 43 = s.ctx.lc.toNat % 2 ^ 43
      ∧ v.toNat / 2 ^ 49 = s.ctx.lc.toNat / 2 ^ 49 ∧ Yields (.kread d 0x006) s (fun t => WroteG s t d v))

/-- R24, R30 and R114: with no write in flight, `kread` of DIRTY0 to DIRTY3 and HDIRTY0 and HDIRTY1 returns the
dirty bits of the entries and rows, 64 to a register. -/
def Sys2Proof.Claims.KreadReturnsTheDirtyBits : Prop :=
  ∀ (d : BitVec 6) (s : State), s.ctx.board = [] →
    (∀ w : Fin 4, Yields (.kread d (BitVec.ofNat 12 (0x020 + w.val))) s (fun t =>
      WroteG s t d (s.ctx.dirty.extractLsb' (64 * w.val) 64)))
    ∧ (∀ w : Fin 2, Yields (.kread d (BitVec.ofNat 12 (0x024 + w.val))) s (fun t =>
      WroteG s t d (s.ctx.hdirty.extractLsb' (64 * w.val) 64)))

/-- R34 and R114: `kread` writes the register's value to g[d], for every register that stands in the context, for the
tensor maps, for the knot vector, and for LC with POS the word's own place while a loop is active. R24, R30 and R114:
with no write in flight, `kread` of DIRTY0 to DIRTY3 and HDIRTY0 and HDIRTY1 returns the dirty bits of the entries and
rows, 64 to a register. -/
def Obligations.KreadReturnsRegistersAndDirtyBits : Prop :=
  Claims.KreadReturnsTheRegister ∧ Claims.KreadReturnsTheDirtyBits


/-- R35 and R114: `kwrite`, `kset` and `kclr` of a register whose resulting value is within its map store that value
and change nothing else, for the registers of `kPlain`. -/
def Sys2Proof.Claims.KwritesStoreLegalValues : Prop :=
  ∀ k ∈ kPlain, ∀ (d : BitVec 6) (s : State), kOpen s k.number →
    (k.legal s (s.gr d) = true → Yields (.kwrite d k.number) s (fun t => t = k.put s (s.gr d)))
    ∧ (∀ v, s.kValue k.number.toNat = some v →
        (k.legal s (v ||| s.gr d) = true → Yields (.kset d k.number) s (fun t => t = k.put s (v ||| s.gr d)))
        ∧ (k.legal s (v &&& ~~~s.gr d) = true → Yields (.kclr d k.number) s (fun t => t = k.put s (v &&& ~~~s.gr d))))

/-- R35 and R16: every KREG form traps ILLEGAL_OPCODE on a number that R34 does not list, and PRIVILEGE at user level
on a SYS register; `kwrite`, `kset` and `kclr` of a read-only register, or that leave a value outside the map, trap
ILLEGAL_OPCODE. EVAL is the register's number. -/
def Sys2Proof.Claims.KregAccessIsChecked : Prop :=
  (∀ (d : BitVec 6) (k : BitVec 12) (s : State), ¬ kListed k.toNat →
    ∀ i ∈ [Instr.kread d k, .kwrite d k, .kset d k, .kclr d k], Yields i s (fun t => Trapped s t 0x01 (word k.toNat)))
  ∧ (∀ (d : BitVec 6) (k : BitVec 12) (s : State), kListed k.toNat → ¬ kOpen s k →
    ∀ i ∈ [Instr.kread d k, .kwrite d k, .kset d k, .kclr d k], Yields i s (fun t => Trapped s t 0x10 (word k.toNat)))
  ∧ (∀ (d : BitVec 6) (k : BitVec 12) (s : State), kFixed k.toNat →
    ∀ i ∈ [Instr.kwrite d k, .kset d k, .kclr d k], Yields i s (fun t => Trapped s t 0x01 (word k.toNat)))
  ∧ (∀ k ∈ kPlain, ∀ (d : BitVec 6) (s : State), kOpen s k.number → k.legal s (s.gr d) = false →
    Yields (.kwrite d k.number) s (fun t => Trapped s t 0x01 (word k.number.toNat)))

/-- R35, R39 to R46 and R108: the writes with an effect of their own. A write of ESTAT leaves PL; a write of IPEND
clears the bits it has set; a write of TCMP at or below CYC sets TIMER at once and does not clear it; a write of LC
that leaves ON = 1 sets `first` from its own word; MFC and tensor-map words are stored. -/
def Sys2Proof.Claims.KwritesOfSpecialRegistersTakeEffect : Prop :=
  ∀ (d : BitVec 6) (s : State),
    (s.ctx.estat.getLsbD 7 = true → (s.gr d).toNat < 2 ^ 10 → Yields (.kwrite d 0x800) s (fun t =>
      t = { s with ctx := { s.ctx with estat := (s.gr d &&& ~~~0x80#64) ||| (s.ctx.estat &&& 0x80#64) } }))
    ∧ (s.ctx.estat.getLsbD 7 = true → (s.gr d).toNat < 2 ^ 3 → Yields (.kwrite d 0x808) s (fun t =>
      t = { s with ctx := { s.ctx with ipend := s.ctx.ipend &&& ~~~s.gr d } }))
    ∧ (s.ctx.estat.getLsbD 7 = true → s.pkg.cyc < (s.gr d).toNat → Yields (.kwrite d 0x80A) s (fun t =>
      t = { s with ctx := { s.ctx with tcmp := s.gr d } }))
    ∧ (s.ctx.estat.getLsbD 7 = true → (s.gr d).toNat ≤ s.pkg.cyc → Yields (.kwrite d 0x80A) s (fun t =>
      t.ctx.tcmp = s.gr d ∧ t.ctx.ipend.getLsbD 0 = true))
    ∧ ((s.gr d).toNat < 2 ^ 49 → (s.gr d).toNat / 2 ^ 38 % 8 ≤ 4 → (s.gr d).getLsbD 42 = true →
      (s.gr d).toNat / 2 ^ 32 % 64 ≠ 0 → Yields (.kwrite d 0x006) s (fun t =>
      t = { s with ctx := { s.ctx with lc := s.gr d
                                       first := s.wordAddr - BitVec.ofNat 64 (4 * ((s.gr d).toNat / 2 ^ 43 % 64)) } }))
    ∧ (∀ i : Fin 4, (s.gr d).getLsbD 15 = false → (s.gr d).toNat / 2 ^ 10 % 4 = 0 →
      Yields (.kwrite d (BitVec.ofNat 12 (0x009 + i.val))) s (fun t =>
      t = { s with ctx := { s.ctx with mfc := s.ctx.mfc.set i.val (s.gr d) i.isLt } }))
    ∧ (∀ i : Fin 64, i.val % 8 ∈ [1, 2, 4, 5, 6] → Yields (.kwrite d (BitVec.ofNat 12 (0x040 + i.val))) s (fun t =>
      t = { s with ctx := { s.ctx with tm := s.ctx.tm.set i.val (s.gr d) i.isLt } }))

/-- R35 and R114: `kwrite`, `kset` and `kclr` of a register whose resulting value is within its map store that value
and change nothing else, for the registers of `kPlain`. R35 and R16: every KREG form traps ILLEGAL_OPCODE on a number
that R34 does not list, and PRIVILEGE at user level on a SYS register; `kwrite`, `kset` and `kclr` of a read-only
register, or that leave a value outside the map, trap ILLEGAL_OPCODE. EVAL is the register's number. R35, R39 to R46
and R108: the writes with an effect of their own. A write of ESTAT leaves PL; a write of IPEND clears the bits it has
set; a write of TCMP at or below CYC sets TIMER at once and does not clear it; a write of LC that leaves ON = 1 sets
`first` from its own word; MFC and tensor-map words are stored. -/
def Obligations.KwritesTakeEffectOrAreRefused : Prop :=
  Claims.KwritesStoreLegalValues ∧ Claims.KregAccessIsChecked ∧ Claims.KwritesOfSpecialRegistersTakeEffect

/-! ### Floating point and rational mode (R116 to R121) -/

namespace Sys2Proof.Claims

/-- R17 and R116: an operand of size Z: all 64 bits of an f register, or bits 31:0. -/
def fpOperand (s : State) (z : BitVec 1) (r : BitVec 5) : Nat :=
  if z = 1 then (s.fr r).toNat else (s.fr r).toNat % 2 ^ 32

/-- The IEEE format of a size (R116). -/
def fpFormat (z : BitVec 1) : Fmt := if z = 1 then fmtF64 else fmtF32

/-- No trap is enabled: ACR.TE and SATE are clear (R39). -/
def untrapped (s : State) : Prop := s.ctx.acr.toNat / 2 ^ 16 % 2 ^ 6 = 0

/-- The rational number of a finite value. -/
def ratOf : Val → Rat
  | .fin neg n d => (if neg then -(n : Rat) else n) / d
  | _ => 0

/-- A value is finite. -/
def finite : Val → Bool
  | .fin _ _ _ => true
  | _ => false

/-- The operand's value under RAT = 0. -/
def fpValue (s : State) (z : BitVec 1) (r : BitVec 5) : Val := (fpFormat z).ieeeValue (fpOperand s z r)

/-- The operand's value under RAT = 1, and the flag its reading raises. -/
def slashOperand (s : State) (z : BitVec 1) (r : BitVec 5) : Val × Fx := slashDecode (z = 1) (fpOperand s z r)

/-- R117: the arithmetic forms with the exact result of finite operands. -/
def fpForms : List ((BitVec 5 → BitVec 5 → BitVec 5 → BitVec 1 → Instr) × (Rat → Rat → Rat)) :=
  [(.fadd, fun x y => x + y), (.fsub, fun x y => x - y), (.fmul, fun x y => x * y), (.fdiv, fun x y => x / y)]

/-- R118: the comparisons. -/
def fpCompares : List ((BitVec 6 → BitVec 5 → BitVec 5 → BitVec 1 → Instr) × (Rat → Rat → Bool)) :=
  [(.feq, fun x y => decide (x = y)), (.flt, fun x y => decide (x < y)), (.fle, fun x y => decide (x ≤ y))]

/-- R118: the IEEE class bit of a code: by its sign, its exponent field and its fraction. -/
def classBit (f : Fmt) (code : Nat) : Nat :=
  let neg := decide (code / 2 ^ f.signBit % 2 = 1)
  let frac := code % 2 ^ f.frac
  let exp := code % 2 ^ f.signBit / 2 ^ f.frac
  if exp = 2 ^ (f.signBit - f.frac) - 1 then
    (if frac = 0 then (if neg then 0 else 7) else if frac / 2 ^ (f.frac - 1) = 0 then 8 else 9)
  else if exp = 0 then (if frac = 0 then (if neg then 3 else 4) else if neg then 2 else 5)
  else if neg then 1 else 6

end Sys2Proof.Claims

/-- R117 and R121: with RAT = 0 and finite operands (a divisor that is not zero), `fadd`, `fsub`, `fmul`, `fdiv` and
`fmadd` round the exact result once under ACR.RM, write it with zeros above bit 31 for Z = 0, and record the flags
of that rounding; an enabled flag traps ARITH and leaves the destination. -/
def Sys2Proof.Claims.FpArithmeticRoundsTheExactResult : Prop :=
  (∀ p ∈ fpForms, ∀ (d a b : BitVec 5) (z : BitVec 1) (s : State), s.ctx.acr.getLsbD 3 = false →
    finite (fpValue s z a) = true → finite (fpValue s z b) = true →
    (p.1 0 0 0 0 = .fdiv 0 0 0 0 → ratOf (fpValue s z b) ≠ 0) →
    ∃ x : Val, finite x = true ∧ ratOf x = p.2 (ratOf (fpValue s z a)) (ratOf (fpValue s z b)) ∧
      CompletesOrTraps (p.1 d a b z) s (roundIeee (fpFormat z) x s.ctx.rm).2 (fun t =>
        WroteF s t d (word (roundIeee (fpFormat z) x s.ctx.rm).1) (roundIeee (fpFormat z) x s.ctx.rm).2))
  ∧ (∀ (d a b : BitVec 5) (z : BitVec 1) (s : State), s.ctx.acr.getLsbD 3 = false →
    finite (fpValue s z a) = true → finite (fpValue s z b) = true → finite (fpValue s z d) = true →
    ∃ x : Val, finite x = true
      ∧ ratOf x = ratOf (fpValue s z a) * ratOf (fpValue s z b) + ratOf (fpValue s z d) ∧
      CompletesOrTraps (.fmadd d a b z) s (roundIeee (fpFormat z) x s.ctx.rm).2 (fun t =>
        WroteF s t d (word (roundIeee (fpFormat z) x s.ctx.rm).1) (roundIeee (fpFormat z) x s.ctx.rm).2))

/-- R117 and R118: with RAT = 0: the square root of a finite operand below zero gives the canonical NaN and NV; a
finite operand of 0 or more completes; the division of a nonzero finite number by zero gives an infinity with the
sign of the quotient and DZ. `fmin` and `fmax` of finite operands return the operand of lesser or greater value,
−0 below +0, with no flag. -/
def Sys2Proof.Claims.FpRootsQuotientsAndMinimaFollowIeee : Prop :=
  ∀ (d a b : BitVec 5) (z : BitVec 1) (s : State), s.ctx.acr.getLsbD 3 = false → finite (fpValue s z a) = true →
    (ratOf (fpValue s z a) < 0 → CompletesOrTraps (.fsqrt d a z) s Fx.nv (fun t =>
        WroteF s t d (word (fpFormat z).nanCode) Fx.nv))
    ∧ (0 ≤ ratOf (fpValue s z a) → ∃ c fx, CompletesOrTraps (.fsqrt d a z) s fx (fun t => WroteF s t d (word c) fx))
    ∧ (ratOf (fpValue s z a) ≠ 0 → finite (fpValue s z b) = true → ratOf (fpValue s z b) = 0 →
        CompletesOrTraps (.fdiv d a b z) s Fx.dz (fun t => WroteF s t d
          (word ((fpFormat z).signed ((fpValue s z a).sign != (fpValue s z b).sign) (fpFormat z).infCode)) Fx.dz))
    ∧ (finite (fpValue s z b) = true →
        Yields (.fmin d a b z) s (fun t => ∃ r ∈ [a, b], WroteF s t d (word (fpOperand s z r)) Fx.none
          ∧ ratOf (fpValue s z r) = Min.min (ratOf (fpValue s z a)) (ratOf (fpValue s z b))
          ∧ (ratOf (fpValue s z a) = 0 → ratOf (fpValue s z b) = 0 →
              (fpValue s z r).sign = ((fpValue s z a).sign || (fpValue s z b).sign)))
        ∧ Yields (.fmax d a b z) s (fun t => ∃ r ∈ [a, b], WroteF s t d (word (fpOperand s z r)) Fx.none
          ∧ ratOf (fpValue s z r) = Max.max (ratOf (fpValue s z a)) (ratOf (fpValue s z b))
          ∧ (ratOf (fpValue s z a) = 0 → ratOf (fpValue s z b) = 0 →
              (fpValue s z r).sign = ((fpValue s z a).sign && (fpValue s z b).sign))))

/-- R117 to R121: with no trap enabled in ACR.TE and SATE, every FPU form completes at either setting of RAT, whatever
its operands hold: it writes its one destination, and records flags. -/
def Sys2Proof.Claims.FpFormsCompleteWithNoTrapEnabled : Prop :=
  ∀ s : State, untrapped s →
    (∀ f ∈ [Instr.fadd, .fsub, .fmul, .fdiv, .fmadd, .fmin, .fmax], ∀ (d a b : BitVec 5) (z : BitVec 1),
      Yields (f d a b z) s (fun t => ∃ v fx, WroteF s t d v fx))
    ∧ (∀ (d a : BitVec 5) (z : BitVec 1), Yields (.fsqrt d a z) s (fun t => ∃ v fx, WroteF s t d v fx))
    ∧ (∀ f ∈ [Instr.feq, .flt, .fle], ∀ (d : BitVec 6) (a b : BitVec 5) (z : BitVec 1),
      Yields (f d a b z) s (fun t => ∃ v fx, WroteGFlags s t d v fx))
    ∧ (∀ (d : BitVec 6) (a : BitVec 5) (z : BitVec 1), Yields (.fclass d a z) s (fun t => ∃ v fx, WroteGFlags s t d v fx))
    ∧ (∀ (d a b : BitVec 5) (z : BitVec 1), Yields (.fsgnj d a b z) s (fun t => ∃ v, WroteF s t d v Fx.none))
    ∧ (∀ (d a code : BitVec 6) (z : BitVec 1), code.toNat < 8 → Yields (.fcvt d a code z) s (fun t => ∃ v fx,
        if 3 ≤ code.toNat ∧ code.toNat ≤ 5 then WroteGFlags s t d v fx else WroteF s t (d.truncate 5) v fx))

/-- R117 and R121: with RAT = 0 and finite operands (a divisor that is not zero), `fadd`, `fsub`, `fmul`, `fdiv` and
`fmadd` round the exact result once under ACR.RM, write it with zeros above bit 31 for Z = 0, and record the flags of
that rounding; an enabled flag traps ARITH and leaves the destination. R117 and R118: with RAT = 0: the square root of
a finite operand below zero gives the canonical NaN and NV; a finite operand of 0 or more completes; the division of a
nonzero finite number by zero gives an infinity with the sign of the quotient and DZ. `fmin` and `fmax` of finite
operands return the operand of lesser or greater value, −0 below +0, with no flag. R117 to R121: with no trap enabled
in ACR.TE and SATE, every FPU form completes at either setting of RAT, whatever its operands hold: it writes its one
destination, and records flags. -/
def Obligations.FpArithmeticRootsAndMinimaFollowIeee : Prop :=
  Claims.FpArithmeticRoundsTheExactResult ∧ Claims.FpRootsQuotientsAndMinimaFollowIeee ∧ Claims.FpFormsCompleteWithNoTrapEnabled


/-- R118: with RAT = 0, `feq`, `flt` and `fle` of finite operands write 1 or 0 to g[d] and raise nothing, and a NaN
operand gives 0, with NV from `flt` and `fle`; `fclass` sets the one bit of the operand's class; `fsgnj` writes the
magnitude of a with the sign of b. `fmvg` and `fmvf` copy raw bits at either setting of RAT. -/
def Obligations.FpComparesMovesAndClassesFollowTheirTable : Prop :=
  (∀ p ∈ fpCompares, ∀ (d : BitVec 6) (a b : BitVec 5) (z : BitVec 1) (s : State), s.ctx.acr.getLsbD 3 = false →
    finite (fpValue s z a) = true → finite (fpValue s z b) = true → Yields (p.1 d a b z) s (fun t =>
      WroteG s t d (oneIf (p.2 (ratOf (fpValue s z a)) (ratOf (fpValue s z b))))))
  ∧ (∀ f ∈ [Instr.flt, .fle], ∀ (d : BitVec 6) (a b : BitVec 5) (z : BitVec 1) (s : State), s.ctx.acr.getLsbD 3 = false →
    ((fpValue s z a).isNan = true ∨ (fpValue s z b).isNan = true) →
    CompletesOrTraps (f d a b z) s Fx.nv (fun t => WroteGFlags s t d 0 Fx.nv))
  ∧ (∀ (d : BitVec 6) (a : BitVec 5) (z : BitVec 1) (s : State), s.ctx.acr.getLsbD 3 = false →
    Yields (.fclass d a z) s (fun t => WroteG s t d (word (2 ^ classBit (fpFormat z) (fpOperand s z a)))))
  ∧ (∀ (d a b : BitVec 5) (z : BitVec 1) (s : State), s.ctx.acr.getLsbD 3 = false → Yields (.fsgnj d a b z) s (fun t =>
      WroteF s t d (word (fpOperand s z a % 2 ^ (fpFormat z).signBit
        + fpOperand s z b / 2 ^ (fpFormat z).signBit * 2 ^ (fpFormat z).signBit)) Fx.none))
  ∧ (∀ (d : BitVec 6) (a : BitVec 5) (z : BitVec 1) (s : State),
      Yields (.fmvg d a z) s (fun t => WroteG s t d (word (fpOperand s z a))))
  ∧ (∀ (d : BitVec 5) (a : BitVec 6) (z : BitVec 1) (s : State), Yields (.fmvf d a z) s (fun t =>
      WroteF s t d (if z = 1 then s.gr a else word ((s.gr a).toNat % 2 ^ 32)) Fx.none))

/-- R119 and R120: `fcvt` rounds an integer of g[a] to the format of its size (codes 1 and 2), truncates a finite
real that fits to an integer of g[d] (code 5), and with RAT = 1 `fadd`, `fsub`, `fmul` and `fdiv` round the exact
result of finite slash operands, of which the divisor is not zero, to a slash word. -/
def Obligations.ConversionsAndRationalModeRoundTheExactResult : Prop :=
  (∀ (d a : BitVec 6) (z : BitVec 1) (s : State), s.ctx.acr.getLsbD 3 = false →
    (let r := roundIeee (fpFormat z) (Val.ofInt (s.gr a).toInt) s.ctx.rm
     CompletesOrTraps (.fcvt d a 1 z) s r.2 (fun t => WroteF s t (d.truncate 5) (word r.1) r.2))
    ∧ (let r := roundIeee (fpFormat z) (Val.ofInt (s.gr a).toNat) s.ctx.rm
       CompletesOrTraps (.fcvt d a 2 z) s r.2 (fun t => WroteF s t (d.truncate 5) (word r.1) r.2)))
  ∧ (∀ (d a : BitVec 6) (z : BitVec 1) (s : State) (neg : Bool) (n k : Nat), s.ctx.acr.getLsbD 3 = false →
    fpValue s z (a.truncate 5) = .fin neg n k → 0 < k → n / k < 2 ^ 63 →
    (let fx := if k ∣ n then Fx.none else Fx.nx
     CompletesOrTraps (.fcvt d a 5 z) s fx (fun t =>
       WroteGFlags s t d (wordI (if neg then -((n / k : Nat) : Int) else ((n / k : Nat) : Int))) fx)))
  ∧ (∀ p ∈ fpForms, ∀ (d a b : BitVec 5) (z : BitVec 1) (s : State), s.ctx.acr.getLsbD 3 = true →
    finite (slashOperand s z a).1 = true → finite (slashOperand s z b).1 = true →
    (slashOperand s z a).2 = Fx.none → (slashOperand s z b).2 = Fx.none →
    (p.1 0 0 0 0 = .fdiv 0 0 0 0 → ratOf (slashOperand s z b).1 ≠ 0) →
    ∃ x : Val, finite x = true ∧ ratOf x = p.2 (ratOf (slashOperand s z a).1) (ratOf (slashOperand s z b).1) ∧
      CompletesOrTraps (p.1 d a b z) s (slashRound (z = 1) x s.ctx.rm).2.1 (fun t =>
        WroteF s t d (word (slashRound (z = 1) x s.ctx.rm).1) (slashRound (z = 1) x s.ctx.rm).2.1))
/-! ### Elementwise vector instructions (R20 to R26, R38, R130 to R139) -/

namespace Sys2Proof.Claims

/-- R33: VLMAX at a width in bits: 16 for 64-bit elements, else as many as 1,024 bytes hold. -/
def vlmaxOf (w : Nat) : Nat := if w = 64 then 16 else 8192 / w

/-- R130 and R38: the element count of an instruction of width w. -/
def countOf (s : State) (w : Nat) : Nat := Nat.min (s.ctx.vl.toNat % 2 ^ 11) (vlmaxOf w)

/-- VSTART. -/
def startOf (s : State) : Nat := s.ctx.vstart.toNat % 2 ^ 11

/-- R67: the element lies below that at which a broken chain stops, where one runs again. -/
def within (s : State) (i : Nat) : Bool := match s.ctx.cut with | some c => decide (i < c) | none => true

/-- R20 and R130: the positions from VSTART up to n that a pred field selects. -/
def selectedTo (s : State) (n : Nat) (pr : BitVec 3) : List Nat :=
  (List.range n).filter (fun i => decide (startOf s ≤ i) && (pr == 0 || (s.ctx.p[pr.toNat]).getLsbD i))

/-- Of them those that are processed. -/
def processedTo (s : State) (n : Nat) (pr : BitVec 3) : List Nat := (selectedTo s n pr).filter (within s)

/-- R20 and R130: the elements that an instruction of width w under a pred field processes, in ascending order. -/
def processed (s : State) (w : Nat) (pr : BitVec 3) : List Nat := processedTo s (countOf s w) pr

/-- The record of what the elements of a list record. -/
def totalFx (res : Nat → Nat × Fx) (l : List Nat) : Fx := l.foldl (fun f i => f.and (res i).2) Fx.none

/-- No element of the list records an enabled flag (R133). -/
def quiet (s : State) (res : Nat → Nat × Fx) (l : List Nat) : Prop := ∀ i ∈ l, ¬ enabledIn s (res i).2

/-- R25, R95 and R130: what the destination holds where no element is processed: an entry's own bits, or the zero
code in a fresh queue entry. -/
def restOf (zc : Nat) (s : State) (d : BitVec 6) (tag : BitVec 5) (i : Nat) : Nat :=
  match s.vref d with
  | .entry e => elem (tagWidth tag) (s.entry e).data i
  | .queue _ => zc

/-- R130: `t` is `u`, the state after the queue sources have popped, with the elements of a list written to v[d] under
a tag, or pushed where v[d] is a queue port, their flags recorded and VSTART 0. Nothing else differs. `zc` is the zero
code of the tag in the format that the instruction names (R95). -/
def WroteAs (zc : Nat) (u t : State) (d : BitVec 6) (l : List Nat) (tag : BitVec 5) (res : Nat → Nat × Fx) : Prop :=
  ∃ v : Entry, v.tag = tag
    ∧ (∀ i, i < 8192 / tagWidth tag → elem (tagWidth tag) v.data i =
        if i ∈ l then (res i).1 % 2 ^ tagWidth tag else restOf zc u d tag i)
    ∧ ((∀ e, u.vref d = .entry e → (u.entry e).poison = false) → v.poison = false)
    ∧ t = (let p := u.putRef (u.vref d) v
           { p with ctx := { recorded p.ctx (totalFx res l) with vstart := 0 } })

/-- The same where the instruction names no format; the zero code of tag 0x0A is then a free value (assumption 12). -/
def WroteOn (u t : State) (d : BitVec 6) (l : List Nat) (tag : BitVec 5) (res : Nat → Nat × Fx) : Prop :=
  WroteAs (zeroOf tag) u t d l tag res

/-- The same for the elements that an instruction issued in `s` processes. -/
def WroteV (s u t : State) (d : BitVec 6) (pr : BitVec 3) (tag : BitVec 5) (res : Nat → Nat × Fx) : Prop :=
  WroteOn u t d (processed s (tagWidth tag) pr) tag res

/-- The sources and the destination of a binary vector instruction are ready: each source by name can be read, in
order, `u` is the state after, and v[d] can be written (R22, R25, R26). -/
def ready2 (s : State) (d a b : BitVec 6) (ea eb : Entry) (u : State) : Prop :=
  (∃ s1, s.takeV a = .ok (ea, s1) ∧ s1.takeV b = .ok (eb, u)) ∧ u.checkRef (u.vref d) = .ok () ∧ u.checkRoom (u.vref d) = .ok ()

/-- The same for a unary instruction. -/
def ready1 (s : State) (d a : BitVec 6) (ea : Entry) (u : State) : Prop :=
  s.takeV a = .ok (ea, u) ∧ u.checkRef (u.vref d) = .ok () ∧ u.checkRoom (u.vref d) = .ok ()

/-- An element read as signed or unsigned. -/
def readInt (signed : Bool) (w x : Nat) : Int := if signed && decide (2 ^ (w - 1) ≤ x) then (x : Int) - 2 ^ w else x

/-- A value wrapped to w bits (R74). -/
def wrapTo (w : Nat) (x : Int) : Nat := (x % (2 ^ w : Int)).toNat

/-- The integer tags of R74, and of them the signed. -/
def intTagOk (t : BitVec 5) : Bool := decide (1 ≤ t.toNat ∧ t.toNat ≤ 7)
def signedTag (t : BitVec 5) : Bool := decide (t.toNat % 2 = 1)

/-- The constructor of a binary vector instruction. -/
abbrev Ctor2 := BitVec 6 → BitVec 6 → BitVec 6 → BitVec 3 → Instr
abbrev Ctor1 := BitVec 6 → BitVec 6 → BitVec 3 → Instr

/-- R136: the integer forms, on elements of w bits of a tag that is signed or not. -/
def vintForms : List (Ctor2 × (Bool → Nat → Nat → Nat → Nat)) :=
  [ (.vadd, fun _ w x y => (x + y) % 2 ^ w),
    (.vsub, fun _ w x y => (x + 2 ^ w - y) % 2 ^ w),
    (.vmul, fun _ w x y => x * y % 2 ^ w),
    (.vmulh, fun g w x y => wrapTo w ((readInt g w x * readInt g w y) / 2 ^ w)),
    (.vmin, fun _ w x y => if readInt true w x ≤ readInt true w y then x else y),
    (.vmax, fun _ w x y => if readInt true w x ≤ readInt true w y then y else x),
    (.vminn, fun _ _ x y => Nat.min x y),
    (.vmaxn, fun _ _ x y => Nat.max x y) ]

/-- R136: the logical forms. -/
def vlogicForms : List (Ctor2 × (Nat → Nat → Nat → Nat)) :=
  [ (.vand, fun _ x y => x &&& y), (.vor, fun _ x y => x ||| y), (.vxor, fun _ x y => x ^^^ y),
    (.vandn, fun w x y => x &&& (2 ^ w - 1 - y)) ]

/-- R136: the shifts, by s = B mod w. -/
def vshiftForms : List (Ctor2 × (Nat → Nat → Nat → Nat)) :=
  [ (.vsll, fun w x k => x * 2 ^ k % 2 ^ w), (.vsrl, fun _ x k => x / 2 ^ k),
    (.vsra, fun w x k => wrapTo w (readInt true w x / 2 ^ k)),
    (.vrol, fun w x k => (x * 2 ^ k + x / 2 ^ (w - k)) % 2 ^ w) ]

/-- R137: the floating forms of two sources, as the FPU forms on codes of a tag. -/
def vfloatForms : List (Ctor2 × (RMode → BitVec 5 → Nat → Nat → Nat × Fx)) :=
  [ (.vfadd, fun m t x y => fpArith .add t x y m), (.vfsub, fun m t x y => fpArith .sub t x y m),
    (.vfmul, fun m t x y => fpArith .mul t x y m), (.vfdiv, fun m t x y => fpArith .div t x y m),
    (.vfmin, fun _ t x y => fpMinMax false t x y), (.vfmax, fun _ t x y => fpMinMax true t x y) ]

/-- The tags of R137: IEEE, and slash with RAT = 1. -/
def floatTagOk (s : State) (t : BitVec 5) : Bool :=
  decide (0x0B ≤ t.toNat ∧ t.toNat ≤ 0x0E) || (s.ctx.acr.getLsbD 3 && decide (t.toNat = 0x0F ∨ t.toNat = 0x10))

/-- R138: the unary integer forms. -/
def vunaryIntForms : List (Ctor1 × (Bool → Nat → Nat → Nat)) :=
  [ (.vabs, fun g w x => wrapTo w (readInt g w x).natAbs), (.vneg, fun _ w x => (2 ^ w - x) % 2 ^ w),
    (.vnot, fun _ w x => 2 ^ w - 1 - x),
    (.vclz, fun _ w x => ((List.range w).takeWhile (fun i => !x.testBit (w - 1 - i))).length),
    (.vpopc, fun _ w x => ((List.range w).filter (fun i => x.testBit i)).length) ]

/-- R139: the integer compares. -/
def vcompareInt : List ((BitVec 3 → BitVec 6 → BitVec 6 → BitVec 3 → Instr) × (Nat → Nat → Nat → Bool)) :=
  [ (.vceq, fun _ x y => decide (x = y)), (.vcne, fun _ x y => decide (x ≠ y)),
    (.vclt, fun w x y => decide (readInt true w x < readInt true w y)),
    (.vcle, fun w x y => decide (readInt true w x ≤ readInt true w y)),
    (.vcltn, fun _ x y => decide (x < y)), (.vclen, fun _ x y => decide (x ≤ y)) ]

/-- R139: the floating compares, as the FPU forms. -/
def vcompareFloat : List ((BitVec 3 → BitVec 6 → BitVec 6 → BitVec 3 → Instr) × (BitVec 5 → Nat → Nat → Bool × Fx)) :=
  [ (.vceq, fpCompare .eq), (.vcne, fun t x y => (!(fpCompare .eq t x y).1, (fpCompare .eq t x y).2)),
    (.vcflt, fpCompare .lt), (.vcfle, fpCompare .le) ]

/-- R139: `t` is `u` with bit i of p[d] written for every processed i, the flags recorded and VSTART 0; a write to p0
is discarded. -/
def WroteP (s u t : State) (d : BitVec 3) (w : Nat) (pr : BitVec 3) (res : Nat → Bool) (fx : Fx) : Prop :=
  t = { u with ctx := { recorded u.ctx fx with p := t.ctx.p, vstart := 0 } }
  ∧ (∀ k : Fin 8, k.val ≠ d.toNat ∨ d = 0 → t.ctx.p[k.val] = u.ctx.p[k.val])
  ∧ (d ≠ 0 → ∀ i, i < 1024 → (t.ctx.p[d.toNat]).getLsbD i = if i ∈ processed s w pr then res i else (u.ctx.p[d.toNat]).getLsbD i)

end Sys2Proof.Claims

/-- R136 and R130: the integer, logical and shift forms write their result for each processed element, under the tag
of va; elements that are not processed keep their bits, or are zero codes in a pushed entry; no flag is raised. -/
def Obligations.VectorIntegerFormsWriteEachElement : Prop :=
  ∀ (d a b : BitVec 6) (pr : BitVec 3) (s u : State) (ea eb : Entry), ready2 s d a b ea eb u →
    startOf s < countOf s (tagWidth ea.tag) →
    (∀ p ∈ vintForms, intTagOk ea.tag = true → eb.tag = ea.tag → Yields (p.1 d a b pr) s (fun t =>
      WroteV s u t d pr ea.tag (fun i => (p.2 (signedTag ea.tag) (tagWidth ea.tag)
        (elem (tagWidth ea.tag) ea.data i) (elem (tagWidth ea.tag) eb.data i), Fx.none))))
    ∧ (∀ p ∈ vlogicForms, ea.tag ≠ 0 → ea.tag.toNat ≤ 0x12 → eb.tag = ea.tag → Yields (p.1 d a b pr) s (fun t =>
      WroteV s u t d pr ea.tag (fun i => (p.2 (tagWidth ea.tag)
        (elem (tagWidth ea.tag) ea.data i) (elem (tagWidth ea.tag) eb.data i), Fx.none))))
    ∧ (∀ p ∈ vshiftForms, intTagOk ea.tag = true → intTagOk eb.tag = true → tagWidth eb.tag = tagWidth ea.tag →
      Yields (p.1 d a b pr) s (fun t => WroteV s u t d pr ea.tag (fun i => (p.2 (tagWidth ea.tag)
        (elem (tagWidth ea.tag) ea.data i) (elem (tagWidth ea.tag) eb.data i % tagWidth ea.tag), Fx.none))))

/-- R137 and R138: the floating forms act on each processed element as the FPU form does on codes of its tag, and
record the flags of the elements, where no element records an enabled one, and so always where no trap is enabled; the unary integer forms, `vfabs` and
`vfneg` on IEEE and FP8 tags raise nothing. -/
def Sys2Proof.Claims.VectorFloatAndUnaryFormsWriteEachElement : Prop :=
  (∀ (d a b : BitVec 6) (pr : BitVec 3) (s u : State) (ea eb : Entry), ready2 s d a b ea eb u →
    startOf s < countOf s (tagWidth ea.tag) → floatTagOk s ea.tag = true → eb.tag = ea.tag →
    ∀ p ∈ vfloatForms,
      (let res := fun i => p.2 s.ctx.rm ea.tag (elem (tagWidth ea.tag) ea.data i) (elem (tagWidth ea.tag) eb.data i)
       quiet s res (processed s (tagWidth ea.tag) pr) → Yields (p.1 d a b pr) s (fun t => WroteV s u t d pr ea.tag res))
      ∧ (untrapped s → Yields (p.1 d a b pr) s (fun t => ∃ res, WroteV s u t d pr ea.tag res)))
  ∧ (∀ (d a b : BitVec 6) (pr : BitVec 3) (s u v : State) (ea eb ed : Entry), ready2 s d a b ea eb u →
    u.takeV d = .ok (ed, v) → v.checkRoom (v.vref d) = .ok () →
    startOf s < countOf s (tagWidth ea.tag) → floatTagOk s ea.tag = true → eb.tag = ea.tag → ed.tag = ea.tag →
    ∀ p ∈ [(Instr.vfmacc, false), (Instr.vfnmacc, true)],
      (let w := tagWidth ea.tag
       let res := fun i => fpFused p.2 ea.tag (elem w ea.data i) (elem w eb.data i) (elem w ed.data i) s.ctx.rm
       quiet s res (processed s w pr) → Yields (p.1 d a b pr) s (fun t => WroteV s v t d pr ea.tag res))
      ∧ (untrapped s → Yields (p.1 d a b pr) s (fun t => ∃ res, WroteV s v t d pr ea.tag res)))
  ∧ (∀ (d a : BitVec 6) (pr : BitVec 3) (s u : State) (ea : Entry), ready1 s d a ea u →
    startOf s < countOf s (tagWidth ea.tag) →
    (∀ p ∈ vunaryIntForms, intTagOk ea.tag = true → Yields (p.1 d a pr) s (fun t => WroteV s u t d pr ea.tag (fun i =>
      (p.2 (signedTag ea.tag) (tagWidth ea.tag) (elem (tagWidth ea.tag) ea.data i), Fx.none))))
    ∧ (floatTagOk s ea.tag = true →
        (let res := fun i => fpSqrt ea.tag (elem (tagWidth ea.tag) ea.data i) s.ctx.rm
         quiet s res (processed s (tagWidth ea.tag) pr) →
           Yields (.vfsqrt d a pr) s (fun t => WroteV s u t d pr ea.tag res))
        ∧ (untrapped s → Yields (.vfsqrt d a pr) s (fun t => ∃ res, WroteV s u t d pr ea.tag res)))
    ∧ (ea.tag.toNat ∈ [0x08, 0x09, 0x0B, 0x0C, 0x0D, 0x0E] →
        Yields (.vfabs d a pr) s (fun t => WroteV s u t d pr ea.tag (fun i =>
          (elem (tagWidth ea.tag) ea.data i % 2 ^ (tagWidth ea.tag - 1), Fx.none)))
        ∧ Yields (.vfneg d a pr) s (fun t => WroteV s u t d pr ea.tag (fun i =>
          (elem (tagWidth ea.tag) ea.data i ^^^ 2 ^ (tagWidth ea.tag - 1), Fx.none)))))

/-- R139: a compare writes bit i of p[d] for each processed i and leaves the other bits; integers compare as bits or
as the form reads them and raise nothing; floating and slash elements compare by value as the FPU forms do. -/
def Sys2Proof.Claims.VectorComparesWriteThePredicate : Prop :=
  ∀ (d : BitVec 3) (a b : BitVec 6) (pr : BitVec 3) (s s1 u : State) (ea eb : Entry), s.takeV a = .ok (ea, s1) →
    s1.takeV b = .ok (eb, u) → startOf s < countOf s (tagWidth ea.tag) → eb.tag = ea.tag →
    (∀ p ∈ vcompareInt, intTagOk ea.tag = true → Yields (p.1 d a b pr) s (fun t =>
      WroteP s u t d (tagWidth ea.tag) pr (fun i => p.2 (tagWidth ea.tag) (elem (tagWidth ea.tag) ea.data i)
        (elem (tagWidth ea.tag) eb.data i)) Fx.none))
    ∧ (∀ p ∈ vcompareFloat, ea.tag.toNat ∈ [0x08, 0x09, 0x0B, 0x0C, 0x0D, 0x0E, 0x0F, 0x10] →
      (let w := tagWidth ea.tag
       let res := fun i => p.2 ea.tag (elem w ea.data i) (elem w eb.data i)
       (∀ i ∈ processed s w pr, ¬ enabledIn s (res i).2) → Yields (p.1 d a b pr) s (fun t =>
         WroteP s u t d w pr (fun i => (res i).1) (totalFx (fun i => (0, (res i).2)) (processed s w pr)))))

/-- R137 and R138: the floating forms act on each processed element as the FPU form does on codes of its tag, and
record the flags of the elements, where no element records an enabled one, and so always where no trap is enabled; the
unary integer forms, `vfabs` and `vfneg` on IEEE and FP8 tags raise nothing. R139: a compare writes bit i of p[d] for
each processed i and leaves the other bits; integers compare as bits or as the form reads them and raise nothing;
floating and slash elements compare by value as the FPU forms do. -/
def Obligations.VectorFloatUnaryAndCompareFormsWriteEachElement : Prop :=
  Claims.VectorFloatAndUnaryFormsWriteEachElement ∧ Claims.VectorComparesWriteThePredicate


/-- R133: where an element of `vfadd`, `vfsub`, `vfmul`, `vfdiv`, `vfmin` or `vfmax` into a lane entry records an enabled
flag, the lowest such element i stops the instruction: the trap ARITH with the element's flags in EVAL, VSTART = i,
elements below i written and the elements from i upward as they stood. -/
def Sys2Proof.Claims.VectorElementFaultKeepsElementsBelow : Prop :=
  ∀ (d a b : BitVec 6) (pr : BitVec 3) (s u : State) (ea eb : Entry) (e k : Nat), ready2 s d a b ea eb u →
    u.vref d = .entry e → s.ctx.lfBase + e < 256 → s.ctx.live = [] → s.ctx.held = [] →
    startOf s < countOf s (tagWidth ea.tag) → floatTagOk s ea.tag = true → eb.tag = ea.tag → ∀ p ∈ vfloatForms,
      (let w := tagWidth ea.tag
       let res := fun i => p.2 s.ctx.rm ea.tag (elem w ea.data i) (elem w eb.data i)
       k ∈ processed s w pr → enabledIn s (res k).2 → (∀ i ∈ processed s w pr, i < k → ¬ enabledIn s (res i).2) →
         Yields (p.1 d a b pr) s (fun t => t.ctx.ecause = 0x09 ∧ t.ctx.eval = (res k).2.flags.zeroExtend 64
           ∧ t.ctx.vstart = word k ∧ t.ctx.epc = s.pairAddr
           ∧ ∀ i, i < 8192 / w → elem w (t.entry e).data i =
               if i ∈ processed s w pr ∧ i < k then (res i).1 % 2 ^ w else elem w (s.entry e).data i))

/-- R38: a vector instruction of these forms with VSTART at or above VL writes nothing, and VSTART becomes 0. -/
def Sys2Proof.Claims.VectorPastItsEndWritesNothing : Prop :=
  ∀ (d a b : BitVec 6) (pr : BitVec 3) (s : State), s.ctx.vl.toNat % 2 ^ 11 ≤ startOf s →
    (∀ f ∈ vintForms.map (fun p => p.1) ++ vlogicForms.map (fun p => p.1) ++ vshiftForms.map (fun p => p.1)
        ++ vfloatForms.map (fun p => p.1) ++ [Instr.vfmacc, .vfnmacc],
      Yields (f d a b pr) s (fun t => t = { s with ctx := { s.ctx with vstart := 0 } }))
    ∧ (∀ f ∈ vunaryIntForms.map (fun p => p.1) ++ [Instr.vfsqrt, .vfabs, .vfneg],
      Yields (f d a pr) s (fun t => t = { s with ctx := { s.ctx with vstart := 0 } }))

/-- R131: a binary integer form whose va carries a tag outside its set, or whose vb carries another tag, traps
TAG_MISMATCH with 0x100 × position + tag found, before anything pops or is written. -/
def Sys2Proof.Claims.VectorTagMismatchTraps : Prop :=
  ∀ p ∈ vintForms, ∀ (d a b : BitVec 6) (pr : BitVec 3) (s s1 u : State) (ea eb : Entry), s.takeV a = .ok (ea, s1) →
    s1.takeV b = .ok (eb, u) → startOf s < countOf s (tagWidth ea.tag) →
    (intTagOk ea.tag = false → Yields (p.1 d a b pr) s (fun t => Trapped s t 0x04 (word ea.tag.toNat)
      ∧ (s.ctx.live = [] → s.ctx.resume = false → t.core = s.core)))
    ∧ (intTagOk ea.tag = true → eb.tag ≠ ea.tag → Yields (p.1 d a b pr) s (fun t =>
        Trapped s t 0x04 (word (0x100 + eb.tag.toNat)) ∧ (s.ctx.live = [] → s.ctx.resume = false → t.core = s.core)))

/-- R133: where an element of `vfadd`, `vfsub`, `vfmul`, `vfdiv`, `vfmin` or `vfmax` into a lane entry records an
enabled flag, the lowest such element i stops the instruction: the trap ARITH with the element's flags in EVAL, VSTART
= i, elements below i written and the elements from i upward as they stood. R38: a vector instruction of these forms
with VSTART at or above VL writes nothing, and VSTART becomes 0. R131: a binary integer form whose va carries a tag
outside its set, or whose vb carries another tag, traps TAG_MISMATCH with 0x100 × position + tag found, before
anything pops or is written. -/
def Obligations.VectorFormsStopAtFaultsEndsAndTags : Prop :=
  Claims.VectorElementFaultKeepsElementsBelow ∧ Claims.VectorPastItsEndWritesNothing ∧ Claims.VectorTagMismatchTraps

/-! ### The special-function unit, reductions, permutes, bits, moves and lengths (R140 to R150) -/

namespace Sys2Proof.Claims

/-- R140: the forms of the special-function unit. -/
def sfuForms : List (Ctor1 × SfuForm) :=
  [(.vexp2, .exp2), (.vrcp, .rcp), (.vrsq, .rsq), (.vlog2, .log2), (.vtanh, .tanh), (.vsin, .sin), (.vcos, .cos),
   (.verf, .erf)]

/-- R144: the codes of the processed elements of an entry, in ascending order. -/
def codesOf (s : State) (pr : BitVec 3) (ea : Entry) : List Nat :=
  (processed s (tagWidth ea.tag) pr).map (elem (tagWidth ea.tag) ea.data)

/-- Their values as integers, read as the tag reads them. -/
def intsOf (s : State) (pr : BitVec 3) (ea : Entry) : List Int :=
  (codesOf s pr ea).map (readInt (signedTag ea.tag) (tagWidth ea.tag))

/-- The least and the greatest integer of a tag. -/
def leastOf (t : BitVec 5) : Int := if signedTag t then -(2 ^ (tagWidth t - 1) : Int) else 0
def greatestOf (t : BitVec 5) : Int := if signedTag t then 2 ^ (tagWidth t - 1) - 1 else 2 ^ tagWidth t - 1

/-- R144: `t` is `u` with g[d] := v and VSTART 0, and nothing recorded. -/
def Reduced (u t : State) (d : BitVec 6) (v : Word) : Prop :=
  WroteG { u with ctx := { u.ctx with vstart := 0 } } t d v

/-- Element k of an entry under its tag; the zero code of the tag at or above VLMAX (R145). -/
def sourceElem (e : Entry) (k : Nat) : Nat :=
  if k < vlmaxOf (tagWidth e.tag) then elem (tagWidth e.tag) e.data k else zeroOf e.tag

/-- R145: the elements below the count that a pred field selects. -/
def selectedOf (s : State) (w : Nat) (pr : BitVec 3) : List Nat :=
  (List.range (countOf s w)).filter (fun i => pr == 0 || (s.ctx.p[pr.toNat]).getLsbD i)

/-- The tags of the permute network and of VBITS: every tag but RAW and the reserved codes. -/
def taggedOk (t : BitVec 5) : Prop := t ≠ 0 ∧ t.toNat ≤ 0x12

/-- A whole entry written to v[d] or pushed: `t` is `u` with it and nothing else changed but what the write itself
marks (R24, R112). -/
def WroteWhole (u t : State) (d : BitVec 6) (tag : BitVec 5) (bit_ : Nat → Bool) : Prop :=
  ∃ v : Entry, v.tag = tag ∧ v.poison = false ∧ (∀ j, j < 8192 → v.data.getLsbD j = bit_ j) ∧ t = u.putRef (u.vref d) v

end Sys2Proof.Claims

/-- R140, R141 and R143: a VSFU instruction forms its whole result at issue and posts it, with the tag of va and the
flags of its elements, to commit exactly 16 core cycles later; nothing but VSTART changes before. A finite nonzero
reciprocal is the exact quotient rounded to nearest even; ±0 gives an infinity of its sign with DZ; 2^k of a power
that the format holds is exact. -/
def Obligations.SfuResultsCommitSixteenCyclesLater : Prop :=
  (∀ p ∈ sfuForms, ∀ (d a : BitVec 6) (pr : BitVec 3) (s u : State) (ea : Entry), ready1 s d a ea u →
    startOf s < countOf s (tagWidth ea.tag) → ea.tag.toNat ∈ [0x0B, 0x0C, 0x0D] →
    Yields (p.1 d a pr) s (fun t => ∃ r : Shadow, r.at_ = s.core.clock + 16 ∧ r.tag = ea.tag
      ∧ r.kind = (match u.vref d with | .entry e => ShadowKind.sfuEntry e | .queue q => .sfuQueue q)
      ∧ (let res := fun i => sfu p.2 ea.tag.toNat (tagFmt ea.tag) (elem (tagWidth ea.tag) ea.data i)
         let l := selectedTo s (countOf s (tagWidth ea.tag)) pr
         r.flags = (totalFx res l).flags
         ∧ ∀ i, i < 8192 / tagWidth ea.tag → elem (tagWidth ea.tag) r.data i =
             if i ∈ l then (res i).1 % 2 ^ tagWidth ea.tag else restOf (zeroOf ea.tag) u d ea.tag i)
      ∧ t = { u with ctx := { u.ctx with live := u.ctx.live ++ [r], vstart := 0 } }))
  ∧ (∀ (t code : Nat) (f : Fmt) (neg : Bool) (n k : Nat), f.ieeeValue code = .fin neg n k → 0 < k →
      (0 < n → ∃ x, ratOf x = 1 / ratOf (.fin neg n k) ∧ sfu .rcp t f code = roundIeee f x .rne)
      ∧ (n = 0 → sfu .rcp t f code = (f.signed neg f.infCode, Fx.dz))
      ∧ (k = 1 → n ≤ 1024 → ∃ x, ratOf x = (2 : Rat) ^ (if neg then -(n : Int) else n)
          ∧ (n ≠ 0 → sfu .exp2 t f code = roundIeee f x .rne)))

/-- R144, outside a gang: the reductions of the processed elements into g[d]: the sum modulo 2^64, the maximum, the
minimum and the greatest magnitude of integers with the tag's minimum, maximum and 0 where none is processed, the
AND, OR and XOR of all, and the exact sum of finite IEEE elements rounded once; with no trap enabled the sum of
floating elements always completes. -/
def Obligations.ReductionsCombineTheProcessedElements : Prop :=
  ∀ (d a : BitVec 6) (pr : BitVec 3) (s u : State) (ea : Entry), s.ctx.team.getLsbD 10 = false →
    s.takeV a = .ok (ea, u) → startOf s < countOf s (tagWidth ea.tag) →
    (intTagOk ea.tag = true →
      Yields (.vrsum d a pr) s (fun t => Reduced u t d (wordI (intsOf s pr ea).sum))
      ∧ (∃ m, Yields (.vrmax d a pr) s (fun t => Reduced u t d (wordI m))
          ∧ (∀ x ∈ intsOf s pr ea, x ≤ m) ∧ (intsOf s pr ea = [] ∧ m = leastOf ea.tag ∨ m ∈ intsOf s pr ea))
      ∧ (∃ m, Yields (.vrmin d a pr) s (fun t => Reduced u t d (wordI m))
          ∧ (∀ x ∈ intsOf s pr ea, m ≤ x) ∧ (intsOf s pr ea = [] ∧ m = greatestOf ea.tag ∨ m ∈ intsOf s pr ea))
      ∧ (∃ m : Nat, Yields (.vramax d a pr) s (fun t => Reduced u t d (word m))
          ∧ (∀ x ∈ intsOf s pr ea, x.natAbs ≤ m) ∧ (m = 0 ∨ ∃ x ∈ intsOf s pr ea, x.natAbs = m))
      ∧ Yields (.vrand d a pr) s (fun t => ∃ v, Reduced u t d v ∧ ∀ j, j < 64 →
          v.getLsbD j = if codesOf s pr ea = [] then true else (codesOf s pr ea).all (fun c => c.testBit j))
      ∧ Yields (.vror d a pr) s (fun t => ∃ v, Reduced u t d v ∧ ∀ j, j < 64 →
          v.getLsbD j = (codesOf s pr ea).any (fun c => c.testBit j))
      ∧ Yields (.vrxor d a pr) s (fun t => ∃ v, Reduced u t d v ∧ ∀ j, j < 64 →
          v.getLsbD j = decide (((codesOf s pr ea).filter (fun c => c.testBit j)).length % 2 = 1)))
    ∧ (floatTagOk s ea.tag = true → untrapped s → Yields (.vrfsum d a pr) s (fun t => ∃ v fx,
        WroteGFlags { u with ctx := { u.ctx with vstart := 0 } } t d v fx))
    ∧ (ea.tag.toNat ∈ [0x0B, 0x0C, 0x0D, 0x0E] → codesOf s pr ea ≠ [] →
        (∀ c ∈ codesOf s pr ea, finite ((tagFmt ea.tag).ieeeValue c) = true) →
        ∃ x : Val, finite x = true ∧ ratOf x = ((codesOf s pr ea).map (fun c => ratOf ((tagFmt ea.tag).ieeeValue c))).sum
          ∧ (let r := roundIeee (tagFmt ea.tag) x s.ctx.rm
             ¬ enabledIn s r.2 → Yields (.vrfsum d a pr) s (fun t =>
               WroteGFlags { u with ctx := { u.ctx with vstart := 0 } } t d (word r.1) r.2)))

/-- R145, outside a gang: the permutes write, for each processed element, the source element that their table names,
with the zero code of the tag for an index at or above VLMAX; `vslideup` leaves the elements below its offset,
`vcompress` those from m upward and `vexpand` the unselected; a nonzero VSTART leaves the last two writing nothing. -/
def Obligations.PermutesMoveTheElementsOfTheirTable : Prop :=
  ∀ (d a b : BitVec 6) (pr : BitVec 3) (s u : State) (ea : Entry), s.ctx.team.getLsbD 10 = false → ready1 s d a ea u →
    startOf s < countOf s (tagWidth ea.tag) → taggedOk ea.tag →
    (let w := tagWidth ea.tag
     let g := (s.gr b).toNat
     let put (l : List Nat) (pick : Nat → Nat) (t : State) : Prop :=
       WroteOn u t d l ea.tag (fun i => (sourceElem ea (pick i), Fx.none))
     let sel := selectedOf s w pr
     Yields (.vslideup d a b pr) s (put ((processed s w pr).filter (fun i => decide (g ≤ i))) (fun i => i - g))
     ∧ Yields (.vslidedn d a b pr) s (put (processed s w pr) (fun i => i + g))
     ∧ Yields (.vbcast d a b pr) s (put (processed s w pr) (fun _ => g))
     ∧ Yields (.vunzip d a pr) s (put (processed s w pr) (fun i =>
         if i < (countOf s w + 1) / 2 then 2 * i else 2 * (i - (countOf s w + 1) / 2) + 1))
     ∧ (startOf s = 0 → Yields (.vcompress d a pr) s (put ((List.range sel.length).filter (within s)) (fun i => sel.getD i 0)))
     ∧ (startOf s = 0 → Yields (.vexpand d a pr) s (put (sel.filter (within s)) (fun i => (sel.filter (fun j => decide (j < i))).length)))
     ∧ (startOf s ≠ 0 → ∀ f ∈ [Instr.vcompress, .vexpand], Yields (f d a pr) s (fun t =>
         t = { s with ctx := { s.ctx with vstart := 0 } })))
    ∧ (∀ (eb : Entry) (v : State), u.takeV b = .ok (eb, v) → v.checkRef (v.vref d) = .ok () → v.checkRoom (v.vref d) = .ok () →
      (intTagOk eb.tag = true → tagWidth eb.tag = tagWidth ea.tag → Yields (.vgather d a b pr) s (fun t =>
        WroteOn v t d (processed s (tagWidth ea.tag) pr) ea.tag (fun i =>
          (sourceElem ea (elem (tagWidth ea.tag) eb.data i), Fx.none))))
      ∧ (eb.tag = ea.tag → Yields (.vzip d a b pr) s (fun t =>
        WroteOn v t d (processed s (tagWidth ea.tag) pr) ea.tag (fun i =>
          (sourceElem (if i % 2 = 0 then ea else eb) (i / 2), Fx.none)))))

/-- R146: the whole-entry shifts and funnel shifts, the element reversals, and the counts of clear leading bits and of
set bits of a whole entry. -/
def Sys2Proof.Claims.BitInstructionsMoveWholeEntries : Prop :=
  (∀ (d a b : BitVec 6) (s u : State) (ea : Entry), ready1 s d a ea u → taggedOk ea.tag →
    (let k := (s.gr b).toNat % 2 ^ 13
     Yields (.vshlw d a b) s (fun t => WroteWhole u t d ea.tag (fun j => decide (k ≤ j) && ea.data.getLsbD (j - k)))
     ∧ Yields (.vshrw d a b) s (fun t => WroteWhole u t d ea.tag (fun j => ea.data.getLsbD (j + k)))
     ∧ Yields (.vclzw d a) s (fun t => WroteWhole u t d tI64 (fun j =>
         ((List.range 8192).takeWhile (fun i => !ea.data.getLsbD (8191 - i))).length.testBit j))
     ∧ Yields (.vpopw d a) s (fun t => WroteWhole u t d tI64 (fun j =>
         ((List.range 8192).filter (fun i => ea.data.getLsbD i)).length.testBit j))
     ∧ (∀ (ed : Entry) (v : State), u.takeV d = .ok (ed, v) → v.checkRoom (v.vref d) = .ok () → ed.tag = ea.tag →
         Yields (.vfunl d a b) s (fun t => WroteWhole v t d ea.tag (fun j =>
           if k ≤ j then ed.data.getLsbD (j - k) else ea.data.getLsbD (8192 + j - k)))
         ∧ Yields (.vfunr d a b) s (fun t => WroteWhole v t d ea.tag (fun j =>
           if j + k < 8192 then ed.data.getLsbD (j + k) else ea.data.getLsbD (j + k - 8192))))))
  ∧ (∀ (d a : BitVec 6) (pr : BitVec 3) (s u : State) (ea : Entry), ready1 s d a ea u →
    startOf s < countOf s (tagWidth ea.tag) → taggedOk ea.tag →
    (let w := tagWidth ea.tag
     Yields (.vrevb d a pr) s (fun t => ∃ f : Nat → Nat, (∀ i j, j < w →
       (f i).testBit j = (elem w ea.data i).testBit (w - 1 - j)) ∧ WroteV s u t d pr ea.tag (fun i => (f i, Fx.none)))
     ∧ Yields (.vbswap d a pr) s (fun t => ∃ f : Nat → Nat, (∀ i j, j < w →
       (f i).testBit j = (elem w ea.data i).testBit (w - 8 - j / 8 * 8 + j % 8))
       ∧ WroteV s u t d pr ea.tag (fun i => (f i, Fx.none)))))

/-- R147 and R148, outside a gang: the moves between entries, g registers and predicates, with the tag that each
keeps or sets, and `vmovx` by logical entry. -/
def Sys2Proof.Claims.MovesCopyElementsEntriesAndPredicates : Prop :=
  (∀ (d a : BitVec 6) (pr : BitVec 3) (s u : State) (ea : Entry), ready1 s d a ea u →
    startOf s < countOf s (tagWidth ea.tag) → Yields (.vmv d a pr) s (fun t => WroteV s u t d pr ea.tag (fun i =>
      (elem (tagWidth ea.tag) ea.data i, Fx.none))))
  ∧ (∀ (d a : BitVec 6) (pr : BitVec 3) (s : State), s.checkRef (s.vref d) = .ok () → s.checkRoom (s.vref d) = .ok () →
    (let tag := match s.vref d with | .entry e => (s.entry e).tag | .queue _ => 0
     (startOf s < countOf s (tagWidth tag) → Yields (.vsplat d a pr) s (fun t =>
       WroteV s s t d pr tag (fun _ => ((s.gr a).toNat, Fx.none))))
     ∧ (let it := if intTagOk tag then tag else tI64
        startOf s < countOf s (tagWidth it) → Yields (.vid d pr) s (fun t =>
          WroteV s s t d pr it (fun i => (i, Fx.none))))))
  ∧ (∀ (d a b : BitVec 6) (s u : State) (ea : Entry), s.ctx.team.getLsbD 10 = false → s.takeV a = .ok (ea, u) →
    taggedOk ea.tag →
    (let k := (s.gr b).toNat
     let x := if k < vlmaxOf (tagWidth ea.tag) then elem (tagWidth ea.tag) ea.data k else 0
     Yields (.vextg d a b) s (fun t => WroteG u t d
       (if intTagOk ea.tag then wordI (readInt (signedTag ea.tag) (tagWidth ea.tag) x) else word x))))
  ∧ (∀ (d a b : BitVec 6) (s : State) (e : Nat), s.ctx.team.getLsbD 10 = false → s.vref d = .entry e →
    s.checkRef (.entry e) = .ok () →
    (let k := (s.gr b).toNat
     let w := tagWidth (s.entry e).tag
     (vlmaxOf w ≤ k → Yields (.vinsg d a b) s (fun t => t = s))
     ∧ (k < vlmaxOf w → Yields (.vinsg d a b) s (fun t => ∃ v : Entry, v.tag = (s.entry e).tag ∧ t = s.setEntry e v
         ∧ ∀ i, i < 8192 / w → elem w v.data i = if i = k then (s.gr a).toNat % 2 ^ w else elem w (s.entry e).data i))))
  ∧ (∀ (d b : BitVec 6) (s u : State) (v : Entry), (s.gr b).toNat % 2 ^ 8 < s.ctx.alloc.toNat / 2 ^ 8 % 2 ^ 9 →
    ((s.entry ((s.gr b).toNat % 2 ^ 8)).poison = false → s.checkRef (s.vref d) = .ok () → s.checkRoom (s.vref d) = .ok () →
      Yields (.vmovxRead d b) s (fun t => t = s.putRef (s.vref d) (s.entry ((s.gr b).toNat % 2 ^ 8))))
    ∧ (s.takeV d = .ok (v, u) → Yields (.vmovxWrite d b) s (fun t => t = u.setEntry ((s.gr b).toNat % 2 ^ 8) v)))
  ∧ (∀ (d : BitVec 6) (a : BitVec 3) (s : State), s.checkRef (s.vref d) = .ok () → s.checkRoom (s.vref d) = .ok () →
    Yields (.vmskv d a) s (fun t => WroteWhole s t d tBIT (fun j => decide (j < 1024) && (s.pr a).getLsbD j)))
  ∧ (∀ (d : BitVec 3) (a : BitVec 6) (s u : State) (ea : Entry), s.takeV a = .ok (ea, u) → ea.tag = tBIT →
    Yields (.vmvp d a) s (fun t => t = { u with ctx := { u.ctx with p := t.ctx.p } }
      ∧ (∀ k : Fin 8, k.val ≠ d.toNat ∨ d = 0 → t.ctx.p[k.val] = u.ctx.p[k.val])
      ∧ (d ≠ 0 → t.ctx.p[d.toNat] = ea.data.truncate 1024)))

/-- R149 and R150: `vsetvl` sets VL and g[d] to the lesser of g[a] and 1,024 / 2^sz; `vcoll` sets VL to the strip of a
collapsed tensor at position P and g[d] to the inner runs that remain, and both to 0 at the end. -/
def Sys2Proof.Claims.LengthInstructionsSetVl : Prop :=
  ∀ (d a b : BitVec 6) (s : State),
    (let n := Nat.min (s.gr a).toNat (1024 / 2 ^ ((s.gr b).toNat % 4))
     Yields (.vsetvl d a b) s (fun t => WroteG { s with ctx := { s.ctx with vl := word n } } t d (word n)))
    ∧ (let g := (s.gr a).toNat
       let e0 := g % 2 ^ 20
       let e1 := g / 2 ^ 20 % 2 ^ 20
       let e2 := g / 2 ^ 40 % 2 ^ 20
       let p := (s.gr b).toNat
       let run := if (s.gr a).getLsbD 62 = false then e0 else if (s.gr a).getLsbD 63 = false then e0 * e1 else e0 * e1 * e2
       let outer := if (s.gr a).getLsbD 62 = false then e1 * e2 else if (s.gr a).getLsbD 63 = false then e2 else 1
       let done := e0 * e1 * e2 ≤ p
       let n := if done then 0 else Nat.min (run - p % run) (1024 / 2 ^ (g / 2 ^ 60 % 4))
       Yields (.vcoll d a b) s (fun t => WroteG { s with ctx := { s.ctx with vl := word n } } t d
         (word (if done then 0 else outer - 1 - p / run))))

/-- R146: the whole-entry shifts and funnel shifts, the element reversals, and the counts of clear leading bits and of
set bits of a whole entry. R147 and R148, outside a gang: the moves between entries, g registers and predicates, with
the tag that each keeps or sets, and `vmovx` by logical entry. R149 and R150: `vsetvl` sets VL and g[d] to the lesser
of g[a] and 1,024 / 2^sz; `vcoll` sets VL to the strip of a collapsed tensor at position P and g[d] to the inner runs
that remain, and both to 0 at the end. -/
def Obligations.BitsMovesAndLengthsFollowTheirForms : Prop :=
  Claims.BitInstructionsMoveWholeEntries ∧ Claims.MovesCopyElementsEntriesAndPredicates ∧ Claims.LengthInstructionsSetVl

/-! ### Conversion, quantisation and slash vectors (R215 to R235) -/

namespace Sys2Proof.Claims

/-- R215: the count of elements between widths ws and wd. -/
def countBetween (s : State) (ws wd : Nat) : Nat :=
  if ws = wd then countOf s ws else Nat.min (s.ctx.vl.toNat % 2 ^ 11) (8192 / max ws wd)

/-- R134: the positions below n that a pred field selects, whatever VSTART holds. -/
def chosenTo (s : State) (n : Nat) (pr : BitVec 3) : List Nat :=
  (List.range n).filter (fun i => pr == 0 || (s.ctx.p[pr.toNat]).getLsbD i)

/-- R219: the tags that a conversion reads and writes. -/
def convSourceOk (t : BitVec 5) : Bool := decide (1 ≤ t.toNat ∧ t.toNat ≤ 0x11)
def convTargetOk (t : BitVec 5) : Bool := decide (1 ≤ t.toNat ∧ t.toNat ≤ 0x10)

/-- The integer nearest the value that a type holds. -/
def clampTo (t : BitVec 5) (x : Int) : Int := max (leastOf t) (min (greatestOf t) x)

/-- R219: one element converted; an integer to an integer wraps or saturates, and every other value is rounded from its
exact value in ACR.RM or towards zero. -/
def convertOne (s : State) (trunc : Bool) (q : BitVec 1) (st dt : BitVec 5) (x : Nat) : Nat × Fx :=
  if st = dt then (x, Fx.none)
  else if intTagOk st && intTagOk dt then
    (let v := readInt (signedTag st) (tagWidth st) x
     if trunc then (wrapTo (tagWidth dt) (clampTo dt v), if clampTo dt v = v then Fx.none else Fx.satF)
     else (wrapTo (tagWidth dt) v, Fx.none))
  else
    (let v := valueOf st (decide (q = 1)) x
     let r := roundTo dt (decide (q = 1)) v.1 (if trunc then .rz else s.ctx.rm) (s.ctx.acr.getLsbD 4)
     (r.1, v.2.and r.2))

/-- R220: the integral value that a mode gives a rational number (R39; the mediant mode reads as nearest even). -/
def integralOf (m : RMode) (x : Rat) : Int :=
  match m with
  | .rd => x.floor
  | .ru => x.ceil
  | .rz => if x < 0 then x.ceil else x.floor
  | .rne | .rm =>
    if x - x.floor < 1 / 2 then x.floor else if 1 / 2 < x - x.floor then x.floor + 1
    else if x.floor % 2 = 0 then x.floor else x.floor + 1

/-- R222: the partner table, wide to narrow. -/
def partners : List (Nat × Nat) :=
  [(0x03, 0x01), (0x04, 0x02), (0x05, 0x03), (0x06, 0x04), (0x07, 0x05), (0x0E, 0x0D), (0x0D, 0x0B), (0x0B, 0x08), (0x0C, 0x09)]

/-- R222: one element narrowed or widened: integers by saturation, floats by rounding. -/
def packedOne (s : State) (st dt : BitVec 5) (x : Nat) : Nat × Fx :=
  if intTagOk st then
    (let v := readInt (signedTag st) (tagWidth st) x
     (wrapTo (tagWidth dt) (clampTo dt v), if clampTo dt v = v then Fx.none else Fx.satF))
  else
    (let v := valueOf st false x
     let r := roundTo dt false v.1 s.ctx.rm (s.ctx.acr.getLsbD 4)
     (r.1, v.2.and r.2))

/-- R85: quantised under scale code X. -/
def scaledCode (s : State) (picot : Bool) (tag : BitVec 5) (v : Val) (x : Nat) : Nat × Fx :=
  if x = 0xFF then (if tag = tNarrow then zeroCode tag picot else nanOf tag, Fx.none)
  else roundTo tag picot (v.scale (127 - (x : Int))) .rne (s.ctx.acr.getLsbD 4)

/-- The IEEE tags of a wide side, and the narrow tags of a block form (R223, R225). -/
def wideTag (t : BitVec 5) : Bool := decide (0x0B ≤ t.toNat ∧ t.toNat ≤ 0x0E)
def narrowTag (t : BitVec 5) : Bool := decide (0x08 ≤ t.toNat ∧ t.toNat ≤ 0x0A)

/-- R225: emax of the narrow tag under Q. -/
def topOf (q : BitVec 1) (t : BitVec 5) : Int :=
  if t.toNat = 0x08 then 8 else if t.toNat = 0x09 then 15 else if q = 1 then 1 else 2

/-- R232 to R234: the binary slash forms on codes of one tag. -/
def slashForms : List (Ctor2 × (RMode → BitVec 5 → Nat → Nat → Nat × Fx)) :=
  [ (.vsladd, fun m t x y => fpArith .add t x y m), (.vslsub, fun m t x y => fpArith .sub t x y m),
    (.vslmul, fun m t x y => fpArith .mul t x y m), (.vsldiv, fun m t x y => fpArith .div t x y m) ]

/-- The slash tags. -/
def slashTagOk (t : BitVec 5) : Bool := decide (t.toNat = 0x0F ∨ t.toNat = 0x10)

/-- The value of a slash word and the flag its reading raises (R87). -/
def slashRead (t : BitVec 5) (x : Nat) : Val × Fx := slashDecode (decide (t.toNat = 0x10)) x

/-- R233: a finite number or an infinity as a pair in lowest terms. -/
def pairOf (v : Val) (p : Int) (q : Nat) : Prop :=
  match v with
  | .fin _ _ _ => 0 < q ∧ Int.gcd p q = 1 ∧ ratOf v = (p : Rat) / q
  | .inf neg => q = 0 ∧ p = (if neg then -1 else 1)
  | _ => False

end Sys2Proof.Claims

/-- R219 to R221: `vcvt` and `vcvts` write each processed element converted to the target tag, whole entries of single
elements where neither side is E2M1, pairs of nibbles where one is; `vretag` copies the entry under a new tag; `vround`
writes the integral value of its mode, with NX where it differs and the sign of the source kept, and always completes
where no trap is enabled. -/
def Obligations.ConversionsWriteTheTargetTag : Prop :=
  (∀ (d a : BitVec 6) (q : BitVec 1) (tag : BitVec 5) (pr : BitVec 3) (s u : State) (ea : Entry), ready1 s d a ea u →
    convTargetOk tag = true → convSourceOk ea.tag = true → (q = 1 → ea.tag = tNarrow ∨ tag = tNarrow) →
    ∀ p ∈ [(Instr.vcvt, false), (Instr.vcvts, true)],
      (q = 1 ∨ ea.tag = tag ∨ (ea.tag ≠ tNarrow ∧ tag ≠ tNarrow) →
        (let ws := tagWidth ea.tag
         let l := processedTo s (countBetween s ws (tagWidth tag)) pr
         let res := fun i => convertOne s p.2 q ea.tag tag (elem ws ea.data i)
         startOf s < countBetween s ws (tagWidth tag) → quiet s res l →
           Yields (p.1 d a q tag pr) s (fun t => WroteAs (zeroCode tag (decide (q = 1))) u t d l tag res)))
      ∧ (q = 0 → ea.tag = tNarrow → tag ≠ tNarrow →
        (let n := Nat.min (s.ctx.vl.toNat % 2 ^ 11) (8192 / (2 * tagWidth tag))
         let l := (processedTo s n pr).flatMap (fun i => [2 * i, 2 * i + 1])
         let res := fun i => convertOne s p.2 q ea.tag tag (elem 4 ea.data i)
         startOf s < n → quiet s res l → Yields (p.1 d a q tag pr) s (fun t => WroteAs (zeroCode tag (decide (q = 1))) u t d l tag res)))
      ∧ (q = 0 → tag = tNarrow → ea.tag ≠ tNarrow →
        (let w := tagWidth ea.tag
         let n := Nat.min (s.ctx.vl.toNat % 2 ^ 11) (8192 / (2 * w))
         let l := processedTo s n pr
         let one := fun i => convertOne s p.2 q ea.tag tag (elem w ea.data i)
         let res := fun i => ((one (2 * i)).1 + 16 * (one (2 * i + 1)).1, (one (2 * i)).2.and (one (2 * i + 1)).2)
         startOf s < n → quiet s res l → Yields (p.1 d a q tag pr) s (fun t => WroteAs (zeroCode tag (decide (q = 1))) u t d l tag res))))
  ∧ (∀ (d a : BitVec 6) (tag : BitVec 5) (s u : State) (ea : Entry), ready1 s d a ea u → tag.toNat ≤ 0x12 →
    Yields (.vretag d a tag) s (fun t => t = u.putRef (u.vref d) { tag := tag, data := ea.data, poison := false }))
  ∧ (∀ (d a : BitVec 6) (pr : BitVec 3) (s u : State) (ea : Entry), ready1 s d a ea u →
    startOf s < countOf s (tagWidth ea.tag) → wideTag ea.tag = true →
    (∀ i ∈ processed s (tagWidth ea.tag) pr, finite ((tagFmt ea.tag).ieeeValue (elem (tagWidth ea.tag) ea.data i)) = true) →
    ∃ res : Nat → Nat × Fx,
      (∀ i ∈ processed s (tagWidth ea.tag) pr,
        (let v := (tagFmt ea.tag).ieeeValue (elem (tagWidth ea.tag) ea.data i)
         let v' := (tagFmt ea.tag).ieeeValue (res i).1
         finite v' = true ∧ ratOf v' = integralOf s.ctx.rm (ratOf v) ∧ v'.sign = v.sign
           ∧ (res i).2 = (if ratOf v' = ratOf v then Fx.none else Fx.nx)))
      ∧ (quiet s res (processed s (tagWidth ea.tag) pr) →
          Yields (.vround d a pr) s (fun t => WroteV s u t d pr ea.tag res)))
  ∧ (∀ (d a : BitVec 6) (pr : BitVec 3) (s u : State) (ea : Entry), ready1 s d a ea u →
    startOf s < countOf s (tagWidth ea.tag) → (wideTag ea.tag = true ∨ slashTagOk ea.tag = true) → untrapped s →
    Yields (.vround d a pr) s (fun t => ∃ res, WroteV s u t d pr ea.tag res))

/-- R222: `vpack` narrows two entries into one and `vunpack` widens half of one, by the partner table, with VSTART left
out of account, where no flag that they record is enabled; with an enabled one they trap ARITH, write nothing and set
VSTART to 0; a tag without a partner traps TAG_MISMATCH. VSTART is 0 after either. -/
def Obligations.PackAndUnpackFollowThePartnerTable : Prop :=
  ∀ (d a b : BitVec 6) (pr : BitVec 3) (s u : State) (ea : Entry), s.takeV a = .ok (ea, u) →
    (∀ (eb : Entry) (v : State), u.takeV b = .ok (eb, v) →
      (∀ p ∈ partners, ea.tag.toNat = p.1 → eb.tag = ea.tag → v.checkRef (v.vref d) = .ok () → v.checkRoom (v.vref d) = .ok () →
        (let dt := BitVec.ofNat 5 p.2
         let w := tagWidth ea.tag
         let half := vlmaxOf w
         let l := chosenTo s (countOf s w) pr
         let res := fun i => packedOne s ea.tag dt (elem w (if i < half then ea else eb).data (i % half))
         let all := l ++ l.map (fun i => half + i)
         (¬ enabledIn s (totalFx res all) → Yields (.vpack d a b pr) s (fun t => WroteOn v t d all dt res))
         ∧ (enabledIn s (totalFx res all) → s.ctx.live = [] → s.ctx.resume = false → Yields (.vpack d a b pr) s (fun t =>
             Trapped s t 0x09 ((totalFx res all).flags.zeroExtend 64) ∧ t.ctx.vstart = 0 ∧ t.core.lane = s.core.lane))))
      ∧ ((∀ p ∈ partners, ea.tag.toNat ≠ p.1) → Yields (.vpack d a b pr) s (fun t =>
          Trapped s t 0x04 (word ea.tag.toNat))))
    ∧ (∀ p ∈ partners, ea.tag.toNat = p.2 → u.checkRef (u.vref d) = .ok () → u.checkRoom (u.vref d) = .ok () →
      (let dt := BitVec.ofNat 5 p.1
       let w := tagWidth dt
       let l := chosenTo s (countOf s w) pr
       let res := fun i => packedOne s ea.tag dt
         (elem (tagWidth ea.tag) ea.data ((s.gr b).toNat % 2 * vlmaxOf w + i))
       ¬ enabledIn s (totalFx res l) → Yields (.vunpack d a b pr) s (fun t => WroteOn u t d l dt res)))

/-- R223, R227 and R228, outside a gang: `vqnt` and `vbqnt` quantise against the scale of each element's block, from vb or
from the latch, and `vdeq` gives the value back, under the tag that vd or the code names. -/
def Sys2Proof.Claims.BlockScalesQuantiseAndRestore : Prop :=
  (∀ (d a b : BitVec 6) (pr : BitVec 3) (s s1 u : State) (ea eb : Entry) (e : Nat), s.vref d = .entry e →
    s.checkRef (.entry e) = .ok () → s.takeV a = .ok (ea, s1) → s1.takeV b = .ok (eb, u) → eb.tag = tE8M0 →
    (let dt := (s.entry e).tag
     let ws := tagWidth ea.tag
     let l := processedTo s (countBetween s ws (tagWidth dt)) pr
     (startOf s < countBetween s ws (tagWidth dt) → wideTag ea.tag = true → (dt.toNat = 0x08 ∨ dt.toNat = 0x09) →
       (let res := fun i => scaledCode s false dt (valueOf ea.tag false (elem ws ea.data i)).1 (elem 8 eb.data (i / 32))
        quiet s res l → Yields (.vqnt d a b pr) s (fun t => WroteOn u t d l dt res)))
     ∧ (wideTag ea.tag = true → dt = tNarrow →
       (let n := Nat.min (s.ctx.vl.toNat % 2 ^ 11) (8192 / (2 * ws))
        let one := fun i => scaledCode s false dt (valueOf ea.tag false (elem ws ea.data i)).1 (elem 8 eb.data (i / 32))
        let res := fun i => ((one (2 * i)).1 + 16 * (one (2 * i + 1)).1, (one (2 * i)).2.and (one (2 * i + 1)).2)
        startOf s < n → quiet s res (processedTo s n pr) →
          Yields (.vqnt d a b pr) s (fun t => WroteOn u t d (processedTo s n pr) dt res)))
     ∧ (ea.tag = tNarrow → wideTag dt = true →
       (let n := Nat.min (s.ctx.vl.toNat % 2 ^ 11) (8192 / (2 * tagWidth dt))
        let l := (processedTo s n pr).flatMap (fun i => [2 * i, 2 * i + 1])
        let res := fun i => roundTo dt false (mxValue (valueOf ea.tag false (elem 4 ea.data i)).1 (elem 8 eb.data (i / 32)))
          s.ctx.rm (s.ctx.acr.getLsbD 4)
        startOf s < n → quiet s res l → Yields (.vdeq d a b pr) s (fun t => WroteOn u t d l dt res)))
     ∧ (startOf s < countBetween s ws (tagWidth dt) → (ea.tag.toNat = 0x08 ∨ ea.tag.toNat = 0x09) → wideTag dt = true →
       (let res := fun i => roundTo dt false (mxValue (valueOf ea.tag false (elem ws ea.data i)).1 (elem 8 eb.data (i / 32)))
          s.ctx.rm (s.ctx.acr.getLsbD 4)
        quiet s res l → Yields (.vdeq d a b pr) s (fun t => WroteOn u t d l dt res)))))
  ∧ (∀ (d a : BitVec 6) (q : BitVec 1) (tag : BitVec 5) (pr : BitVec 3) (s u : State) (ea : Entry), ready1 s d a ea u →
    s.ctx.team.getLsbD 10 = false → wideTag ea.tag = true → (s.pkg.mgmt.level = 2 → s.ctx.live = []) →
    (let ws := tagWidth ea.tag
     let l := processedTo s (countBetween s ws (tagWidth tag)) pr
     (startOf s < countBetween s ws (tagWidth tag) → (tag = tNarrow ∧ q = 1 ∨ (tag.toNat = 0x08 ∨ tag.toNat = 0x09) ∧ q = 0) →
     (let res := fun i => scaledCode s (decide (q = 1)) tag (valueOf ea.tag false (elem ws ea.data i)).1
        (s.ctx.latch.extractLsb' (8 * (i / 32)) 8).toNat
      quiet s res l → Yields (.vbqnt d a q tag pr) s (fun t => WroteAs (zeroCode tag (decide (q = 1))) u t d l tag res)))
     ∧ (tag = tNarrow → q = 0 →
       (let n := Nat.min (s.ctx.vl.toNat % 2 ^ 11) (8192 / (2 * ws))
        let one := fun i => scaledCode s false tag (valueOf ea.tag false (elem ws ea.data i)).1
          (s.ctx.latch.extractLsb' (8 * (i / 32)) 8).toNat
        let res := fun i => ((one (2 * i)).1 + 16 * (one (2 * i + 1)).1, (one (2 * i)).2.and (one (2 * i + 1)).2)
        startOf s < n → quiet s res (processedTo s n pr) →
          Yields (.vbqnt d a q tag pr) s (fun t => WroteAs 0 u t d (processedTo s n pr) tag res)))))

/-- R226, R227 and R229, outside a gang: `vbamax` posts one result at issue + G + 3 with the scale code of each block that
holds an active element, for vd and the latch, and with the flags of those codes; `vbscale` writes the scale code of each
processed element's magnitude and posts the latch write of those below 32. -/
def Sys2Proof.Claims.BlockMaximaPostTheirCodes : Prop :=
  ∀ (d a : BitVec 6) (q : BitVec 1) (tag : BitVec 5) (pr : BitVec 3) (s u : State) (ea : Entry), ready1 s d a ea u →
    s.ctx.team.getLsbD 10 = false → wideTag ea.tag = true → narrowTag tag = true → (q = 1 → tag = tNarrow) →
    (let w := tagWidth ea.tag
     let n := Nat.min (s.ctx.vl.toNat % 2 ^ 11) (8192 / w)
     let act := chosenTo s n pr
     let blocks := (List.range 32).filter (fun b => act.any (fun i => decide (i / 32 = b)))
     let mag := fun i => (valueOf ea.tag false (elem w ea.data i)).1.abs
     let g := max 1 ((n * w + 1023) / 1024)
     (act = [] → Yields (.vbamax d a q tag pr) s (fun t => t = { u with ctx := { u.ctx with vstart := 0 } }))
     ∧ (act ≠ [] → (∀ i ∈ act, finite (mag i) = true) → ∃ (big : Nat → Nat) (r : Shadow),
         (∀ b ∈ blocks, big b ∈ act ∧ big b / 32 = b ∧ ∀ i ∈ act, i / 32 = b → ratOf (mag i) ≤ ratOf (mag (big b)))
         ∧ r.at_ = s.core.clock + g + 3 ∧ r.tag = tE8M0
         ∧ r.kind = (match u.vref d with | .entry e => ShadowKind.bamax e | .queue k => .bamaxQueue k)
         ∧ (∀ j, j < 32 → r.lmask.getLsbD j = decide (j ∈ blocks))
         ∧ (∀ b ∈ blocks, elem 8 r.data b = (mxScale (mag (big b)) (topOf q tag)).1 % 256
              ∧ r.codes.extractLsb' (8 * b) 8 = BitVec.ofNat 8 (mxScale (mag (big b)) (topOf q tag)).1)
         ∧ r.flags = (totalFx (fun b => mxScale (mag (big b)) (topOf q tag)) blocks).flags
         ∧ Yields (.vbamax d a q tag pr) s (fun t =>
             t = { u with ctx := { u.ctx with live := u.ctx.live ++ [r], vstart := 0 } })))
    ∧ (let w := tagWidth ea.tag
       let n := Nat.min (s.ctx.vl.toNat % 2 ^ 11) (8192 / w)
       let l := processedTo s n pr
       let res := fun i => mxScale (valueOf ea.tag false (elem w ea.data i)).1.abs (topOf q tag)
       startOf s < n → quiet s res l → ∃ r : Shadow, r.kind = .bscale
         ∧ r.at_ = s.core.clock + max 1 (((n - startOf s) * w + 1023) / 1024) + 3 ∧ r.flags = 0
         ∧ (∀ j, j < 32 → r.lmask.getLsbD j = decide (j ∈ selectedTo s n pr)
              ∧ (j ∈ selectedTo s n pr → r.codes.extractLsb' (8 * j) 8 = BitVec.ofNat 8 (res j).1))
         ∧ Yields (.vbscale d a q tag pr) s (fun t => ∃ m, WroteOn u m d l tE8M0 res
             ∧ t = { m with ctx := { m.ctx with live := m.ctx.live ++ [r] } }))

/-- R223, R227 and R228, outside a gang: `vqnt` and `vbqnt` quantise against the scale of each element's block, from
vb or from the latch, and `vdeq` gives the value back, under the tag that vd or the code names. R226, R227 and R229,
outside a gang: `vbamax` posts one result at issue + G + 3 with the scale code of each block that holds an active
element, for vd and the latch, and with the flags of those codes; `vbscale` writes the scale code of each processed
element's magnitude and posts the latch write of those below 32. -/
def Obligations.BlockScalesAndMaximaFollowTheirCodes : Prop :=
  Claims.BlockScalesQuantiseAndRestore ∧ Claims.BlockMaximaPostTheirCodes


/-- R230: the packed dot products add the exact sum of their products to each element of vd: four products of bytes into
an I32, saturated once with SAT, and two products of 16-bit floats into an F32, rounded once, for finite elements; with
no trap enabled the latter always completes. -/
def Obligations.PackedDotProductsRoundOnce : Prop :=
  ∀ (d a b : BitVec 6) (pr : BitVec 3) (s s1 u v : State) (ea eb ed : Entry), s.takeV a = .ok (ea, s1) →
    s1.takeV b = .ok (eb, u) → u.takeV d = .ok (ed, v) → v.checkRoom (v.vref d) = .ok () → startOf s < countOf s 32 →
    ((ea.tag.toNat = 1 ∨ ea.tag.toNat = 2) → (eb.tag.toNat = 1 ∨ eb.tag.toNat = 2) → ed.tag = tI32 →
      (let x := fun i => readInt true 32 (elem 32 ed.data i) + ((List.range 4).map (fun k =>
         readInt (signedTag ea.tag) 8 (elem 8 ea.data (4 * i + k)) * readInt (signedTag eb.tag) 8 (elem 8 eb.data (4 * i + k)))).sum
       let res := fun i => (wrapTo 32 (clampTo tI32 (x i)), if clampTo tI32 (x i) = x i then Fx.none else Fx.satF)
       quiet s res (processed s 32 pr) → Yields (.vdot4s d a b pr) s (fun t => WroteV s v t d pr tI32 res)))
    ∧ ((ea.tag = tBF16 ∨ ea.tag = tF16) → (eb.tag = tBF16 ∨ eb.tag = tF16) → ed.tag = tF32 →
      (let va := fun i => (tagFmt ea.tag).ieeeValue (elem 16 ea.data i)
       let vb := fun i => (tagFmt eb.tag).ieeeValue (elem 16 eb.data i)
       let vd := fun i => fmtF32.ieeeValue (elem 32 ed.data i)
       (∀ i ∈ processed s 32 pr, finite (vd i) = true ∧ ∀ k, k < 2 → finite (va (2 * i + k)) = true ∧ finite (vb (2 * i + k)) = true) →
       ∃ res : Nat → Nat × Fx,
         (∀ i ∈ processed s 32 pr, ∃ y : Val, finite y = true
           ∧ ratOf y = ratOf (vd i) + ratOf (va (2 * i)) * ratOf (vb (2 * i)) + ratOf (va (2 * i + 1)) * ratOf (vb (2 * i + 1))
           ∧ res i = roundIeee fmtF32 y s.ctx.rm)
         ∧ (quiet s res (processed s 32 pr) → Yields (.vdot2f d a b pr) s (fun t => WroteV s v t d pr tF32 res))))
    ∧ ((ea.tag = tBF16 ∨ ea.tag = tF16) → (eb.tag = tBF16 ∨ eb.tag = tF16) → ed.tag = tF32 → untrapped s →
      Yields (.vdot2f d a b pr) s (fun t => ∃ res, WroteV s v t d pr tF32 res))

/-- R231 to R234: the slash vectors, whatever ACR.RAT holds: arithmetic as the FPU forms on slash codes, the mediant
of two pairs in lowest terms, conversion under a bound, the canonical form, and the comparison of values; with no trap
enabled each completes whatever its elements hold. -/
def Obligations.SlashVectorsFollowTheirForms : Prop :=
  (∀ (d a b : BitVec 6) (pr : BitVec 3) (s u : State) (ea eb : Entry), ready2 s d a b ea eb u →
    startOf s < countOf s (tagWidth ea.tag) → slashTagOk ea.tag = true → eb.tag = ea.tag →
    (let w := tagWidth ea.tag
     let l := processed s w pr
     let x := fun i => elem w ea.data i
     let y := fun i => elem w eb.data i
     (∀ p ∈ slashForms, (let res := fun i => p.2 s.ctx.rm ea.tag (x i) (y i)
        quiet s res l → Yields (p.1 d a b pr) s (fun t => WroteV s u t d pr ea.tag res)))
     ∧ (∃ res : Nat → Nat × Fx,
         (∀ i ∈ l, ∀ pa qa pb qb, pairOf (slashRead ea.tag (x i)).1 pa qa → pairOf (slashRead ea.tag (y i)).1 pb qb →
           0 < qa + qb → ∃ m : Val, finite m = true ∧ ratOf m = (pa + pb : Rat) / (qa + qb) ∧ ∃ k,
             slashRound (decide (ea.tag.toNat = 0x10)) m s.ctx.rm = ((res i).1, k)
               ∧ (res i).2 = ((slashRead ea.tag (x i)).2.and (slashRead ea.tag (y i)).2).and k.1)
         ∧ (quiet s res l → Yields (.vslmed d a b pr) s (fun t => WroteV s u t d pr ea.tag res)))
     ∧ (let res := fun i =>
          let p := (slashRead ea.tag (x i)).1
          let q := (slashRead ea.tag (y i)).1
          let c : Int := if p = .nar ∨ q = .nar then -(2 ^ (w - 1)) else if p.lt q then -1 else if q.lt p then 1 else 0
          (wrapTo w c, (slashRead ea.tag (x i)).2.and (slashRead ea.tag (y i)).2)
        quiet s res l → Yields (.vslcmp d a b pr) s (fun t =>
          WroteV s u t d pr (if ea.tag.toNat = 0x10 then tI64 else tI32) res))
     ∧ (untrapped s →
        (∀ f ∈ [Instr.vsladd, .vslsub, .vslmul, .vsldiv, .vslmed], Yields (f d a b pr) s (fun t =>
          ∃ res, WroteV s u t d pr ea.tag res))
        ∧ Yields (.vslcmp d a b pr) s (fun t => ∃ res, WroteV s u t d pr (if ea.tag.toNat = 0x10 then tI64 else tI32) res))))
  ∧ (∀ (d a b : BitVec 6) (pr : BitVec 3) (s u : State) (ea : Entry), ready1 s d a ea u →
    (slashTagOk ea.tag = true → startOf s < countOf s (tagWidth ea.tag) →
      ∃ res : Nat → Nat × Fx,
        (∀ i ∈ processed s (tagWidth ea.tag) pr,
          (slashRead ea.tag (res i).1).1.eqv (slashRead ea.tag (elem (tagWidth ea.tag) ea.data i)).1 = true
            ∨ ((slashRead ea.tag (res i).1).1 = .nar ∧ (slashRead ea.tag (elem (tagWidth ea.tag) ea.data i)).1 = .nar))
        ∧ (quiet s res (processed s (tagWidth ea.tag) pr) →
            Yields (.vslcanon d a pr) s (fun t => WroteV s u t d pr ea.tag res))
        ∧ (untrapped s → Yields (.vslcanon d a pr) s (fun t => WroteV s u t d pr ea.tag res)))
    ∧ (∀ p ∈ [(0x0B, 0x0F), (0x0C, 0x0F), (0x0D, 0x0F), (0x0F, 0x0F), (0x0E, 0x10), (0x10, 0x10)], ea.tag.toNat = p.1 →
      (let dt := BitVec.ofNat 5 p.2
       let ws := tagWidth ea.tag
       let l := processedTo s (countBetween s ws (tagWidth dt)) pr
       let res := fun i =>
         let v := valueOf ea.tag false (elem ws ea.data i)
         let r := slashRoundB (decide (p.2 = 0x10)) (s.gr b).toNat v.1 s.ctx.rm
         (r.1, v.2.and r.2.1)
       startOf s < countBetween s ws (tagWidth dt) → (quiet s res l ∨ untrapped s) →
         Yields (.vslcvt d a b pr) s (fun t => WroteOn u t d l dt res))))
/-! ### Scalar memory (R176 to R183, R279, R280, R290) -/

namespace Sys2Proof.Claims

/-- R13: n bytes of physical memory from pa on, the byte at the lowest address least significant. -/
def littleAt (p : Pkg) (pa n : Nat) : Nat := ((List.range n).map (fun i => (p.mem.read (pa + i)).toNat * 256 ^ i)).sum

/-- `p` is `q` with the low n bytes of x at pa and every other byte as it was. -/
def StoredAt (q p : Pkg) (pa n x : Nat) : Prop :=
  ∀ a, p.mem.read a = if pa ≤ a ∧ a < pa + n then BitVec.ofNat 8 (x / 256 ^ (a - pa)) else q.mem.read a

/-- R51: the address of an access of n bytes whose offset counts such accesses. -/
def addressOf (s : State) (a : BitVec 6) (off : Imm 9) (n : Nat) : Word := s.gr a + imm64 off * BitVec.ofNat 64 n

/-- The loads of R177 with their sizes and whether they extend the sign. -/
def loadForms : List ((BitVec 6 → BitVec 6 → Imm 9 → Instr) × Nat × Bool) :=
  [(.ldb, 1, true), (.ldh, 2, true), (.ldw, 4, true), (.ldd, 8, false), (.ldbn, 1, false), (.ldhn, 2, false), (.ldwn, 4, false)]
def storeForms : List ((BitVec 6 → BitVec 6 → Imm 9 → Instr) × Nat) := [(.stb, 1), (.sth, 2), (.stw, 4), (.std, 8)]
/-- The scoped forms of R180 with their sizes. -/
def acquireForms : List ((BitVec 6 → BitVec 6 → BitVec 3 → Instr) × Nat) :=
  [(.ldacqb, 1), (.ldacqh, 2), (.ldacqw, 4), (.ldacqd, 8)]
def releaseForms : List ((BitVec 6 → BitVec 6 → BitVec 3 → Instr) × Nat) :=
  [(.strelb, 1), (.strelh, 2), (.strelw, 4), (.streld, 8)]

/-- R181: the atomics with the value each leaves, from the old value, g[b] and g[d]; those that carry a scope, and the
relaxed. -/
def atomicOps : List (Word → Word → Word) :=
  [ fun _ b => b, fun o b => o + b, fun o b => o &&& b, fun o b => o ||| b, fun o b => o ^^^ b,
    fun o b => if o.toInt < b.toInt then b else o, fun o b => if b.toInt < o.toInt then b else o,
    fun o b => if o.toNat < b.toNat then b else o ]
def amoForms : List (BitVec 6 → BitVec 6 → BitVec 6 → BitVec 3 → Instr) :=
  [.amoswap, .amoadd, .amoand, .amoor, .amoxor, .amomax, .amomin, .amomaxn]
def amorForms : List (BitVec 6 → BitVec 6 → BitVec 6 → BitVec 3 → Instr) :=
  [.amorswap, .amoradd, .amorand, .amoror, .amorxor, .amormax, .amormin, .amormaxn]

/-- No request of the running pair is under way (assumption 73). -/
def Idle (s : State) : Prop := s.underWay .load = none ∧ s.underWay .atomic = none

/-- The access to n bytes at `va` is aligned, translates as `tr` in the state `u`, whose translation caches and page
tables alone differ from `s`, and nothing holds it up (R176, R204, R338). -/
def Reached (s u : State) (va : Word) (n : Nat) (k : Acc) (tr : Trans) : Prop :=
  va.toNat % n = 0 ∧ s.translate .l1 va.toNat k = .ok (tr, u) ∧ s.interlocked va.toNat n (k != .read) = false ∧ Idle s

/-- The same for an access that its memory type permits, whose home is the strand's own die, which has delivered what
the strand knows of (R278, R333, R334). -/
def OwnAccess (s u : State) (va : Word) (n : Nat) (k : Acc) (tr : Trans) : Prop :=
  Reached s u va n k tr ∧ tr.tlb.mt ≤ 2 ∧ u.pkg.homeOf tr.pa = some s.core.die ∧ u.pkg.knows s.core.die s.core.knotv = true

/-- R252: `q` is `p` but for the retention of SRAM banks. -/
def SameButBanks (p q : Pkg) : Prop :=
  q = { p with dies := q.dies }
  ∧ ∀ d : Nat, q.die d = { p.die d with retaining := (q.die d).retaining, waking := (q.die d).waking, touched := (q.die d).touched }

/-- R293: `q` is `p` but for who has observed the entries of the forwarding buffers. -/
def SameButSeen (p q : Pkg) : Prop :=
  q = { p with fwd := q.fwd }
  ∧ ∀ cl : Nat, (q.buffer cl).map (fun e => { e with seen := [] }) = (p.buffer cl).map (fun e => { e with seen := [] })

/-- `t` is `u` after a read: of the core only the scalar data cache and the late replies may differ (R252), of the
package only the retention of banks and who has observed what. -/
def AsRead (u t : State) : Prop :=
  t.core = { u.core with cache := t.core.cache, freeze := { u.core.freeze with later := t.core.freeze.later } }
  ∧ ∃ p, SameButBanks u.pkg p ∧ SameButSeen p t.pkg

/-- `t` is `u` after a read with g[d] := v. -/
def LoadedG (u t : State) (d : BitVec 6) (v : Word) : Prop :=
  t = { u with ctx := { u.ctx with g := t.ctx.g }, core := t.core, pkg := t.pkg } ∧ AsRead u t
  ∧ t.gr d = (if d = 0 then 0 else v) ∧ ∀ r, r ≠ d → t.gr r = u.gr r

/-- `t` is `u` after a store: memory, its poison and a running snapshot, the scalar data cache and the retention of banks
alone may differ. -/
def AsStored (u t : State) : Prop :=
  t = { u with core := { u.core with cache := t.core.cache }, pkg := t.pkg, ctx := t.ctx }
  ∧ SameButBanks { u.pkg with mem := t.pkg.mem, poisoned := t.pkg.poisoned, snap := t.pkg.snap } t.pkg

/-- R280 and R290: what an acquire by mechanism m leaves: from core scope on, no line of the context in the scalar data
cache; from package scope on, KNOTV at or past each counter of `raised`. All else stays but who has observed what. -/
def Acquired (u t : State) (m : Nat) (raised : List (Nat × BitVec 12)) : Prop :=
  t = { u with core := { u.core with cache := t.core.cache, knotv := t.core.knotv }, pkg := t.pkg }
  ∧ SameButSeen u.pkg t.pkg
  ∧ (m = 0 → t = u)
  ∧ (1 ≤ m → ∀ l, l ∈ t.core.cache ↔ (l ∈ u.core.cache ∧ l.bank ≠ u.ctx.bank))
  ∧ (m < 5 → t.core.knotv = u.core.knotv)
  ∧ (5 ≤ m → t.core.knotv = Knot.raiseAll u.core.knotv raised)

/-- The bytes of a load's address are known from the forwarding buffer as `x` gives them (R277). -/
def Forwarded (u : State) (pa n : Nat) (x : Nat → Nat) : Prop :=
  ∀ i, i < n → ∃ b : Byte, b.toNat = x i ∧ assoc (pa + i) (u.pkg.overlay (clusterOf u.coreNo) pa n) = some (b, 0xFF)

end Sys2Proof.Claims

/-- R176 and R177: a load whose home is its own die writes the bytes at its address, sign- or zero-extended, to g[d] and
changes nothing else but the scalar data cache; a load that hits a line of the cache writes the line's bytes, and one
from another die whose bytes the forwarding buffer holds whole writes the newest of them (R277). -/
def Sys2Proof.Claims.ScalarLoadsReadTheirBytes : Prop :=
  ∀ p ∈ loadForms, ∀ (d a : BitVec 6) (off : Imm 9) (s u : State) (tr : Trans),
    let at_ := addressOf s a off p.2.1
    let value := fun x : Nat => wordI (readInt p.2.2 (8 * p.2.1) x)
    (OwnAccess s u at_ p.2.1 .read tr → (tr.tlb.mt = 0 → isHbm tr.pa = true → u.cacheLine tr.pa = none) →
      u.pkg.overlay (clusterOf s.coreNo) tr.pa p.2.1 = [] → u.pkg.poisonIn tr.pa p.2.1 = [] →
      Yields (p.1 d a off) s (fun t => LoadedG u t d (value (littleAt u.pkg tr.pa p.2.1))))
    ∧ (∀ l : CacheLine, Reached s u at_ p.2.1 .read tr → tr.tlb.mt = 0 → isHbm tr.pa = true →
      u.cacheLine tr.pa = some l → Yields (p.1 d a off) s (fun t => WroteG u t d
        (value (l.data.extractLsb' (8 * (tr.pa % 64)) (8 * p.2.1)).toNat)))
    ∧ (∀ (h : Nat) (x : Nat → Nat), Reached s u at_ p.2.1 .read tr → tr.tlb.mt ≤ 3 → u.pkg.homeOf tr.pa = some h →
      h ≠ s.core.die → (tr.tlb.mt = 0 → isHbm tr.pa = true → u.cacheLine tr.pa = none) → Forwarded u tr.pa p.2.1 x →
      Yields (p.1 d a off) s (fun t => LoadedG u t d (value (((List.range p.2.1).map (fun i => x i * 256 ^ i)).sum))))

/-- R177, R277 and R294: a store to its own die, which has delivered what the strand knows, from a strand with no
releasing fence pending and no buffered byte of the address, writes the low bytes of g[d] there, the byte at the lowest
address least significant, and every other byte of memory and every register keeps its value; any other store enters
the forwarding buffer of its cluster as its newest entry, behind the strand's fences, and leaves memory. -/
def Sys2Proof.Claims.ScalarStoresWriteTheirBytes : Prop :=
  ∀ p ∈ storeForms, ∀ (d a : BitVec 6) (off : Imm 9) (s u : State) (tr : Trans),
    let at_ := addressOf s a off p.2
    (OwnAccess s u at_ p.2 .write tr → u.pkg.overlay (clusterOf s.coreNo) tr.pa p.2 = [] → s.ctx.fences = [] → Inv u →
      Yields (p.1 d a off) s (fun t => StoredAt u.pkg t.pkg tr.pa p.2 (s.gr d).toNat ∧ t.ctx = s.ctx ∧ AsStored u t))
    ∧ (∀ h : Nat, Reached s u at_ p.2 .write tr → tr.tlb.mt ≤ 3 → u.pkg.homeOf tr.pa = some h →
      (h ≠ s.core.die ∨ s.ctx.fences ≠ [] ∨ u.pkg.knows h s.core.knotv = false
        ∨ u.pkg.overlay (clusterOf s.coreNo) tr.pa p.2 ≠ []) →
      Yields (p.1 d a off) s (fun t => t.pkg = { u.pkg with fwd := t.pkg.fwd } ∧ t.ctx = s.ctx
        ∧ t.core = { u.core with cache := t.core.cache }
        ∧ (∀ cl, cl ≠ clusterOf s.coreNo → t.pkg.buffer cl = u.pkg.buffer cl)
        ∧ ∃ e : FwdEntry, t.pkg.buffer (clusterOf s.coreNo) = u.pkg.buffer (clusterOf s.coreNo) ++ [e]
          ∧ e.core = s.coreNo ∧ e.bank = s.ctx.bank ∧ e.home = h ∧ e.fences = s.ctx.fences.length
          ∧ e.bytes = (List.range p.2).map (fun i => (tr.pa + i, BitVec.ofNat 8 ((s.gr d).toNat / 256 ^ i)))))

/-- R176 and R177: a load whose home is its own die writes the bytes at its address, sign- or zero-extended, to g[d]
and changes nothing else but the scalar data cache; a load that hits a line of the cache writes the line's bytes, and
one from another die whose bytes the forwarding buffer holds whole writes the newest of them (R277). R177, R277 and
R294: a store to its own die, which has delivered what the strand knows, from a strand with no releasing fence pending
and no buffered byte of the address, writes the low bytes of g[d] there, the byte at the lowest address least
significant, and every other byte of memory and every register keeps its value; any other store enters the forwarding
buffer of its cluster as its newest entry, behind the strand's fences, and leaves memory. -/
def Obligations.ScalarLoadsAndStoresMoveTheirBytes : Prop :=
  Claims.ScalarLoadsReadTheirBytes ∧ Claims.ScalarStoresWriteTheirBytes


/-- R177, R181, R338 and R346: an address of a load, a store, a scoped access or an atomic that is not a multiple of
the size traps MISALIGNED; an aligned one outside the 56 bits of virtual addresses traps TRANSLATION, and one whose
translation denies the access traps PERMISSION; EVAL is the address, and no register of the program is written. -/
def Obligations.MemoryAccessesTrapAtTheirAddress : Prop :=
  ∀ (d a b : BitVec 6) (off : Imm 9) (sc : BitVec 3) (s : State),
    let l := loadForms.map (fun p => (p.1 d a off, addressOf s a off p.2.1, p.2.1, Acc.read))
      ++ storeForms.map (fun p => (p.1 d a off, addressOf s a off p.2, p.2, Acc.write))
      ++ acquireForms.map (fun p => (p.1 d a sc, s.gr a, p.2, Acc.read))
      ++ releaseForms.map (fun p => (p.1 d a sc, s.gr a, p.2, Acc.write))
      ++ (amoForms ++ amorForms ++ [Instr.cas]).map (fun f => (f d a b sc, s.gr a, 8, Acc.rmw))
    ∀ x ∈ l,
      (x.2.1.toNat % x.2.2.1 ≠ 0 → Yields x.1 s (fun t => Trapped s t 0x05 x.2.1))
      ∧ (x.2.1.toNat % x.2.2.1 = 0 → Idle s → 2 ^ 56 ≤ x.2.1.toNat → Yields x.1 s (fun t =>
          t.ctx.ecause = 0x06 ∧ t.ctx.eval = x.2.1 ∧ t.ctx.epc = s.pairAddr ∧ t.npc = s.ctx.tvec + 384
          ∧ t.pkg.mem = s.pkg.mem ∧ t.ctx.f = s.ctx.f ∧ t.ctx.p = s.ctx.p ∧ ∀ r, r ≠ 62 → t.gr r = s.gr r))
      ∧ (x.2.1.toNat % x.2.2.1 = 0 → Idle s → s.translate .l1 x.2.1.toNat x.2.2.2 = .error .denied →
          Yields x.1 s (fun t => Trapped s t 0x07 x.2.1))

/-- R180 and R290: an acquiring load whose home is its own die loads with zero extension and then acquires at the
scope; a releasing store releases at the scope and then stores, both with the mechanism of their scope. -/
def Sys2Proof.Claims.ScopedAccessesReleaseAndAcquire : Prop :=
  (∀ p ∈ acquireForms, ∀ (d a : BitVec 6) (sc : BitVec 3) (s u : State) (tr : Trans),
    OwnAccess s u (s.gr a) p.2 .read tr → u.pkg.overlay (clusterOf s.coreNo) tr.pa p.2 = [] →
    u.pkg.poisonIn tr.pa p.2 = [] → Yields (p.1 d a sc) s (fun t => ∃ m,
      LoadedG u m d (word (littleAt u.pkg tr.pa p.2)) ∧ Acquired m t (m.mechanism sc.toNat) (u.pkg.vOf s.core.die)))
  ∧ (∀ p ∈ releaseForms, ∀ (d a : BitVec 6) (sc : BitVec 3) (s u r : State) (tr : Trans),
    OwnAccess s u (s.gr a) p.2 .write tr → u.release sc.toNat = .ok r → r.pkg.knows s.core.die r.core.knotv = true →
    r.pkg.overlay (clusterOf s.coreNo) tr.pa p.2 = [] → Inv r →
    Yields (p.1 d a sc) s (fun t => StoredAt r.pkg t.pkg tr.pa p.2 (s.gr d).toNat ∧ t.ctx = { s.ctx with fences := [] }
      ∧ AsStored r t))

/-- R181, on a doubleword whose home is the strand's own die: an AMO releases at its scope, reads the doubleword, writes
its new value there in the same step, puts the old value in g[d] and acquires at its scope; an AMOR form does so once
the strand's releasing fences have taken effect, without release and acquire; `cas` writes g[b] exactly where the old
value is g[d]. -/
def Sys2Proof.Claims.AtomicsActOnceAtTheirHome : Prop :=
  ∀ (d a b : BitVec 6) (sc : BitVec 3) (s u r : State) (tr : Trans), OwnAccess s u (s.gr a) 8 .rmw tr →
    u.pkg.poisonedAt tr.pa 8 = false → u.pkg.overlay (clusterOf s.coreNo) tr.pa 8 = [] →
    r.pkg.overlay (clusterOf s.coreNo) tr.pa 8 = [] → r.pkg.knows s.core.die r.core.knotv = true → Inv r →
    (let old := word (littleAt r.pkg tr.pa 8)
     let after (new : Word) (m : State) : Prop := StoredAt r.pkg m.pkg tr.pa 8 new.toNat ∧ AsStored r m
       ∧ m.ctx = { s.ctx with g := m.ctx.g, fences := [] } ∧ m.gr d = (if d = 0 then 0 else old)
       ∧ ∀ k, k ≠ d → m.gr k = s.gr k
     (u.release sc.toNat = .ok r →
       (∀ p ∈ List.zip amoForms atomicOps, Yields (p.1 d a b sc) s (fun t => ∃ m, after (p.2 old (s.gr b)) m
         ∧ Acquired m t (m.mechanism sc.toNat) (m.pkg.vOf s.core.die)))
       ∧ Yields (.cas d a b sc) s (fun t => ∃ m, after (if old = s.gr d then s.gr b else old) m
         ∧ Acquired m t (m.mechanism sc.toNat) (m.pkg.vOf s.core.die)))
     ∧ (u.release 0 = .ok r →
       ∀ p ∈ List.zip amorForms atomicOps, Yields (p.1 d a b sc) s (after (p.2 old (s.gr b)))))

/-- R177, R181, R182 and R242: a load that another die serves sends its request and, where later pairs need not wait for
it, leaves it behind; one that waits goes on when its reply has been delivered: a load writes the reply's bytes and an
atomic its old value; an error reply to a load traps REMOTE_ERROR, and one to an atomic writes g[d] only where the side
effect was applied, with the old value or the poison mark, and leaves the trap to the next pair. -/
def Sys2Proof.Claims.RemoteRepliesCompleteTheAccess : Prop :=
  (∀ p ∈ loadForms, ∀ (d a : BitVec 6) (off : Imm 9) (s u : State) (tr : Trans) (h : Nat),
    Reached s u (addressOf s a off p.2.1) p.2.1 .read tr → tr.tlb.mt ≤ 3 → u.pkg.homeOf tr.pa = some h →
    h ≠ s.core.die → (tr.tlb.mt = 0 → isHbm tr.pa = true → u.cacheLine tr.pa = none) →
    u.pkg.overlay (clusterOf s.coreNo) tr.pa p.2.1 = [] → (assoc h (u.pkg.die s.core.die).frozenBy).isSome = false →
    s.sync = false → Yields (p.1 d a off) s (fun t => t.stalled = s.stalled ∧ t.pkg.mem = u.pkg.mem
      ∧ (∃ q : Pending, t.ctx = { s.ctx with pending := s.ctx.pending ++ [q] } ∧ q.kind = .load ∧ q.issued = true
        ∧ q.answer = none ∧ q.dest = d.toNat ∧ q.first = tr.pa ∧ q.width = p.2.1 ∧ q.signed = p.2.2
        ∧ q.va = (addressOf s a off p.2.1).toNat)
      ∧ ∃ k : Packet, t.pkg.net = u.pkg.net ++ [k] ∧ k.src = s.core.die ∧ k.dst = h ∧ k.owner = s.coreNo
        ∧ k.payload = (if isIoRegion tr.pa then .readReq tr.pa p.2.1 false else .readReq (tr.pa / 64 * 64) 64 false)))
  ∧ (∀ p ∈ loadForms, ∀ (d a : BitVec 6) (off : Imm 9) (s : State) (q : Pending),
    (addressOf s a off p.2.1).toNat % p.2.1 = 0 → s.underWay .load = some q →
    (q.answer = none → Yields (p.1 d a off) s (fun t =>
      t = { s with stalled := true, ctx := { s.ctx with stallReason := 7 } }))
    ∧ (∀ x : Answer, q.answer = some x → x.byte8 % 2 = 0 → x.poison = [] → q.overlay = [] → q.fill = none →
        q.scope = none → q.dest = d.toNat → q.width = p.2.1 → q.signed = p.2.2 →
        Yields (p.1 d a off) s (fun t => t = { s with ctx := { s.ctx with g := t.ctx.g, pending := t.ctx.pending } }
          ∧ q ∉ t.ctx.pending ∧ t.gr d = (if d = 0 then 0
              else wordI (readInt p.2.2 (8 * p.2.1) (x.value / 256 ^ (q.first - q.pa) % 256 ^ p.2.1)))
          ∧ ∀ r, r ≠ d → t.gr r = s.gr r))
    ∧ (∀ x : Answer, q.answer = some x → x.byte8 % 2 = 1 → Yields (p.1 d a off) s (fun t =>
        t.ctx.ecause = 0x0E ∧ t.ctx.g = s.ctx.g ∧ t.ctx.epc = s.pairAddr ∧ t.ctx.estat.getLsbD 5 = false
        ∧ t.ctx.eval.toNat = q.va % 2 ^ 56 + x.byte8 / 16 % 16 * 2 ^ 56)))
  ∧ (∀ f ∈ amorForms, ∀ (d a b : BitVec 6) (sc : BitVec 3) (s : State) (q : Pending) (x : Answer),
    (s.gr a).toNat % 8 = 0 → s.underWay .atomic = some q → q.answer = some x → q.scope = none → q.dest = d.toNat →
    (x.byte8 % 2 = 0 → Yields (f d a b sc) s (fun t => t.gr d = (if d = 0 then 0 else word x.value)
        ∧ (∀ r, r ≠ d → t.gr r = s.gr r) ∧ t.pkg = s.pkg))
    ∧ (x.byte8 % 2 = 1 →
        (let applied := decide (x.byte8 / 2 % 2 = 1)
         let old := decide (x.byte8 / 4 % 2 = 1)
         Yields (f d a b sc) s (fun t => t.gr d = (if d = 0 then 0
             else if applied then (if old then word x.value else 0x7FF8000000000BAD) else s.gr d)
           ∧ (∀ r, r ≠ d → t.gr r = s.gr r) ∧ t.pkg = s.pkg
           ∧ t.ctx.remoteError = some (d.toNat, word (q.va % 2 ^ 56 + (if old then 2 ^ 63 else 0)), applied)))))
  ∧ (∀ (s : State) (q : Pending) (x : Answer), q.kind = .load → x.byte8 % 2 = 0 → x.poison = [] → q.overlay = [] →
    q.fill = none → q.scope = none → q.width ∈ [1, 2, 4, 8] → q.dest < 64 →
    (let t := s.takeAnswer q x
     t = { s with ctx := { s.ctx with g := t.ctx.g, pending := t.ctx.pending }, core := { s.core with undo := none } }
     ∧ q ∉ t.ctx.pending ∧ t.gr (BitVec.ofNat 6 q.dest) = (if q.dest = 0 then 0 else
         wordI (readInt q.signed (8 * q.width) (x.value / 256 ^ (q.first - q.pa) % 256 ^ q.width)))))

/-- R181, on a doubleword whose home is the strand's own die: an AMO releases at its scope, reads the doubleword,
writes its new value there in the same step, puts the old value in g[d] and acquires at its scope; an AMOR form does
so once the strand's releasing fences have taken effect, without release and acquire; `cas` writes g[b] exactly where
the old value is g[d]. R177, R181, R182 and R242: a load that another die serves sends its request and, where later
pairs need not wait for it, leaves it behind; one that waits goes on when its reply has been delivered: a load writes
the reply's bytes and an atomic its old value; an error reply to a load traps REMOTE_ERROR, and one to an atomic
writes g[d] only where the side effect was applied, with the old value or the poison mark, and leaves the trap to the
next pair. -/
def Obligations.AtomicsAndRemoteRepliesActAtTheirHome : Prop :=
  Claims.AtomicsActOnceAtTheirHome ∧ Claims.RemoteRepliesCompleteTheAccess


/-- R183, R279, R280, R290 and R294: an acquiring fence acquires at its scope what its own die knows; a releasing fence
holds no later instruction: with no fence before it and an empty forwarding buffer, one of die scope or narrower is over
at once, and one of package scope or wider advances the die's own counter, which KNOTV follows, where the die may
advance, and else stays noted, for the strand's later writes to wait for; `acqrel` does both in that order. -/
def Sys2Proof.Claims.FencesReleaseAndAcquire : Prop :=
  ∀ (sc : BitVec 3) (s : State),
    (let m := s.mechanism sc.toNat
     let d := s.core.die
     let ended (t : State) : Prop := t.ctx = s.ctx ∧ t.core = s.core ∧ t.pkg = { s.pkg with fwd := t.pkg.fwd }
       ∧ ∀ cl, t.pkg.buffer cl = s.pkg.buffer cl
     Yields (.fenceAcq sc) s (fun t => Acquired s t m (s.pkg.vOf d))
     ∧ Yields (.fenceRel sc) s (fun t => ∃ l, t.ctx = { s.ctx with fences := l } ∧ t.stalled = s.stalled ∧ t.npc = s.npc)
     ∧ (s.ctx.fences = [] → s.pkg.buffer (clusterOf s.coreNo) = [] →
         (m < 5 → Yields (.fenceRel sc) s ended
           ∧ Yields (.fenceAcqrel sc) s (fun t => ∃ u, ended u ∧ Acquired u t m (u.pkg.vOf d)))
         ∧ (5 ≤ m → d < 10 →
           (s.pkg.canAdvance d = false → Yields (.fenceRel sc) s (fun t => t.ctx = { s.ctx with fences := [m] }
             ∧ t.core = s.core ∧ t.pkg.mem = s.pkg.mem ∧ t.pkg.dies = s.pkg.dies))
           ∧ (s.pkg.canAdvance d = true → Yields (.fenceRel sc) s (fun t => t.ctx = s.ctx ∧ t.pkg.mem = s.pkg.mem
             ∧ (t.pkg.die d).v.getD d 0 = (s.pkg.die d).v.getD d 0 + 1
             ∧ t.core.knotv.getD d 0 = (s.pkg.die d).v.getD d 0 + 1
             ∧ ∀ j, j ≠ d → t.core.knotv.getD j 0 = s.core.knotv.getD j 0)))))

/-- R180 and R290: an acquiring load whose home is its own die loads with zero extension and then acquires at the
scope; a releasing store releases at the scope and then stores, both with the mechanism of their scope. R183, R279,
R280, R290 and R294: an acquiring fence acquires at its scope what its own die knows; a releasing fence holds no later
instruction: with no fence before it and an empty forwarding buffer, one of die scope or narrower is over at once, and
one of package scope or wider advances the die's own counter, which KNOTV follows, where the die may advance, and else
stays noted, for the strand's later writes to wait for; `acqrel` does both in that order. -/
def Obligations.ScopedAccessesAndFencesReleaseAndAcquire : Prop :=
  Claims.ScopedAccessesReleaseAndAcquire ∧ Claims.FencesReleaseAndAcquire

/-! ### Vector memory and tensor maps (R184 to R196) -/

namespace Sys2Proof.Claims

/-- A read of n bytes at `va` reaches the bytes from `pa` on at once, which no host answers for, and they carry no
poison. -/
def Readable (s : State) (va n pa : Nat) : Prop :=
  ∃ tr, s.vreach va n .read = .ok (tr, s) ∧ tr.pa = pa ∧ isHostWindow pa = false ∧ s.pkg.overlay (clusterOf s.coreNo) pa n = []
    ∧ s.pkg.poisonIn pa n = []

/-- R252: `t` is `u` but for the retention of the SRAM banks that its reads have met, and the replies that this makes
late. -/
def Touched (u t : State) : Prop :=
  t = { u with core := { u.core with freeze := { u.core.freeze with later := t.core.freeze.later } }, pkg := t.pkg }
  ∧ SameButBanks u.pkg t.pkg

/-- A write of n bytes at `va` goes to the bytes from `pa` on, whose home is the strand's own die. -/
def Writable (s : State) (va n pa : Nat) : Prop :=
  ∃ tr, s.vreach va n .write = .ok (tr, s) ∧ tr.pa = pa ∧ s.pkg.overlay (clusterOf s.coreNo) pa n = []
    ∧ s.pkg.homeOf pa = some s.core.die

/-- R185: the tags that a side of an access carries. -/
def vmemTagOk (en : Bool) (t : BitVec 5) : Bool := decide (1 ≤ t.toNat ∧ t.toNat ≤ 0x10) || (!en && t == 0)

/-- R185, R187 and R188: the format is one that the form accepts. -/
def formatOk (f : VFormat) (nibbles blocks : Bool) : Prop :=
  vmemTagOk f.en f.mt = true ∧ vmemTagOk f.en f.t = true ∧ (f.mt = tNarrow → nibbles = true)
  ∧ (f.bscale = true → blocks = true ∧ narrowTag f.mt = true ∧ wideTag f.t = true)

/-- The bits of a register and of a memory element: a nibble under tag 0x0A (R185, R188). -/
def regBits (f : VFormat) : Nat := if f.t = tNarrow then 4 else tagWidth f.t
def memBits (f : VFormat) : Nat := if f.mt = tNarrow then 4 else tagWidth f.mt

/-- R185: the number of elements moved. -/
def movedCount (s : State) (f : VFormat) : Nat :=
  if f.t = tNarrow then 2 * Nat.min (s.ctx.vl.toNat % 2 ^ 11) 1024 else countOf s (tagWidth f.t)

/-- R95: the zero code of the register tag, which is E2M1's where the access converts (assumption 12). -/
def zeroFor (f : VFormat) : Nat := if f.en then zeroCode f.t false else zeroOf f.t

/-- R184 and R188: the elements from VSTART up to n that p7 selects where MK is set. -/
def movedElems (s : State) (f : VFormat) (n : Nat) (mk : BitVec 1) : List Nat :=
  (List.range n).filter (fun i => decide (startOf s ≤ i) && within s i
    && (mk == 0 || (s.ctx.p[7]).getLsbD (if f.t = tNarrow then i / 2 else i)))

/-- R188: element i of consecutive memory: its address, and the half of the byte it takes or 2. -/
def unitAt (f : VFormat) (ea i : Nat) : Nat × Nat :=
  if memBits f = 4 then ((ea + i / 2) % 2 ^ 64, i % 2) else ((ea + i * (memBits f / 8)) % 2 ^ 64, 2)

/-- R188: an element at a signed byte distance. -/
def farAt (ea : Nat) (off : Int) : Nat × Nat := ((wordI ((ea : Int) + off)).toNat, 2)

/-- The bytes an element touches. -/
def sizeAt (f : VFormat) (place : Nat × Nat) : Nat := if place.2 = 2 then memBits f / 8 else 1

/-- R187: the address of a block's scale code. -/
def scaleAt (f : VFormat) (ea b : Nat) : Nat := (wordI ((ea : Int) + f.soff + (b : Int))).toNat

/-- The memory code of an element. -/
def codeAt (p : Pkg) (f : VFormat) (place : Nat × Nat) (pa : Nat) : Nat :=
  if place.2 = 2 then littleAt p pa (memBits f / 8) else littleAt p pa 1 / 16 ^ place.2 % 16

/-- R185: the format of an access under an MFC, `found` being the tag found in the register. -/
def formatOf (s : State) (m : BitVec 2) (found : BitVec 5) : VFormat := vformat (s.ctx.mfc[m.toNat]) found
def foundTag (s : State) (d : BitVec 6) : BitVec 5 := match s.vref d with | .entry e => (s.entry e).tag | .queue _ => 0

/-- R130: the entry that v[d] takes, in elements of rb bits: those of a list as `res` gives them, the others as they
stood, or the zero code `zc` in a fresh queue entry. -/
def EntryWith (zc rb : Nat) (u : State) (d : BitVec 6) (l : List Nat) (tag : BitVec 5) (res : Nat → Nat) (v : Entry) : Prop :=
  v.tag = tag
  ∧ (∀ i, i < 8192 / rb → elem rb v.data i = if i ∈ l then res i % 2 ^ rb
      else match u.vref d with | .entry e => elem rb (u.entry e).data i | .queue _ => zc / 2 ^ (rb * i % tagWidth tag) % 2 ^ rb)
  ∧ ((∀ e, u.vref d = .entry e → (u.entry e).poison = false) → v.poison = false)

/-- A load `i` issued in `s` whose index entry, if it has one, has popped in `u`: where every element it moves can be
read, it writes each, converted, and records what the conversions record. -/
def LoadsElements (i : Instr) (s u : State) (d : BitVec 6) (f : VFormat) (n : Nat) (mk : BitVec 1) (ea : Nat)
    (place : Nat → Nat × Nat) : Prop :=
  ∀ pa sc : Nat → Nat, startOf s < n → u.checkRef (u.vref d) = .ok () → u.checkRoom (u.vref d) = .ok () →
    (∀ k ∈ movedElems s f n mk, (place k).1 % sizeAt f (place k) = 0 ∧ Readable u (place k).1 (sizeAt f (place k)) (pa k)
      ∧ (f.bscale = true → Readable u (scaleAt f ea (k / 32)) 1 (sc (k / 32)))) →
    (let res := fun k => f.toReg s.ctx.rm (codeAt u.pkg f (place k) (pa k)) (littleAt u.pkg (sc (k / 32)) 1)
     let l := movedElems s f n mk
     quiet s res l → Yields i s (fun t => ∃ v m, EntryWith (zeroFor f) (regBits f) u d l f.t (fun k => (res k).1) v
       ∧ Touched u m ∧ t = (let p := m.putRef (u.vref d) v
              { p with ctx := { recorded p.ctx (totalFx res l) with vstart := 0 } })))

/-- A write of a store: address, half or 2, bytes and code. -/
abbrev Write := Nat × Nat × Nat × Nat

/-- R186 and R187: the writes of element k in order: the scale code of its block where k is the first element moved of
the block, and the element's own code. -/
def writesOf (s : State) (f : VFormat) (src : Entry) (n : Nat) (mk : BitVec 1) (place : Nat → Nat × Nat) (pa sc : Nat → Nat)
    (k : Nat) : List Write :=
  let x := (f.blockScale src.data (s.vmasked mk f) n k).1
  (if f.bscale && (movedElems s f n mk).find? (fun j => decide (j / 32 = k / 32)) == some k then [(sc (k / 32), 2, 1, x)] else [])
    ++ [(pa k, (place k).2, sizeAt f (place k), (f.toMem s.ctx.rm (elem (regBits f) src.data k) x).1)]

/-- Whether a write covers half h of the byte at a, and the four bits it leaves there. -/
def coversHalf (a h : Nat) (w : Write) : Bool :=
  if w.2.1 = 2 then decide (w.1 ≤ a ∧ a < w.1 + w.2.2.1) else decide (a = w.1 ∧ h = w.2.1)
def halfOf (a h : Nat) (w : Write) : Nat :=
  if w.2.1 = 2 then w.2.2.2 / 256 ^ (a - w.1) / 16 ^ h % 16 else w.2.2.2 % 16

/-- A store `i` issued in `s` whose source, and index entry if it has one, have popped in `u`: where every element it
moves can be written at once (R277, R292, R294), memory holds the last write of each half byte, every other half byte keeps its value, and nothing
else changes but the flags it records, VSTART, the scalar data cache, the number of the next store and the retention of
banks. -/
def StoresElements (i : Instr) (s u : State) (src : Entry) (f : VFormat) (n : Nat) (mk : BitVec 1) (ea : Nat)
    (place : Nat → Nat × Nat) : Prop :=
  ∀ pa sc : Nat → Nat, startOf s < n → Inv u → u.ctx.fences = [] → u.pkg.knows u.core.die u.core.knotv = true →
    (∀ k ∈ movedElems s f n mk, (place k).1 % sizeAt f (place k) = 0 ∧ Writable u (place k).1 (sizeAt f (place k)) (pa k)
      ∧ (f.bscale = true → Writable u (scaleAt f ea (k / 32)) 1 (sc (k / 32)))) →
    (let l := movedElems s f n mk
     let res := fun k =>
       let x := f.blockScale src.data (s.vmasked mk f) n k
       ((0 : Nat), x.2.and (f.toMem s.ctx.rm (elem (regBits f) src.data k) x.1).2)
     let ws := l.flatMap (writesOf s f src n mk place pa sc)
     quiet s res l → Yields i s (fun t =>
       (∀ a h, h < 2 → (t.pkg.mem.read a).toNat / 16 ^ h % 16 = match ws.reverse.find? (coversHalf a h) with
         | some w => halfOf a h w
         | none => (u.pkg.mem.read a).toNat / 16 ^ h % 16)
       ∧ t.ctx = { recorded u.ctx (totalFx res l) with vstart := 0 }
       ∧ t.core = { u.core with cache := t.core.cache, nextId := t.core.nextId }
       ∧ SameButBanks { u.pkg with mem := t.pkg.mem, poisoned := t.pkg.poisoned, snap := t.pkg.snap } t.pkg))

/-- R193: the elements of n blocks of a zero-mask stream of bytes, from block b and byte `used` on, and its length. -/
def expanded (byte : Nat → Nat) (w : Nat) : Nat → Nat → Nat → List (Nat × Nat) × Nat
  | 0, _, used => ([], used)
  | n + 1, b, used =>
    let le (at_ k : Nat) : Nat := ((List.range k).map (fun i => byte (at_ + i) * 256 ^ i)).sum
    let sel := (List.range 64).filter (fun j => (le used 8).testBit j)
    let rest := expanded byte w n (b + 1) (used + (8 + sel.length * (w / 8) + 7) / 8 * 8)
    (sel.zipIdx.map (fun p => (64 * b + p.1, le (used + 8 + p.2 * (w / 8)) (w / 8))) ++ rest.1, rest.2)

end Sys2Proof.Claims

/-- R184 to R188 and R191: `vldu`, `vlds`, `vldx` and `vldtr` write each element they move, at its address, converted as
the selected MFC says, and leave the others. -/
def Sys2Proof.Claims.VectorLoadsWriteTheirElements : Prop :=
  ∀ (d a b : BitVec 6) (mk : BitVec 1) (m : BitVec 2) (s : State),
    (let f := formatOf s m (foundTag s d)
     let ea := (s.gr a).toNat
     let n := movedCount s f
     (formatOk f true true → LoadsElements (.vldu d a mk m) s s d f n mk ea (unitAt f ea))
     ∧ (formatOk f false true → LoadsElements (.vlds d a b mk m) s s d f n mk ea (fun i => farAt ea (i * (s.gr b).toInt)))
     ∧ (formatOk f true false → LoadsElements (.vldtr d a b mk m) s s d f n mk ea (fun j =>
         let nr := (s.gr b).toNat / 2 ^ 32 % 2 ^ 8 + 1
         unitAt f (ea + j % nr * ((s.gr b).toNat % 2 ^ 32)) (j / nr)))
     ∧ (∀ (ix : Entry) (u : State), formatOk f false true → s.takeV b = .ok (ix, u) → intTagOk ix.tag = true →
         startOf s < n →
         LoadsElements (.vldx d a b mk m) s u d f (Nat.min n (vlmaxOf (tagWidth ix.tag))) mk ea (fun i =>
           farAt ea (readInt (signedTag ix.tag) (tagWidth ix.tag) (elem (tagWidth ix.tag) ix.data i)))))

/-- R184 to R189: `vstu`, `vsts` and `vstx` to the strand's own die write each element they move at its address, converted
as the selected MFC says, in ascending order; every other byte and half byte of memory keeps its value. -/
def Obligations.VectorStoresWriteTheirElements : Prop :=
  ∀ (d a b : BitVec 6) (mk : BitVec 1) (m : BitVec 2) (uo : BitVec 1) (s u : State) (src : Entry), s.takeV d = .ok (src, u) →
    (let f := formatOf s m src.tag
     let ea := (s.gr a).toNat
     let n := movedCount s f
     (f.en = true → src.tag = f.t) →
     (formatOk f true true → StoresElements (.vstu d a mk m uo) s u src f n mk ea (unitAt f ea))
     ∧ (formatOk f false true → StoresElements (.vsts d a b mk m uo) s u src f n mk ea (fun i => farAt ea (i * (s.gr b).toInt)))
     ∧ (∀ (ix : Entry) (v : State), formatOk f false true → u.takeV b = .ok (ix, v) → intTagOk ix.tag = true → startOf s < n →
         StoresElements (.vstx d a b mk m uo) s v src f (Nat.min n (vlmaxOf (tagWidth ix.tag))) mk ea (fun i =>
           farAt ea (readInt (signedTag ix.tag) (tagWidth ix.tag) (elem (tagWidth ix.tag) ix.data i)))))

/-- R188 and R189: an element of `vldu` or `vlds` that is misaligned, or whose address its translation denies, where every
element below it can be read without a flag, stops the load: VSTART names the element and EVAL its address, the elements
below it are written, and it and those above keep their bits. -/
def Sys2Proof.Claims.VectorLoadFaultKeepsElementsBelow : Prop :=
  ∀ (d a b : BitVec 6) (mk : BitVec 1) (m : BitVec 2) (s : State) (e k : Nat) (pa : Nat → Nat), s.vref d = .entry e →
    s.checkRef (.entry e) = .ok () → s.ctx.lfBase + e < 256 → s.ctx.live = [] → s.ctx.resume = false →
    (let f := formatOf s m (foundTag s d)
     let ea := (s.gr a).toNat
     let l := movedElems s f (movedCount s f) mk
     f.bscale = false → k ∈ l →
     ∀ x ∈ [(Instr.vldu d a mk m, unitAt f ea, true), (.vlds d a b mk m, fun i => farAt ea (i * (s.gr b).toInt), false)],
       formatOk f x.2.2 true →
       (let place := x.2.1
        let res := fun i => f.toReg s.ctx.rm (codeAt s.pkg f (place i) (pa i)) 0
        (∀ i ∈ l, i < k → (place i).1 % sizeAt f (place i) = 0 ∧ Readable s (place i).1 (sizeAt f (place i)) (pa i)
          ∧ ¬ enabledIn s (res i).2) →
        ∀ cause : Nat, (cause = 0x05 ∧ (place k).1 % sizeAt f (place k) ≠ 0 ∨ cause = 0x07 ∧ (place k).1 % sizeAt f (place k) = 0
            ∧ s.vreach (place k).1 (sizeAt f (place k)) .read = .error (.x (place k).1 .denied)) →
          Yields x.1 s (fun t => t.ctx.ecause = word cause ∧ t.ctx.eval = word (place k).1 ∧ t.ctx.vstart = word k
            ∧ t.ctx.epc = s.pairAddr ∧ t.ctx.g = s.ctx.g ∧ (t.entry e).tag = f.t
            ∧ ∀ i, i < 8192 / regBits f → elem (regBits f) (t.entry e).data i =
                if i ∈ l ∧ i < k then (res i).1 % 2 ^ regBits f else elem (regBits f) (s.entry e).data i)))

/-- R184 to R188 and R191: `vldu`, `vlds`, `vldx` and `vldtr` write each element they move, at its address, converted
as the selected MFC says, and leave the others. R188 and R189: an element of `vldu` or `vlds` that is misaligned, or
whose address its translation denies, where every element below it can be read without a flag, stops the load: VSTART
names the element and EVAL its address, the elements below it are written, and it and those above keep their bits. -/
def Obligations.VectorLoadsFillOrStopAtTheirFault : Prop :=
  Claims.VectorLoadsWriteTheirElements ∧ Claims.VectorLoadFaultKeepsElementsBelow


/-- R192 and R193: `vldwin` moves the window's elements down by its slide and fills the vacated tail from memory, and
with a slide of 0 changes nothing; `vldz` expands its blocks into the elements below n and sets g[b] to the bytes
consumed. -/
def Obligations.WindowAndStreamLoadsFillTheirElements : Prop :=
  (∀ (d a b : BitVec 6) (mk : BitVec 1) (m : BitVec 2) (s : State),
    (let cnt := (s.gr b).toNat / 2 ^ 16 % 8 + 1
     let name := fun k => (s.ctx.vwb.toNat % 2 ^ 8 + d.toNat + k) % 240
     let f := formatOf s m (s.entry (name 0)).tag
     let w := tagWidth f.t
     let per := vlmaxOf w
     let total := cnt * per
     let sl := Nat.min ((s.gr b).toNat % 2 ^ 13) total
     let ea := (s.gr a).toNat
     d.toNat + cnt ≤ 48 → formatOk f false false → (∀ k, k < cnt → s.checkRef (.entry (name k)) = .ok ()) →
     s.ctx.lfBase + s.ctx.lfSize ≤ 256 →
     (sl < total → ∀ k, k < cnt → (s.entry (name k)).tag = f.t) →
     (sl = 0 → Yields (.vldwin d a b mk m) s (fun t => t = s))
     ∧ (0 < sl → (sl < total → ∀ k, k < cnt → (s.entry (name k)).poison = false) → ∀ pa : Nat → Nat,
        (let on := fun j => mk == 0 || (s.ctx.p[7]).getLsbD j
         let one := fun j => f.toReg s.ctx.rm (littleAt s.pkg (pa j) (memBits f / 8)) 0
         let need := fun j => (unitAt f ea j).1 % (memBits f / 8) = 0 ∧ Readable s (unitAt f ea j).1 (memBits f / 8) (pa j)
         let tail := fun j => if f.t = tNarrow then ((one (2 * j)).1 + 16 * (one (2 * j + 1)).1, (one (2 * j)).2.and (one (2 * j + 1)).2)
           else one j
         (∀ j, j < sl → on j = true → (if f.t = tNarrow then need (2 * j) ∧ need (2 * j + 1) else need j) ∧ ¬ enabledIn s (tail j).2) →
         Yields (.vldwin d a b mk m) s (fun t =>
           (∀ i, i < total → (t.entry (name (i / per))).tag = f.t ∧ elem w (t.entry (name (i / per))).data (i % per) =
             if i < total - sl then elem w (s.entry (name ((i + sl) / per))).data ((i + sl) % per)
             else if on (i - (total - sl)) = true then (tail (i - (total - sl))).1 % 2 ^ w else zeroFor f % 2 ^ w)
           ∧ (∀ e, (∀ k, k < cnt → e ≠ name k) → t.entry e = s.entry e)
           ∧ t.ctx.g = s.ctx.g ∧ t.ctx.vstart = s.ctx.vstart ∧ SameButBanks s.pkg t.pkg)))))
  ∧ (∀ (d a b : BitVec 6) (m : BitVec 2) (s : State) (pa : Nat → Nat),
    (let f := formatOf s m (foundTag s d)
     let w := tagWidth f.t
     let n := countOf s w
     let byte := fun j => (s.pkg.mem.read (pa (j / 8) + j % 8)).toNat
     let x := expanded byte w ((n + 63) / 64) 0 0
     f.en = false → vmemTagOk false f.t = true → (s.gr a).toNat % 8 = 0 → s.checkRef (s.vref d) = .ok () →
     s.checkRoom (s.vref d) = .ok () → (∀ j, j < x.2 / 8 → Readable s (((s.gr a).toNat + 8 * j) % 2 ^ 64) 8 (pa j)) →
     Yields (.vldz d a b m) s (fun t => ∃ v r,
       EntryWith (zeroOf f.t) w s d (List.range n) f.t (fun i => (assoc i x.1).getD (zeroOf f.t)) v
       ∧ Touched s r ∧ WroteG (r.putRef (s.vref d) v) t b (word x.2))))

/-- R194 to R196: `tmset` loads a legal tensor map from 64 aligned bytes; `tmwalk` writes the box's elements, the zero
code where one lies outside the image; `tmstep` advances a coordinate by its step, modulo 2^16, and writes it
sign-extended. -/
def Obligations.TensorMapsAreSetWalkedAndStepped : Prop :=
  (∀ (a : BitVec 6) (n : BitVec 3) (s u : State) (tr : Trans), (s.gr a).toNat % 64 = 0 →
    s.translate .l1 (s.gr a).toNat .read = .ok (tr, u) → tr.tlb.mt ≠ 2 → tr.tlb.mt ≠ 4 →
    s.interlocked (s.gr a).toNat 64 false = false → u.pkg.homeOf tr.pa = some s.core.die →
    u.pkg.removed s.core.die = false → u.pkg.knows s.core.die s.core.knotv = true →
    u.pkg.overlay (clusterOf s.coreNo) tr.pa 64 = [] → u.pkg.poisonIn tr.pa 64 = [] →
    (let w := fun i => word (littleAt u.pkg (tr.pa + 8 * i) 8)
     ((∀ i, i < 8 → tmLegal i (w i) = true) → Yields (.tmset a n) s (fun t =>
       (∃ r, Touched u r ∧ t = { r with ctx := { r.ctx with tm := t.ctx.tm } })
       ∧ ∀ i : Fin 64, t.ctx.tm[i.val] = if i.val / 8 = n.toNat then w (i.val % 8) else s.ctx.tm[i.val]))
     ∧ (∀ i, i < 8 → tmLegal i (w i) = false → (∀ j, j < i → tmLegal j (w j) = true) → Yields (.tmset a n) s (fun t =>
         t.ctx.ecause = 0x01 ∧ t.ctx.eval = word (0x040 + 8 * n.toNat + i) ∧ t.ctx.tm = s.ctx.tm))))
  ∧ (∀ (d : BitVec 6) (n : BitVec 3) (s : State) (pa : Nat → Nat), s.checkRef (s.vref d) = .ok () →
    s.checkRoom (s.vref d) = .ok () →
    (let word_ := fun i : Fin 8 => s.ctx.tm[8 * n.toNat + i.val]
     let t := BitVec.ofNat 5 ((word_ 0).toNat / 2 ^ 56)
     let w := tagWidth t
     let len := fun i => (word_ 4).toNat / 2 ^ (16 * i) % 2 ^ 16 + 1
     let k := Nat.min (countOf s w) (len 0 * len 1 * len 2 * len 3)
     (∀ q va, q < k → boxAddress s.ctx n.toNat (w / 8) q = some va → va % (w / 8) = 0 ∧ Readable s va (w / 8) (pa q)) →
     Yields (.tmwalk d n) s (fun u => ∃ v r, Touched s r ∧ u = r.putRef (s.vref d) v
       ∧ EntryWith (zeroOf t) w s d (List.range k) t (fun q =>
       match boxAddress s.ctx n.toNat (w / 8) q with
       | none => zeroOf t
       | some _ => littleAt s.pkg (pa q) (w / 8)) v)))
  ∧ (∀ (d a : BitVec 6) (n : BitVec 3) (s : State),
    (let i := (s.gr a).toNat % 4
     let w5 := s.ctx.tm[8 * n.toNat + 5]
     let c := w5.extractLsb' (16 * i) 16 + (s.ctx.tm[8 * n.toNat + 6]).extractLsb' (16 * i) 16
     Yields (.tmstep d a n) s (fun t => ∃ v : Vector Word 64,
       (∀ j : Fin 64, v[j.val] = if j.val = 8 * n.toNat + 5 then v[8 * n.toNat + 5] else s.ctx.tm[j.val])
       ∧ (∀ k, k < 4 → (v[8 * n.toNat + 5]).extractLsb' (16 * k) 16 = if k = i then c else w5.extractLsb' (16 * k) 16)
       ∧ WroteG { s with ctx := { s.ctx with tm := v } } t d (c.signExtend 64))))
/-! ### Barriers, queues, publication and copies (R197 to R214) -/

namespace Sys2Proof.Claims

/-- `t` is `u` but for g[d], which takes v, the barriers of the core, and what an acquire touches: the scalar data
cache and which buffered writes the strand has observed. -/
def WaitEnded (u t : State) (d : BitVec 6) (v : Word) : Prop :=
  t.gr d = (if d = 0 then 0 else v) ∧ (∀ r, r ≠ d → t.gr r = u.gr r) ∧ t.pkg.mem = u.pkg.mem ∧ t.ctx.p = u.ctx.p
  ∧ t.ctx.f = u.ctx.f ∧ t.core.lane = u.core.lane ∧ t.stalled = u.stalled ∧ t.ctx.wait = none

/-- The pair waits: it has stalled, and no register, entry or byte of memory has changed. -/
def Waits (s t : State) : Prop :=
  t.stalled = true ∧ t.ctx.g = s.ctx.g ∧ t.ctx.f = s.ctx.f ∧ t.ctx.p = s.ctx.p ∧ t.core.lane = s.core.lane
  ∧ t.pkg.mem = s.pkg.mem

/-- R209: the barrier objects after an arrival that flips, and after one that does not. -/
def flipped (o : BarObj) (k : Vector (BitVec 12) 16) : BarObj :=
  { o with arrived := 0, phase := o.phase + 1, last := o.status, status := 0, knot := Knot.join o.knot k }
def arrivedAt (o : BarObj) (k : Vector (BitVec 12) 16) : BarObj :=
  { o with arrived := o.arrived + 1, knot := Knot.join o.knot k }

/-- An initialised barrier of core scope. -/
def coreBar (s : State) (n : Nat) : Prop := (s.bar n).init = true ∧ (s.bar n).team = false

end Sys2Proof.Claims

/-- R207 to R212, for barriers of core scope and the forms that need none: `binit` initialises; `barrive` releases, writes
the phase and arrives, and the arrival that reaches COUNT flips the phase and sets both event flags; `bwait` ends with LAST
once the phase differs and waits while it does not; `btest` writes the barrier word; `bbind` binds the next copy. -/
def Sys2Proof.Claims.BarrierFormsActOnTheirObject : Prop :=
  ∀ (d a : BitVec 6) (n : BitVec 9) (s : State),
    (let k := n.toNat
     let o := (s.bar k).obj
     (∀ count : Nat, 0 < count → count < 2 ^ 16 → s.gr a = word (count + 2 ^ 16) → s.barBusy k = false →
       s.teamBar k = none → ((s.bar k).init = true → (s.bar k).owner ≠ s.ctx.taskh → s.ownerLives (s.bar k).owner = false) →
       Yields (.binit a n) s (fun t => t = { s with core := { s.core with bars := t.core.bars } }
         ∧ t.bar k = { init := true, team := false, owner := s.ctx.taskh, obj := BarObj.fresh count, rec0 := none, rec1 := none }
         ∧ ∀ j, j ≠ k → t.bar j = s.bar j))
     ∧ (∀ r : State, coreBar s k → s.release 1 = .ok r →
         (o.arrived + 1 ≠ o.count → Yields (.barrive d n) s (fun t => ∃ u, WroteG u t d (o.phase.zeroExtend 64)
           ∧ u = { r with core := { r.core with bars := u.core.bars } } ∧ (∀ j, j ≠ k → u.bar j = s.bar j)
           ∧ u.bar k = { s.bar k with obj := arrivedAt o r.core.knotv }))
         ∧ (o.arrived + 1 = o.count → Yields (.barrive d n) s (fun t => ∃ u, WroteG u t d (o.phase.zeroExtend 64)
           ∧ u = { r with core := { r.core with bars := u.core.bars }, ctx := { r.ctx with eventFlag := true }
                          other := { r.other with eventFlag := true } }
           ∧ (∀ j, j ≠ k → u.bar j = s.bar j) ∧ u.bar k = { s.bar k with obj := flipped o r.core.knotv })))
     ∧ ((s.bar k).init = true → (s.barObj k).phase.toNat ≠ (s.gr a).toNat % 2 ^ 16 →
         Yields (.bwait d a n) s (fun t => WaitEnded s t d ((s.barObj k).last.zeroExtend 64)))
     ∧ ((s.bar k).init = true → (s.barObj k).phase.toNat = (s.gr a).toNat % 2 ^ 16 → Yields (.bwait d a n) s (fun t =>
         Waits s t ∧ ∃ w, t.ctx.wait = some w ∧ w.kind = .bwait ∧ w.dest = d.toNat ∧ w.place = k
           ∧ w.value = (s.gr a).toNat % 2 ^ 16))
     ∧ Yields (.btest d n) s (fun t => WroteG s t d (word ((if (s.bar k).init then 2 ^ 63 else 0)
         + (if (s.bar k).team then 2 ^ 62 else 0) + (s.barObj k).count * 2 ^ 32 + (s.barObj k).arrived * 2 ^ 16
         + (s.barObj k).phase.toNat)))
     ∧ ((s.bar k).init = true → Yields (.bbind a n) s (fun t =>
         t = { s with ctx := { s.ctx with bind := some (k, (s.gr a).toNat % 2) } })))

/-- R209 and R211, for barriers of core scope and a release that can complete: the arrival of `bsync`, or of `bxch` once no put bound to the barrier is
live, that flips the barrier ends at once with the new LAST; one that does not is recorded and waits; a recorded arrival
is not made again, and ends once the phase has changed; `bxch` with a live put waits without arriving. -/
def Sys2Proof.Claims.SynchronisingBarriersArriveOnce : Prop :=
  ∀ (d : BitVec 6) (n : BitVec 9) (s : State), coreBar s n.toNat →
    (let k := n.toNat
     let o := (s.bar k).obj
     ∀ x ∈ [(Instr.bsync d n, true), (.bxch d n, (s.boundCopies k true).isEmpty)],
       (∀ r : State, s.arrival k = none → x.2 = true → s.release 1 = .ok r →
         (o.arrived + 1 = o.count → Yields x.1 s (fun t =>
           WaitEnded r t d (o.status.zeroExtend 64) ∧ (t.bar k).obj = flipped o r.core.knotv ∧ t.arrival k = none))
         ∧ (o.arrived + 1 ≠ o.count → Yields x.1 s (fun t =>
           Waits r t ∧ (t.bar k).obj = arrivedAt o r.core.knotv ∧ t.arrival k = some o.phase)))
       ∧ (∀ ph, s.arrival k = some ph → o.phase = ph → Yields x.1 s (fun t => Waits s t ∧ (t.bar k).obj = o))
       ∧ (∀ ph, s.arrival k = some ph → o.phase ≠ ph → Yields x.1 s (fun t =>
         WaitEnded s t d (o.last.zeroExtend 64) ∧ (t.bar k).obj = o ∧ t.arrival k = none))
       ∧ (s.arrival k = none → x.2 = false → Yields x.1 s (fun t => Waits s t ∧ (t.bar k).obj = o ∧ t.arrival k = none)))

/-- R212: every form but `binit` and `btest` on a barrier that is not initialised traps BARRIER_FAULT with reason 1,
`binit` with a COUNT of 0, a SCOPE other than 1 and 4 or a reserved bit set, with reason 2, and `binit` of a barrier with
a waiter, a live bound copy or a set arrival record, with reason 3. -/
def Sys2Proof.Claims.BarrierMisuseTraps : Prop :=
  ∀ (d a : BitVec 6) (n : BitVec 9) (s : State),
    ((s.bar n.toNat).init = false → ∀ i ∈ [Instr.barrive d n, .bwait d a n, .bsync d n, .bxch d n, .bbind a n],
      Yields i s (fun t => Trapped s t 0x0D (word (n.toNat + 0x10000))))
    ∧ ((s.bar n.toNat).init = false →
        ((s.gr a).toNat % 2 ^ 16 = 0 ∨ ((s.gr a).toNat / 2 ^ 16 % 8 ≠ 1 ∧ (s.gr a).toNat / 2 ^ 16 % 8 ≠ 4)
          ∨ (s.gr a).toNat / 2 ^ 19 ≠ 0) →
        Yields (.binit a n) s (fun t => Trapped s t 0x0D (word (n.toNat + 0x20000))))
    ∧ (∀ count scope : Nat, 0 < count → count < 2 ^ 16 → (scope = 1 ∨ scope = 4) → s.gr a = word (count + scope * 2 ^ 16) →
        s.teamBar n.toNat = none → s.barBusy n.toNat = true →
        ((s.bar n.toNat).init = true → (s.bar n.toNat).owner = s.ctx.taskh) →
        Yields (.binit a n) s (fun t => Trapped s t 0x0D (word (n.toNat + 0x30000))))

/-- R207 to R212, for barriers of core scope and the forms that need none: `binit` initialises; `barrive` releases,
writes the phase and arrives, and the arrival that reaches COUNT flips the phase and sets both event flags; `bwait`
ends with LAST once the phase differs and waits while it does not; `btest` writes the barrier word; `bbind` binds the
next copy. R212: every form but `binit` and `btest` on a barrier that is not initialised traps BARRIER_FAULT with
reason 1, `binit` with a COUNT of 0, a SCOPE other than 1 and 4 or a reserved bit set, with reason 2, and `binit` of a
barrier with a waiter, a live bound copy or a set arrival record, with reason 3. -/
def Obligations.BarrierFormsActOrTrapOnTheirObject : Prop :=
  Claims.BarrierFormsActOnTheirObject ∧ Claims.BarrierMisuseTraps


/-- R207, R209, R211 and R298: the events that end barrier waits. A waiting `bwait`, or an arrival that waits for its flip, ends
with LAST once the phase differs from what it noted; a `bxch` that waits for its puts arrives once none is live; the
registrations of a team barrier are complete when every member has made its own. Where nothing is due they change nothing. -/
def Sys2Proof.Claims.BarrierEventsEndTheirWaits : Prop :=
  ∀ s : State,
    (s.ctx.wait = none → Yields .barrierWaitRelease s (fun t => t = s) ∧ Yields .bxchArrival s (fun t => t = s))
    ∧ (∀ w : WaitRec, s.ctx.wait = some w → (w.kind = .bwait ∨ w.kind = .flip) →
        (w.value = (s.barObj w.place).phase.toNat → Yields .barrierWaitRelease s (fun t => t = s))
        ∧ (w.value ≠ (s.barObj w.place).phase.toNat → w.dest < 64 → Yields .barrierWaitRelease s (fun t =>
            WaitEnded s t (BitVec.ofNat 6 w.dest) ((s.barObj w.place).last.zeroExtend 64)
            ∧ t.ctx.skip1 = (s.ctx.skip1 || !w.second) ∧ t.ctx.skip2 = (s.ctx.skip2 || w.second))))
    ∧ (∀ w : WaitRec, s.ctx.wait = some w → w.kind = .puts → coreBar s w.place →
        ((s.boundCopies w.place true).isEmpty = false → Yields .bxchArrival s (fun t => t = s))
        ∧ (∀ r : State, (s.boundCopies w.place true).isEmpty = true → s.release 1 = .ok r →
            Yields .bxchArrival s (fun t => t.ctx.g = s.ctx.g
            ∧ (t.bar w.place).obj = (if (s.bar w.place).obj.arrived + 1 = (s.bar w.place).obj.count
                then flipped (s.bar w.place).obj r.core.knotv else arrivedAt (s.bar w.place).obj r.core.knotv)
            ∧ t.ctx.wait = some { w with kind := .flip, value := (s.bar w.place).obj.phase.toNat })))
    ∧ (∀ n : Nat, (s.teamBar n = none → Yields (.binitTeamComplete n) s (fun t => t = s))
        ∧ (∀ b : TeamBar, s.teamBar n = some b → (b.usable = true ∨ b.members.length < s.ctx.teamSize) →
            Yields (.binitTeamComplete n) s (fun t => t = s))
        ∧ (∀ b : TeamBar, s.teamBar n = some b → b.usable = false → b.failed = false → s.ctx.teamSize ≤ b.members.length →
            s.teamCores = [s.coreNo] → s.ctx.holds = true → Yields (.binitTeamComplete n) s (fun t => t.ctx = s.ctx
              ∧ t.bar n = { init := true, team := true, owner := s.ctx.taskh, obj := BarObj.fresh b.obj.count
                            rec0 := none, rec1 := none })))

/-- R209 and R211, for barriers of core scope and a release that can complete: the arrival of `bsync`, or of `bxch`
once no put bound to the barrier is live, that flips the barrier ends at once with the new LAST; one that does not is
recorded and waits; a recorded arrival is not made again, and ends once the phase has changed; `bxch` with a live put
waits without arriving. R207, R209, R211 and R298: the events that end barrier waits. A waiting `bwait`, or an arrival
that waits for its flip, ends with LAST once the phase differs from what it noted; a `bxch` that waits for its puts
arrives once none is live; the registrations of a team barrier are complete when every member has made its own. Where
nothing is due they change nothing. -/
def Obligations.SynchronisingBarriersArriveAndTheirWaitsEnd : Prop :=
  Claims.SynchronisingBarriersArriveOnce ∧ Claims.BarrierEventsEndTheirWaits


/-- R25 and R213: `qlen` writes the number of entries, `qpeek` the head's tag, EMPTY and the number, and `qflush`, once no
push of the context is on its way, empties the queue, for a queue that the context owns; for another they trap
PERMISSION. -/
def Obligations.QueueOperationsReadAndFlush : Prop :=
  ∀ (d a : BitVec 6) (s : State),
    (let q := (s.gr a).toNat % 4
     let l := s.queue q
     (s.ctx.alloc.getLsbD (32 + q) = true →
       Yields (.qlen d a) s (fun t => WroteG s t d (word l.length))
       ∧ Yields (.qpeek d a) s (fun t => WroteG s t d
           (word ((match l with | [] => 256 | e :: _ => e.tag.toNat) + 512 * l.length)))
       ∧ (s.copiesInto q = false → (∀ r ∈ s.ctx.live ++ s.ctx.held, r.kind ≠ .sfuQueue q ∧ r.kind ≠ .bamaxQueue q) →
           Yields (.qflush a) s (fun t => t = { s with core := { s.core with queues := t.core.queues } } ∧ t.queue q = []
             ∧ ∀ j, j ≠ q → t.queue j = s.queue j))
       ∧ (s.copiesInto q = true → Yields (.qflush a) s (fun t => Waits s t ∧ t.ctx.stallReason = 10)))
     ∧ (s.ctx.alloc.getLsbD (32 + q) = false → ∀ i ∈ [Instr.qlen d a, .qpeek d a, .qflush a],
         Yields i s (fun t => Trapped s t 0x07 (word (0x10000 + q)))))

/-- R214 and R413: `publish` releases at host scope, waits until both ports have what the release covers, then adds 1 to
the doubleword at its address in a host window and writes the new value to g[d]; `pubwait` ends with the value once it
is at or above g[b] and waits below it; the event ends such a wait; the host's acknowledgement ends what held later
publications. Outside the host windows both forms trap PERMISSION. -/
def Obligations.PublicationCountsAndWaits : Prop :=
  (∀ (d a b : BitVec 6) (s u : State) (tr : Trans), (s.gr a).toNat % 8 = 0 →
    (s.translate .l1 (s.gr a).toNat .rmw = .ok (tr, u) →
      (isHostWindow tr.pa = false → Yields (.publish d a) s (fun t => Trapped s t 0x07 (s.gr a)))
      ∧ (∀ r : State, isHostWindow tr.pa = true → s.interlocked (s.gr a).toNat 8 true = false →
          s.underWay .released = none → u.release 6 = .ok r →
          ((r.portsReady = false ∨ assoc tr.pa r.pkg.lastPublish = some true) →
            Yields (.publish d a) s (fun t => t.stalled = true ∧ t.ctx.g = s.ctx.g ∧ t.pkg = r.pkg
              ∧ ∃ q ∈ t.ctx.pending, q.kind = .released ∧ q.pa = tr.pa))
          ∧ (r.portsReady = true → assoc tr.pa r.pkg.lastPublish ≠ some true → r.pkg.poisonedAt tr.pa 8 = false → Inv r →
            Yields (.publish d a) s (fun t =>
              (let new := word (littleAt r.pkg tr.pa 8 + 1)
               StoredAt r.pkg t.pkg tr.pa 8 new.toNat ∧ t.gr d = (if d = 0 then 0 else new)
               ∧ (∀ k, k ≠ d → t.gr k = s.gr k) ∧ assoc tr.pa t.pkg.lastPublish = some true))))
      ∧ (∀ q : Pending, isHostWindow tr.pa = true → s.interlocked (s.gr a).toNat 8 true = false →
          s.underWay .released = some q →
          (u.portsReady = false ∨ assoc tr.pa u.pkg.lastPublish = some true →
            Yields (.publish d a) s (fun t => t.stalled = true ∧ t.ctx.g = s.ctx.g ∧ t.pkg = s.pkg))
          ∧ (u.portsReady = true → assoc tr.pa u.pkg.lastPublish ≠ some true → u.pkg.poisonedAt tr.pa 8 = false → Inv u →
            Yields (.publish d a) s (fun t =>
              (let new := word (littleAt u.pkg tr.pa 8 + 1)
               StoredAt u.pkg t.pkg tr.pa 8 new.toNat ∧ t.gr d = (if d = 0 then 0 else new) ∧ q ∉ t.ctx.pending
               ∧ (∀ k, k ≠ d → t.gr k = s.gr k) ∧ assoc tr.pa t.pkg.lastPublish = some true)))))
    ∧ (s.translate .l1 (s.gr a).toNat .read = .ok (tr, u) →
      (isHostWindow tr.pa = false → Yields (.pubwait d a b) s (fun t => Trapped s t 0x07 (s.gr a)))
      ∧ (∀ h : Nat, isHostWindow tr.pa = true → s.interlocked (s.gr a).toNat 8 false = false → u.pkg.homeOf tr.pa = some h →
          u.pkg.homeReady s.core.die h s.core.knotv = true → u.pkg.poisonedAt tr.pa 8 = false →
          ((s.gr b).toNat ≤ littleAt u.pkg tr.pa 8 → Yields (.pubwait d a b) s (fun t =>
              WaitEnded u t d (word (littleAt u.pkg tr.pa 8))))
          ∧ (littleAt u.pkg tr.pa 8 < (s.gr b).toNat → Yields (.pubwait d a b) s (fun t => Waits u t ∧ ∃ w,
              t.ctx.wait = some w ∧ w.kind = .pubwait ∧ w.dest = d.toNat ∧ w.place = tr.pa ∧ w.value = (s.gr b).toNat)))))
  ∧ (∀ s : State, (s.ctx.wait = none → Yields .pubwaitSatisfied s (fun t => t = s))
    ∧ (∀ (w : WaitRec) (h : Nat), s.ctx.wait = some w → w.kind = .pubwait → s.pkg.homeOf w.place = some h → w.dest < 64 →
        (littleAt s.pkg w.place 8 < w.value → Yields .pubwaitSatisfied s (fun t => t = s))
        ∧ (w.value ≤ littleAt s.pkg w.place 8 → s.pkg.homeReady s.core.die h s.core.knotv = true →
            Yields .pubwaitSatisfied s (fun t => WaitEnded s t (BitVec.ofNat 6 w.dest) (word (littleAt s.pkg w.place 8)))))
    ∧ (∀ io : Nat, (s.pkg.lastPublish = [] → Yields (.publishAck io) s (fun t => t = s))
        ∧ (∀ pa, s.pkg.lastPublish = [(pa, true)] → s.pkg.homeOf pa = some (if io = 9 then 9 else 0) →
            Yields (.publishAck io) s (fun t => t.pkg.lastPublish = [] ∧ t.ctx = s.ctx ∧ t.pkg.mem = s.pkg.mem
              ∧ (t.pkg.io io).msix = (s.pkg.io io).msix ++ [3]))))

/-- R197 to R200, R350 and R351: a copy form whose operands are legal takes G = min(VL, FREE) lines, sets VL to G and adds one
live copy of G lines with its options, in its engine queue or, for `cpyh`, in a bobbin engine; with VL = 0 and no binding
it writes DONE with 0 lines to g[d] and sets the event flag, as `cpymc` does with an empty MASK, which sets VL to 0; with
FREE = 0 it waits. An operand that names no space traps PERMISSION, and a
memory operand that is not a multiple of 64 traps MISALIGNED, with EVAL = the operand. -/
def Sys2Proof.Claims.CopyFormsStartACopy : Prop :=
  ∀ (d a b : BitVec 6) (s : State),
    ∀ x ∈ [(Instr.cpy d a b, 0), (.cpyt d a b, 1), (.cpymc d a b, 2), (.cpyh d a b, 3)],
      (let form : Nat := x.2
       let opts := (s.gr d).toNat
       let eq := opts / 2 ^ 12 % 16
       let io := if opts / 2 ^ 11 % 2 = 0 then 0 else 9
       let g := Nat.min (s.ctx.vl.toNat % 2 ^ 11) (s.leastFree eq)
       (∀ src dst : Space, s.checkSpace form false (s.gr a) 0 = .ok src → s.checkSpace form true (s.gr b) 0 = .ok dst →
         s.checkFleet form (s.gr a) .read src = .ok () → s.checkFleet form (s.gr b) .write dst = .ok () →
         (form = 2 → opts / 2 ^ 16 % 2 ^ 16 / 2 ^ s.ctx.teamSize = 0) → opts % 32 ≤ 0x12 →
         (s.ctx.vl.toNat % 2 ^ 11 = 0 → s.ctx.bind = none → Yields x.1 s (fun t =>
             WroteG { s with ctx := { s.ctx with eventFlag := true } } t d 1))
         ∧ (0 < s.ctx.vl.toNat % 2 ^ 11 → form = 2 → opts / 2 ^ 16 % 2 ^ 16 = 0 → s.ctx.bind = none → Yields x.1 s (fun t =>
             WroteG { s with ctx := { s.ctx with eventFlag := true, vl := 0 } } t d 1))
         ∧ (0 < s.ctx.vl.toNat % 2 ^ 11 → (form = 2 → opts / 2 ^ 16 % 2 ^ 16 ≠ 0) →
             (s.leastFree eq = 0 → Yields x.1 s (fun t => Waits s t ∧ t.ctx.stallReason = 6))
             ∧ (0 < g → s.ctx.fences = [] → s.interlockEntries < 16 → (s.pkg.io io).bobbin.length < 4096 →
                 s.checkSpace form false (s.gr a) g = .ok src → s.checkSpace form true (s.gr b) g = .ok dst →
                 Yields x.1 s (fun t => ∃ c : Copy,
                   c.lines = g ∧ c.form = form ∧ c.dst = dst ∧ c.src = src ∧ c.landed = [] ∧ c.dest = d.toNat
                   ∧ c.eq = eq ∧ c.bound = s.ctx.bind ∧ c.owner = s.coreNo ∧ c.bank = s.ctx.bank ∧ c.handle = s.ctx.taskh
                   ∧ c.tag = BitVec.ofNat 5 opts ∧ c.root = s.ctx.root ∧ c.asn = s.ctx.asn
                   ∧ (c.started = true ↔ form = 0 ∨ form = 2)
                   ∧ t.ctx = { s.ctx with vl := word g, bind := none } ∧ t.pkg.mem = s.pkg.mem
                   ∧ (form ≠ 3 → t.core.copies = s.core.copies ++ [c])
                   ∧ (form = 3 → (t.pkg.io io).bobbin = (s.pkg.io io).bobbin ++ [c] ∧ t.core = s.core)))))
       ∧ (3 ≤ (s.gr a).toNat / 2 ^ 56 → Yields x.1 s (fun t => Trapped s t 0x07 (s.gr a)))
       ∧ ((s.gr a).toNat < 2 ^ 56 → (s.gr a).toNat % 64 ≠ 0 → 0 < s.ctx.teamSize →
           Yields x.1 s (fun t => Trapped s t 0x05 (s.gr a))))

/-- R200, R201, R203, R206 and R412: the events of a copy and `cpycancel`. A line of a `cpy` between memory addresses that are
ready moves its 64 bytes and leaves all others; one from a host window does so too, or stops the copy with REMOTE and ERR where
the host says so (assumption 144); a copy that has nothing left to do, with no binding, writes its status
to its register in a strand that still runs, sets its event flag, and leaves; a timed copy starts once its time is reached, and one whose
time falls within step 3 of a frequency change not before its end (R318); an event for a
copy that is not live changes nothing; `cpycancel` writes the number of copies it cancels. -/
def Sys2Proof.Claims.CopiesMoveLinesAndReportTheirStatus : Prop :=
  (∀ (id line : Nat) (s : State), s.copyOf id = none →
    ∀ i ∈ [Instr.copyLineLand id line, .copyComplete id, .cpytStart id, .cpyhStart id, .rdmaNak id], Yields i s (fun t => t = s))
  ∧ (∀ (id line va vb : Nat) (s : State) (c : Copy) (tr tw : Trans), s.copyOf id = some c → c.src = .memory va →
    c.dst = .memory vb →
    (s.lineReady c line = false → Yields (.copyLineLand id line) s (fun t => t = s))
    ∧ (∀ u v : State, s.lineReady c line = true → s.copyReach c (va + 64 * line) line .read = .ok (tr, u) → tr.tlb.mt ≤ 3 →
        isHostWindow tr.pa = false → u.copyReach c (vb + 64 * line) line .write = .ok (tw, v) → Inv v →
        Yields (.copyLineLand id line) s (fun t => StoredAt v.pkg t.pkg tw.pa 64 (littleAt u.pkg tr.pa 64)
          ∧ t.ctx.g = s.ctx.g ∧ t.core.lane = s.core.lane))
    ∧ (∀ u v : State, s.lineReady c line = true → s.copyReach c (va + 64 * line) line .read = .ok (tr, u) → tr.tlb.mt = 3 →
        isHostWindow tr.pa = true → (u.completion tr.pa).2.copyReach c (vb + 64 * line) line .write = .ok (tw, v) → Inv v →
        Yields (.copyLineLand id line) s (fun t => t.ctx.g = s.ctx.g ∧ t.core.lane = s.core.lane
          ∧ (StoredAt v.pkg t.pkg tw.pa 64 (littleAt u.pkg tr.pa 64) ∨ t = s.putCopy { c with stopped := true, status := c.status ||| 0x082 })))
    ∧ (s.lineReady c line = true → s.copyReach c (va + 64 * line) line .read = .error .wait →
        Yields (.copyLineLand id line) s (fun t => t = s)))
  ∧ (∀ (id : Nat) (s : State) (c : Copy), s.copyOf id = some c →
    (c.finished = false → Yields (.copyComplete id) s (fun t => t = s))
    ∧ (c.finished = true → c.ended = false → c.bound = none → 0 < c.dest → c.dest < 64 → s.copyMember c c.member = .here s.coreNo s.ctx.bank →
        Yields (.copyComplete id) s (fun t => t.ctx.gAt c.dest = c.final ∧ t.pkg.mem = s.pkg.mem
          ∧ t.ctx.eventFlag = true
          ∧ ∀ k, k ≠ c.dest → t.ctx.gAt k = s.ctx.gAt k))
    ∧ (c.form = 1 → timeReached s.pkg.cyc c.time = false → Yields (.cpytStart id) s (fun t => t = s))
    ∧ (c.form = 1 → s.pkg.mgmt.switching = true → c.time ≠ 0 → timeDelta (s.pkg.mgmt.switchAt + 8191) c.time ≤ 8191 →
        Yields (.cpytStart id) s (fun t => t = s))
    ∧ (c.form = 3 → timeReached s.pkg.cyc c.time = false → Yields (.cpyhStart id) s (fun t => t = s))
    ∧ (c.form = 1 → c.owner = s.coreNo → c.started = false → c.stopped = false → s.atHead c = true →
        timeReached s.pkg.cyc c.time = true → s.pkg.mgmt.switching = false → Yields (.cpytStart id) s (fun t => t.ctx = s.ctx ∧ t.pkg.mem = s.pkg.mem
          ∧ t.core.copies = s.core.copies.map (fun x => if x.id = c.id then
              { c with started := true, late := timeLate c.headCyc c.time } else x)))
    ∧ (c.form = 3 → c.started = false → c.stopped = false → timeReached s.pkg.cyc c.time = true →
        ((s.pkg.io c.io).bobbin.filter (fun x => x.started)).length < 64 →
        (∀ x ∈ (s.pkg.io c.io).bobbin, x.started = false → x.stopped = false → x.before s.pkg.cyc c = false) →
        Yields (.cpyhStart id) s (fun t => t.ctx = s.ctx ∧ t.pkg.mem = s.pkg.mem
          ∧ (t.pkg.io c.io).bobbin = (s.pkg.io c.io).bobbin.map (fun x => if x.id = c.id then { c with started := true } else x)))
    ∧ (c.form = 3 → c.started = true → c.stopped = false → c.finished = false → Yields (.rdmaNak id) s (fun t =>
        t.ctx = s.ctx ∧ t.pkg.mem = s.pkg.mem ∧ (t.pkg.io c.io).bobbin = (s.pkg.io c.io).bobbin.map (fun x =>
          if x.id = c.id then { c with stopped := true, status := c.status ||| 0x080 ||| 0x002 } else x))))
  ∧ (∀ (d a : BitVec 6) (s : State),
    (let hit := fun c : Copy => s.cancels ((s.gr a).toNat % 2 ^ 16) c
     Yields (.cpycancel d a) s (fun t =>
       t.gr d = (if d = 0 then 0 else word (((s.core.copies ++ s.pkg.io0.bobbin ++ s.pkg.io9.bobbin).filter hit).length))
       ∧ (∀ r, r ≠ d → t.gr r = s.gr r) ∧ t.pkg.mem = s.pkg.mem
       ∧ t.core.copies = s.core.copies.map (fun c => if hit c then c.cancel else c))))

/-- R197 to R200, R350 and R351: a copy form whose operands are legal takes G = min(VL, FREE) lines, sets VL to G and
adds one live copy of G lines with its options, in its engine queue or, for `cpyh`, in a bobbin engine; with VL = 0
and no binding it writes DONE with 0 lines to g[d] and sets the event flag, as `cpymc` does with an empty MASK, which
sets VL to 0; with FREE = 0 it waits. An operand that names no space traps PERMISSION, and a memory operand that is
not a multiple of 64 traps MISALIGNED, with EVAL = the operand. R200, R201, R203, R206 and R412: the events of
a copy and `cpycancel`. A line of a `cpy` between memory addresses that are ready moves its 64 bytes and leaves all
others; one from a host window does so too, or stops the copy with REMOTE and ERR where the host says so (assumption
144); a copy that has nothing left to do, with no binding, writes its status to its register in a strand that still runs, sets
its event flag, and leaves; a timed copy starts once its time is reached, and one whose time falls within step 3 of a
frequency change not before its end (R318); an event for a copy that is not live changes nothing; `cpycancel` writes
the number of copies it cancels. -/
def Obligations.CopiesStartMoveLinesAndReport : Prop :=
  Claims.CopyFormsStartACopy ∧ Claims.CopiesMoveLinesAndReportTheirStatus

/-! ### The Hoop (R27, R28, R151 to R175) -/

namespace Sys2Proof.Claims

/-- R152: the rows of a region over n rows; a band is clipped to n unless `whole`. -/
def regionOf (sel : BitVec 9) (n : Nat) (whole : Bool) : List Nat :=
  let low := sel.toNat % 128
  if sel.getLsbD 7 then
    ((List.range ((low % 8 + 1) * 8)).map (fun i => low / 8 * 8 + i)).filter (fun r => whole || decide (r < n))
  else if low = 0 then List.range n
  else if low = 1 then List.range ((n + 1) / 2)
  else (List.range n).filter (fun r => decide ((n + 1) / 2 ≤ r))

/-- R152: the encodings of a region. -/
def regionLegal (sel : BitVec 9) : Prop :=
  if sel.getLsbD 7 then sel.toNat % 128 / 8 * 8 + (sel.toNat % 8 + 1) * 8 ≤ 128 else sel.toNat % 128 ≤ 2

/-- The rows of a region form (R152), all within the allocation, and of a restartable one, from HCUR.ROW upward (R157). -/
def formRows (s : State) (sel : BitVec 9) : List Nat := regionOf sel (s.ctx.hshape.toNat % 2 ^ 8) false
def laterRows (s : State) (l : List Nat) : List Nat := l.filter (fun r => decide (s.ctx.hcur.toNat % 2 ^ 7 ≤ r))
def columns (s : State) : Nat := s.ctx.hshape.toNat / 2 ^ 8 % 2 ^ 7
def rowsHeld (s : State) (l : List Nat) : Prop :=
  (∀ r ∈ l, r < s.ctx.alloc.toNat / 2 ^ 24 % 2 ^ 8) ∧ s.ctx.hBase + s.ctx.hRows ≤ 128

/-- The record of cells (row, column) of a list. -/
def cellsFx (out : Nat → Nat → Nat × Fx) (l : List (Nat × Nat)) : Fx := l.foldl (fun f c => f.and (out c.1 c.2).2) Fx.none

/-- The cells of rows in their first n columns. -/
def grid (rows : List Nat) (n : Nat) : List (Nat × Nat) := rows.flatMap (fun r => (List.range n).map (fun c => (r, c)))

/-- `t` is `u` with the listed cells as `out` gives them, the rows of `rows` tagged by `tag`, every other cell and row as it
stood, the flags recorded and HCUR as given; but for HDIRTY nothing else differs. -/
def HoopWrote (u t : State) (rows : List Nat) (cells : List (Nat × Nat)) (tag : Nat → BitVec 5) (out : Nat → Nat → Nat × Fx)
    (hcur : Word) : Prop :=
  t = { u with core := { u.core with hoop := t.core.hoop }
               ctx := { recorded u.ctx (cellsFx out cells) with hdirty := t.ctx.hdirty, hcur := hcur } }
  ∧ ∀ r, r < s_hRows u → (t.row r).tag = (if r ∈ rows then tag r else (u.row r).tag)
      ∧ ∀ c, c < 64 → (t.row r).cell c = if (r, c) ∈ cells then (out r c).1 % 2 ^ 64 else (u.row r).cell c
where
  /-- ALLOC.HROWS. -/
  s_hRows (u : State) : Nat := u.ctx.alloc.toNat / 2 ^ 24 % 2 ^ 8

/-- R153: the input classes: tags of A and B, PICOT8, KI, the rank of a step, whether rows hold integers, and whether
`hrankx` takes the class. -/
structure InputClass where
  tags : List Nat
  picot : Bool
  ki : Nat
  step : Nat
  int : Bool
  scaled : Bool

def inputClasses : List InputClass :=
  [ ⟨[0x0B, 0x0C], false, 4, 2, false, false⟩, ⟨[0x03], false, 4, 2, true, false⟩, ⟨[0x08, 0x09], false, 8, 4, false, true⟩,
    ⟨[0x01, 0x02], false, 8, 4, true, false⟩, ⟨[0x0A], false, 16, 8, false, true⟩, ⟨[0x0A], true, 8, 8, false, true⟩,
    ⟨[0x0D], false, 2, 1, false, false⟩ ]

/-- R154: the code of A at slice k and row ρ, and of B at slice k and column c. -/
def panelBits (x : InputClass) (t : BitVec 5) : Nat := if t = tNarrow ∧ x.picot = false then 4 else tagWidth t
def aCode (x : InputClass) (ea : Entry) (k rho : Nat) : Nat := elem (panelBits x ea.tag) ea.data (128 * k + rho)
def bCode (x : InputClass) (eb : Entry) (k c : Nat) : Nat := elem (panelBits x eb.tag) eb.data (64 * k + c)

/-- R160: the product of slice k as the form takes it, over the integers and over the rationals; `hrankx` scales A by the code
of its row and B by the code of its column. -/
def intProduct (form : RankForm) (ea eb : Entry) (x : InputClass) (rho c k : Nat) : Int :=
  (if form = .negated then -1 else 1) * readInt (signedTag ea.tag) (tagWidth ea.tag) (aCode x ea k rho)
    * readInt (signedTag eb.tag) (tagWidth eb.tag) (bCode x eb k c)
def aValue (x : InputClass) (ea : Entry) (k rho : Nat) : Val := (valueOf ea.tag x.picot (aCode x ea k rho)).1
def bValue (x : InputClass) (eb : Entry) (k c : Nat) : Val := (valueOf eb.tag x.picot (bCode x eb k c)).1
def ratProduct (form : RankForm) (ea eb : Entry) (x : InputClass) (rho c k : Nat) : Rat :=
  (if form = .negated then -1 else 1) * ratOf (aValue x ea k rho) * ratOf (bValue x eb k c)
    * (if form = .scaled then (2 : Rat) ^ ((elem 8 eb.data (512 + rho) : Int) + (elem 8 eb.data (640 + c) : Int) - 254) else 1)

/-- The values that the form takes for a cell are finite. -/
def finiteInputs (form : RankForm) (ea eb : Entry) (x : InputClass) (rho c : Nat) : Prop :=
  (∀ k, k < x.ki → finite (aValue x ea k rho) = true ∧ finite (bValue x eb k c) = true)
  ∧ (form = .scaled → elem 8 eb.data (512 + rho) ≠ 0xFF ∧ elem 8 eb.data (640 + c) ≠ 0xFF)

/-- R93 and R160: a cell through the steps of the class in ascending order: each adds the exact sum of its products to the
cell and saturates or rounds once. The record of each step is added to that of the cell. -/
def CellSteps (form : RankForm) (s : State) (ea eb : Entry) (x : InputClass) (t : BitVec 5) (rho c old : Nat) (out : Nat × Fx) : Prop :=
  ∃ (v : Nat → Nat) (fx : Nat → Fx), v 0 = old ∧ out = (v (x.ki / x.step), totalFx (fun j => (0, fx j)) (List.range (x.ki / x.step)))
    ∧ ∀ j, j < x.ki / x.step →
      (x.int = true → (let y := readInt true (tagWidth t) (v j)
          + ((List.range x.step).map (fun i => intProduct form ea eb x rho c (j * x.step + i))).sum
        v (j + 1) = wrapTo (tagWidth t) (clampTo t y) ∧ fx j = (if clampTo t y = y then Fx.none else Fx.satF)))
      ∧ (x.int = false → finiteInputs form ea eb x rho c → finite ((tagFmt t).ieeeValue (v j)) = true → ∃ y : Val,
          finite y = true ∧ ratOf y = ratOf ((tagFmt t).ieeeValue (v j))
            + ((List.range x.step).map (fun i => ratProduct form ea eb x rho c (j * x.step + i))).sum
          ∧ roundIeee (tagFmt t) y s.ctx.rm = (v (j + 1), fx j))

/-- R153: the row tags of a class. -/
def rowTagsOk (s : State) (x : InputClass) (rows : List Nat) : Prop :=
  ∀ r ∈ rows, (s.row r).poison = false
    ∧ ((s.row r).tag.toNat ∈ if x.int then [0x05, 0x07] else [0x0D, 0x0E])

/-- R28: the cells of a slice by element. -/
def sliceOf (s : State) (sel : BitVec 9) : List (Nat × Nat) :=
  let k := sel.toNat % 128
  let n := s.ctx.alloc.toNat / 2 ^ 24 % 2 ^ 8
  if sel.toNat / 128 = 0 then (List.range 64).map (fun i => (k, i))
  else (List.range n).map (fun i => (i,
    if sel.toNat / 128 = 1 then k % 64 else if sel.toNat / 128 = 2 then (i + k) % 64 else (k + 128 - i % 64) % 64))

/-- The slice lies in the allocation (R28). -/
def sliceHeld (s : State) (sel : BitVec 9) : Prop :=
  (sel.toNat / 128 = 0 → sel.toNat % 128 < s.ctx.hRows) ∧ s.ctx.hBase + s.ctx.hRows ≤ 128

/-- R163: the elements of a slice that move at a width, and the element that a cell holds. -/
def movedCells (s : State) (sel : BitVec 9) (w : Nat) : List (Nat × Nat) := (sliceOf s sel).take (vlmaxOf w)
def cellIndex (s : State) (sel : BitVec 9) (r c : Nat) : Nat := (sliceOf s sel).findIdx (fun x => x == (r, c))

/-- R167: element i of a vector operand, and 0 beyond its elements. -/
def operandOf (e : Entry) (i : Nat) : Val :=
  (valueOf e.tag false (if i < vlmaxOf (tagWidth e.tag) then elem (tagWidth e.tag) e.data i else zeroCode e.tag false)).1

/-- The accumulating tags. -/
def accTags : List Nat := [0x05, 0x07, 0x0D, 0x0E]

/-- R167: the epilogue forms with an operand whose result keeps the rows' tag: the row tags, the operand's tags for a row tag,
which operand element a cell takes, and the new cell from the rows' tag, the operand's value and the code. -/
noncomputable def epilogueForms : List ((BitVec 9 → BitVec 6 → Instr) × List Nat × (BitVec 5 → BitVec 5 → Bool) × (Nat → Nat → Nat)
    × (RMode → BitVec 5 → Val → Nat → Nat × Fx)) :=
  let family := fun t u : BitVec 5 => if intTagOk t then intTagOk u else wideTag u
  [ (.hbiasc, accTags, family, fun _ c => c, fun m t v x => hoopAdd t x v m),
    (.hbiasr, accTags, family, fun r _ => r, fun m t v x => hoopAdd t x v m),
    (.hscalc, accTags, family, fun _ c => c, fun m t v x =>
      if intTagOk t then
        (let y := readInt true (tagWidth t) x * v.num
         (wrapTo (tagWidth t) (clampTo t y), if clampTo t y = y then Fx.none else Fx.satF))
      else scaledTo t t false x v m false),
    (.hnorm, [0x0D, 0x0E], fun _ u => u == tF32, fun r _ => r, fun m t v x => scaledTo t t false x v m false) ]

/-- A save or restore image slot is reached in the state as it stands: the data and the tag byte of one row or entry. -/
def SlotAt (s : State) (acc : Acc) (base : Nat) (k : ImageKind) (n d t : Nat) : Prop :=
  ∃ x y, s.vreach ((base + k.size * n) % 2 ^ 64) k.size acc = .ok (x, s) ∧ s.vreach ((base + k.tags + n) % 2 ^ 64) 1 acc = .ok (y, s)
    ∧ x.pa = d ∧ y.pa = t

end Sys2Proof.Claims

/-- R153 to R160: `hrank`, `hranks` and, for the classes with scales, `hrankx` update every active cell of their rows through
the steps of their class; they change no other cell, and an enabled flag traps ARITH with nothing changed; with no trap enabled each completes
whatever its elements and cells hold. -/
def Sys2Proof.Claims.RankFormsUpdateEachActiveCell : Prop :=
  ∀ p ∈ [(Instr.hrank, RankForm.plain), (.hranks, .negated), (.hrankx, .scaled)], ∀ x ∈ inputClasses,
    ∀ (sel : BitVec 9) (a b : BitVec 6) (s s1 u : State) (ea eb : Entry), regionLegal sel → rowsHeld s (formRows s sel) →
    s.takeV a = .ok (ea, s1) → s1.takeV b = .ok (eb, u) → sel.getLsbD 8 = x.picot → ea.tag.toNat ∈ x.tags → eb.tag.toNat ∈ x.tags →
    (p.2 = .scaled → x.scaled = true) → s.pkg.mgmt.level ≠ 2 → rowTagsOk s x (formRows s sel) → columns s ≤ 64 →
    ∃ out : Nat → Nat → Nat × Fx,
      (let cells := grid (formRows s sel) (columns s)
       (∀ r ∈ formRows s sel, ∀ c, c < columns s → CellSteps p.2 s ea eb x (s.row r).tag r c
         ((s.row r).cell c % 2 ^ tagWidth (s.row r).tag) (out r c))
       ∧ (¬ enabledIn s (cellsFx out cells) → Yields (p.1 sel a b) s (fun t =>
           HoopWrote u t (formRows s sel) cells (fun r => (s.row r).tag) out s.ctx.hcur))
       ∧ (enabledIn s (cellsFx out cells) → Yields (p.1 sel a b) s (fun t =>
           Trapped s t 0x09 ((cellsFx out cells).flags.zeroExtend 64)
             ∧ (s.ctx.live = [] → s.ctx.resume = false → t.core = s.core)))
       ∧ (untrapped s → Yields (p.1 sel a b) s (fun t =>
           HoopWrote u t (formRows s sel) cells (fun r => (s.row r).tag) out s.ctx.hcur)))

/-- R161 and R162: `hrankg` updates the rows of each group, from the first row of its set on, with that group's B panel; a
group of no rows is counted as skipped and rows beyond the set as clipped in the rank status word; with no trap enabled
it completes whatever its elements and cells hold. -/
def Sys2Proof.Claims.GroupedRankUpdatesItsGroups : Prop :=
  ∀ x ∈ inputClasses, ∀ (sel : BitVec 9) (a b : BitVec 6) (s s1 s2 u : State) (ea eb : Entry) (es : List Entry), regionLegal sel →
    rowsHeld s (formRows s sel) → s.takeV a = .ok (ea, s1) → s1.takeV b = .ok (eb, s2) →
    s2.takeGroups b.toNat ((List.range (elem 8 eb.data 512 % 8 + 1)).drop 1) = .ok (es, u) →
    sel.getLsbD 8 = x.picot → ea.tag.toNat ∈ x.tags → (∀ e ∈ eb :: es, e.tag.toNat ∈ x.tags) → s.pkg.mgmt.level ≠ 2 →
    rowTagsOk s x (formRows s sel) → columns s ≤ 64 →
    (formRows s sel = [] → Yields (.hrankg sel a b) s (fun t => t = u))
    ∧ (∀ first last : Nat, formRows s sel = (List.range (last + 1 - first)).map (fun i => first + i) → first ≤ last →
      (let count := fun g => elem 8 eb.data (514 + 2 * g) + 256 * elem 8 eb.data (515 + 2 * g)
       let base := fun g => first + ((List.range g).map count).sum
       let groups := List.range (elem 8 eb.data 512 % 8 + 1)
       let rows := fun g => (List.range (Nat.min (count g) (last + 1 - base g))).map (fun i => base g + i)
       let cells := grid (groups.flatMap rows) (columns s)
       let clipped := (groups.map (fun g => count g - (rows g).length)).sum
       let skipped := (groups.filter (fun g => decide (count g = 0))).length
       ∃ out : Nat → Nat → Nat × Fx,
         (∀ g ∈ groups, ∀ r ∈ rows g, ∀ c, c < columns s → ∀ e, (eb :: es)[g]? = some e →
           CellSteps .plain s ea e x (s.row r).tag r c ((s.row r).cell c % 2 ^ tagWidth (s.row r).tag) (out r c))
         ∧ ((¬ enabledIn s (cellsFx out cells) ∨ untrapped s) → Yields (.hrankg sel a b) s (fun t => ∃ m,
             HoopWrote u m (groups.flatMap rows) cells (fun r => (s.row r).tag) out s.ctx.hcur
             ∧ t = { m with ctx := { m.ctx with rankStatus := t.ctx.rankStatus } }
             ∧ (let q := s.ctx.rankStatus
                let w := t.ctx.rankStatus
                w.toNat / 2 ^ 16 % 2 ^ 16 = Nat.min 0xFFFF (q.toNat / 2 ^ 16 % 2 ^ 16 + clipped)
                ∧ w.toNat / 2 ^ 8 % 2 ^ 8 = Nat.min 0xFF (q.toNat / 2 ^ 8 % 2 ^ 8 + skipped)
                ∧ w.getLsbD 0 = (q.getLsbD 0 || decide (0 < clipped)) ∧ w.getLsbD 1 = (q.getLsbD 1 || decide (0 < skipped)))))))

/-- R153 to R160: `hrank`, `hranks` and, for the classes with scales, `hrankx` update every active cell of their rows
through the steps of their class; they change no other cell, and an enabled flag traps ARITH with nothing changed;
with no trap enabled each completes whatever its elements and cells hold. R161 and R162: `hrankg` updates the rows of
each group, from the first row of its set on, with that group's B panel; a group of no rows is counted as skipped and
rows beyond the set as clipped in the rank status word; with no trap enabled it completes whatever its elements and
cells hold. -/
def Obligations.RankFormsUpdateTheirActiveCells : Prop :=
  Claims.RankFormsUpdateEachActiveCell ∧ Claims.GroupedRankUpdatesItsGroups


/-- R163 to R166: `hget` copies the low bits of a slice's cells into an entry under the rows' common tag; `hput` writes its
elements into the cells and tags their rows, where the layout of the rows allows it; `hacc` adds an entry's elements to
cells of its own tag; `hzero` zeroes the rows it has still to process and tags them. -/
def Obligations.SliceMovesAndZeroWriteTheirCells : Prop :=
  (∀ (sel : BitVec 9) (a : BitVec 6) (s : State) (tag : BitVec 5), sliceHeld s sel → s.checkRef (s.vref a) = .ok () →
    s.checkRoom (s.vref a) = .ok () → (∀ x ∈ sliceOf s sel, (s.row x.1).tag = tag) → sliceOf s sel ≠ [] →
    (∀ x ∈ movedCells s sel (tagWidth tag), (s.row x.1).poison = false) →
    Yields (.hget sel a) s (fun t => ∃ v : Entry, t = s.putRef (s.vref a) v ∧ v.tag = tag ∧ v.poison = false
      ∧ ∀ i, i < 8192 / tagWidth tag → elem (tagWidth tag) v.data i =
        match (movedCells s sel (tagWidth tag))[i]? with
        | some x => (s.row x.1).cell x.2 % 2 ^ tagWidth tag
        | none => zeroOf tag % 2 ^ tagWidth tag))
  ∧ (∀ (sel : BitVec 9) (a : BitVec 6) (s u : State) (ea : Entry), sliceHeld s sel → s.takeV a = .ok (ea, u) →
    (let w := tagWidth ea.tag
     let moved := movedCells s sel w
     (ea.tag.toNat ≤ 0x11 →
       (sel.toNat / 128 ≠ 0 → ∀ x ∈ moved, (tagWidth (s.row x.1).tag = w ∨ (w < 32 ∧ tagWidth (s.row x.1).tag < 32))) →
       Yields (.hput sel a) s (fun t => HoopWrote u t (moved.map (fun x => x.1)) moved (fun _ => ea.tag)
         (fun r c => (elem w ea.data (cellIndex s sel r c), Fx.none)) s.ctx.hcur))
     ∧ (ea.tag.toNat ∈ accTags → (∀ x ∈ sliceOf s sel, (s.row x.1).tag = ea.tag) → (∀ x ∈ moved, (s.row x.1).poison = false) →
       (let out := fun r c => hoopAdd ea.tag ((s.row r).cell c) (valueOf ea.tag false (elem w ea.data (cellIndex s sel r c))).1 s.ctx.rm
        ¬ enabledIn s (cellsFx out moved) → Yields (.hacc sel a) s (fun t =>
          HoopWrote u t (moved.map (fun x => x.1)) moved (fun _ => ea.tag) out s.ctx.hcur)))))
  ∧ (∀ (sel : BitVec 9) (tag : BitVec 5) (s : State), regionLegal sel → rowsHeld s (formRows s sel) → tag.toNat ≤ 0x12 →
    (sel.getLsbD 8 = true → tag = tNarrow) →
    Yields (.hzero sel tag) s (fun t => HoopWrote s t (laterRows s (formRows s sel)) (grid (laterRows s (formRows s sel)) 64)
      (fun _ => tag) (fun _ _ => (zeroCode tag (sel.getLsbD 8), Fx.none)) 0))

/-- R157, R167 and R168: the epilogue forms process the active cells of the rows from HCUR.ROW upward in place and leave
HCUR.ROW 0, where no cell records an enabled flag: biases, scalings, the norm, the rectifier, the clamp between two bounds,
and `hrq`, which rounds each scaled cell to its target tag. -/
def Obligations.EpilogueFormsProcessTheirRows : Prop :=
  ∀ (sel : BitVec 9) (a : BitVec 6) (s : State) (t0 : BitVec 5), regionLegal sel → rowsHeld s (formRows s sel) → columns s ≤ 64 →
    (let rows := laterRows s (formRows s sel)
     let cells := grid rows (columns s)
     let code := fun r c => (s.row r).cell c % 2 ^ tagWidth t0
     let calm := fun out : Nat → Nat → Nat × Fx => ∀ x ∈ cells, ¬ enabledIn s (out x.1 x.2).2
     (∀ r ∈ rows, (s.row r).tag = t0 ∧ (s.row r).poison = false) → rows ≠ [] →
     (∀ (u : State) (ea : Entry), s.takeV a = .ok (ea, u) →
       (∀ p ∈ epilogueForms, t0.toNat ∈ p.2.1 → p.2.2.1 t0 ea.tag = true →
         (let out := fun r c => p.2.2.2.2 s.ctx.rm t0 (operandOf ea (p.2.2.2.1 r c)) (code r c)
          calm out → Yields (p.1 sel a) s (fun t => HoopWrote u t rows cells (fun _ => t0) out 0)))
       ∧ (t0.toNat ∈ accTags → (if intTagOk t0 then intTagOk ea.tag else wideTag ea.tag) = true →
         (let out := fun r c => clampCell t0 (code r c) (operandOf ea 0) (operandOf ea 1) s.ctx.rm
          calm out → Yields (.hclamp sel a) s (fun t => HoopWrote u t rows cells (fun _ => t0) out 0)))
       ∧ (∀ tag : BitVec 5, t0.toNat ∈ accTags → ea.tag = tF32 → (tag.toNat ∈ [1, 2, 3, 4, 5, 8, 9, 0x0A, 0x0B, 0x0C, 0x0D]) →
         (sel.getLsbD 8 = true → tag = tNarrow) →
         (let out := fun r c => scaledTo tag t0 (sel.getLsbD 8) (code r c) (operandOf ea c) s.ctx.rm (s.ctx.acr.getLsbD 4)
          calm out → Yields (.hrq sel a tag) s (fun t => HoopWrote u t rows cells (fun _ => tag) out 0))))
     ∧ (t0.toNat ∈ accTags ++ [0x0B, 0x0C] → Yields (.hrelu sel) s (fun t => HoopWrote s t rows cells (fun _ => t0) (fun r c =>
         (let v := (valueOf t0 false (code r c)).1
          if v.isNan = false ∧ v.sign = true then 0 else code r c, Fx.none)) 0)))

/-- R169, R170 and R175: `hsumsq` writes for each of its rows the sum of the squares of finite active cells, exact and
rounded once, and completes whatever they hold where no trap is enabled; the special functions post every row's result to commit 16 core cycles later; `hdmap` reads and clears the
rank status word and reads HDIRTY. -/
def Obligations.RowSumsFunctionsAndStatus : Prop :=
  (∀ (sel : BitVec 9) (a : BitVec 6) (s : State) (t0 : BitVec 5), regionLegal sel → rowsHeld s (formRows s sel) →
    s.checkRef (s.vref a) = .ok () → s.checkRoom (s.vref a) = .ok () → (t0 = tF32 ∨ t0 = tF64) →
    (let rows := (formRows s sel).filter (fun r => decide (r < vlmaxOf (tagWidth t0)))
     let v := fun r c => (tagFmt t0).ieeeValue ((s.row r).cell c % 2 ^ tagWidth t0)
     formRows s sel ≠ [] → (∀ r ∈ formRows s sel, (s.row r).tag = t0 ∧ (s.row r).poison = false) →
     (∀ r ∈ rows, ∀ c, c < columns s → finite (v r c) = true) →
     ∃ out : Nat → Nat × Fx,
       (∀ r ∈ rows, ∃ y : Val, finite y = true ∧ ratOf y = ((List.range (columns s)).map (fun c => ratOf (v r c) * ratOf (v r c))).sum
         ∧ roundIeee (tagFmt t0) y s.ctx.rm = out r)
       ∧ (¬ enabledIn s (totalFx out rows) → Yields (.hsumsq sel a) s (fun t => ∃ w,
           EntryWith (zeroOf t0) (tagWidth t0) s a rows t0 (fun r => (out r).1) w
           ∧ t = (let p := s.putRef (s.vref a) w
                  { p with ctx := recorded p.ctx (totalFx out rows) }))))
    ∧ (let rows := (formRows s sel).filter (fun r => decide (r < vlmaxOf (tagWidth t0)))
       formRows s sel ≠ [] → (∀ r ∈ formRows s sel, (s.row r).tag = t0 ∧ (s.row r).poison = false) → untrapped s →
       Yields (.hsumsq sel a) s (fun t => ∃ (out : Nat → Nat × Fx) (w : Entry),
         EntryWith (zeroOf t0) (tagWidth t0) s a rows t0 (fun r => (out r).1) w
         ∧ t = (let p := s.putRef (s.vref a) w
                { p with ctx := recorded p.ctx (totalFx out rows) }))))
  ∧ (∀ p ∈ [(Instr.hexp2, SfuForm.exp2), (.hrcp, .rcp), (.htanh, .tanh), (.hrsq, .rsq)], ∀ (sel : BitVec 9) (s : State),
    regionLegal sel → rowsHeld s (formRows s sel) → columns s ≤ 64 →
    (∀ r ∈ formRows s sel, (s.row r).tag.toNat ∈ [0x0B, 0x0C, 0x0D] ∧ (s.row r).poison = false) →
    Yields (p.1 sel) s (fun t => ∃ posts : List Shadow, t = { s with ctx := { s.ctx with live := s.ctx.live ++ posts } }
      ∧ posts.map (fun x => (x.kind, x.at_, x.tag)) = (formRows s sel).map (fun r => (.hsfu r, s.core.clock + 16, (s.row r).tag))
      ∧ ∀ x ∈ posts, ∀ r, x.kind = .hsfu r → ∀ c, c < 64 → elem 64 x.data c =
          if c < columns s then (sfu p.2 (s.row r).tag.toNat (tagFmt (s.row r).tag)
            ((s.row r).cell c % 2 ^ tagWidth (s.row r).tag)).1 % 2 ^ 64 else (s.row r).cell c))
  ∧ (∀ (a : BitVec 6) (s : State),
    Yields (.hdmap 0 a) s (fun t => WroteG { s with ctx := { s.ctx with rankStatus := 0 } } t a s.ctx.rankStatus)
    ∧ Yields (.hdmap 1 a) s (fun t => WroteG s t a s.ctx.rankStatus)
    ∧ ((∀ x ∈ s.ctx.board, x.due ≤ s.core.clock) → Yields (.hdmap 2 a) s (fun t => WroteG s t a (s.ctx.hdirty.extractLsb' 0 64))
        ∧ Yields (.hdmap 3 a) s (fun t => WroteG s t a (s.ctx.hdirty.extractLsb' 64 64))))

/-- R171 to R174: where every slot of the image is reached at once, `hsave` and `vsave` to the strand's own die store the data and the
tag byte of each dirty row or entry from their cursor on, or of each with FULL, leave every other byte of memory, clear
the dirty bits and leave the cursor 0; `hrest` and `vrest` give each row or entry the data and tag of its image, or zeros and RAW
where the image does not hold it. A base that is not a multiple of 1,024 traps MISALIGNED. -/
def Obligations.SavesAndRestoresMoveTheirImage : Prop :=
  ∀ (sel : BitVec 9) (a b : BitVec 6) (s : State) (d t : Nat → Nat), s.ctx.live = [] → Inv s → s.ctx.fences = [] →
    s.pkg.knows s.core.die s.core.knotv = true →
    (let base := (s.gr a).toNat
     let full := (s.gr b).getLsbD 0
     let rows := laterRows s (regionOf sel s.ctx.hRows true)
     let entries := (List.range s.ctx.lfSize).filter (fun e => decide (startOf s ≤ e))
     let own := fun (pa n : Nat) => s.pkg.overlay (clusterOf s.coreNo) pa n = []
     let home := fun pa : Nat => s.pkg.homeOf pa = some s.core.die
     let apart := fun (l : List Nat) (size : Nat) => ∀ m ∈ l, ∀ n ∈ l, (m ≠ n → d m + size ≤ d n ∨ d n + size ≤ d m)
       ∧ (t m < d n ∨ d n + size ≤ t m) ∧ (m ≠ n → t m ≠ t n)
     (base % 1024 ≠ 0 → ∀ i ∈ [Instr.hsave sel a b, .hrest sel a b, .vsave a b, .vrest a b],
       Yields i s (fun u => Trapped s u 0x05 (s.gr a)))
     ∧ (base % 1024 = 0 → regionLegal sel → rowsHeld s (regionOf sel s.ctx.hRows true) →
       (let saved := rows.filter (fun r => full || s.ctx.hdirty.getLsbD r)
        (∀ r ∈ saved, SlotAt s .write base hoopImage r (d r) (t r) ∧ own (d r) 512 ∧ own (t r) 1
          ∧ (∀ i, i < 512 → home (d r + i)) ∧ home (t r)) → apart saved 512 →
          Yields (.hsave sel a b) s (fun u =>
            (∀ r ∈ saved, littleAt u.pkg (d r) 512 = (s.row r).cells.toNat
              ∧ (u.pkg.mem.read (t r)).toNat = 128 + (s.row r).tag.toNat)
            ∧ (∀ pa, (∀ r ∈ saved, (pa < d r ∨ d r + 512 ≤ pa) ∧ pa ≠ t r) → u.pkg.mem.read pa = s.pkg.mem.read pa)
            ∧ (∀ r, r < 128 → u.ctx.hdirty.getLsbD r = (s.ctx.hdirty.getLsbD r && decide (r ∉ saved)))
            ∧ u.ctx.hcur = 0 ∧ u.ctx.g = s.ctx.g ∧ u.core.hoop = s.core.hoop))
       ∧ ((∀ r ∈ rows, SlotAt s .read base hoopImage r (d r) (t r) ∧ own (d r) 512 ∧ own (t r) 1
            ∧ s.pkg.poisonIn (d r) 512 = [] ∧ s.pkg.poisonIn (t r) 1 = []
            ∧ ((s.pkg.mem.read (t r)).toNat < 128 ∨ (s.pkg.mem.read (t r)).toNat % 32 ≤ 0x12)) →
          Yields (.hrest sel a b) s (fun u =>
            (∀ r ∈ rows, if (s.pkg.mem.read (t r)).toNat < 128 then u.row r = Row.zero
              else (u.row r).tag.toNat = (s.pkg.mem.read (t r)).toNat % 32 ∧ (u.row r).poison = false
                ∧ (u.row r).cells.toNat = littleAt s.pkg (d r) 512)
            ∧ (∀ r, r < s.ctx.hRows → r ∉ rows → u.row r = s.row r)
            ∧ (∀ r ∈ rows, u.ctx.hdirty.getLsbD r = false)
            ∧ u.ctx.hcur = 0 ∧ u.ctx.g = s.ctx.g ∧ SameButBanks s.pkg u.pkg)))
     ∧ (base % 1024 = 0 → s.ctx.lfBase + s.ctx.lfSize ≤ 256 →
       (let saved := entries.filter (fun e => full || s.ctx.dirty.getLsbD e)
        (∀ e ∈ saved, SlotAt s .write base laneImage e (d e) (t e) ∧ own (d e) 1024 ∧ own (t e) 1
          ∧ (∀ i, i < 1024 → home (d e + i)) ∧ home (t e)) → apart saved 1024 →
          Yields (.vsave a b) s (fun u =>
            (∀ e ∈ saved, littleAt u.pkg (d e) 1024 = (s.entry e).data.toNat
              ∧ (u.pkg.mem.read (t e)).toNat = 128 + (s.entry e).tag.toNat)
            ∧ (∀ pa, (∀ e ∈ saved, (pa < d e ∨ d e + 1024 ≤ pa) ∧ pa ≠ t e) → u.pkg.mem.read pa = s.pkg.mem.read pa)
            ∧ (∀ e, e < 256 → u.ctx.dirty.getLsbD e = (s.ctx.dirty.getLsbD e && decide (e ∉ saved)))
            ∧ u.ctx.vstart = 0 ∧ u.ctx.g = s.ctx.g ∧ u.core.lane = s.core.lane))
       ∧ ((∀ e ∈ entries, SlotAt s .read base laneImage e (d e) (t e) ∧ own (d e) 1024 ∧ own (t e) 1
            ∧ s.pkg.poisonIn (d e) 1024 = [] ∧ s.pkg.poisonIn (t e) 1 = []
            ∧ ((s.pkg.mem.read (t e)).toNat < 128 ∨ (s.pkg.mem.read (t e)).toNat % 32 ≤ 0x12)) →
          Yields (.vrest a b) s (fun u =>
            (∀ e ∈ entries, if (s.pkg.mem.read (t e)).toNat < 128 then u.entry e = Entry.zero
              else (u.entry e).tag.toNat = (s.pkg.mem.read (t e)).toNat % 32 ∧ (u.entry e).poison = false
                ∧ (u.entry e).data.toNat = littleAt s.pkg (d e) 1024)
            ∧ (∀ e ∈ entries, u.ctx.dirty.getLsbD e = false)
            ∧ u.ctx.vstart = 0 ∧ u.ctx.g = s.ctx.g ∧ SameButBanks s.pkg u.pkg))))
/-! ### Tasks and strands (R122 to R128, R268, R360 to R386) -/

/-- R122 to R128: `tspawn` releases, reads its record of 64 bytes and sends it to its queue's I/O die, from which g[d]
takes the answer later, and traps MISALIGNED where the record does not lie on 64 bytes; `tend` releases, waits until the
release has reached its queue's I/O die, and ends its strand, whose bank holds no context, and a member's exit word
joins its task; `tyield` and `gjoin` wait for their teams; `gleave` dissolves the gang; `tbank` switches to a bank that
is ready; `trec` reads a word of the launch record, which is a free value where there is no task. -/
def Sys2Proof.Claims.TaskInstructionsActOnTheirTask : Prop :=
  ∀ (d a b : BitVec 6) (s : State),
    ((s.gr a).toNat % 64 ≠ 0 → Yields (.tspawn d a b) s (fun t => Trapped s t 0x05 (s.gr a)))
    ∧ (∀ (tr : Trans) (u r : State) (h : Nat), (s.gr a).toNat % 64 = 0 → s.translate .l1 (s.gr a).toNat .read = .ok (tr, u) →
        tr.tlb.mt ≠ 4 → s.interlocked (s.gr a).toNat 64 false = false → u.pkg.homeOf tr.pa = some h →
        u.pkg.homeGone tr.pa = false → s.underWay .released = none → u.release 5 = .ok r →
        (r.pkg.homeReady s.core.die h r.core.knotv = false → Yields (.tspawn d a b) s (fun t =>
          t.stalled = true ∧ t.ctx.stallReason = 1 ∧ t.ctx.g = s.ctx.g ∧ t.pkg = r.pkg
          ∧ ∃ q ∈ t.ctx.pending, q.kind = .released))
        ∧ (r.pkg.homeReady s.core.die h r.core.knotv = true → r.pkg.overlay (clusterOf s.coreNo) tr.pa 64 = [] →
            r.pkg.poisonIn tr.pa 64 = [] → Yields (.tspawn d a b) s (fun t =>
              t.stalled = s.stalled ∧ t.ctx.g = s.ctx.g ∧ t.pkg.mem = r.pkg.mem ∧ ∃ (q : Pending) (x : SpawnReq),
              t.ctx.pending = r.ctx.pending ++ [q] ∧ q.kind = .spawn ∧ q.issued = true ∧ q.answer = none ∧ q.dest = d.toNat
              ∧ (t.pkg.io (queueIo (s.gr b).toNat)).spawns = (r.pkg.io (queueIo (s.gr b).toNat)).spawns ++ [x]
              ∧ x.queue = (s.gr b).toNat ∧ x.dest = d.toNat ∧ x.core = s.coreNo ∧ x.bank = s.ctx.bank ∧ x.tag = q.tag
              ∧ x.handle = s.ctx.taskh
              ∧ x.words = (List.range 8).map (fun i => word (littleAt r.pkg (tr.pa + 8 * i) 8)))))
    ∧ (∀ u : State, s.ctx.gang = false → s.underWay .released = none → s.releaseAll [(s.coreNo, s.ctx.bank)] = (u, true) →
        (s.ctx.system = true ∨ s.trailerBusy = false) → u.coreNo = s.coreNo → u.ctx.bank = s.ctx.bank →
        (u.pkg.homeReady u.core.die (handleIo u.ctx.taskh) u.core.knotv = false → Yields (.tend a) s (fun t =>
          t.stalled = true ∧ t.ctx.stallReason = 1 ∧ t.ctx.g = u.ctx.g ∧ t.pkg = u.pkg ∧ ∃ q ∈ t.ctx.pending, q.kind = .released))
        ∧ (u.pkg.homeReady u.core.die (handleIo u.ctx.taskh) u.core.knotv = true →
          Yields (.tend a) s (fun t => t.ctx = u.ctx.vacated)))
    ∧ (∀ q : Pending, s.ctx.gang = false → s.underWay .released = some q →
        s.pkg.homeReady s.core.die (handleIo s.ctx.taskh) s.core.knotv = true →
        (s.ctx.system = true → Yields (.tend a) s (fun t => t.ctx = s.ctx.vacated))
        ∧ (s.ctx.system = false → s.trailerBusy = false → Yields (.tend a) s (fun t => t.ctx = s.ctx.vacated
            ∧ ∀ k : Task, s.pkg.task s.ctx.taskh = some k → k.state ≠ .stopping →
              (insertNat s.ctx.member k.ended).length ≠ k.size →
              t.pkg.task s.ctx.taskh = some { k with exits := k.exits.set s.ctx.member (s.gr a)
                                                     ended := insertNat s.ctx.member k.ended })))
    ∧ (s.ctx.system = false → s.trailerBusy = true → Yields (.tend a) s (fun t => Waits s t ∧ t.ctx.stallReason = 1))
    ∧ (s.myTask = none → Yields .tyield s (fun t => t = s)
        ∧ Yields .gjoin s (fun t => Trapped s t 0x07 0x30000)
        ∧ Yields (.trec d a) s (fun t => ∃ v, WroteG { s with free := s.free + 1 } t d v))
    ∧ (∀ k : Task, s.myTask = some k →
        Yields .tyield s (fun t => Waits s t ∧ (∃ w, t.ctx.wait = some w ∧ w.kind = .tyield)
          ∧ t.myTask = some { k with yielded := insertNat s.ctx.member k.yielded })
        ∧ (k.isGang = false → Yields .gjoin s (fun t => Trapped s t 0x07 0x30000))
        ∧ (k.isGang = true → Yields .gjoin s (fun t => Waits s t ∧ (∃ w, t.ctx.wait = some w ∧ w.kind = .gjoin)
          ∧ t.myTask = some { k with joined := insertNat s.ctx.member k.joined }))
        ∧ Yields (.trec d a) s (fun t => WroteG s t d (k.words.getD ((s.gr a).toNat % 8) 0))
        ∧ (s.ctx.seqr = true → k.cores = [s.coreNo] → s.ctx.holds = true → Yields .gleave s (fun t =>
          t.ctx.gang = false ∧ t.ctx.seqr = false ∧ t.ctx.follower = false ∧ t.ctx.g = s.ctx.g
          ∧ t.myTask = some { k with gang := false, joined := [] })))
    ∧ (s.ctx.seqr = false → Yields .gleave s (fun t => Trapped s t 0x07 0x30001))
    ∧ Yields .tbank s (fun t => t = { s with switch := s.switch || (s.other.ready && !s.ctx.gang) })

/-- R107: the context goes on at the address `at_` after a wait: where that is the end of an active loop's body the
iteration ends, and the body runs again or the loop is over. -/
def Sys2Proof.Claims.GoesOnAt (s t : State) (at_ : Word) : Prop :=
  let ends := s.ctx.lc.getLsbD 42 = true ∧ at_ = s.ctx.first + word (4 * (s.ctx.lc.toNat / 2 ^ 32 % 2 ^ 6))
  (¬ ends → t.ctx.pc = at_ ∧ t.ctx.lc = s.ctx.lc)
  ∧ (ends → (t.ctx.lc.getLsbD 42 = true ∧ t.ctx.pc = s.ctx.first) ∨ (t.ctx.lc.getLsbD 42 = false ∧ t.ctx.pc = at_))

/-- R107, R125, R127 and R377: the rendezvous of `gjoin` and `tyield`, for a task of one member on the core in focus: once
it has joined, the member is the sequencer of its gang; once it has yielded, it goes on where no READY task of equal or
higher class could take its core, and else stops to be saved. While a member is missing nothing changes. -/
def Sys2Proof.Claims.RendezvousLetTheirTeamsGoOn : Prop :=
  ∀ (s : State) (k : Task), s.myTask = some k →
    (k.joined.length < k.size → Yields .gjoinRendezvous s (fun t => t = s))
    ∧ (∀ w : WaitRec, s.ctx.wait = some w → k.cores = [s.coreNo] → s.ctx.holds = true →
        (k.size ≤ k.joined.length → k.gang = false → w.kind = .gjoin → s.ctx.member = 0 →
          Yields .gjoinRendezvous s (fun t => t.ctx.gang = true ∧ t.ctx.seqr = true ∧ t.ctx.follower = false
            ∧ t.ctx.wait = none ∧ GoesOnAt s t (word w.value) ∧ t.ctx.g = s.ctx.g ∧ t.myTask = some { k with gang := true }))
        ∧ (w.kind = .tyield → k.state = .running → k.yielded.length = k.size → s.ctx.gang = false → s.ctx.follower = false →
          Yields (.tyieldRendezvous (s.wouldYield k)) s (fun t =>
            t.ctx.wait = none ∧ GoesOnAt s t (word w.value) ∧ t.ctx.stopped = s.wouldYield k ∧ t.ctx.g = s.ctx.g
            ∧ t.myTask = some (if s.wouldYield k then { k with state := .saving } else { k with yielded := [] }))
          ∧ Yields (.tyieldRendezvous (!s.wouldYield k)) s (fun t => t = s)))
    ∧ (k.state ≠ .running → ∀ more : Bool, Yields (.tyieldRendezvous more) s (fun t => t = s))

/-- R122 to R128: `tspawn` releases, reads its record of 64 bytes and sends it to its queue's I/O die, from which g[d]
takes the answer later, and traps MISALIGNED where the record does not lie on 64 bytes; `tend` releases, waits until
the release has reached its queue's I/O die, and ends its strand, whose bank holds no context, and a member's exit
word joins its task; `tyield` and `gjoin` wait for their teams; `gleave` dissolves the gang; `tbank` switches to a
bank that is ready; `trec` reads a word of the launch record, which is a free value where there is no task. R107,
R125, R127 and R377: the rendezvous of `gjoin` and `tyield`, for a task of one member on the core in focus: once it
has joined, the member is the sequencer of its gang; once it has yielded, it goes on where no READY task of equal or
higher class could take its core, and else stops to be saved. While a member is missing nothing changes. -/
def Obligations.TaskInstructionsActAndTheirTeamsMeet : Prop :=
  Claims.TaskInstructionsActOnTheirTask ∧ Claims.RendezvousLetTheirTeamsGoOn


/-- R123, R368 to R379 and R385: the work of an I/O die on tasks. It answers the oldest spawn record that has reached it, and the answer is written to the register
of the `tspawn` that sent it; it takes a record into the pricking table, READY exactly where nothing holds it back; it places a READY task on cores that
suit it; a placed member starts at its entry point, at user level, with its registers and its allocation cleared; a
READY task that has waited 2^20 cycles rises one class; an alias that a newer one supersedes leaves. -/
def Obligations.IoDiesTakePlaceAndStartTasks : Prop :=
  (∀ (io : Nat) (s : State) (r : SpawnReq) (rest : List SpawnReq), io = 0 ∨ io = 9 → (s.pkg.io io).spawns = r :: rest →
    r.core = s.coreNo → r.bank = s.ctx.bank → s.pkg.homeReady (r.core / 24) io s.core.knotv = true →
    s.ctx.holds = true → s.ctx.taskh = r.handle → r.dest < 64 →
    (∃ q ∈ s.ctx.pending, q.kind = .spawn ∧ q.tag = r.tag) →
    Yields (.spawnRecordAccept io) s (fun t => ∃ v : Word,
      t.ctx.gAt r.dest = (if r.dest = 0 then 0 else v) ∧ (∀ k, k ≠ r.dest → t.ctx.gAt k = s.ctx.gAt k)
      ∧ t.ctx.pending = s.ctx.pending.filter (fun q => !(q.kind == .spawn && q.tag == r.tag))
      ∧ (t.pkg.io io).spawns = rest
      ∧ (65536 ≤ r.queue → v = wordI (-3))
      ∧ (r.queue < 65536 →
        ((s.pkg.qEn r.queue = false ∨ (s.pkg.qGroup r.queue ≠ r.group ∧ s.pkg.qOpen r.queue = false)) → v = wordI (-2))
        ∧ (s.pkg.qEn r.queue = true → (s.pkg.qGroup r.queue = r.group ∨ s.pkg.qOpen r.queue = true) →
          (diff32 (s.pkg.qTail r.queue) (s.pkg.qHead r.queue) = 2 ^ (s.pkg.qRing r.queue 0).2 → v = wordI (-1))
          ∧ (diff32 (s.pkg.qTail r.queue) (s.pkg.qHead r.queue) ≠ 2 ^ (s.pkg.qRing r.queue 0).2 →
            v = word (2 ^ 62 + r.queue * 2 ^ 32 + s.pkg.qTail r.queue) ∨ v = wordI (-2))))))
  ∧ (∀ (io : Nat) (s : State), (s.pkg.io io).spawns = [] → io = 0 ∨ io = 9 → Yields (.spawnRecordAccept io) s (fun t => t = s))
  ∧ (∀ (io q : Nat) (s : State), io = 0 ∨ io = 9 →
    (s.pkg.slot q = none → Yields (.takeRecord io q) s (fun t => t = s))
    ∧ (∀ (sl : QSlot) (w : List Nat) (k : Taken) (p1 p2 : Pkg), s.pkg.slot q = some sl → sl.state = .mapped → sl.ready ≤ s.pkg.cyc →
      queueIo q = io → s.pkg.qEn q = true → sl.head ≠ sl.tail → ((s.pkg.io io).tasks.filter (fun t => !t.darning)).length < 16384 →
      s.pkg.qwords q ((s.pkg.qRing q 0).1 + 64 * (sl.head % 2 ^ (s.pkg.qRing q 0).2)) true 8 = .ok (w, p1) →
      p1.readRecord q w = .ok (k, p2) →
      Yields (.takeRecord io q) s (fun t => t.ctx = s.ctx ∧ ∃ x ∈ (t.pkg.io io).tasks,
        x.handle = word (2 ^ 62 + q * 2 ^ 32 + sl.head) ∧ x.words = k.words.map word ∧ x.header = k.header
        ∧ (x.state = .ready ↔ x.after = [] ∧ x.afterAlias = []))))
  ∧ (∀ (handle bank lfBase hBase : Nat) (cores : List Nat) (s : State) (k : Task), s.pkg.task (word handle) = some k →
    (k.state ≠ .ready → Yields (.taskPlace handle cores bank lfBase hBase) s (fun t => t = s))
    ∧ (k.state = .ready → s.canPlace k cores bank lfBase hBase = true → s.taskCopies k.handle k.cores = [] →
      (s.pkg.io (handleIo k.handle)).tasks.any (fun u => (s.pkg.io (handleIo k.handle)).goesBefore u k && s.canPlace u cores bank lfBase hBase) = false →
      Yields (.taskPlace handle cores bank lfBase hBase) s (fun t => t.pkg.mem = s.pkg.mem ∧ ∃ x,
        t.pkg.task (word handle) = some x ∧ x.state = .placed ∧ x.cores = cores ∧ x.bank = bank ∧ x.started = []
        ∧ x.allocWord = k.alloc lfBase hBase))
    ∧ (k.state = .ready → 0 < k.cls → k.since + 2 ^ 20 ≤ s.pkg.cyc → Yields (.taskPromote handle) s (fun t =>
      t.pkg.task (word handle) = some { k with cls := k.cls - 1, since := k.since + 2 ^ 20 } ∧ t.ctx = s.ctx)))
  ∧ (∀ (handle m : Nat) (s : State) (k : Task), s.pkg.task (word handle) = some k →
    (k.state ≠ .placed → Yields (.strandStart handle m) s (fun t => t = s))
    ∧ (k.state = .placed → k.started.contains m = false → m < k.size → k.saves = [] →
      k.cores.all (fun c => (s.coreAt c).core.clearOf k.allocWord) = true → k.cores.getD m 0 = s.coreNo → k.bank = s.ctx.bank →
      Yields (.strandStart handle m) s (fun t =>
        t.ctx.pc = word (k.recWord 0) ∧ t.ctx.estat = 2 ∧ t.ctx.taskh = word handle ∧ t.ctx.holds = true
        ∧ t.ctx.gAt 3 = word m ∧ t.ctx.gAt 4 = word k.size ∧ t.ctx.gAt 5 = word handle ∧ t.ctx.gAt 6 = word (k.recWord 1)
        ∧ t.ctx.tvec = word (s.pkg.qget k.queue 80 8) ∧ t.ctx.root = s.pkg.qRoot k.queue ∧ t.ctx.asn = s.pkg.qAsn k.queue
        ∧ t.pkg.mem = s.pkg.mem ∧ (∀ e, e < t.ctx.lfSize → t.entry e = Entry.zero)
        ∧ t.pkg.task (word handle) = some (k.noteStart m))))
  ∧ (∀ (io index : Nat) (s : State), io = 0 ∨ io = 9 →
    ((s.pkg.io io).aliases[index]? = none → Yields (.aliasRetire io index) s (fun t => t = s))
    ∧ (∀ x : Alias, (s.pkg.io io).aliases[index]? = some x → x.superseded = true → (s.pkg.io io).aliasDone x = true →
      Yields (.aliasRetire io index) s (fun t => (t.pkg.io io).aliases = (s.pkg.io io).aliases.filter (fun y => y.id != x.id)
        ∧ t.pkg.mem = s.pkg.mem)))

/-- R352, R365, R377 and R382 to R384: a member of a STOPPING task that has reached a point ends with its strand; the destruction of an
address space cancels the held `cpyh` copies that name its root; software's consumer indices are written into the
queue's record. -/
def Sys2Proof.Claims.StrandsStopAndSpacesAreDestroyed : Prop :=
  (∀ (handle m : Nat) (s : State) (k : Task), s.pkg.task (word handle) = some k →
    (k.state ≠ .stopping → Yields (.memberStop handle m) s (fun t => t = s))
    ∧ (∀ u : State, k.state = .stopping → k.started.contains m = true → k.ended.contains m = false →
      k.cores.getD m 0 = s.coreNo → k.bank = s.ctx.bank → s.ctx.atPoint = true → s.ctx.parked = none →
      s.releaseAll [(s.coreNo, s.ctx.bank)] = (u, true) → u.coreNo = s.coreNo → u.ctx.bank = s.ctx.bank →
      Yields (.memberStop handle m) s (fun t => t.ctx = u.ctx.vacated)))
  ∧ (∀ (root : Nat) (s : State), (s.pkg.io0.tasks ++ s.pkg.io9.tasks).filter (fun t =>
      (t.state == .taken || t.state == .ready) && s.pkg.qRoot t.queue == root) = [] →
    Yields (.addressSpaceDestroy root) s (fun t => t.ctx = s.ctx ∧ t.core = s.core ∧ t.pkg.mem = s.pkg.mem
      ∧ t.pkg.io0.bobbin = s.pkg.io0.bobbin.map (fun c => if c.root = root ∧ c.started = false then c.cancel else c)
      ∧ t.pkg.io9.bobbin = s.pkg.io9.bobbin.map (fun c => if c.root = root ∧ c.started = false then c.cancel else c)))
  ∧ (∀ (io q : Nat) (v : BitVec 32) (s : State),
    ((s.pkg.io (queueIo q)).tasks.filter (fun t => t.queue == q && t.state == .stopping) = [] →
      Yields (.fconsWrite io q v) s (fun t => t = { s with pkg := s.pkg.engineWrite (qrec q + 76) 4 v.toNat }))
    ∧ ((s.pkg.io (queueIo q)).reports = [] →
      Yields (.rconsWrite io q v) s (fun t => t = { s with pkg := s.pkg.engineWrite (qrec q + 68) 4 v.toNat })))
/-! ### Events of a core's own time (R26, R46, R96, R242 to R257, R350 to R357) -/

namespace Sys2Proof.Claims

/-- R44: `t` is the state in which a strand that is in no gang, at its pair in `s`, has entered the handler of a trap that
no instruction raises. -/
def Entered (s t : State) (cause : Nat) (eval : Word) : Prop :=
  t.ctx.epc = s.ctx.pc ∧ t.ctx.ecause = BitVec.ofNat 64 cause ∧ t.ctx.eval = eval
  ∧ t.ctx.pc = s.ctx.tvec + BitVec.ofNat 64 (64 * cause)
  ∧ t.ctx.estat.getLsbD 0 = s.ctx.estat.getLsbD 7 ∧ t.ctx.estat.getLsbD 2 = s.ctx.estat.getLsbD 1
  ∧ t.ctx.estat.getLsbD 1 = false ∧ t.ctx.estat.getLsbD 7 = true
  ∧ (∀ r, r ≠ 62 → t.gr r = s.gr r) ∧ t.ctx.f = s.ctx.f ∧ t.ctx.p = s.ctx.p ∧ t.pkg.mem = s.pkg.mem

/-- A strand that can issue: its context is ready, alone, and its core is not frozen. -/
def Alone (s : State) : Prop := s.ctx.gang = false ∧ s.ctx.ready = true ∧ s.frozen = false

/-- The least of a list of cycles. -/
def earliest (l : List Nat) : Option Nat := match l with | [] => none | x :: r => some (r.foldl Nat.min x)

end Sys2Proof.Claims

/-- R26, R46, R56, R57, R182, R243, R244 and R250: the traps that a strand takes with no instruction of its own: a queue stall
of QTO cycles traps QUEUE_TIMEOUT with the queue; 2^24 cycles of one stall reason trap WATCHDOG with the reason; a
committed result's ARITH and a completed atomic's REMOTE_ERROR enter at the next pair; a late reply of 65,536 cycles
traps FREEZE_TIMEOUT with its address, at the pair of the access where its window is still open; an illegal word traps with the word and its offset; a fetch that faults traps with
its address; an interrupt enters with the enabled pending sources. What is not due changes nothing. -/
def Obligations.TrapsWithoutAnInstructionEnterTheirHandler : Prop :=
  (∀ s : State, Alone s →
    (∀ q, s.hasStalled = true → s.ctx.stallReason = 11 → s.ctx.stallQueue = q →
      Yields (.queueTimeout q) s (fun t => Entered s t 0x0B (word q)))
    ∧ (∀ r, s.hasStalled = true → s.ctx.stallReason = r → 1 ≤ r → r ≤ 10 → Yields (.watchdog r) s (fun t => Entered s t 0x12 (word r)))
    ∧ (∀ e, s.ctx.remoteError = none → s.ctx.sfuTrap = some e → Yields (.trapEntry 0x09 e) s (fun t => Entered s t 0x09 e ∧ t.ctx.sfuTrap = none))
    ∧ (∀ tag e applied, s.ctx.remoteError = some (tag, e, applied) → Yields (.trapEntry 0x0E e) s (fun t =>
        Entered s t 0x0E e ∧ t.ctx.estat.getLsbD 5 = applied ∧ t.ctx.remoteError = none))
    ∧ (∀ (w : BitVec 32) (off : Nat) (tr : Trans) (u : State), off < 16 → off % 4 = 0 →
        s.translate .l1 (s.ctx.pc + word off).toNat .fetch = .ok (tr, u) → littleAt u.pkg tr.pa 4 = w.toNat →
        u.pkg.poisonedAt tr.pa 4 = false →
        Yields (.illegalOpcode w off) s (fun t => Entered u t 0x01 (word (w.toNat + off * 2 ^ 32))))
    ∧ (∀ va : Word, (va - s.ctx.pc).toNat < 16 → (va - s.ctx.pc).toNat % 4 = 0 →
        (s.translate .l1 va.toNat .fetch = .error .denied → Yields (.fetchFault va) s (fun t => Entered s t 0x07 va))
        ∧ (2 ^ 56 ≤ va.toNat → Yields (.fetchFault va) s (fun t => Entered s t 0x06 va))
        ∧ (∀ (tr : Trans) (u : State), s.translate .l1 va.toNat .fetch = .ok (tr, u) →
            ((tr.tlb.mt = 2 ∨ tr.tlb.mt = 4) → Yields (.fetchFault va) s (fun t => Entered u t 0x07 va))
            ∧ (tr.tlb.mt ≠ 2 → tr.tlb.mt ≠ 4 → u.pkg.poisonedAt tr.pa 4 = true →
              Yields (.fetchFault va) s (fun t => Entered u t 0x08 va))))
    ∧ (s.interrupted = true → s.ctx.board = [] → Yields .takeInterrupt s (fun t =>
        Entered s t 0x00 (s.ctx.ipend &&& s.ctx.imask))))
  ∧ (∀ (s : State) (va : Word), s.ctx.gang = false → s.ctx.ready = true → s.core.freeze.late = some va →
    (s.core.undo = none → Yields .freezeTimeout s (fun t => Entered s t 0x0C va ∧ t.core.freeze.late = none))
    ∧ (∀ u : Undo, s.core.undo = some u → u.bank = s.ctx.bank → (u.due = none ∨ ∃ d, u.due = some d ∧ s.core.clock < d) →
      Yields .freezeTimeout s (fun t => t.ctx.epc = u.pair ∧ t.ctx.ecause = 0x0C ∧ t.ctx.eval = va
        ∧ t.ctx.pc = s.ctx.tvec + 64 * 0x0C ∧ t.pkg.mem = s.pkg.mem ∧ t.core.freeze.late = none)))
  ∧ (∀ s : State,
    (s.ctx.gang = false → s.hasStalled = false → (∀ q, Yields (.queueTimeout q) s (fun t => t = s)) ∧ ∀ r, Yields (.watchdog r) s (fun t => t = s))
    ∧ (s.ctx.ready = false → (∀ c e, Yields (.trapEntry c e) s (fun t => t = s))
        ∧ (∀ w off, Yields (.illegalOpcode w off) s (fun t => t = s)) ∧ ∀ va, Yields (.fetchFault va) s (fun t => t = s))
    ∧ (s.interrupted = false → Yields .takeInterrupt s (fun t => t = s))
    ∧ (s.core.freeze.late = none → Yields .freezeTimeout s (fun t => t = s)))

/-- R37, R46, R96, R132, R143, R155, R170, R190, R228, R242, R249 and R251: time passes to the event it waits for: the timer to TCMP,
where IPEND.TIMER is set; a result that lands, a window that closes or a shadow result that commits to its core cycle,
while no freeze is in force; a freeze, in which the core's clock stands, begins and ends. -/
def Obligations.TimePassesToTheEventsThatLand : Prop :=
  ∀ s : State, s.ctx.gang = false →
    (s.pkg.cyc < s.ctx.tcmp.toNat → Yields .timer s (fun t => s.ctx.tcmp.toNat ≤ t.pkg.cyc
      ∧ (s.core.freeze.later = [] → t.pkg.cyc = s.ctx.tcmp.toNat) ∧ t.ctx.ipend.getLsbD 0 = true
      ∧ t.pkg.mem = s.pkg.mem ∧ t.ctx.g = s.ctx.g))
    ∧ (∀ x ∈ [(Instr.faultWindowClose, fun r : Res => r = .window ∨ r = .hold)]
        ++ (List.range 64).map (fun n => (Instr.scalarResultWrite n, fun r : Res => r = .g n))
        ++ (List.range 32).map (fun n => (Instr.scalarResultWrite (64 + n), fun r : Res => r = .f n))
        ++ (List.range 32).map (fun n => (Instr.slashResult n, fun r : Res => r = .f n ∨ r = .slash))
        ++ (List.range 256).map (fun n => (Instr.vectorGroupWrite n, fun r : Res => r = .lane n))
        ++ (List.range 256).map (fun n => (Instr.vectorLoadData n, fun r : Res => r = .lane n ∨ r = .window))
        ++ (List.range 128).map (fun n => (Instr.hoopRowLand n, fun r : Res => r = .row n)),
        ((∀ b ∈ s.ctx.board, x.2 b.res → b.due ≤ s.core.clock) → Yields x.1 s (fun t => t = s))
        ∧ (∀ b ∈ s.ctx.board, x.2 b.res → s.core.clock < b.due →
            (∀ c ∈ s.ctx.board, x.2 c.res → s.core.clock < c.due → b.due ≤ c.due) →
            s.frozen = false → Yields x.1 s (fun t => t.core.clock = b.due ∧ t.pkg.mem = s.pkg.mem
              ∧ (s.core.freeze.later = [] → t.pkg.cyc = s.pkg.cyc + (b.due - s.core.clock)))))
    ∧ (∀ x ∈ [(Instr.sfuCommit, fun k : ShadowKind => ∃ n, k = .sfuEntry n ∨ k = .sfuQueue n),
          (.hsfuCommit, fun k => ∃ n, k = .hsfu n),
          (.latchCommit, fun k => k = .bamaxPeer ∨ k = .bscale ∨ ∃ n, k = .bamax n ∨ k = .bamaxQueue n)],
        ((∀ r ∈ s.ctx.live, ¬ x.2 r.kind) → Yields x.1 s (fun t => t = s))
        ∧ (∀ r ∈ s.ctx.live, x.2 r.kind → (∀ q ∈ s.ctx.live, x.2 q.kind → r.at_ ≤ q.at_) → s.frozen = false →
            Yields x.1 s (fun t => (∀ q ∈ t.ctx.live, r.at_ < q.at_) ∧ t.pkg.mem = s.pkg.mem ∧ t.ctx.g = s.ctx.g)))
    ∧ (∀ va, s.core.freeze.late = none → Yields (.freezeBegin va) s (fun t =>
        t = { s with core := { s.core with freeze := { s.core.freeze with late := some va, lateSince := s.pkg.cyc } } }))
    ∧ (s.core.freeze.late = none → Yields .lateReplyArrival s (fun t => t = s))
    ∧ (s.core.freeze.late.isSome = true → Yields .lateReplyArrival s (fun t => t.core.freeze.late = none
        ∧ t.core.clock = s.core.clock ∧ s.pkg.cyc ≤ t.pkg.cyc ∧ t.ctx.g = s.ctx.g ∧ t.pkg.mem = s.pkg.mem))
    ∧ (∀ words, 0 < words → Yields (.correctedError words) s (fun t => t = { s with core := { s.core with
        freeze := { s.core.freeze with
          correctUntil := Nat.max s.pkg.cyc s.core.freeze.correctUntil + 12 * words } } }))
    ∧ Yields (.correctedError 0) s (fun t => t = s)
    ∧ (s.core.freeze.correctUntil = 0 → Yields .correctionFreezeEnd s (fun t => t = s))
    ∧ (s.core.freeze.correctUntil ≠ 0 → Yields .correctionFreezeEnd s (fun t => t.core.freeze.correctUntil = 0
        ∧ t.pkg.cyc = Nat.max s.pkg.cyc s.core.freeze.correctUntil ∧ t.core.clock = s.core.clock ∧ t.ctx.g = s.ctx.g))

/-- R355 to R357: an uncorrectable error poisons the data it is found in, where no gang owns it; one in a TLB or a cache
line is dropped with what held it; one in scalar state ends a strand that no task placed; one in the knots calls for
their reset. -/
def Sys2Proof.Claims.UncorrectableErrorsPoisonWhatTheyHit : Prop :=
  ∀ s : State,
    (∀ e, e < 256 → s.gangOwner (fun c => decide (c.lfBase ≤ e ∧ e < c.lfBase + c.lfSize)) = none →
      Yields (.uncorrectableError (.lane e)) s (fun t => t = { s with core := { s.core with lane := t.core.lane } }
        ∧ ∀ i, t.core.lane.getD i Entry.zero =
          if i = e then { s.core.lane.getD e Entry.zero with poison := true } else s.core.lane.getD i Entry.zero))
    ∧ (∀ r, r < 128 → s.gangOwner (fun c => decide (c.hBase ≤ r ∧ r < c.hBase + c.hRows)) = none →
      Yields (.uncorrectableError (.row r)) s (fun t => t = { s with core := { s.core with hoop := t.core.hoop } }
        ∧ ∀ i, t.core.hoop.getD i Row.zero =
          if i = r then { s.core.hoop.getD r Row.zero with poison := true } else s.core.hoop.getD i Row.zero))
    ∧ (∀ q i, q < 4 → s.gangOwner (fun c => c.owns q) = none → Yields (.uncorrectableError (.queue q i)) s (fun t =>
        t = { s with core := { s.core with queues := t.core.queues } }
        ∧ ∀ j e, (s.queue q)[j]? = some e → (t.queue q)[j]? = some (if j = i then { e with poison := true } else e)))
    ∧ (∀ pa, (s.pkg.homeOf pa).isSome = true → Yields (.uncorrectableError (.memory pa)) s (fun t =>
        pa / 8 ∈ t.pkg.poisoned ∧ (∀ w ∈ s.pkg.poisoned, w ∈ t.pkg.poisoned) ∧ t.pkg.mem = s.pkg.mem ∧ t.ctx = s.ctx))
    ∧ Yields (.uncorrectableError .tlb) s (fun t => t = { s with core := { s.core with l1 := [], gather := [], unit := none, stream := [] } })
    ∧ (∀ pa, Yields (.uncorrectableError (.cache pa)) s (fun t => t = { s with core := { s.core with
        cache := s.core.cache.filter (fun l => l.line != pa / 64) } }))
    ∧ (s.ctx.holds = true → s.myTask = none → ∀ p ∈ [ErrorPlace.scalar, .sfuBuffer],
        Yields (.uncorrectableError p) s (fun t => t.ctx = s.ctx.vacated ∧ t.pkg.mem = s.pkg.mem))
    ∧ (s.pkg.mgmt.knotPhase = 0 → Yields (.uncorrectableError .knot) s (fun t =>
        t = { s with pkg := { s.pkg with mgmt := { s.pkg.mgmt with knotPhase := 1 } } }))

/-- R352, R365, R377 and R382 to R384: a member of a STOPPING task that has reached a point ends with its strand; the
destruction of an address space cancels the held `cpyh` copies that name its root; software's consumer indices are
written into the queue's record. R355 to R357: an uncorrectable error poisons the data it is found in, where no gang
owns it; one in a TLB or a cache line is dropped with what held it; one in scalar state ends a strand that no task
placed; one in the knots calls for their reset. -/
def Obligations.StrandsStopAndErrorsPoison : Prop :=
  Claims.StrandsStopAndSpacesAreDestroyed ∧ Claims.UncorrectableErrorsPoisonWhatTheyHit


/-- R253 to R257, R268, R274, R328 and R398: the banks exchange where the running one can be left, in 4 cycles once its
special-function results have committed; a pre-empted strand stops; a
stopped one is saved, once the copies of its task into other members' registers are done and its release is made and known where the restore needs it, into a backed area, and its bank holds none; one whose area an uncorrectable
error has damaged ends unsaved; a restore from that area gives
the bank its context back. A save or a restore at an area that reaches past the SRAM of a die's window fails and ends
the task (R332); at any other unbacked area it faults, and the machine ends there (assumption 23). A
gang of one member that fails ends its strand; nothing is broadcast to a strand that is in no gang. -/
def Obligations.BanksContextsAndGangsChangeHands : Prop :=
  (∀ s : State,
    (s.frozen = false → s.other.ready = true → s.ctx.idle = true →
      (s.ctx.ready = false ∨ s.ctx.wait.isSome = true
        ∨ (s.ctx.convoy = [] ∧ s.ctx.skip1 = false ∧ s.ctx.skip2 = false)) → Yields .bankSwitch s (fun t =>
      t.ctx.pc = s.other.pc ∧ t.ctx.g = s.other.g ∧ t.other.pc = s.ctx.pc ∧ t.other.g = s.ctx.g
      ∧ t.other.live = [] ∧ (s.core.freeze.later = [] → s.ctx.live = [] → t.pkg.cyc = s.pkg.cyc + 4) ∧ t.core.running = s.other.bank ∧ t.pkg.mem = s.pkg.mem))
    ∧ (s.other.ready = false → Yields .bankSwitch s (fun t => t = s))
    ∧ (s.ctx.holds = false → Yields .preempt s (fun t => t = s))
    ∧ (s.frozen = false → s.ctx.holds = true → s.ctx.stopped = false → s.ctx.parked = none → s.ctx.atPoint = true → s.ctx.convoy = [] →
        s.pkg.gangs = [] → s.myTask = none → Yields .preempt s (fun t => t.ctx.stopped = true ∧ t.ctx.wait = none
          ∧ t.ctx.live = [] ∧ t.ctx.pc = s.ctx.pc ∧ t.ctx.g = s.ctx.g ∧ t.ctx.f = s.ctx.f ∧ t.pkg.mem = s.pkg.mem))
    ∧ (s.ctx.gang = false → Yields .gangBroadcastExecute s (fun t => t = s)
        ∧ ∀ m row late, Yields (.gangFail m row late) s (fun t => t = s))
    ∧ (s.broadcasting = false → Yields .gangBroadcastExecute s (fun t => t = s))
    ∧ (∀ (k : Task) (row : Nat), s.myTask = some k → s.ctx.gang = true → k.gang = true → 0 < k.size → s.broadcasting = false →
        k.cores = [s.coreNo] → s.ctx.holds = true → Yields (.gangFail 0 row false) s (fun t => t.ctx.holds = false)))
  ∧ (∀ (area : Nat) (s : State), area % 4096 = 0 → s.myTask = none →
    (s.ctx.holds = true → s.ctx.stopped = true →
      (s.pkg.areaAnswers area = false → exec (.contextSave area) s = .fault (.unbackedEngineAccess area))
      ∧ (s.pkg.areaAnswers area = true → s.pkg.areaBacked area = false → s.puts s.ctx.taskh = [] →
          Yields (.contextSave area) s (fun t => t.ctx.holds = false ∧ t.ctx.saved = false ∧ t.pkg.mem = s.pkg.mem))
      ∧ (s.pkg.areaBacked area = true → s.puts s.ctx.taskh ≠ [] →
          Yields (.contextSave area) s (fun t => t.ctx = s.ctx ∧ t.pkg.mem = s.pkg.mem))
      ∧ (∀ u : State, s.pkg.areaBacked area = true → s.puts s.ctx.taskh = [] → s.underWay .released = none → s.release 5 = .ok u →
          (u.pkg.areaReady s.core.die area u.core.knotv && u.pkg.knows (handleIo s.ctx.taskh) u.core.knotv) = false →
          Yields (.contextSave area) s (fun t => t.pkg = u.pkg ∧ (t.underWay .released).isSome = true
            ∧ t.ctx = { u.ctx with pending := t.ctx.pending } ∧ t.core = { u.core with nextId := t.core.nextId }))
      ∧ (∀ u : State, s.pkg.areaBacked area = true → s.puts s.ctx.taskh = [] →
          (s.underWay .released = none ∧ s.release 5 = .ok u ∨ (s.underWay .released).isSome = true ∧ u = s) →
          u.pkg.areaReady s.core.die area u.core.knotv = true → u.pkg.knows (handleIo s.ctx.taskh) u.core.knotv = true →
          (u.pkg.areaSpoilt area = false → Yields (.contextSave area) s (fun t => t.ctx.holds = false ∧ t.ctx.saved = true
            ∧ t.ctx.saveArea = area ∧ t.core.lane = u.core.lane ∧ t.core.hoop = u.core.hoop))
          ∧ (u.pkg.areaSpoilt area = true → Yields (.contextSave area) s (fun t => t.ctx.holds = false
            ∧ t.ctx.saved = false ∧ t.pkg.mem = u.pkg.mem))))
    ∧ (s.ctx.holds = false → s.ctx.saved = true → s.ctx.saveArea = area → s.pkg.areaReady s.core.die area s.core.knotv = true →
      (s.pkg.areaAnswers area = false → exec (.contextRestore area) s = .fault (.unbackedEngineAccess area))
      ∧ (s.pkg.areaAnswers area = true → s.pkg.areaBacked area = false →
          Yields (.contextRestore area) s (fun t => t.ctx.holds = false ∧ t.ctx.saved = false ∧ t.pkg.mem = s.pkg.mem))
      ∧ (∀ u : State, s.pkg.areaBacked area = true →
          ({ s with ctx := { s.ctx.vacated with saved := true, saveArea := area } }).restore area = some u →
          Yields (.contextRestore area) s (fun t => t.ctx = u.ctx ∧ t.core = u.core ∧ t.ctx.holds = true
            ∧ t.ctx.stopped = false ∧ t.pkg.mem = s.pkg.mem)))
    ∧ (s.ctx.saved = false → Yields (.contextRestore area) s (fun t => t = s)))
  ∧ (∀ (area : Nat) (s : State), s.ctx.holds = false → Yields (.contextSave area) s (fun t => t = s))
/-! ### The causal fabric and snapshots (R277 to R280, R303 to R324) -/

namespace Sys2Proof.Claims

/-- R307: the events that a packet arrives, with the packets that each takes. -/
noncomputable def arrivals : List ((Nat → Nat → Instr) × (Packet → Bool)) :=
  [ (.lineWrite, fun k => match k.payload with | .write _ _ full _ => full | _ => false),
    (.partialWrite, fun k => match k.payload with | .write _ _ full _ => !full | _ => false),
    (.readRequest, fun k => match k.payload with | .readReq _ _ _ => true | _ => false),
    (.atomicPacket, fun k => match k.payload with | .atomic _ _ _ _ _ _ => true | _ => false),
    (.readReply, fun k => match k.payload with | .readReply a => decide (a.byte8 % 2 = 0) | _ => false),
    (.atomicOrErrorReply, fun k => match k.payload with
      | .atomicReply _ _ => true
      | .readReply a => decide (a.byte8 % 2 = 1)
      | _ => false),
    (.orderAcknowledgement, fun k => match k.payload with | .ack => true | _ => false),
    (.knotAdvance, fun k => match k.payload with | .knotAdvance => true | _ => false),
    (.knotFrame, fun k => k.frame),
    (.beacon, fun k => match k.payload with | .beacon _ => true | _ => false),
    (.cutAdvance, fun k => match k.payload with | .cutAdvance _ => true | _ => false),
    (.removalNotice, fun k => match k.payload with | .removal _ => true | _ => false) ]

/-- R278: the oldest packet of the route from k.src to k.dst, between two dies in service, other than a beacon. -/
def Arrives (s : State) (k : Packet) : Prop :=
  s.pkg.head k.src k.dst = some k ∧ k.src < 10 ∧ k.dst < 10 ∧ k.src ≠ k.dst ∧ s.pkg.removed k.dst = false
  ∧ (s.pkg.die k.dst).frozenBy = [] ∧ ∀ v, k.payload ≠ .beacon v

/-- R278: nothing of its source is held before it, and every entry that it names is delivered at its destination. -/
def Met (s : State) (k : Packet) : Prop :=
  (∀ h ∈ (s.pkg.die k.dst).hold, h.src ≠ k.src)
  ∧ ∀ j ∈ k.deps, cntGe ((s.pkg.die k.dst).v.getD j.1 0) j.2 = true

/-- R278: V of the destination after a packet's stamp. -/
def vAfter (s : State) (k : Packet) : Knot := Knot.raise (s.pkg.die k.dst).v k.src k.stamp

/-- `p` is `q` after a write: the last byte listed for an address stands there, under its mask where it has one, and
every other byte is as it was. -/
def WrittenOver (q p : Pkg) (bytes masks : List (Nat × Byte)) : Prop :=
  ∀ pa, p.mem.read pa = match bytes.reverse.find? (fun b => b.1 == pa) with
    | some b => match assoc pa masks with
      | some m => (q.mem.read pa &&& ~~~m) ||| (b.2 &&& m)
      | none => b.2
    | none => q.mem.read pa

end Sys2Proof.Claims

/-- R278, R307 and R310: a packet event takes the oldest packet of its route where it is of its kind, and nothing else; a packet whose
entries are not met, behind a held one of its source, or that its die cannot take yet, joins the hold buffer while that has
room for it; while it has none the packet waits at its source. -/
def Sys2Proof.Claims.PacketsAreHeldUntilTheirEntriesAreMet : Prop :=
  ∀ x ∈ arrivals, ∀ (src dst : Nat) (s : State),
    (s.pkg.head src dst = none → Yields (x.1 src dst) s (fun t => t = s))
    ∧ (∀ k : Packet, s.pkg.head src dst = some k →
        (x.2 k = false → Yields (x.1 src dst) s (fun t => t = s))
        ∧ (x.2 k = true → Arrives s k →
          ((s.pkg.die dst).room src = false → Yields (x.1 src dst) s (fun t => t = s))
          ∧ ((s.pkg.die dst).room src = true → (¬ Met s k ∨ s.pkg.takes k = false) → Yields (x.1 src dst) s (fun t =>
            t.ctx = s.ctx ∧ t.pkg.mem = s.pkg.mem ∧ t.pkg.net = s.pkg.net.erase k
            ∧ (t.pkg.die dst).hold = (s.pkg.die dst).hold ++ [k] ∧ (t.pkg.die dst).v = (s.pkg.die dst).v))))

/-- R278 to R280, R305, R307, R315 and R321: a packet whose entries are met and
that its die can take is delivered: the destination's V takes its stamp; a write of memory
performs, each byte under its mask where it has one; a read is answered with the bytes and an atomic with the old
value; a reply reaches the access that waits for it, and one
after a fabricated reply is logged; an acknowledgement, a beacon, a cut advance and a removal notice
are noted. -/
def Sys2Proof.Claims.DeliveredPacketsTakeTheirEffect : Prop :=
  ∀ (s : State) (k : Packet), s.pkg.head k.src k.dst = some k → k.src < 10 → k.dst < 10 → k.src ≠ k.dst →
    s.pkg.removed k.dst = false → (s.pkg.die k.dst).frozenBy = [] → Met s k → (s.pkg.die k.dst).room k.src = true →
    s.pkg.takes k = true →
    (∀ (bytes masks : List (Nat × Byte)) (poison : List Nat) (full : Bool), k.payload = .write bytes poison full masks →
      k.ackReq = false → (∀ b ∈ bytes, isIoRegion b.1 = false) → bytes ≠ [] → Inv s →
      ∀ i ∈ [if full then Instr.lineWrite k.src k.dst else .partialWrite k.src k.dst], Yields i s (fun t =>
        WrittenOver s.pkg t.pkg bytes masks ∧ (t.pkg.die k.dst).v = vAfter s k ∧ t.pkg.net = s.pkg.net.erase k ∧ t.ctx = s.ctx))
    ∧ (∀ (pa size : Nat) (acq : Bool), k.payload = .readReq pa size acq → isIoRegion pa = false → (s.pkg.homeOf pa).isSome = true →
      Yields (.readRequest k.src k.dst) s (fun t => t.pkg.mem = s.pkg.mem ∧ ∃ r ∈ t.pkg.net, ∃ a : Answer,
        r.src = k.dst ∧ r.dst = k.src ∧ r.tag = k.tag ∧ r.owner = k.owner ∧ r.bank = k.bank ∧ r.payload = .readReply a
        ∧ (isHostWindow pa = false → a.value = littleAt s.pkg pa size ∧ a.byte8 = 0 ∧ a.poison = s.pkg.poisonIn pa size)
        ∧ (isHostWindow pa = true → a.byte8 = 1 + 16 * 5 ∨ (a.value = littleAt s.pkg pa size ∧ a.byte8 = 0
            ∧ (a.poison = s.pkg.poisonIn pa size ∨ ∀ w, pa / 8 ≤ w → w ≤ (pa + size - 1) / 8 → w ∈ a.poison)))
        ∧ (acq = false → r.deps = [] ∧ a.raised = [])))
    ∧ (∀ (pa va op : Nat) (operand expected : Word) (scope : Nat), k.payload = .atomic pa va op operand expected scope →
      isIoRegion pa = false → isHostWindow pa = false → (s.pkg.homeOf pa).isSome = true → s.pkg.poisonedAt pa 8 = false → Inv s →
      (let old := word (littleAt s.pkg pa 8)
       let new := if op = 8 ∧ old ≠ expected then old else atomicValue op old operand expected
       Yields (.atomicPacket k.src k.dst) s (fun t => StoredAt s.pkg t.pkg pa 8 new.toNat ∧ ∃ r ∈ t.pkg.net, ∃ a : Answer,
         r.dst = k.src ∧ r.tag = k.tag ∧ r.payload = .atomicReply va a ∧ a.value = old.toNat ∧ a.byte8 = 6)))
    ∧ (∀ a : Answer, k.payload = .readReply a → k.owner = s.coreNo → k.bank = s.ctx.bank → s.ctx.holds = true →
      s.ctx.taskh = k.handle → s.ctx.awaits .load k.tag = true → (k.bank, k.tag) ∉ s.core.fabricated →
      ∀ i ∈ [if a.byte8 % 2 = 0 then Instr.readReply k.src k.dst else .atomicOrErrorReply k.src k.dst], Yields i s (fun t =>
        t.ctx.pending = s.ctx.pending.map (fun q =>
          if q.kind = .load ∧ q.tag = k.tag ∧ q.answer = none then { q with answer := some a } else q)))
    ∧ (∀ (va : Nat) (a : Answer), k.payload = .atomicReply va a → k.owner = s.coreNo → k.bank = s.ctx.bank → s.ctx.holds = true →
      s.ctx.taskh = k.handle → s.ctx.awaits .atomic k.tag = true → (k.bank, k.tag) ∉ s.core.fabricated → Yields (.atomicOrErrorReply k.src k.dst) s (fun t =>
        t.ctx.pending = s.ctx.pending.map (fun q =>
          if q.kind = .atomic ∧ q.tag = k.tag ∧ q.answer = none then { q with answer := some a } else q)))
    ∧ (∀ (va : Nat) (a : Answer), k.payload = .atomicReply va a → k.owner = s.coreNo → (k.bank, k.tag) ∈ s.core.fabricated →
      Yields (.atomicOrErrorReply k.src k.dst) s (fun t => t.ctx = s.ctx ∧ t.pkg.mgmt.eloghead = s.pkg.mgmt.eloghead + 1
        ∧ t.core.fabricated = s.core.fabricated.erase (k.bank, k.tag)))
    ∧ (k.payload = .ack → Yields (.orderAcknowledgement k.src k.dst) s (fun t =>
        (t.pkg.die k.dst).unacked = (s.pkg.die k.dst).unacked.erase (k.tag, k.src)))
    ∧ (k.payload = .knotAdvance → Yields (.knotAdvance k.src k.dst) s (fun t =>
        (t.pkg.die k.dst).v = vAfter s k ∧ t.pkg.net = s.pkg.net.erase k ∧ t.pkg.mem = s.pkg.mem ∧ t.ctx = s.ctx))
    ∧ (k.frame = true → k.payload = .knotAdvance → Yields (.knotFrame k.src k.dst) s (fun t => (t.pkg.die k.dst).v = vAfter s k))
    ∧ (∀ v, k.payload = .beacon v → Yields (.beacon k.src k.dst) s (fun t =>
        assoc k.src (t.pkg.die k.dst).beacons = some (v.getD k.dst 0) ∧ t.pkg.mem = s.pkg.mem))
    ∧ (∀ n, k.payload = .cutAdvance n → (s.pkg.die k.dst).cut.isSome = true → Yields (.cutAdvance k.src k.dst) s (fun t =>
        k.src ∈ (t.pkg.die k.dst).cutSeen ∧ t.pkg.mem = s.pkg.mem))
    ∧ (∀ r, k.payload = .removal r → Yields (.removalNotice k.src k.dst) s (fun t =>
        assoc r (t.pkg.die k.dst).frozenBy = some ((vAfter s k).getD r 0)))

/-- R278, R307 and R310: a packet event takes the oldest packet of its route where it is of its kind, and nothing
else; a packet whose entries are not met, behind a held one of its source, or that its die cannot take yet, joins the
hold buffer while that has room for it; while it has none the packet waits at its source. R278 to R280, R305, R307,
R315 and R321: a packet whose entries are met and that its die can take is delivered: the destination's V takes its
stamp; a write of memory performs, each byte under its mask where it has one; a read is answered with the bytes, or in a host
window with code 5 or with poison where the host says so (R412, assumption 144), and an atomic with the old value; a reply reaches the access that waits for it, and one after a fabricated reply is logged;
an acknowledgement, a beacon, a cut advance and a removal notice are noted. -/
def Obligations.PacketsWaitForTheirEntriesAndTakeEffect : Prop :=
  Claims.PacketsAreHeldUntilTheirEntriesAreMet ∧ Claims.DeliveredPacketsTakeTheirEffect


/-- R277, R278, R305, R307, R312 to R314, R316 and R412: a reserved flit is dropped and logged; a held packet leaves the hold buffer once its
entries are met and its die can take it; a beacon goes to each of the other dies; a buffered write leaves its buffer; a reply is delivered to the
access it answers; an access without a reply for the limit takes the fabricated one of code 4; a knot reset leaves V and
KNOTV zero. -/
def Obligations.FabricEventsMoveTheirPackets : Prop :=
  (∀ (src dst : Nat) (s : State), Yields (.reservedKindFlit src dst) s (fun t => t = { s with pkg := s.pkg.log 1 dst src }
    ∧ t.pkg.mgmt.eloghead = s.pkg.mgmt.eloghead + 1 ∧ t.pkg.io0.msix = s.pkg.io0.msix ++ [1]))
  ∧ (∀ (src dst : Nat) (s : State),
    ((s.pkg.die dst).hold.find? (fun k => k.src == src) = none → Yields (.heldPacketRelease src dst) s (fun t => t = s))
    ∧ (∀ k, (s.pkg.die dst).hold.find? (fun k => k.src == src) = some k → (s.pkg.die dst).dooms k = false →
        ((s.pkg.die dst).meets k = false ∨ s.pkg.takes k = false → Yields (.heldPacketRelease src dst) s (fun t =>
          t.ctx = s.ctx ∧ t.pkg.mem = s.pkg.mem ∧ t.pkg.net = s.pkg.net
          ∧ (t.pkg.die dst).hold = (s.pkg.die dst).hold ∧ (t.pkg.die dst).v = (s.pkg.die dst).v))
        ∧ ((s.pkg.die dst).meets k = true → s.pkg.takes k = true → k.payload = .knotAdvance → k.dst = dst → dst < 10 → src ≠ dst →
            Yields (.heldPacketRelease src dst) s (fun t => (t.pkg.die dst).hold = (s.pkg.die dst).hold.erase k
              ∧ (t.pkg.die dst).v = vAfter s k ∧ t.pkg.mem = s.pkg.mem ∧ t.ctx = s.ctx))))
  ∧ (∀ (d : Nat) (s : State), (9 < d → Yields (.beaconSend d) s (fun t => t = s))
    ∧ (d < 10 → (s.pkg.die d).frozenBy = [] → Yields (.beaconSend d) s (fun t => t.pkg.mem = s.pkg.mem ∧ t.ctx = s.ctx
        ∧ ∀ e, e < 10 → e ≠ d → ∃ k ∈ t.pkg.net, k.src = d ∧ k.dst = e ∧ k.payload = .beacon (s.pkg.die d).v.toList)))
  ∧ (∀ (cl i : Nat) (s : State),
    (s.pkg.mayLeave (s.pkg.buffer cl) i = false → Yields (.forwardEntryLeave cl i) s (fun t => t = s))
    ∧ (s.pkg.mayLeave (s.pkg.buffer cl) i = true → Yields (.forwardEntryLeave cl i) s (fun t =>
        t.pkg.buffer cl = (s.pkg.buffer cl).eraseIdx i ∧ t.ctx = s.ctx
        ∧ ∀ e, (s.pkg.buffer cl)[i]? = some e →
            (e.home = e.core / 24 → Inv s → WrittenOver s.pkg t.pkg e.bytes e.masks)
            ∧ (e.home ≠ e.core / 24 → t.pkg.mem = s.pkg.mem
              ∧ ((s.pkg.die (e.core / 24)).frozenBy = [] → ∃ k ∈ t.pkg.net, k.src = e.core / 24 ∧ k.dst = e.home
                ∧ ∃ full, k.payload = .write e.bytes e.poison full e.masks)))))
  ∧ (∀ (tag : Nat) (s : State),
    ((∀ k ∈ s.pkg.net, ¬ (k.dst = s.core.die ∧ k.tag = tag)) → (∀ k ∈ (s.pkg.die s.core.die).hold, k.tag ≠ tag) →
      Yields (.scalarLoadReply tag) s (fun t => t = s) ∧ Yields (.atomicResponse tag) s (fun t => t = s))
    ∧ (∀ (k : Packet) (a : Answer), s.pkg.net = [k] → k.dst = s.core.die → k.owner = s.coreNo → k.bank = s.ctx.bank → k.tag = tag →
      s.ctx.holds = true → s.ctx.taskh = k.handle → Arrives s k → Met s k → (s.pkg.die k.dst).room k.src = true →
      s.pkg.takes k = true → (k.bank, k.tag) ∉ s.core.fabricated →
      (k.payload = .readReply a → s.ctx.awaits .load tag = true → Yields (.scalarLoadReply tag) s (fun t =>
        t.pkg.net = [] ∧ t.ctx.pending = s.ctx.pending.map (fun q =>
          if q.kind = .load ∧ q.tag = tag ∧ q.answer = none then { q with answer := some a } else q)))
      ∧ (∀ va, k.payload = .atomicReply va a → s.ctx.awaits .atomic tag = true → Yields (.atomicResponse tag) s (fun t =>
        t.pkg.net = [] ∧ t.ctx.pending = s.ctx.pending.map (fun q =>
          if q.kind = .atomic ∧ q.tag = tag ∧ q.answer = none then { q with answer := some a } else q))))
    ∧ (let limit := if s.pkg.mgmt.half then 2 ^ 19 else 2 ^ 20
       ∀ x ∈ [(Instr.atomicReplyTimeout tag, fun q : Pending => q.kind = .atomic ∨ q.kind = .load),
           (.hostCompletionTimeout tag, fun q => q.kind = .load ∧ isHostWindow q.pa = true)],
         Yields x.1 s (fun t =>
           t = { s with ctx := { s.ctx with pending := t.ctx.pending }, core := { s.core with fabricated := t.core.fabricated } }
           ∧ t.ctx.pending.length = s.ctx.pending.length
           ∧ ∀ (i : Nat) (q : Pending), s.ctx.pending[i]? = some q → ∃ r, t.ctx.pending[i]? = some r
             ∧ (q.tag = tag → q.answer = none → q.since + limit ≤ s.pkg.cyc → x.2 q →
               r = { q with answer := some { value := 0, byte8 := if q.kind = .atomic then 67 else 65, poison := [], raised := [] } }
                 ∧ (s.ctx.bank, tag) ∈ t.core.fabricated)
             ∧ (q.tag ≠ tag ∨ q.answer.isSome = true ∨ s.pkg.cyc < q.since + limit ∨ ¬ x.2 q → r = q))))
  ∧ (∀ s : State, (s.pkg.mgmt.knotPhase = 0 → Yields .knotReset s (fun t => t = s))
    ∧ (s.pkg.mgmt.knotPhase ≠ 0 → Yields .knotReset s (fun t => t.pkg.mgmt.knotPhase = 0 ∧ t.pkg.mgmt.removing = none
        ∧ t.core.knotv = Vector.replicate 16 0 ∧ ∀ d, d < 10 → (t.pkg.die d).v = Vector.replicate 16 0)))

/-- R321 to R324: a die cuts once its buffers are empty; a waiting unit is kept; a unit of a closed home is streamed with its
bytes into host memory; a snapshot whose units are all streamed completes and leaves none. With no snapshot nothing
happens. -/
def Obligations.SnapshotsCutKeepAndStream : Prop :=
  (∀ (n : Nat) (s : State), s.pkg.snap = none →
    ∀ i ∈ [Instr.cutRequest n, .granulePreserve n, .snapshotCopierStream n, .snapshotComplete], Yields i s (fun t => t = s))
  ∧ (∀ (s : State) (sn : Snap), s.pkg.snap = some sn →
    (∀ d, d < 10 → (s.pkg.die d).cut.isSome = true → Yields (.cutRequest d) s (fun t => t = s))
    ∧ (∀ d, d < 10 → (s.pkg.die d).cut = none → (∀ cl ∈ dieClusters d, s.pkg.buffer cl = []) → s.pkg.canAdvance d = true →
        Yields (.cutRequest d) s (fun t => (t.pkg.die d).cut = some ((s.pkg.die d).v.getD d 0 + 1) ∧ t.pkg.mem = s.pkg.mem
          ∧ t.ctx = s.ctx))
    ∧ (∀ (i : Nat) (u : SnapUnit), sn.units[i]? = some u → u.state = .pending →
        (s.pkg.die ((s.pkg.homeOf u.base).getD 0)).cut.isSome = true → s.pkg.waitingWrite u = true →
        Yields (.granulePreserve i) s (fun t => t.pkg.mem = s.pkg.mem ∧ ∃ m v, t.pkg.snap = some m ∧ m.units[i]? = some v
          ∧ v.state = .done ∧ v.slot = s.pkg.mem.filter (fun c => decide (u.base ≤ c.1 ∧ c.1 < u.base + u.size))))
    ∧ (∀ u : SnapUnit, sn.units = [u] → u.state = .pending → u.streamed = false → s.pkg.closed ((s.pkg.homeOf u.base).getD 0) = true →
        Inv s → Yields (.snapshotCopierStream 0) s (fun t =>
          (∀ j, j < u.size → t.pkg.mem.read (littleAt s.pkg (sn.desc + 8) 8 + 65536 * u.granule + u.base % 65536 + j)
            = s.pkg.mem.read (u.base + j))
          ∧ ∃ m v, t.pkg.snap = some m ∧ m.units = [v] ∧ v.streamed = true ∧ v.state = .done))
    ∧ ((∃ u ∈ sn.units, u.streamed = false) → Yields .snapshotComplete s (fun t => t = s))
    ∧ ((∀ u ∈ sn.units, u.streamed = true) → (∀ d, d < 10 → s.pkg.closed d = true ∨ s.pkg.removed d = true) →
        s.pkg.canAdvance 0 = true → Yields .snapshotComplete s (fun t => t.pkg.snap = none ∧ t.ctx = s.ctx)))
/-! ### The I/O dies, management, the host and attestation (R345 to R348, R366, R367, R403 to R419) -/

namespace Sys2Proof.Claims

/-- The package but one of its I/O dies. -/
def OnlyIo (s t : State) (io : Nat) (x : IODie) : Prop := t = { s with pkg := s.pkg.setIo io x }

/-- The machine but its management block. -/
def OnlyMgmt (s t : State) (m : Mgmt) : Prop := t = { s with pkg := { s.pkg with mgmt := m } }

/-- R407: a command has ended with a result: the counter, the result and MSI-X vector 2; and nothing runs any more. -/
def Ended (s t : State) (result : Nat) : Prop :=
  t.pkg.mgmt.completed = s.pkg.mgmt.completed + 1 ∧ t.pkg.mgmt.result = result ∧ t.pkg.mgmt.busy = false
  ∧ t.pkg.io0.msix = s.pkg.io0.msix ++ [2] ∧ t.pkg.mem = s.pkg.mem

end Sys2Proof.Claims

/-- R345 to R348, R366 and R367: an invalidation joins its I/O die's queue, and its completion leaves the core no entry that it names and
counts one more DONE; PRTAIL takes its value; an answer of the pager ends its request, and its context goes on with the code
in g62; a notify that the die accepts moves the queue's tail and any other is logged; a slot maps a legal pending queue,
is written back when it is idle, and is free after that, or
loads its queue again where it is kept. -/
def Obligations.IoDieRegistersAndSlotsFollowTheirEvents : Prop :=
  ∀ (io : Nat) (s : State), io = 0 ∨ io = 9 →
    (let x := s.pkg.io io
     (∀ asn vpn, ∀ i ∈ [(Instr.tinvAsn io asn, (⟨0, asn % 4096, 0⟩ : Tinv)), (.tinvVpn io asn vpn, ⟨1, asn % 4096, vpn % 2 ^ 40⟩),
         (.tinvAll io, ⟨2, 0, 0⟩), (.tinvVpnEveryAsn io vpn, ⟨3, 0, vpn % 2 ^ 40⟩)],
         (x.tinv.length < 64 → Yields i.1 s (fun t => OnlyIo s t io { x with tinv := x.tinv ++ [i.2] }))
         ∧ (64 ≤ x.tinv.length → Yields i.1 s (fun t => t = s)))
     ∧ (x.tinv = [] → Yields (.invalidationComplete io) s (fun t => t = s))
     ∧ (∀ (i : Tinv) (rest : List Tinv), x.tinv = i :: rest → s.underWayAt = [] → s.pkg.canAdvance io = true → s.peers = [] →
         Yields (.invalidationComplete io) s (fun t => (t.pkg.io io).tinv = rest ∧ (t.pkg.io io).done = x.done + 1
           ∧ t.core.l1 = s.core.l1.filter (fun e => !i.hits e.asn e.vbase e.run e.g)
           ∧ t.core.gather = s.core.gather.filter (fun e => !i.hits e.asn e.vbase e.run e.g)
           ∧ t.core.stream = s.core.stream.filter (fun e => !i.hits e.asn e.vbase e.run e.g)
           ∧ t.core.cache = s.core.cache.filter (fun e => !i.hits e.asn e.vbase e.run e.g)
           ∧ t.pkg.mem = s.pkg.mem ∧ t.ctx = s.ctx))
     ∧ (∀ v : Word, Yields (.prtailWrite io v) s (fun t => (t.pkg.io io).prtail = word (v.toNat % 2 ^ 32)))
     ∧ (∀ (v : Word) (r : FaultReq), v.toNat / 2 ^ 40 = 0 →
         (x.faults ++ x.faultQueue).find? (fun r => r.tag == v.toNat % 2 ^ 32) = some r → r.agent < 2 → r.core = s.coreNo →
         r.bank = s.ctx.bank → s.ctx.parked = some r.tag → Yields (.pans io v) s (fun t =>
           t.ctx.parked = none ∧ t.ctx.gAt 62 = word (v.toNat / 2 ^ 32 % 256) ∧ (∀ n, n ≠ 62 → t.ctx.gAt n = s.ctx.gAt n)
           ∧ (t.pkg.io io).faults = x.faults.filter (fun y => y.tag != r.tag) ∧ t.pkg.mem = s.pkg.mem))
     ∧ (∀ v : Word, v.toNat / 2 ^ 40 = 0 → (x.faults ++ x.faultQueue).find? (fun r => r.tag == v.toNat % 2 ^ 32) = none →
         Yields (.pans io v) s (fun t => t = { s with pkg := s.pkg.log 4 io (v.toNat % 2 ^ 32) }))
     ∧ (∀ v : Word, s.pkg.notifyOk io v.toNat = false → Yields (.notify io v) s (fun t =>
         t = { s with pkg := s.pkg.log 2 io (v.toNat / 2 ^ 32 % 2 ^ 16) }))
     ∧ (∀ (v : Word) (sl : QSlot), s.pkg.notifyOk io v.toNat = true → s.pkg.slot (v.toNat / 2 ^ 32 % 2 ^ 16) = some sl → sl.state = .mapped →
         Yields (.notify io v) s (fun t => t.pkg.qTail (v.toNat / 2 ^ 32 % 2 ^ 16) = v.toNat % 2 ^ 32 ∧ t.pkg.mem = s.pkg.mem))
     ∧ (∀ q : Nat, queueIo q = io →
         (s.pkg.slot q = none → Yields (.slotUnmap io q) s (fun t => t = s) ∧ Yields (.slotWritebackComplete io q) s (fun t => t = s))
         ∧ (s.pkg.cyc < x.mapNext → Yields (.slotMap io q) s (fun t => t = s))
         ∧ (x.mapNext ≤ s.pkg.cyc → x.slots.length < 4096 → q < 65536 → s.pkg.qPend q = true → s.pkg.slot q = none → s.pkg.qLegal q = true →
             s.pkg.pendQueues io = [q] → Yields (.slotMap io q) s (fun t => ∃ sl : QSlot, t.pkg.slot q = some sl ∧ sl.state = .mapped
               ∧ sl.ready = s.pkg.cyc + 64 ∧ (t.pkg.io io).mapNext = s.pkg.cyc + 16 ∧ sl.head = s.pkg.qget q 56 4 ∧ sl.tail = s.pkg.qget q 60 4 ∧ sl.ridx = s.pkg.qget q 64 4 ∧ sl.fidx = s.pkg.qget q 72 4))
         ∧ (s.pkg.qPend q = false → Yields (.slotMap io q) s (fun t => t = s))
         ∧ (∀ sl : QSlot, s.pkg.slot q = some sl →
             (sl.state = .mapped → sl.head = sl.tail → sl.notified + 65536 ≤ s.pkg.cyc → (∀ t ∈ x.tasks, t.queue ≠ q) →
               Yields (.slotUnmap io q) s (fun t => t.pkg.slot q = some { sl with state := .unmapping false }))
             ∧ (sl.state = .unmapping false → Yields (.slotWritebackComplete io q) s (fun t =>
               t.pkg.slot q = none ∧ t.pkg.mem = s.pkg.mem))
             ∧ (sl.state = .unmapping true → Yields (.slotWritebackComplete io q) s (fun t =>
               t.pkg.slot q = some (s.pkg.loadSlot q))))))

/-- R46, R403, R404, R406, R407, R413, R416 and R418: the commands of the controller with their results and refusals; its registers; a write of WAKE;
the power windows; and package reset, after which the machine is as reset leaves it but for host memory, the security
version and the firmware images. -/
def Obligations.ManagementCommandsEndWithTheirResult : Prop :=
  (∀ s : State, s.pkg.mgmt.level = 0 →
    ∀ i ∈ [Instr.level3, .clock true, .clock false, .remove 1, .reset, .fwload 0, .snapshot 0, .svnset 0], Yields i s (fun t => t = s))
  ∧ (∀ s : State, 0 < s.pkg.mgmt.level → s.pkg.mgmt.busy = false → s.pkg.mgmt.firmware = true →
    (s.pkg.mgmt.level ≠ 2 → Yields .level3 s (fun t => Ended s t 1))
    ∧ (s.pkg.mgmt.level = 2 → Yields .level3 s (fun t => OnlyMgmt s t { s.pkg.mgmt with
        busy := true, thenLevel3 := true, switchTo := some s.pkg.mgmt.wantHalf, switchAt := s.pkg.cyc + 4096 }))
    ∧ (∀ half : Bool, Yields (.clock half) s (fun t => Ended s t 0 ∧ t.pkg.mgmt.wantHalf = half ∧ t.pkg.mgmt.level = s.pkg.mgmt.level))
    ∧ (∀ die, (die < 1 ∨ 8 < die) → Yields (.remove die) s (fun t => Ended s t 2))
    ∧ (∀ die, 1 ≤ die → die ≤ 8 → s.pkg.mgmt.level < 2 ∨ s.pkg.removed die = true → Yields (.remove die) s (fun t => Ended s t 1))
    ∧ (∀ die, 1 ≤ die → die ≤ 8 → 2 ≤ s.pkg.mgmt.level → s.pkg.removed die = false → s.coreNo / 24 ≠ die → s.peers = [] →
        s.pkg.io0.tasks = [] → s.pkg.io9.tasks = [] → Yields (.remove die) s (fun t => t.pkg.removed die = true
          ∧ t.pkg.mgmt.busy = true ∧ t.pkg.mgmt.removing = some die ∧ t.pkg.mgmt.knotPhase = 1 ∧ t.ctx = s.ctx
          ∧ ∀ e, e < 10 → e ≠ die → ∃ k ∈ t.pkg.net, k.src = die ∧ k.dst = e ∧ k.payload = .removal die))
    ∧ (∀ pa, backedSpan (pa % 2 ^ 56) 1024 = false → Yields (.fwload pa) s (fun t => Ended s t 2))
    ∧ (∀ pa, s.pkg.mgmt.level < 3 → Yields (.snapshot pa) s (fun t => Ended s t 1))
    ∧ (∀ pa, 3 ≤ s.pkg.mgmt.level → s.pkg.snap.isSome = true → Yields (.snapshot pa) s (fun t => Ended s t 4))
    ∧ (∀ pa, 3 ≤ s.pkg.mgmt.level → s.pkg.snap = none → s.pkg.descLegal (pa % 2 ^ 56) = false →
        Yields (.snapshot pa) s (fun t => Ended s t 2))
    ∧ (∀ pa, 3 ≤ s.pkg.mgmt.level → s.pkg.snap = none → s.pkg.descLegal (pa % 2 ^ 56) = true →
        Yields (.snapshot pa) s (fun t => Ended s t 0 ∧ ∃ sn, t.pkg.snap = some sn ∧ sn.desc = pa % 2 ^ 56
          ∧ sn.number = s.pkg.snaps ∧ ∀ u ∈ sn.units, u.state = .pending ∧ u.streamed = false))
    ∧ (∀ v, v % 2 ^ 56 < 2 ^ 32 → Yields (.svnset v) s (fun t => Ended s t 0
        ∧ t.pkg.mgmt.svnmin = Nat.max s.pkg.mgmt.svnmin (v % 2 ^ 56)))
    ∧ (∀ v, 2 ^ 32 ≤ v % 2 ^ 56 → Yields (.svnset v) s (fun t => Ended s t 2 ∧ t.pkg.mgmt.svnmin = s.pkg.mgmt.svnmin))
    ∧ (∀ i ∈ [Instr.reset, .powerOn, .perstPackage], Yields i s (fun t =>
        t.pkg.mgmt.level = 0 ∧ t.pkg.cyc = 0 ∧ t.ctx = State.reset.ctx ∧ t.core = State.reset.core ∧ t.peers = []
        ∧ t.pkg.mgmt.svnmin = s.pkg.mgmt.svnmin ∧ t.pkg.net = [] ∧ t.pkg.poisoned =
            s.pkg.poisoned.filter (fun w => isHostWindow (8 * w) || isFleetWindow (8 * w))
        ∧ (Inv s → ∀ pa, t.pkg.mem.read pa = if isHostWindow pa = true ∨ isFleetWindow pa = true then s.pkg.mem.read pa else 0))))
  ∧ (∀ (v : Word) (s : State), s.peers = [] →
    (let die := v.toNat / 2 ^ 8 % 2 ^ 4
     let core := v.toNat % 2 ^ 5
     v.toNat / 2 ^ 12 = 0 → v.toNat / 2 ^ 5 % 2 = 0 → 1 ≤ die → die ≤ 8 → core ≤ 23 → v.toNat / 2 ^ 7 % 2 = 0 → s.coreNo = 24 * die + core →
     Yields (.wake v) s (fun t => t.ctx.eventFlag = true ∧ t.other.eventFlag = true ∧ t.ctx.g = s.ctx.g ∧ t.pkg = s.pkg
       ∧ t.ctx.ipend = (if v.toNat / 2 ^ 6 % 2 = 1 then s.ctx.ipend ||| 2 else s.ctx.ipend))))
  ∧ (∀ (v : Word) (s : State),
    (1000 ≤ v.toNat → v.toNat ≤ 2800 → Yields (.registerWrite 0x020000030028 v) s (fun t =>
      OnlyMgmt s t { s.pkg.mgmt with pwrcap := v }))
    ∧ ((v.toNat < 1000 ∨ 2800 < v.toNat) → Yields (.registerWrite 0x020000030028 v) s (fun t =>
      t.pkg.mgmt.pwrcap = s.pkg.mgmt.pwrcap ∧ t.pkg.mgmt.eloghead = s.pkg.mgmt.eloghead + 1))
    ∧ (∀ pa, isIoRegion pa = false → Yields (.registerWrite pa v) s (fun t => t = s)))
  ∧ (∀ (w : Nat) (s : State), (s.pkg.mgmt.level = 0 → Yields (.powerWindow w) s (fun t => t = s))
    ∧ (0 < s.pkg.mgmt.level → Yields (.powerWindow w) s (fun t =>
        t.pkg.mgmt.overCap = (if s.pkg.mgmt.pwrcap.toNat < w then s.pkg.mgmt.overCap + 1 else 0)
        ∧ t.pkg.mgmt.underCap = (if 10 * w < 9 * s.pkg.mgmt.pwrcap.toNat then s.pkg.mgmt.underCap + 1 else 0)
        ∧ t.ctx = s.ctx ∧ t.pkg.mem = s.pkg.mem)))

/-- R252, R316, R318, R354, R403 to R405, R416 to R418: the bring-up and the clocks: the ROM's verdict on the firmware, the training of a unit,
an edge in service that trains again and calls for a knot reset, Level 2 with its zeroed memory, a frequency change that freezes and resumes every core, the retention of an idle die-SRAM bank, which takes 2,048 cycles each
way and keeps its data, and
the scrubber, which leaves every value. -/
def Obligations.BringUpClocksAndRetention : Prop :=
  ∀ s : State,
    (s.pkg.mgmt.romDone = true → Yields .firmwareVerify s (fun t => t = s))
    ∧ (s.pkg.mgmt.level = 0 → s.pkg.mgmt.romDone = false → Yields .firmwareVerify s (fun t =>
        t.pkg.mgmt.romDone = true ∧ t.pkg.mem = s.pkg.mem ∧ t.pkg.mgmt.level = (if s.pkg.io0.portUp then 1 else 0)
        ∧ (imageAccepted (s.pkg.mgmt.image.getD Config.flash) s.pkg.mgmt.svnmin = true → t.pkg.mgmt.firmware = true)
        ∧ (imageAccepted (s.pkg.mgmt.image.getD Config.flash) s.pkg.mgmt.svnmin = false → t.pkg.mgmt.firmware = s.pkg.mgmt.firmware)))
    ∧ (∀ (u : TrainUnit) (ok : Bool), trainDue u s = false → retrains u s = false →
        Yields (.linkTraining u ok) s (fun t => t = s))
    ∧ (∀ e, e < 13 → e ∈ s.pkg.mgmt.trained → 2 ≤ s.pkg.mgmt.level → s.pkg.mgmt.knotPhase = 0 →
        Yields (.linkTraining (.edge e) true) s (fun t => OnlyMgmt s t { s.pkg.mgmt with knotPhase := 1 }))
    ∧ (∀ e, e < 13 → s.pkg.mgmt.level = 1 → s.pkg.mgmt.firmware = true → e ∉ s.pkg.mgmt.trained → e ∉ s.pkg.mgmt.failed →
        Yields (.linkTraining (.edge e) true) s (fun t => OnlyMgmt s t { s.pkg.mgmt with trained := insertNat e s.pkg.mgmt.trained }))
    ∧ (∀ io, (io = 0 ∨ io = 9) → (s.pkg.io io).portUp = false → s.pkg.mgmt.trained = [] → s.pkg.mgmt.failed = [] →
        Yields (.linkTraining (.hostPort io) true) s (fun t => (t.pkg.io io).portUp = true ∧ t.pkg.mem = s.pkg.mem))
    ∧ (s.pkg.mgmt.level ≠ 1 → Yields .level2Entry s (fun t => t = s))
    ∧ (s.pkg.mgmt.level = 1 → s.pkg.mgmt.firmware = true → (∀ e, e < 13 → e ∈ s.pkg.mgmt.trained) →
        (∀ i, i < 16 → 16 + i ∈ s.pkg.mgmt.trained) → Inv s → Yields .level2Entry s (fun t => t.pkg.mgmt.level = 2
          ∧ t.pkg.mgmt.half = true ∧ t.ctx = s.ctx ∧ ∀ pa, t.pkg.mem.read pa =
            if isHbm pa = true ∨ inSramWindow pa = true then 0 else s.pkg.mem.read pa))
    ∧ (s.pkg.mgmt.switchTo = none → Yields .freqSwitchFreeze s (fun t => t = s) ∧ Yields .freqSwitchResume s (fun t => t = s))
    ∧ (∀ half : Bool, s.pkg.mgmt.switchTo = some half →
        (s.pkg.mgmt.switching = false → Yields .freqSwitchFreeze s (fun t => t.pkg.mgmt.switching = true
          ∧ Nat.max s.pkg.cyc s.pkg.mgmt.switchAt ≤ t.pkg.cyc
          ∧ (s.core.freeze.later = [] → t.pkg.cyc = Nat.max s.pkg.cyc s.pkg.mgmt.switchAt) ∧ t.ctx.g = s.ctx.g ∧ t.pkg.mem = s.pkg.mem))
        ∧ (s.pkg.mgmt.switching = true → Yields .freqSwitchResume s (fun t => t.pkg.mgmt.switching = false
          ∧ t.pkg.mgmt.half = half ∧ t.pkg.cyc = Nat.max s.pkg.cyc (s.pkg.mgmt.switchAt + 8192) ∧ t.core.clock = s.core.clock
          ∧ t.pkg.mgmt.level = (if s.pkg.mgmt.thenLevel3 then 3 else s.pkg.mgmt.level)
          ∧ (s.pkg.mgmt.thenLevel3 = true → t.pkg.mgmt.completed = s.pkg.mgmt.completed + 1 ∧ t.pkg.mgmt.result = 0
              ∧ t.pkg.mgmt.busy = false) ∧ t.pkg.mem = s.pkg.mem)))
    ∧ (∀ die bank, die < 10 → bank < 512 →
        (let x := s.pkg.die die
         let since := Nat.max ((assoc bank x.touched).getD 0) s.pkg.mgmt.retSince
         let idle := since + s.pkg.mgmt.retcfg.toNat % 2 ^ 32 ≤ s.pkg.cyc
         (s.pkg.mgmt.retcfg.getLsbD 63 = true → assoc bank x.retaining = none → (assoc bank x.waking).getD 0 ≤ s.pkg.cyc → idle →
            Yields (.retentionEntry die bank) s (fun t => assoc bank (t.pkg.die die).retaining = some (s.pkg.cyc + 2048)
              ∧ t.pkg.mem = s.pkg.mem ∧ t.ctx = s.ctx))
         ∧ (s.pkg.mgmt.retcfg.getLsbD 63 = false ∨ ¬ idle → Yields (.retentionEntry die bank) s (fun t => t = s))
         ∧ Yields (.retentionExit die bank) s (fun t => assoc bank (t.pkg.die die).retaining = none
             ∧ (assoc bank (t.pkg.die die).waking).getD 0 ≤ t.pkg.cyc ∧ t.pkg.mem = s.pkg.mem ∧ t.ctx.g = s.ctx.g
             ∧ ∀ e, assoc bank x.retaining = some e → Nat.max e s.pkg.cyc + 2048 ≤ t.pkg.cyc)))
    ∧ (∀ pa, Yields (.scrub pa) s (fun t => t = s))
    ∧ Yields .perstLink s (fun t => OnlyIo s t 9 { s.pkg.io9 with portUp := false, cxl := false, d3hot := false })

/-- R409 to R415 and R419: a host or peer write performs at its home; a read answers with the bytes, one from the host with a poison byte before
them, and with nothing where the access is not admitted; the states of the ports and links; and the answers of the
attestation responder, each joined to the transcript with its request (its codes are those of assumption 40). -/
def Obligations.HostPeersAndAttestation : Prop :=
  ∀ (io : Nat) (s : State), io = 0 ∨ io = 9 →
    (let x := s.pkg.io io
     (∀ (pa : Nat) (data : List Byte) (relaxed poisoned : Bool),
       (s.pkg.hostReaches io pa data.length = false → Yields (.hostWrite io pa data relaxed poisoned) s (fun t => t = s))
       ∧ (s.pkg.hostReaches io pa data.length = true → s.pkg.portClear io pa = true → data.length ≤ 512 → isIoRegion pa = false → Inv s →
           Yields (.hostWrite io pa data relaxed poisoned) s (fun t => t.ctx = s.ctx ∧ ∀ a, t.pkg.mem.read a =
             if pa ≤ a ∧ a < pa + data.length then data.getD (a - pa) 0 else s.pkg.mem.read a)))
     ∧ (∀ pa len : Nat, x.portUp = true → x.d3hot = false → len ≤ 4096 →
       (s.pkg.hostReaches io pa len = false → Yields (.hostRead io pa len) s (fun t =>
         OnlyIo s t io { x with responses := x.responses ++ [[]] }))
       ∧ (s.pkg.hostReaches io pa len = true → s.pkg.portClear io pa = true → isIoRegion pa = false →
           Yields (.hostRead io pa len) s (fun t => OnlyIo s t io { x with responses := x.responses
             ++ [(if s.pkg.poisonedAt pa len then 1 else 0) :: (List.range len).map (fun i => s.pkg.mem.read (pa + i))] })))
     ∧ (∀ rkey pa len : Nat,
       (s.pkg.regionAdmits io rkey pa len 1 = false → Yields (.rdmaReadInbound io rkey pa len) s (fun t =>
         OnlyIo s t io { x with responses := x.responses ++ [[]] }))
       ∧ (s.pkg.regionAdmits io rkey pa len 1 = true → s.pkg.inboundReaches io pa len = true →
           Yields (.rdmaReadInbound io rkey pa len) s (fun t => OnlyIo s t io { x with responses := x.responses
             ++ [(List.range len).map (fun i => s.pkg.mem.read (pa + i))] })))
     ∧ (∀ (rkey pa : Nat) (data : List Byte),
       (s.pkg.regionAdmits io rkey pa data.length 2 = false → Yields (.rdmaWriteInbound io rkey pa data) s (fun t => t = s))
       ∧ (s.pkg.regionAdmits io rkey pa data.length 2 = true → s.pkg.inboundReaches io pa data.length = true → Inv s →
           Yields (.rdmaWriteInbound io rkey pa data) s (fun t => t.ctx = s.ctx ∧ ∀ a, t.pkg.mem.read a =
             if pa ≤ a ∧ a < pa + data.length then data.getD (a - pa) 0 else s.pkg.mem.read a)))
     ∧ (∀ enter : Bool, Yields (.d3hot io enter) s (fun t => OnlyIo s t io { x with d3hot := enter }))
     ∧ (∀ port : Nat, port ≤ 7 →
       Yields (.autoNegotiation io port true) s (fun t => t.ctx = s.ctx ∧ (port ∈ (t.pkg.io io).links ↔
         s.pkg.mgmt.ports.testBit (port + if io = 9 then 8 else 0) = true))
       ∧ Yields (.autoNegotiation io port false) s (fun t => t.ctx = s.ctx ∧ port ∉ (t.pkg.io io).links)
       ∧ Yields (.priorityFlowControl io port true) s (fun t => OnlyIo s t io { x with paused := insertNat port x.paused })
       ∧ Yields (.priorityFlowControl io port false) s (fun t => OnlyIo s t io { x with paused := x.paused.filter (fun i => i != port) }))
     ∧ (∀ slot index : Nat, slot ≤ 1 → 1 ≤ index → index ≤ 6 →
       (let answers (i : Instr) (request : List Byte) (ok : List Byte → Prop) : Prop :=
          (s.pkg.mgmt.level = 0 ∨ x.portUp = false → Yields i s (fun t => t = s))
          ∧ (0 < s.pkg.mgmt.level → x.portUp = true → Yields i s (fun t => ∃ r, ok r
              ∧ OnlyIo s t io { x with spdm := x.spdm ++ request ++ r, responses := x.responses ++ [r] }))
        answers (.getVersion io) [0x84] (fun r => r = [0x04, 0x13])
        ∧ answers (.getCapabilities io) [0xE1] (fun r => r = [0x61])
        ∧ answers (.negotiateAlgorithms io) [0xE3] (fun r => r = [0x63])
        ∧ answers (.getDigests io) [0x81] (fun r => r = 0x01 :: (digest (Config.certificate 0) ++ digest (Config.certificate 1)))
        ∧ answers (.getCertificate io slot) [0x82, BitVec.ofNat 8 slot] (fun r => r = 0x02 :: Config.certificate slot)
        ∧ answers (.challenge io slot) [0x83, BitVec.ofNat 8 slot] (fun r => ∃ tail, r = 0x03 :: (digest (Config.certificate slot) ++ tail))
        ∧ answers (.getMeasurements io index) [0xE0, BitVec.ofNat 8 index] (fun r => ∃ tail,
            r = 0x60 :: BitVec.ofNat 8 index :: (digest (s.pkg.measured index) ++ tail)))))

/-! ### The machine as a whole -/

namespace Sys2Proof.Claims

/-- R17, R20, R34 to R46: a context's registers at the Reset values of their maps, with die d and bank b. -/
def AtReset (c : Ctx) (d b : Nat) : Prop :=
  (∀ r, c.g.toList.getD r 0 = 0) ∧ (∀ r, c.f.toList.getD r 0 = 0) ∧ (∀ r, c.p.toList.getD r 0 = 0)
  ∧ c.vl = 0 ∧ c.vstart = 0 ∧ c.hcur = 0 ∧ c.vwb = 0 ∧ c.vrb = 0 ∧ c.lc = 0 ∧ c.acr = 0 ∧ (∀ r, c.mfc.toList.getD r 0 = 0)
  ∧ c.amaxk = 0 ∧ c.satcnt = 0 ∧ c.undcnt = 0 ∧ c.dirty = 0 ∧ c.hdirty = 0 ∧ (∀ r, c.tm.toList.getD r 0 = 0)
  ∧ c.team.toNat = d * 2 ^ 12 + 1 * 2 ^ 5 ∧ c.taskh = 0 ∧ c.bank = b
  ∧ c.estat = 0x81 ∧ c.epc = 0 ∧ c.ecause = 0 ∧ c.eval = 0 ∧ c.tvec = 0 ∧ c.qto = 0x100000 ∧ c.sfshadow = 0
  ∧ c.alloc.toNat = (if b = 0 then 15 * 2 ^ 32 + 128 * 2 ^ 24 + 256 * 2 ^ 8 else 0)
  ∧ c.ipend = 0 ∧ c.imask = 0 ∧ c.tcmp = 0xFFFFFFFFFFFFFFFF

/-- An instruction of the pair, which decodes to it, executes to a state without a trap or a stall: the machine then
holds what the meaning gives, with the cycle in which each result lands. -/
def Executed (ex : Instr → State → Out) (s : State) (it : Issue) (second : Bool) (u : State) : Prop :=
  ∃ t, ex it.slot.instr (s.facing it second) = .next t ∧ t.trap = none ∧ t.stalled = false
    ∧ u = s.noted (s.post t it s.now) it

/-- A strand that issues its next pair in this step: it is ready and alone, its core is not frozen, no buffered write
has to leave first, no answered bank comes back, its team is not stopping, and neither an interrupt, nor the answer to an
earlier pair's access, nor an event recognised at the next pair is due. -/
def IssuesNext (s : State) : Prop :=
  s.agenda = [] ∧ s.overdue = none ∧ s.frozen = false ∧ s.ctx.ready = true
  ∧ (s.other.back && s.other.ready && s.ctx.convoy.isEmpty && s.ctx.idle && !s.ctx.skip1 && !s.ctx.skip2) = false
  ∧ s.stopping = none ∧ s.interrupted = false ∧ s.ctx.gang = false ∧ s.ctx.follower = false ∧ s.ctx.answeredLeft = none
  ∧ (s.ctx.leftOpen = true ∨ s.owed = [])

/-- R57, R66, R204 and R242: a decoded pair that its convoy, its level and what is under way let issue. -/
def MayIssue (s : State) (l : List Issue) : Prop :=
  s.ctx.gang = false ∧ s.convoyFailure l = none ∧ s.notPrivileged l = none
  ∧ s.copyHolds (l.map (fun x => x.word)) = none ∧ s.leftHolds (l.map (fun x => x.word)) = none

/-- The state in which the waits of a pair before its issue are over (R64, R241). -/
def waitedFor (s : State) (l : List Issue) : State := s.reachTrap (s.issueCycle l) s.ctx.live.length

/-- The waits end without a trap or an interrupt, in fewer cycles than the limit of R243. -/
def WaitsEnd (s : State) (l : List Issue) : Prop :=
  s.issueCycle l < s.ctx.stallFrom s.now 1 - 1 + 2 ^ 24
  ∧ (let t := waitedFor s l
     t.ctx.gang = false ∧ t.ctx.resume = false ∧ t.ctx.sfuTrap = none ∧ t.interrupted = false)

/-- The state in which a pair begins to execute: the cycle in which it can issue has come, issue goes on at `next`
unless the pair says otherwise, and the first pair of a convoy marks where the convoy begins. -/
def began (s : State) (l : List Issue) (next : Word) : State :=
  let u := (waitedFor s l).startPair next
  let u := if u.ctx.convoy.isEmpty then { u with ctx := { u.ctx with convoyStart := u.ctx.pc } } else u
  { u.resumed with sync := u.ctx.mustWait l }

end Sys2Proof.Claims

/-- R17, R20, R34, R37, R39 to R46, R303, R345, R403, R406: after package reset every context of every core holds the Reset
values of its registers and no context is held; CYC, the knot state and the memories are zero, nothing is resident,
and the management block holds its Reset values. That memory reads as zero from reset on is the model's choice
(assumption 1). -/
def Obligations.ResetHoldsTheStatedValues : Prop :=
  (∀ k, 24 ≤ k → k < 216 →
    (let p := State.reset.coreAt k
     AtReset p.ctx (k / 24) 0 ∧ AtReset p.other (k / 24) 1 ∧ p.ctx.holds = false ∧ p.other.holds = false
     ∧ (∀ n : Nat, p.core.knotv.toList.getD n 0 = 0)))
  ∧ (∀ pa, State.reset.pkg.mem.read pa = 0) ∧ State.reset.pkg.poisoned = [] ∧ State.reset.pkg.cyc = 0
  ∧ (∀ d n : Nat, (State.reset.pkg.die d).v.toList.getD n 0 = 0) ∧ (∀ d, (State.reset.pkg.die d).sent = [])
  ∧ State.reset.pkg.net = []
  ∧ (∀ io, (State.reset.pkg.io io).slots = [] ∧ (State.reset.pkg.io io).tasks = [] ∧ (State.reset.pkg.io io).done = 0)
  ∧ (let m := State.reset.pkg.mgmt
     m.level = 0 ∧ m.dies = 0x3FF ∧ m.completed = 0 ∧ m.result = 0 ∧ m.busy = false ∧ m.half = true ∧ m.wantHalf = false
     ∧ m.pwrcap = 2800 ∧ m.retcfg = 0 ∧ m.elogbase = 0 ∧ m.eloghead = 0 ∧ m.svnmin = Config.fusedSvn)

/-- The invariant of the model holds after reset. -/
def Obligations.InvariantHoldsAtReset : Prop := Inv State.reset

/-- Physical memory stays in its canonical form over every step that answers a next state: addresses rising, and no
byte listed that reads as an unlisted one. -/
def Obligations.StepKeepsTheInvariant : Prop := ∀ s t : State, Inv s → step s = .next t → Inv t

/-- R48 to R55: what is encoded decodes to itself: an instruction that can stand in a program, with P and C and every
operand at any value its encoding admits, and a literal prefix where its immediate is long; the words behind it are
not read. -/
def Obligations.DecodeOfEncodeIsTheInstruction : Prop :=
  ∀ (x : Slot) (rest : List (BitVec 32)), x.instr.wf = true →
    ∃ ws, encode x = some ws ∧ decodeWords (ws ++ rest) = .ok (x, ws.length)

/-- R48 to R56: a word that decodes is the encoding of what it decodes to: no reserved bit is passed over, and no two
words mean the same instruction. -/
def Obligations.EncodeOfDecodeIsTheWord : Prop :=
  ∀ (ws : List (BitVec 32)) (x : Slot) (n : Nat), decodeWords ws = .ok (x, n) →
    x.instr.wf = true ∧ encode x = some (ws.take n)

/-- R48, R58 and R241: where the bytes at the program counter decode to an instruction alone, the step is that
instruction's meaning in the cycle in which it can issue, followed by what every pair ends with and by the note that an open fault window
keeps (R242); where they decode to a legal pair, it is the second's meaning after the first's; an instruction that traps
when it issues leaves its trap, and words that decode to nothing are the event of an illegal word (R56). What runs is `exec`, but for a
vector store whose chain a later instruction of its convoy breaks: that one stores the elements below the break (R67). -/
def Obligations.StepRunsTheDecodedInstruction : Prop :=
  ∀ s s1 : State, IssuesNext s →
    (∀ (a : Raw) (x : Issue), s.fetchPair s.ctx.pc = .ok ([a], s1) → a.decode = .ok x →
      MayIssue s1 [x] → WaitsEnd s1 [x] →
      (let b := began s1 [x] a.next
       let ex := shortened exec b [x] (b.aheadOfPair [x] a.next)
       (isVstore x.word = false → ∀ u, u.curWord = x.word → ex x.slot.instr u = exec x.slot.instr u)
       ∧ (chainFault exec b b [] ([x] ++ b.aheadOfPair [x] a.next) = none → ex = exec)
       ∧ (b.ctx.skip1 = false →
         (∀ u, Executed ex b x false u → step s = .next ((b.withUndo exec u [x]).completePair [x]))
         ∧ (∀ t k, ex x.slot.instr (b.facing x false) = .next t → t.trap = some k → k.late = false →
             b.ctx.leftOpen = false → step s = .next t.settleTrap))))
    ∧ (∀ (a c : Raw) (x y : Issue), s.fetchPair s.ctx.pc = .ok ([a, c], s1) → a.decode = .ok x → c.decode = .ok y →
      s1.pairReason x.word y.word = none → MayIssue s1 [x, y] → WaitsEnd s1 [x, y] →
      (let b := began s1 [x, y] c.next
       let ex := shortened exec b [x, y] (b.aheadOfPair [x, y] c.next)
       b.ctx.skip1 = false → b.ctx.skip2 = false →
         ∀ u v, Executed ex b x false u → Executed ex u y true v →
           step s = .next ((b.withUndo exec v [x, y]).completePair [x, y])))
    ∧ (∀ (l : List Raw) (w : BitVec 32) (addr : Word), s.fetchPair s.ctx.pc = .ok (l, s1) → decodePair l = .error (w, addr) → s.ctx.leftOpen = false →
      step s = exec (.illegalOpcode w (addr - s.ctx.pc).toNat) s)

/-- R60: the pair of two words breaks the condition of R58 that a reason code stands for. -/
def Sys2Proof.Claims.breaksPair (s : State) (w1 w2 : BitVec 32) : Nat → Prop
  | 1 => classOf w1 = classOf w2 ∧ classOf w1 ≠ .he
  | 2 => ((classOf w1 = .he ∧ classOf w2 = .he) ∨ (classOf w1 = .hr ∧ classOf w2 = .he) ∨ (classOf w1 = .he ∧ classOf w2 = .hr))
      ∧ ∃ r, r ∈ s.rowSet w1 ∧ r ∈ s.rowSet w2
  | 3 => (classOf w1 = .m ∧ classOf w2 = .vm) ∨ (classOf w1 = .vm ∧ classOf w2 = .m)
  | 4 => classOf w1 = .sctl
  | 5 => w2.getLsbD 31 = true
  | 6 => w1.getLsbD 30 = true
  | _ => False

/-- R60: a pair that breaks a condition of R58 traps ILLEGAL_PAIR, with the lowest reason that applies in EVAL, and
neither of its instructions takes effect. -/
def Obligations.IllegalPairsTrapWithTheirLowestReason : Prop :=
  ∀ (s s1 : State) (l : List Raw) (x y : Issue) (k : Nat), IssuesNext s → s.fetchPair s.ctx.pc = .ok (l, s1) →
    decodePair l = .ok [x, y] → s1.ctx.gang = false → s1.ctx.leftOpen = false → breaksPair s1 x.word y.word k →
    (∀ j, j < k → ¬ breaksPair s1 x.word y.word j) →
    ∃ t, step s = .next t ∧ Entered s1 t 0x02 (word k)

/-- R50, R53, R54, R100, R109, R136 and R183: words written out from their encodings decode to the instructions they stand for. -/
def Obligations.WrittenWordsDecodeToTheirInstructions : Prop :=
  decodeTableWord 32 0x02400005 = some (.addi 16 0 (.short 5))
  ∧ decodeTableWord 64 0x025006783F012345 = some (.addi 20 0 (.long 0x12345678))
  ∧ decodeTableWord 32 0x1C00002B = some (.fenceAcqrel 5)
  ∧ decodeTableWord 32 0x54010000 = some (.trap 16)
  ∧ decodeTableWord 32 0x79000001 = some (.tend 0)
  ∧ decodeTableWord 32 0x20043100 = some (.vadd 1 3 4 0)
end

