-- ==== Sys2Proof/Laws/State.lean ====
section
/-! SUPPORT. What each update of the state does to each field of it, for simp: no later proof unfolds a record
update. A context's own fields follow from the context's lemma by the record's projections. -/

namespace Sys2Proof.Machine

/-! ### State.setGr -/

@[simp] theorem State.setGr_other (s : State) (r : BitVec 6) (v : Word) : (s.setGr r v).other = s.other := by
  unfold State.setGr; split <;> rfl
@[simp] theorem State.setGr_core (s : State) (r : BitVec 6) (v : Word) : (s.setGr r v).core = s.core := by
  unfold State.setGr; split <;> rfl
@[simp] theorem State.setGr_peers (s : State) (r : BitVec 6) (v : Word) : (s.setGr r v).peers = s.peers := by
  unfold State.setGr; split <;> rfl
@[simp] theorem State.setGr_pkg (s : State) (r : BitVec 6) (v : Word) : (s.setGr r v).pkg = s.pkg := by
  unfold State.setGr; split <;> rfl
@[simp] theorem State.setGr_wordAddr (s : State) (r : BitVec 6) (v : Word) : (s.setGr r v).wordAddr = s.wordAddr := by
  unfold State.setGr; split <;> rfl
@[simp] theorem State.setGr_npc (s : State) (r : BitVec 6) (v : Word) : (s.setGr r v).npc = s.npc := by
  unfold State.setGr; split <;> rfl
@[simp] theorem State.setGr_second (s : State) (r : BitVec 6) (v : Word) : (s.setGr r v).second = s.second := by
  unfold State.setGr; split <;> rfl
@[simp] theorem State.setGr_pairAddr (s : State) (r : BitVec 6) (v : Word) : (s.setGr r v).pairAddr = s.pairAddr := by
  unfold State.setGr; split <;> rfl
@[simp] theorem State.setGr_trap (s : State) (r : BitVec 6) (v : Word) : (s.setGr r v).trap = s.trap := by
  unfold State.setGr; split <;> rfl
@[simp] theorem State.setGr_stalled (s : State) (r : BitVec 6) (v : Word) : (s.setGr r v).stalled = s.stalled := by
  unfold State.setGr; split <;> rfl
@[simp] theorem State.setGr_taken (s : State) (r : BitVec 6) (v : Word) : (s.setGr r v).taken = s.taken := by
  unfold State.setGr; split <;> rfl
@[simp] theorem State.setGr_switch (s : State) (r : BitVec 6) (v : Word) : (s.setGr r v).switch = s.switch := by
  unfold State.setGr; split <;> rfl
@[simp] theorem State.setGr_curWord (s : State) (r : BitVec 6) (v : Word) : (s.setGr r v).curWord = s.curWord := by
  unfold State.setGr; split <;> rfl
@[simp] theorem State.setGr_agenda (s : State) (r : BitVec 6) (v : Word) : (s.setGr r v).agenda = s.agenda := by
  unfold State.setGr; split <;> rfl
@[simp] theorem State.setGr_sync (s : State) (r : BitVec 6) (v : Word) : (s.setGr r v).sync = s.sync := by
  unfold State.setGr; split <;> rfl
@[simp] theorem State.setGr_free (s : State) (r : BitVec 6) (v : Word) : (s.setGr r v).free = s.free := by
  unfold State.setGr; split <;> rfl

/-! ### State.setFr -/

@[simp] theorem State.setFr_ctx (s : State) (r : BitVec 5) (v : Word) : (s.setFr r v).ctx =
    { s.ctx with f := s.ctx.f.set r.toNat v r.isLt } := rfl
@[simp] theorem State.setFr_other (s : State) (r : BitVec 5) (v : Word) : (s.setFr r v).other = s.other := rfl
@[simp] theorem State.setFr_core (s : State) (r : BitVec 5) (v : Word) : (s.setFr r v).core = s.core := rfl
@[simp] theorem State.setFr_peers (s : State) (r : BitVec 5) (v : Word) : (s.setFr r v).peers = s.peers := rfl
@[simp] theorem State.setFr_pkg (s : State) (r : BitVec 5) (v : Word) : (s.setFr r v).pkg = s.pkg := rfl
@[simp] theorem State.setFr_wordAddr (s : State) (r : BitVec 5) (v : Word) : (s.setFr r v).wordAddr = s.wordAddr := rfl
@[simp] theorem State.setFr_npc (s : State) (r : BitVec 5) (v : Word) : (s.setFr r v).npc = s.npc := rfl
@[simp] theorem State.setFr_second (s : State) (r : BitVec 5) (v : Word) : (s.setFr r v).second = s.second := rfl
@[simp] theorem State.setFr_pairAddr (s : State) (r : BitVec 5) (v : Word) : (s.setFr r v).pairAddr = s.pairAddr := rfl
@[simp] theorem State.setFr_trap (s : State) (r : BitVec 5) (v : Word) : (s.setFr r v).trap = s.trap := rfl
@[simp] theorem State.setFr_stalled (s : State) (r : BitVec 5) (v : Word) : (s.setFr r v).stalled = s.stalled := rfl
@[simp] theorem State.setFr_taken (s : State) (r : BitVec 5) (v : Word) : (s.setFr r v).taken = s.taken := rfl
@[simp] theorem State.setFr_switch (s : State) (r : BitVec 5) (v : Word) : (s.setFr r v).switch = s.switch := rfl
@[simp] theorem State.setFr_curWord (s : State) (r : BitVec 5) (v : Word) : (s.setFr r v).curWord = s.curWord := rfl
@[simp] theorem State.setFr_agenda (s : State) (r : BitVec 5) (v : Word) : (s.setFr r v).agenda = s.agenda := rfl
@[simp] theorem State.setFr_sync (s : State) (r : BitVec 5) (v : Word) : (s.setFr r v).sync = s.sync := rfl
@[simp] theorem State.setFr_free (s : State) (r : BitVec 5) (v : Word) : (s.setFr r v).free = s.free := rfl

/-! ### State.setPr -/

@[simp] theorem State.setPr_other (s : State) (r : BitVec 3) (v : Pred) : (s.setPr r v).other = s.other := by
  unfold State.setPr; split <;> rfl
@[simp] theorem State.setPr_core (s : State) (r : BitVec 3) (v : Pred) : (s.setPr r v).core = s.core := by
  unfold State.setPr; split <;> rfl
@[simp] theorem State.setPr_peers (s : State) (r : BitVec 3) (v : Pred) : (s.setPr r v).peers = s.peers := by
  unfold State.setPr; split <;> rfl
@[simp] theorem State.setPr_pkg (s : State) (r : BitVec 3) (v : Pred) : (s.setPr r v).pkg = s.pkg := by
  unfold State.setPr; split <;> rfl
@[simp] theorem State.setPr_wordAddr (s : State) (r : BitVec 3) (v : Pred) : (s.setPr r v).wordAddr = s.wordAddr := by
  unfold State.setPr; split <;> rfl
@[simp] theorem State.setPr_npc (s : State) (r : BitVec 3) (v : Pred) : (s.setPr r v).npc = s.npc := by
  unfold State.setPr; split <;> rfl
@[simp] theorem State.setPr_second (s : State) (r : BitVec 3) (v : Pred) : (s.setPr r v).second = s.second := by
  unfold State.setPr; split <;> rfl
@[simp] theorem State.setPr_pairAddr (s : State) (r : BitVec 3) (v : Pred) : (s.setPr r v).pairAddr = s.pairAddr := by
  unfold State.setPr; split <;> rfl
@[simp] theorem State.setPr_trap (s : State) (r : BitVec 3) (v : Pred) : (s.setPr r v).trap = s.trap := by
  unfold State.setPr; split <;> rfl
@[simp] theorem State.setPr_stalled (s : State) (r : BitVec 3) (v : Pred) : (s.setPr r v).stalled = s.stalled := by
  unfold State.setPr; split <;> rfl
@[simp] theorem State.setPr_taken (s : State) (r : BitVec 3) (v : Pred) : (s.setPr r v).taken = s.taken := by
  unfold State.setPr; split <;> rfl
@[simp] theorem State.setPr_switch (s : State) (r : BitVec 3) (v : Pred) : (s.setPr r v).switch = s.switch := by
  unfold State.setPr; split <;> rfl
@[simp] theorem State.setPr_curWord (s : State) (r : BitVec 3) (v : Pred) : (s.setPr r v).curWord = s.curWord := by
  unfold State.setPr; split <;> rfl
@[simp] theorem State.setPr_agenda (s : State) (r : BitVec 3) (v : Pred) : (s.setPr r v).agenda = s.agenda := by
  unfold State.setPr; split <;> rfl
@[simp] theorem State.setPr_sync (s : State) (r : BitVec 3) (v : Pred) : (s.setPr r v).sync = s.sync := by
  unfold State.setPr; split <;> rfl
@[simp] theorem State.setPr_free (s : State) (r : BitVec 3) (v : Pred) : (s.setPr r v).free = s.free := by
  unfold State.setPr; split <;> rfl

/-! ### State.setVl -/

@[simp] theorem State.setVl_ctx (s : State) (n : Nat) : (s.setVl n).ctx =
    { s.ctx with vl := word n } := rfl
@[simp] theorem State.setVl_other (s : State) (n : Nat) : (s.setVl n).other = s.other := rfl
@[simp] theorem State.setVl_core (s : State) (n : Nat) : (s.setVl n).core = s.core := rfl
@[simp] theorem State.setVl_peers (s : State) (n : Nat) : (s.setVl n).peers = s.peers := rfl
@[simp] theorem State.setVl_pkg (s : State) (n : Nat) : (s.setVl n).pkg = s.pkg := rfl
@[simp] theorem State.setVl_wordAddr (s : State) (n : Nat) : (s.setVl n).wordAddr = s.wordAddr := rfl
@[simp] theorem State.setVl_npc (s : State) (n : Nat) : (s.setVl n).npc = s.npc := rfl
@[simp] theorem State.setVl_second (s : State) (n : Nat) : (s.setVl n).second = s.second := rfl
@[simp] theorem State.setVl_pairAddr (s : State) (n : Nat) : (s.setVl n).pairAddr = s.pairAddr := rfl
@[simp] theorem State.setVl_trap (s : State) (n : Nat) : (s.setVl n).trap = s.trap := rfl
@[simp] theorem State.setVl_stalled (s : State) (n : Nat) : (s.setVl n).stalled = s.stalled := rfl
@[simp] theorem State.setVl_taken (s : State) (n : Nat) : (s.setVl n).taken = s.taken := rfl
@[simp] theorem State.setVl_switch (s : State) (n : Nat) : (s.setVl n).switch = s.switch := rfl
@[simp] theorem State.setVl_curWord (s : State) (n : Nat) : (s.setVl n).curWord = s.curWord := rfl
@[simp] theorem State.setVl_agenda (s : State) (n : Nat) : (s.setVl n).agenda = s.agenda := rfl
@[simp] theorem State.setVl_sync (s : State) (n : Nat) : (s.setVl n).sync = s.sync := rfl
@[simp] theorem State.setVl_free (s : State) (n : Nat) : (s.setVl n).free = s.free := rfl

/-! ### State.setVs -/

@[simp] theorem State.setVs_ctx (s : State) (n : Nat) : (s.setVs n).ctx =
    { s.ctx with vstart := word n } := rfl
@[simp] theorem State.setVs_other (s : State) (n : Nat) : (s.setVs n).other = s.other := rfl
@[simp] theorem State.setVs_core (s : State) (n : Nat) : (s.setVs n).core = s.core := rfl
@[simp] theorem State.setVs_peers (s : State) (n : Nat) : (s.setVs n).peers = s.peers := rfl
@[simp] theorem State.setVs_pkg (s : State) (n : Nat) : (s.setVs n).pkg = s.pkg := rfl
@[simp] theorem State.setVs_wordAddr (s : State) (n : Nat) : (s.setVs n).wordAddr = s.wordAddr := rfl
@[simp] theorem State.setVs_npc (s : State) (n : Nat) : (s.setVs n).npc = s.npc := rfl
@[simp] theorem State.setVs_second (s : State) (n : Nat) : (s.setVs n).second = s.second := rfl
@[simp] theorem State.setVs_pairAddr (s : State) (n : Nat) : (s.setVs n).pairAddr = s.pairAddr := rfl
@[simp] theorem State.setVs_trap (s : State) (n : Nat) : (s.setVs n).trap = s.trap := rfl
@[simp] theorem State.setVs_stalled (s : State) (n : Nat) : (s.setVs n).stalled = s.stalled := rfl
@[simp] theorem State.setVs_taken (s : State) (n : Nat) : (s.setVs n).taken = s.taken := rfl
@[simp] theorem State.setVs_switch (s : State) (n : Nat) : (s.setVs n).switch = s.switch := rfl
@[simp] theorem State.setVs_curWord (s : State) (n : Nat) : (s.setVs n).curWord = s.curWord := rfl
@[simp] theorem State.setVs_agenda (s : State) (n : Nat) : (s.setVs n).agenda = s.agenda := rfl
@[simp] theorem State.setVs_sync (s : State) (n : Nat) : (s.setVs n).sync = s.sync := rfl
@[simp] theorem State.setVs_free (s : State) (n : Nat) : (s.setVs n).free = s.free := rfl

/-! ### State.setHcur -/

@[simp] theorem State.setHcur_ctx (s : State) (n : Nat) : (s.setHcur n).ctx =
    { s.ctx with hcur := word n } := rfl
@[simp] theorem State.setHcur_other (s : State) (n : Nat) : (s.setHcur n).other = s.other := rfl
@[simp] theorem State.setHcur_core (s : State) (n : Nat) : (s.setHcur n).core = s.core := rfl
@[simp] theorem State.setHcur_peers (s : State) (n : Nat) : (s.setHcur n).peers = s.peers := rfl
@[simp] theorem State.setHcur_pkg (s : State) (n : Nat) : (s.setHcur n).pkg = s.pkg := rfl
@[simp] theorem State.setHcur_wordAddr (s : State) (n : Nat) : (s.setHcur n).wordAddr = s.wordAddr := rfl
@[simp] theorem State.setHcur_npc (s : State) (n : Nat) : (s.setHcur n).npc = s.npc := rfl
@[simp] theorem State.setHcur_second (s : State) (n : Nat) : (s.setHcur n).second = s.second := rfl
@[simp] theorem State.setHcur_pairAddr (s : State) (n : Nat) : (s.setHcur n).pairAddr = s.pairAddr := rfl
@[simp] theorem State.setHcur_trap (s : State) (n : Nat) : (s.setHcur n).trap = s.trap := rfl
@[simp] theorem State.setHcur_stalled (s : State) (n : Nat) : (s.setHcur n).stalled = s.stalled := rfl
@[simp] theorem State.setHcur_taken (s : State) (n : Nat) : (s.setHcur n).taken = s.taken := rfl
@[simp] theorem State.setHcur_switch (s : State) (n : Nat) : (s.setHcur n).switch = s.switch := rfl
@[simp] theorem State.setHcur_curWord (s : State) (n : Nat) : (s.setHcur n).curWord = s.curWord := rfl
@[simp] theorem State.setHcur_agenda (s : State) (n : Nat) : (s.setHcur n).agenda = s.agenda := rfl
@[simp] theorem State.setHcur_sync (s : State) (n : Nat) : (s.setHcur n).sync = s.sync := rfl
@[simp] theorem State.setHcur_free (s : State) (n : Nat) : (s.setHcur n).free = s.free := rfl

/-! ### State.record -/

@[simp] theorem State.record_ctx (s : State) (fx : Fx) : (s.record fx).ctx =
    s.ctx.record fx := rfl
@[simp] theorem State.record_other (s : State) (fx : Fx) : (s.record fx).other = s.other := rfl
@[simp] theorem State.record_core (s : State) (fx : Fx) : (s.record fx).core = s.core := rfl
@[simp] theorem State.record_peers (s : State) (fx : Fx) : (s.record fx).peers = s.peers := rfl
@[simp] theorem State.record_pkg (s : State) (fx : Fx) : (s.record fx).pkg = s.pkg := rfl
@[simp] theorem State.record_wordAddr (s : State) (fx : Fx) : (s.record fx).wordAddr = s.wordAddr := rfl
@[simp] theorem State.record_npc (s : State) (fx : Fx) : (s.record fx).npc = s.npc := rfl
@[simp] theorem State.record_second (s : State) (fx : Fx) : (s.record fx).second = s.second := rfl
@[simp] theorem State.record_pairAddr (s : State) (fx : Fx) : (s.record fx).pairAddr = s.pairAddr := rfl
@[simp] theorem State.record_trap (s : State) (fx : Fx) : (s.record fx).trap = s.trap := rfl
@[simp] theorem State.record_stalled (s : State) (fx : Fx) : (s.record fx).stalled = s.stalled := rfl
@[simp] theorem State.record_taken (s : State) (fx : Fx) : (s.record fx).taken = s.taken := rfl
@[simp] theorem State.record_switch (s : State) (fx : Fx) : (s.record fx).switch = s.switch := rfl
@[simp] theorem State.record_curWord (s : State) (fx : Fx) : (s.record fx).curWord = s.curWord := rfl
@[simp] theorem State.record_agenda (s : State) (fx : Fx) : (s.record fx).agenda = s.agenda := rfl
@[simp] theorem State.record_sync (s : State) (fx : Fx) : (s.record fx).sync = s.sync := rfl
@[simp] theorem State.record_free (s : State) (fx : Fx) : (s.record fx).free = s.free := rfl

/-! ### State.setEntry -/

@[simp] theorem State.setEntry_ctx (s : State) (e : Nat) (v : Entry) : (s.setEntry e v).ctx =
    { s.ctx with dirty := s.ctx.dirty ||| (1#256 <<< e) } := rfl
@[simp] theorem State.setEntry_other (s : State) (e : Nat) (v : Entry) : (s.setEntry e v).other = s.other := rfl
@[simp] theorem State.setEntry_core (s : State) (e : Nat) (v : Entry) : (s.setEntry e v).core =
    s.core.putEntry s.ctx e v := rfl
@[simp] theorem State.setEntry_peers (s : State) (e : Nat) (v : Entry) : (s.setEntry e v).peers = s.peers := rfl
@[simp] theorem State.setEntry_pkg (s : State) (e : Nat) (v : Entry) : (s.setEntry e v).pkg = s.pkg := rfl
@[simp] theorem State.setEntry_wordAddr (s : State) (e : Nat) (v : Entry) : (s.setEntry e v).wordAddr = s.wordAddr := rfl
@[simp] theorem State.setEntry_npc (s : State) (e : Nat) (v : Entry) : (s.setEntry e v).npc = s.npc := rfl
@[simp] theorem State.setEntry_second (s : State) (e : Nat) (v : Entry) : (s.setEntry e v).second = s.second := rfl
@[simp] theorem State.setEntry_pairAddr (s : State) (e : Nat) (v : Entry) : (s.setEntry e v).pairAddr = s.pairAddr := rfl
@[simp] theorem State.setEntry_trap (s : State) (e : Nat) (v : Entry) : (s.setEntry e v).trap = s.trap := rfl
@[simp] theorem State.setEntry_stalled (s : State) (e : Nat) (v : Entry) : (s.setEntry e v).stalled = s.stalled := rfl
@[simp] theorem State.setEntry_taken (s : State) (e : Nat) (v : Entry) : (s.setEntry e v).taken = s.taken := rfl
@[simp] theorem State.setEntry_switch (s : State) (e : Nat) (v : Entry) : (s.setEntry e v).switch = s.switch := rfl
@[simp] theorem State.setEntry_curWord (s : State) (e : Nat) (v : Entry) : (s.setEntry e v).curWord = s.curWord := rfl
@[simp] theorem State.setEntry_agenda (s : State) (e : Nat) (v : Entry) : (s.setEntry e v).agenda = s.agenda := rfl
@[simp] theorem State.setEntry_sync (s : State) (e : Nat) (v : Entry) : (s.setEntry e v).sync = s.sync := rfl
@[simp] theorem State.setEntry_free (s : State) (e : Nat) (v : Entry) : (s.setEntry e v).free = s.free := rfl

/-! ### State.setRow -/

@[simp] theorem State.setRow_ctx (s : State) (r : Nat) (v : Row) : (s.setRow r v).ctx =
    { s.ctx with hdirty := s.ctx.hdirty ||| (1#128 <<< r) } := rfl
@[simp] theorem State.setRow_other (s : State) (r : Nat) (v : Row) : (s.setRow r v).other = s.other := rfl
@[simp] theorem State.setRow_core (s : State) (r : Nat) (v : Row) : (s.setRow r v).core =
    { s.core with hoop := s.core.hoop.setIfInBounds (s.ctx.hBase + r) v } := rfl
@[simp] theorem State.setRow_peers (s : State) (r : Nat) (v : Row) : (s.setRow r v).peers = s.peers := rfl
@[simp] theorem State.setRow_pkg (s : State) (r : Nat) (v : Row) : (s.setRow r v).pkg = s.pkg := rfl
@[simp] theorem State.setRow_wordAddr (s : State) (r : Nat) (v : Row) : (s.setRow r v).wordAddr = s.wordAddr := rfl
@[simp] theorem State.setRow_npc (s : State) (r : Nat) (v : Row) : (s.setRow r v).npc = s.npc := rfl
@[simp] theorem State.setRow_second (s : State) (r : Nat) (v : Row) : (s.setRow r v).second = s.second := rfl
@[simp] theorem State.setRow_pairAddr (s : State) (r : Nat) (v : Row) : (s.setRow r v).pairAddr = s.pairAddr := rfl
@[simp] theorem State.setRow_trap (s : State) (r : Nat) (v : Row) : (s.setRow r v).trap = s.trap := rfl
@[simp] theorem State.setRow_stalled (s : State) (r : Nat) (v : Row) : (s.setRow r v).stalled = s.stalled := rfl
@[simp] theorem State.setRow_taken (s : State) (r : Nat) (v : Row) : (s.setRow r v).taken = s.taken := rfl
@[simp] theorem State.setRow_switch (s : State) (r : Nat) (v : Row) : (s.setRow r v).switch = s.switch := rfl
@[simp] theorem State.setRow_curWord (s : State) (r : Nat) (v : Row) : (s.setRow r v).curWord = s.curWord := rfl
@[simp] theorem State.setRow_agenda (s : State) (r : Nat) (v : Row) : (s.setRow r v).agenda = s.agenda := rfl
@[simp] theorem State.setRow_sync (s : State) (r : Nat) (v : Row) : (s.setRow r v).sync = s.sync := rfl
@[simp] theorem State.setRow_free (s : State) (r : Nat) (v : Row) : (s.setRow r v).free = s.free := rfl

/-! ### State.setQueue -/

@[simp] theorem State.setQueue_ctx (s : State) (q : Nat) (l : List Entry) : (s.setQueue q l).ctx = s.ctx := rfl
@[simp] theorem State.setQueue_other (s : State) (q : Nat) (l : List Entry) : (s.setQueue q l).other = s.other := rfl
@[simp] theorem State.setQueue_core (s : State) (q : Nat) (l : List Entry) : (s.setQueue q l).core =
    { s.core with queues := s.core.queues.setIfInBounds q l } := rfl
@[simp] theorem State.setQueue_peers (s : State) (q : Nat) (l : List Entry) : (s.setQueue q l).peers = s.peers := rfl
@[simp] theorem State.setQueue_pkg (s : State) (q : Nat) (l : List Entry) : (s.setQueue q l).pkg = s.pkg := rfl
@[simp] theorem State.setQueue_wordAddr (s : State) (q : Nat) (l : List Entry) : (s.setQueue q l).wordAddr = s.wordAddr := rfl
@[simp] theorem State.setQueue_npc (s : State) (q : Nat) (l : List Entry) : (s.setQueue q l).npc = s.npc := rfl
@[simp] theorem State.setQueue_second (s : State) (q : Nat) (l : List Entry) : (s.setQueue q l).second = s.second := rfl
@[simp] theorem State.setQueue_pairAddr (s : State) (q : Nat) (l : List Entry) : (s.setQueue q l).pairAddr = s.pairAddr := rfl
@[simp] theorem State.setQueue_trap (s : State) (q : Nat) (l : List Entry) : (s.setQueue q l).trap = s.trap := rfl
@[simp] theorem State.setQueue_stalled (s : State) (q : Nat) (l : List Entry) : (s.setQueue q l).stalled = s.stalled := rfl
@[simp] theorem State.setQueue_taken (s : State) (q : Nat) (l : List Entry) : (s.setQueue q l).taken = s.taken := rfl
@[simp] theorem State.setQueue_switch (s : State) (q : Nat) (l : List Entry) : (s.setQueue q l).switch = s.switch := rfl
@[simp] theorem State.setQueue_curWord (s : State) (q : Nat) (l : List Entry) : (s.setQueue q l).curWord = s.curWord := rfl
@[simp] theorem State.setQueue_agenda (s : State) (q : Nat) (l : List Entry) : (s.setQueue q l).agenda = s.agenda := rfl
@[simp] theorem State.setQueue_sync (s : State) (q : Nat) (l : List Entry) : (s.setQueue q l).sync = s.sync := rfl
@[simp] theorem State.setQueue_free (s : State) (q : Nat) (l : List Entry) : (s.setQueue q l).free = s.free := rfl

/-! ### State.waitFor -/

@[simp] theorem State.waitFor_ctx (s : State) (k : WaitKind) (d p v : Nat) : (s.waitFor k d p v).ctx =
    { s.ctx with wait := some { kind := k, dest := d, place := p, value := v, second := s.second } } := rfl
@[simp] theorem State.waitFor_other (s : State) (k : WaitKind) (d p v : Nat) : (s.waitFor k d p v).other = s.other := rfl
@[simp] theorem State.waitFor_core (s : State) (k : WaitKind) (d p v : Nat) : (s.waitFor k d p v).core = s.core := rfl
@[simp] theorem State.waitFor_peers (s : State) (k : WaitKind) (d p v : Nat) : (s.waitFor k d p v).peers = s.peers := rfl
@[simp] theorem State.waitFor_pkg (s : State) (k : WaitKind) (d p v : Nat) : (s.waitFor k d p v).pkg = s.pkg := rfl
@[simp] theorem State.waitFor_wordAddr (s : State) (k : WaitKind) (d p v : Nat) : (s.waitFor k d p v).wordAddr = s.wordAddr := rfl
@[simp] theorem State.waitFor_npc (s : State) (k : WaitKind) (d p v : Nat) : (s.waitFor k d p v).npc = s.npc := rfl
@[simp] theorem State.waitFor_second (s : State) (k : WaitKind) (d p v : Nat) : (s.waitFor k d p v).second = s.second := rfl
@[simp] theorem State.waitFor_pairAddr (s : State) (k : WaitKind) (d p v : Nat) : (s.waitFor k d p v).pairAddr = s.pairAddr := rfl
@[simp] theorem State.waitFor_trap (s : State) (k : WaitKind) (d p v : Nat) : (s.waitFor k d p v).trap = s.trap := rfl
@[simp] theorem State.waitFor_stalled (s : State) (k : WaitKind) (d p v : Nat) : (s.waitFor k d p v).stalled = s.stalled := rfl
@[simp] theorem State.waitFor_taken (s : State) (k : WaitKind) (d p v : Nat) : (s.waitFor k d p v).taken = s.taken := rfl
@[simp] theorem State.waitFor_switch (s : State) (k : WaitKind) (d p v : Nat) : (s.waitFor k d p v).switch = s.switch := rfl
@[simp] theorem State.waitFor_curWord (s : State) (k : WaitKind) (d p v : Nat) : (s.waitFor k d p v).curWord = s.curWord := rfl
@[simp] theorem State.waitFor_agenda (s : State) (k : WaitKind) (d p v : Nat) : (s.waitFor k d p v).agenda = s.agenda := rfl
@[simp] theorem State.waitFor_sync (s : State) (k : WaitKind) (d p v : Nat) : (s.waitFor k d p v).sync = s.sync := rfl
@[simp] theorem State.waitFor_free (s : State) (k : WaitKind) (d p v : Nat) : (s.waitFor k d p v).free = s.free := rfl

/-! ### State.waited -/

@[simp] theorem State.waited_ctx (s : State) : (s.waited).ctx =
    { s.ctx with wait := none } := rfl
@[simp] theorem State.waited_other (s : State) : (s.waited).other = s.other := rfl
@[simp] theorem State.waited_core (s : State) : (s.waited).core = s.core := rfl
@[simp] theorem State.waited_peers (s : State) : (s.waited).peers = s.peers := rfl
@[simp] theorem State.waited_pkg (s : State) : (s.waited).pkg = s.pkg := rfl
@[simp] theorem State.waited_wordAddr (s : State) : (s.waited).wordAddr = s.wordAddr := rfl
@[simp] theorem State.waited_npc (s : State) : (s.waited).npc = s.npc := rfl
@[simp] theorem State.waited_second (s : State) : (s.waited).second = s.second := rfl
@[simp] theorem State.waited_pairAddr (s : State) : (s.waited).pairAddr = s.pairAddr := rfl
@[simp] theorem State.waited_trap (s : State) : (s.waited).trap = s.trap := rfl
@[simp] theorem State.waited_stalled (s : State) : (s.waited).stalled = s.stalled := rfl
@[simp] theorem State.waited_taken (s : State) : (s.waited).taken = s.taken := rfl
@[simp] theorem State.waited_switch (s : State) : (s.waited).switch = s.switch := rfl
@[simp] theorem State.waited_curWord (s : State) : (s.waited).curWord = s.curWord := rfl
@[simp] theorem State.waited_agenda (s : State) : (s.waited).agenda = s.agenda := rfl
@[simp] theorem State.waited_sync (s : State) : (s.waited).sync = s.sync := rfl
@[simp] theorem State.waited_free (s : State) : (s.waited).free = s.free := rfl

/-! ### State.waitOver -/

@[simp] theorem State.waitOver_ctx (s : State) (w : WaitRec) : (s.waitOver w).ctx =
    { s.ctx with wait := none, skip1 := s.ctx.skip1 || !w.second, skip2 := s.ctx.skip2 || w.second } := rfl
@[simp] theorem State.waitOver_other (s : State) (w : WaitRec) : (s.waitOver w).other = s.other := rfl
@[simp] theorem State.waitOver_core (s : State) (w : WaitRec) : (s.waitOver w).core = s.core := rfl
@[simp] theorem State.waitOver_peers (s : State) (w : WaitRec) : (s.waitOver w).peers = s.peers := rfl
@[simp] theorem State.waitOver_pkg (s : State) (w : WaitRec) : (s.waitOver w).pkg = s.pkg := rfl
@[simp] theorem State.waitOver_wordAddr (s : State) (w : WaitRec) : (s.waitOver w).wordAddr = s.wordAddr := rfl
@[simp] theorem State.waitOver_npc (s : State) (w : WaitRec) : (s.waitOver w).npc = s.npc := rfl
@[simp] theorem State.waitOver_second (s : State) (w : WaitRec) : (s.waitOver w).second = s.second := rfl
@[simp] theorem State.waitOver_pairAddr (s : State) (w : WaitRec) : (s.waitOver w).pairAddr = s.pairAddr := rfl
@[simp] theorem State.waitOver_trap (s : State) (w : WaitRec) : (s.waitOver w).trap = s.trap := rfl
@[simp] theorem State.waitOver_stalled (s : State) (w : WaitRec) : (s.waitOver w).stalled = s.stalled := rfl
@[simp] theorem State.waitOver_taken (s : State) (w : WaitRec) : (s.waitOver w).taken = s.taken := rfl
@[simp] theorem State.waitOver_switch (s : State) (w : WaitRec) : (s.waitOver w).switch = s.switch := rfl
@[simp] theorem State.waitOver_curWord (s : State) (w : WaitRec) : (s.waitOver w).curWord = s.curWord := rfl
@[simp] theorem State.waitOver_agenda (s : State) (w : WaitRec) : (s.waitOver w).agenda = s.agenda := rfl
@[simp] theorem State.waitOver_sync (s : State) (w : WaitRec) : (s.waitOver w).sync = s.sync := rfl
@[simp] theorem State.waitOver_free (s : State) (w : WaitRec) : (s.waitOver w).free = s.free := rfl

/-! ### State.setKnotv -/

@[simp] theorem State.setKnotv_ctx (s : State) (k : Knot) : (s.setKnotv k).ctx = s.ctx := rfl
@[simp] theorem State.setKnotv_other (s : State) (k : Knot) : (s.setKnotv k).other = s.other := rfl
@[simp] theorem State.setKnotv_core (s : State) (k : Knot) : (s.setKnotv k).core =
    { s.core with knotv := k } := rfl
@[simp] theorem State.setKnotv_peers (s : State) (k : Knot) : (s.setKnotv k).peers = s.peers := rfl
@[simp] theorem State.setKnotv_pkg (s : State) (k : Knot) : (s.setKnotv k).pkg = s.pkg := rfl
@[simp] theorem State.setKnotv_wordAddr (s : State) (k : Knot) : (s.setKnotv k).wordAddr = s.wordAddr := rfl
@[simp] theorem State.setKnotv_npc (s : State) (k : Knot) : (s.setKnotv k).npc = s.npc := rfl
@[simp] theorem State.setKnotv_second (s : State) (k : Knot) : (s.setKnotv k).second = s.second := rfl
@[simp] theorem State.setKnotv_pairAddr (s : State) (k : Knot) : (s.setKnotv k).pairAddr = s.pairAddr := rfl
@[simp] theorem State.setKnotv_trap (s : State) (k : Knot) : (s.setKnotv k).trap = s.trap := rfl
@[simp] theorem State.setKnotv_stalled (s : State) (k : Knot) : (s.setKnotv k).stalled = s.stalled := rfl
@[simp] theorem State.setKnotv_taken (s : State) (k : Knot) : (s.setKnotv k).taken = s.taken := rfl
@[simp] theorem State.setKnotv_switch (s : State) (k : Knot) : (s.setKnotv k).switch = s.switch := rfl
@[simp] theorem State.setKnotv_curWord (s : State) (k : Knot) : (s.setKnotv k).curWord = s.curWord := rfl
@[simp] theorem State.setKnotv_agenda (s : State) (k : Knot) : (s.setKnotv k).agenda = s.agenda := rfl
@[simp] theorem State.setKnotv_sync (s : State) (k : Knot) : (s.setKnotv k).sync = s.sync := rfl
@[simp] theorem State.setKnotv_free (s : State) (k : Knot) : (s.setKnotv k).free = s.free := rfl

/-! ### State.dropCache -/

@[simp] theorem State.dropCache_ctx (s : State) : (s.dropCache).ctx = s.ctx := rfl
@[simp] theorem State.dropCache_other (s : State) : (s.dropCache).other = s.other := rfl
@[simp] theorem State.dropCache_core (s : State) : (s.dropCache).core =
    { s.core with cache := s.core.cache.filter (fun l => l.bank != s.ctx.bank) } := rfl
@[simp] theorem State.dropCache_peers (s : State) : (s.dropCache).peers = s.peers := rfl
@[simp] theorem State.dropCache_pkg (s : State) : (s.dropCache).pkg = s.pkg := rfl
@[simp] theorem State.dropCache_wordAddr (s : State) : (s.dropCache).wordAddr = s.wordAddr := rfl
@[simp] theorem State.dropCache_npc (s : State) : (s.dropCache).npc = s.npc := rfl
@[simp] theorem State.dropCache_second (s : State) : (s.dropCache).second = s.second := rfl
@[simp] theorem State.dropCache_pairAddr (s : State) : (s.dropCache).pairAddr = s.pairAddr := rfl
@[simp] theorem State.dropCache_trap (s : State) : (s.dropCache).trap = s.trap := rfl
@[simp] theorem State.dropCache_stalled (s : State) : (s.dropCache).stalled = s.stalled := rfl
@[simp] theorem State.dropCache_taken (s : State) : (s.dropCache).taken = s.taken := rfl
@[simp] theorem State.dropCache_switch (s : State) : (s.dropCache).switch = s.switch := rfl
@[simp] theorem State.dropCache_curWord (s : State) : (s.dropCache).curWord = s.curWord := rfl
@[simp] theorem State.dropCache_agenda (s : State) : (s.dropCache).agenda = s.agenda := rfl
@[simp] theorem State.dropCache_sync (s : State) : (s.dropCache).sync = s.sync := rfl
@[simp] theorem State.dropCache_free (s : State) : (s.dropCache).free = s.free := rfl

/-! ### State.observeBuffer -/

@[simp] theorem State.observeBuffer_ctx (s : State) : (s.observeBuffer).ctx = s.ctx := rfl
@[simp] theorem State.observeBuffer_other (s : State) : (s.observeBuffer).other = s.other := rfl
@[simp] theorem State.observeBuffer_core (s : State) : (s.observeBuffer).core = s.core := rfl
@[simp] theorem State.observeBuffer_peers (s : State) : (s.observeBuffer).peers = s.peers := rfl
@[simp] theorem State.observeBuffer_wordAddr (s : State) : (s.observeBuffer).wordAddr = s.wordAddr := rfl
@[simp] theorem State.observeBuffer_npc (s : State) : (s.observeBuffer).npc = s.npc := rfl
@[simp] theorem State.observeBuffer_second (s : State) : (s.observeBuffer).second = s.second := rfl
@[simp] theorem State.observeBuffer_pairAddr (s : State) : (s.observeBuffer).pairAddr = s.pairAddr := rfl
@[simp] theorem State.observeBuffer_trap (s : State) : (s.observeBuffer).trap = s.trap := rfl
@[simp] theorem State.observeBuffer_stalled (s : State) : (s.observeBuffer).stalled = s.stalled := rfl
@[simp] theorem State.observeBuffer_taken (s : State) : (s.observeBuffer).taken = s.taken := rfl
@[simp] theorem State.observeBuffer_switch (s : State) : (s.observeBuffer).switch = s.switch := rfl
@[simp] theorem State.observeBuffer_curWord (s : State) : (s.observeBuffer).curWord = s.curWord := rfl
@[simp] theorem State.observeBuffer_agenda (s : State) : (s.observeBuffer).agenda = s.agenda := rfl
@[simp] theorem State.observeBuffer_sync (s : State) : (s.observeBuffer).sync = s.sync := rfl
@[simp] theorem State.observeBuffer_free (s : State) : (s.observeBuffer).free = s.free := rfl

/-! ### State.swapBanks -/

@[simp] theorem State.swapBanks_ctx (s : State) : (s.swapBanks).ctx =
    { s.other with back := false } := rfl
@[simp] theorem State.swapBanks_other (s : State) : (s.swapBanks).other =
    s.ctx := rfl
@[simp] theorem State.swapBanks_core (s : State) : (s.swapBanks).core =
    { s.core with running := s.other.bank } := rfl
@[simp] theorem State.swapBanks_peers (s : State) : (s.swapBanks).peers = s.peers := rfl
@[simp] theorem State.swapBanks_pkg (s : State) : (s.swapBanks).pkg = s.pkg := rfl
@[simp] theorem State.swapBanks_wordAddr (s : State) : (s.swapBanks).wordAddr = s.wordAddr := rfl
@[simp] theorem State.swapBanks_npc (s : State) : (s.swapBanks).npc = s.npc := rfl
@[simp] theorem State.swapBanks_second (s : State) : (s.swapBanks).second = s.second := rfl
@[simp] theorem State.swapBanks_pairAddr (s : State) : (s.swapBanks).pairAddr = s.pairAddr := rfl
@[simp] theorem State.swapBanks_trap (s : State) : (s.swapBanks).trap = s.trap := rfl
@[simp] theorem State.swapBanks_stalled (s : State) : (s.swapBanks).stalled = s.stalled := rfl
@[simp] theorem State.swapBanks_taken (s : State) : (s.swapBanks).taken = s.taken := rfl
@[simp] theorem State.swapBanks_switch (s : State) : (s.swapBanks).switch = s.switch := rfl
@[simp] theorem State.swapBanks_curWord (s : State) : (s.swapBanks).curWord = s.curWord := rfl
@[simp] theorem State.swapBanks_agenda (s : State) : (s.swapBanks).agenda = s.agenda := rfl
@[simp] theorem State.swapBanks_sync (s : State) : (s.swapBanks).sync = s.sync := rfl
@[simp] theorem State.swapBanks_free (s : State) : (s.swapBanks).free = s.free := rfl

end Sys2Proof.Machine
end

