-- ==== Sys2Proof/Laws/Trap.lean ====
section
/-! SUPPORT. What a commit of shadow results, a capture and a trap leave as they stand, and the trap in the terms
of the claims. -/

namespace Sys2Proof.Machine

/-- `t` keeps what no commit of a shadow result writes: the package, the place in the program, and the registers
that a handler reads. -/
structure Quiet (s t : State) : Prop where
  pkg : t.pkg = s.pkg
  pairAddr : t.pairAddr = s.pairAddr
  wordAddr : t.wordAddr = s.wordAddr
  npc : t.npc = s.npc
  taken : t.taken = s.taken
  trap : t.trap = s.trap
  g : t.ctx.g = s.ctx.g
  f : t.ctx.f = s.ctx.f
  p : t.ctx.p = s.ctx.p
  estat : t.ctx.estat = s.ctx.estat
  tvec : t.ctx.tvec = s.ctx.tvec
  lc : t.ctx.lc = s.ctx.lc
  first : t.ctx.first = s.ctx.first
  halted : t.ctx.halted = s.ctx.halted
  skip1 : t.ctx.skip1 = s.ctx.skip1
  skip2 : t.ctx.skip2 = s.ctx.skip2

theorem Quiet.refl (s : State) : Quiet s s := by constructor <;> rfl

theorem Quiet.trans {s t u : State} (h : Quiet s t) (k : Quiet t u) : Quiet s u := by
  constructor
  · exact k.pkg.trans h.pkg
  · exact k.pairAddr.trans h.pairAddr
  · exact k.wordAddr.trans h.wordAddr
  · exact k.npc.trans h.npc
  · exact k.taken.trans h.taken
  · exact k.trap.trans h.trap
  · exact k.g.trans h.g
  · exact k.f.trans h.f
  · exact k.p.trans h.p
  · exact k.estat.trans h.estat
  · exact k.tvec.trans h.tvec
  · exact k.lc.trans h.lc
  · exact k.first.trans h.first
  · exact k.halted.trans h.halted
  · exact k.skip1.trans h.skip1
  · exact k.skip2.trans h.skip2

theorem State.push_quiet (s : State) (q : Nat) (v : Entry) : Quiet s (s.push q v) := by
  unfold State.push
  dsimp only
  split
  · constructor <;> rfl
  · split <;> constructor <;> rfl

theorem State.setEntry_quiet (s : State) (e : Nat) (v : Entry) : Quiet s (s.setEntry e v) := by constructor <;> rfl

theorem State.setRow_quiet (s : State) (r : Nat) (v : Row) : Quiet s (s.setRow r v) := by constructor <;> rfl

theorem Quiet.amax {s u : State} (h : Quiet s u) (x : Word) : Quiet s { u with ctx := { u.ctx with amaxk := x } } := by
  exact ⟨h.pkg, h.pairAddr, h.wordAddr, h.npc, h.taken, h.trap, h.g, h.f, h.p, h.estat, h.tvec, h.lc, h.first, h.halted,
    h.skip1, h.skip2⟩

theorem State.commitHere_quiet (s : State) (r : Shadow) : Quiet s (s.commitHere r) := by
  unfold State.commitHere
  dsimp only
  generalize List.foldl _ _ _ = latch
  have h1 : ∀ (c : Bool) (u v : State), Quiet s u → Quiet u v → Quiet s (if c = true then v else u) := by
    intro c u v hu hv
    cases c
    · exact hu
    · exact hu.trans hv
  refine h1 _ _ _ ?_ (by constructor <;> rfl)
  have h0 : ∀ c : Ctx, c = { (s.record { flags := r.flags, sat := r.sat, und := r.und }).ctx with latch := latch } →
      Quiet s { s.record { flags := r.flags, sat := r.sat, und := r.und } with ctx := c } := by
    intro c hc; subst hc; constructor <;> rfl
  specialize h0 _ rfl
  split
  · exact h0.trans (State.setEntry_quiet _ _ _)
  · exact h0.trans (State.push_quiet _ _ _)
  · exact (h0.trans (State.setEntry_quiet _ _ _)).amax _
  · exact (h0.trans (State.push_quiet _ _ _)).amax _
  · exact h0.amax _
  · exact h0
  · exact h0.trans (State.setRow_quiet _ _ _)

theorem State.commit_quiet (s : State) (r : Shadow) : Quiet s (s.commit r) := by
  have h := State.commitHere_quiet s r
  unfold State.commit
  dsimp only
  split
  · exact h
  · split
    · exact ⟨h.pkg, h.pairAddr, h.wordAddr, h.npc, h.taken, h.trap, h.g, h.f, h.p, h.estat, h.tvec, h.lc, h.first, h.halted,
        h.skip1, h.skip2⟩
    · exact h

theorem State.commits_quiet (s : State) (l : List Shadow) : Quiet s (l.foldl State.commit s) := by
  induction l generalizing s with
  | nil => exact Quiet.refl s
  | cons r l ih => exact (State.commit_quiet s r).trans (ih _)

theorem State.commitUpTo_quiet (s : State) (t : Nat) : Quiet s (s.commitUpTo t) := by
  unfold State.commitUpTo
  split
  · exact Quiet.refl s
  · have h : Quiet s { s with ctx := { s.ctx with live := s.ctx.live.filter (fun r => decide (t < r.at_)) } } := by
      constructor <;> rfl
    exact h.trans (State.commits_quiet _ _)

theorem State.resumed_quiet (s : State) : Quiet s s.resumed := by
  unfold State.resumed
  split <;> constructor <;> rfl

theorem getLsbD_setBit (x : Word) (k : Nat) (b : Bool) (j : Nat) (hk : k < 64) :
    (setBit x k b).getLsbD j = if j = k then b else x.getLsbD j := by
  unfold setBit
  by_cases hj : j < 64
  · split <;> rename_i hb
    · simp only [BitVec.getLsbD_or, BitVec.getLsbD_shiftLeft, BitVec.getLsbD_one]
      by_cases h : j = k
      · subst h; simp [hj, hb]
      · simp only [h, if_false]
        have : ¬ (¬ j < k ∧ j - k = 0) := by omega
        by_cases hlt : j < k <;> simp_all
    · simp only [BitVec.getLsbD_and, BitVec.getLsbD_not, BitVec.getLsbD_shiftLeft, BitVec.getLsbD_one]
      by_cases h : j = k
      · subst h; simp_all
      · simp only [h, if_false]
        have : ¬ (¬ j < k ∧ j - k = 0) := by omega
        by_cases hlt : j < k <;> simp_all
  · have h1 : ∀ y : Word, y.getLsbD j = false := fun y => BitVec.getLsbD_of_ge y j (by omega)
    have : j ≠ k := by omega
    simp [h1, this]

/-- What a capture keeps; of ESTAT it can write SHADOW alone. -/
structure Kept (s t : State) : Prop where
  pkg : t.pkg = s.pkg
  pairAddr : t.pairAddr = s.pairAddr
  g : t.ctx.g = s.ctx.g
  f : t.ctx.f = s.ctx.f
  p : t.ctx.p = s.ctx.p
  tvec : t.ctx.tvec = s.ctx.tvec
  lc : t.ctx.lc = s.ctx.lc
  first : t.ctx.first = s.ctx.first
  halted : t.ctx.halted = s.ctx.halted
  estat : ∀ k, k ≠ 3 → t.ctx.estat.getLsbD k = s.ctx.estat.getLsbD k

theorem Quiet.kept {s t : State} (h : Quiet s t) : Kept s t :=
  ⟨h.pkg, h.pairAddr, h.g, h.f, h.p, h.tvec, h.lc, h.first, h.halted, fun _ _ => by rw [h.estat]⟩

theorem State.capture_kept (s : State) : Kept s s.capture := by
  unfold State.capture
  dsimp only
  have h := (State.resumed_quiet s).trans (State.commitUpTo_quiet s.resumed s.now)
  split
  · have h1 : Quiet s { s.resumed.commitUpTo s.now with ctx := { (s.resumed.commitUpTo s.now).ctx with live := [] } } :=
      h.trans (by constructor <;> rfl)
    have k := (h1.trans (State.commits_quiet _ (s.resumed.commitUpTo s.now).ctx.live)).kept
    exact ⟨k.pkg, k.pairAddr, k.g, k.f, k.p, k.tvec, k.lc, k.first, k.halted, k.estat⟩
  · have k := h.kept
    refine ⟨k.pkg, k.pairAddr, k.g, k.f, k.p, k.tvec, k.lc, k.first, k.halted, fun j hj => ?_⟩
    show (setBit _ 3 _).getLsbD j = _
    rw [getLsbD_setBit _ _ _ _ (by decide)]
    simp [hj, h.estat]

/-- R44: a trap that is no TRANSLATION fault, in the terms of the claims. -/
theorem State.takeTrap_trapped (s : State) (cause : Nat) (eval : Word) (late : Bool) (h : cause ≠ 0x06) :
    Safety.Trapped s (s.takeTrap cause eval late) cause eval := by
  have k := State.capture_kept s
  have b (x : Word) (n : Nat) (v : Bool) (j : Nat) (hn : n < 64) := getLsbD_setBit x n v j hn
  refine ⟨k.pairAddr, rfl, rfl, ?_, ?_, ?_, ?_, ?_, rfl, ?_, ?_, ?_, k.pkg⟩
  · simp only [State.takeTrap, h, b, bit, false_and, if_false, Nat.reduceLT]
    simpa using k.estat 7 (by decide)
  · simp only [State.takeTrap, h, b, bit, false_and, if_false, Nat.reduceLT]
    simpa using k.estat 1 (by decide)
  · simp only [State.takeTrap, h, b, bit, false_and, if_false, Nat.reduceLT]
    simp
  · simp only [State.takeTrap, h, b, bit, false_and, if_false, Nat.reduceLT]
    simp
  · simp [State.takeTrap, h, k.tvec, word]
  · simp [State.takeTrap, h, k.g]
  · simp [State.takeTrap, h, k.f]
  · simp [State.takeTrap, h, k.p]

theorem State.takeTrap_halted (s : State) (cause : Nat) (eval : Word) (late : Bool) (h : cause ≠ 0x06) :
    (s.takeTrap cause eval late).ctx.halted = s.ctx.halted := by
  simp [State.takeTrap, h, (State.capture_kept s).halted]

theorem trapOut_yields {i : Instr} {s : State} {cause : Nat} {eval : Word} (h : exec i s = trapOut s cause eval)
    (hc : cause ≠ 0x06) : Safety.Yields i s (fun t => Safety.Trapped s t cause eval) :=
  ⟨_, h, State.takeTrap_trapped s cause eval false hc⟩

end Sys2Proof.Machine
end

