-- ==== Sys2Proof/Laws/Ops.lean ====
section
/-! SUPPORT. What the shared operations over registers, fields and time do, once each: reads after writes, the value
of a written field, the passing of time, and how a meaning built by `finish` can end. -/

namespace Sys2Proof.Machine

/-! ### Registers (R17, R20) -/

@[simp] theorem State.gr_zero (s : State) : s.gr 0 = 0 := by simp [State.gr]

theorem State.gr_setGr (s : State) (d r : BitVec 6) (v : Word) :
    (s.setGr d v).gr r = if d = 0 then s.gr r else if r = d then v else s.gr r := by
  unfold State.setGr
  by_cases hd : d = 0
  · simp [hd]
  · simp only [hd, if_false]
    unfold State.gr
    by_cases hr : r = 0
    · subst hr
      simp only [if_true]
      rw [if_neg (Ne.symm hd)]
    · simp only [hr, if_false]
      by_cases h : r = d
      · subst h; simp
      · rw [if_neg h]
        rw [Vector.getElem_set_ne]
        exact fun e => h (BitVec.eq_of_toNat_eq e.symm)

theorem State.fr_setFr (s : State) (d r : BitVec 5) (v : Word) : (s.setFr d v).fr r = if r = d then v else s.fr r := by
  unfold State.setFr State.fr
  by_cases h : r = d
  · subst h; simp
  · rw [if_neg h]
    rw [Vector.getElem_set_ne]
    exact fun e => h (BitVec.eq_of_toNat_eq e.symm)

@[simp] theorem State.pr_zero (s : State) : s.pr 0 = BitVec.allOnes 1024 := by simp [State.pr]

theorem State.pr_setPr (s : State) (d r : BitVec 3) (v : Pred) :
    (s.setPr d v).pr r = if d = 0 then s.pr r else if r = d then v else s.pr r := by
  unfold State.setPr
  by_cases hd : d = 0
  · simp [hd]
  · simp only [hd, if_false]
    unfold State.pr
    by_cases hr : r = 0
    · subst hr
      simp only [if_true]
      rw [if_neg (Ne.symm hd)]
    · simp only [hr, if_false]
      by_cases h : r = d
      · subst h; simp
      · rw [if_neg h]
        rw [Vector.getElem_set_ne]
        exact fun e => h (BitVec.eq_of_toNat_eq e.symm)

/-- A write of a g register keeps the rest of the context. -/
theorem State.setGr_ctx (s : State) (d : BitVec 6) (v : Word) :
    (s.setGr d v).ctx = { s.ctx with g := if d = 0 then s.ctx.g else s.ctx.g.set d.toNat v d.isLt } := by
  unfold State.setGr
  split <;> rfl

/-- A write of a p register keeps the rest of the context. -/
theorem State.setPr_ctx (s : State) (d : BitVec 3) (v : Pred) :
    (s.setPr d v).ctx = { s.ctx with p := if d = 0 then s.ctx.p else s.ctx.p.set d.toNat v d.isLt } := by
  unfold State.setPr
  split <;> rfl

/-! ### Fields of a word (R13) -/

theorem setBits_toNat (x : Word) (h l v : Nat) (hl : l ≤ h) (hh : h < 64) :
    (setBits x h l v).toNat = x.toNat - bits x h l * 2 ^ l + v % 2 ^ (h - l + 1) * 2 ^ l := by
  unfold setBits
  rw [BitVec.toNat_ofNat, Nat.mod_eq_of_lt]
  unfold bits
  set w := h - l + 1
  have hx := x.isLt
  have hv : v % 2 ^ w < 2 ^ w := Nat.mod_lt _ (Nat.two_pow_pos w)
  have e : (2 : Nat) ^ 64 = 2 ^ w * 2 ^ l * 2 ^ (63 - h) := by
    rw [← Nat.pow_add, ← Nat.pow_add]; congr 1; omega
  have hq : x.toNat / 2 ^ l / 2 ^ w < 2 ^ (63 - h) := by
    rw [Nat.div_div_eq_div_mul, Nat.div_lt_iff_lt_mul (by positivity)]
    calc x.toNat < 2 ^ 64 := hx
      _ = _ := by rw [e]; ring
  have d1 := Nat.div_add_mod (x.toNat / 2 ^ l) (2 ^ w)
  have d2 := Nat.div_add_mod x.toNat (2 ^ l)
  have hr : x.toNat % 2 ^ l < 2 ^ l := Nat.mod_lt _ (by positivity)
  set q := x.toNat / 2 ^ l / 2 ^ w
  set m := x.toNat / 2 ^ l % 2 ^ w
  set r := x.toNat % 2 ^ l
  have hs : x.toNat = 2 ^ l * (2 ^ w * q + m) + r := by rw [d1, d2]
  have k : x.toNat - m * 2 ^ l = 2 ^ l * (2 ^ w * q) + r := by
    rw [hs, Nat.mul_add, Nat.mul_comm m]; omega
  rw [k, e]
  calc _ = 2 ^ l * (2 ^ w * q + v % 2 ^ w) + r := by ring
    _ < 2 ^ l * (2 ^ w * q + v % 2 ^ w) + 2 ^ l := by omega
    _ = 2 ^ l * (2 ^ w * q + v % 2 ^ w + 1) := by ring
    _ ≤ 2 ^ l * (2 ^ w * q + 2 ^ w) := Nat.mul_le_mul_left _ (by omega)
    _ = 2 ^ l * 2 ^ w * (q + 1) := by ring
    _ ≤ 2 ^ l * 2 ^ w * 2 ^ (63 - h) := Nat.mul_le_mul_left _ (by omega)
    _ = 2 ^ w * 2 ^ l * 2 ^ (63 - h) := by ring

/-! ### Time (R37, R251) -/

@[simp] theorem State.pass_mem (s : State) (n : Nat) : (s.pass n).pkg.mem = s.pkg.mem := rfl
/-- Package time passes by n cycles and by those for which late replies hold the core (R249, R252). -/
theorem State.pass_cyc (s : State) (n : Nat) : (s.pass n).pkg.cyc =
    s.pkg.cyc + n + (if s.frozen then 0 else s.core.freeze.extra s.pkg.cyc s.core.clock n) := rfl

/-- Where no reply is to be late, by n cycles. -/
theorem State.pass_cyc_on_time (s : State) (n : Nat) (h : s.core.freeze.later = []) :
    (s.pass n).pkg.cyc = s.pkg.cyc + n := by
  rw [State.pass_cyc]; simp [Freeze.extra, h]

theorem Ctx.timerAt_regs (c : Ctx) (cyc : Nat) :
    (c.timerAt cyc).g = c.g ∧ (c.timerAt cyc).f = c.f ∧ (c.timerAt cyc).p = c.p ∧ (c.timerAt cyc).pc = c.pc := by
  unfold Ctx.timerAt
  split
  · split
    · exact ⟨rfl, rfl, rfl, rfl⟩
    · dsimp only
      split <;> exact ⟨rfl, rfl, rfl, rfl⟩
  · exact ⟨rfl, rfl, rfl, rfl⟩

theorem State.pass_regs (s : State) (n : Nat) :
    (s.pass n).ctx.g = s.ctx.g ∧ (s.pass n).ctx.f = s.ctx.f ∧ (s.pass n).ctx.p = s.ctx.p ∧ (s.pass n).ctx.pc = s.ctx.pc := by
  unfold State.pass Ctx.timerPast
  dsimp only
  split
  · exact Ctx.timerAt_regs s.ctx _
  · exact ⟨rfl, rfl, rfl, rfl⟩

/-- The passing of core time, with the shadow results that commit in it, writes no memory and no g, f or p register. -/
theorem State.reach_keeps (s : State) (t : Nat) :
    (s.reach t).pkg.mem = s.pkg.mem ∧ (s.reach t).ctx.g = s.ctx.g ∧ (s.reach t).ctx.f = s.ctx.f ∧ (s.reach t).ctx.p = s.ctx.p := by
  unfold State.reach
  have q := State.commitUpTo_quiet (if s.now < t then s.pass (t - s.now) else s) (if s.now < t then t else s.now)
  rw [q.pkg, q.g, q.f, q.p]
  split
  · have k := State.pass_regs s (t - s.now)
    exact ⟨rfl, k.1, k.2.1, k.2.2.1⟩
  · exact ⟨rfl, rfl, rfl, rfl⟩

/-! ### The end of a meaning -/

/-- A meaning that computes a state completes with it. -/
@[simp] theorem finish_ok (s t : State) : finish s (.ok t) = .next t := rfl

/-- A meaning that stops with a trap takes it on the state before the instruction. -/
@[simp] theorem finish_trap (s : State) (c : Nat) (e : Word) : finish s (.error (.trap c e)) = .next (s.takeTrap c e) := rfl

/-- A meaning that cannot go on yet leaves the state but for the reason it waits for. -/
@[simp] theorem finish_wait (s : State) (r : Nat) :
    finish s (.error (.wait r)) = .next { s with stalled := true, ctx := { s.ctx with stallReason := r } } := rfl

/-- Every way in which a meaning built by `finish` answers a next state. -/
theorem finish_cases {s t : State} {m : M State} (h : finish s m = .next t) :
    m = .ok t
    ∨ (∃ c e, m = .error (.trap c e) ∧ trapOut s c e = .next t)
    ∨ (∃ u c e, m = .error (.late u c e) ∧ trapLate u c e = .next t)
    ∨ (∃ u c e, m = .error (.row u c e) ∧ trapRow u c e = .next t)
    ∨ (∃ u e k, m = .error (.park u e k) ∧ trapPark (u.getD s) u.isSome e k = .next t)
    ∨ (∃ r, m = .error (.wait r) ∧ stallOut s r = .next t)
    ∨ (∃ q, m = .error (.queue q) ∧ queueOut s q = .next t)
    ∨ (∃ u r, m = .error (.waitIn u r) ∧ stallOut u r = .next t) := by
  cases m with
  | ok u => exact .inl (by simpa [finish] using h)
  | error e =>
    refine .inr ?_
    cases e with
    | trap c e => exact .inl ⟨c, e, rfl, h⟩
    | late u c e => exact .inr (.inl ⟨u, c, e, rfl, h⟩)
    | row u c e => exact .inr (.inr (.inl ⟨u, c, e, rfl, h⟩))
    | park u e k =>
      refine .inr (.inr (.inr (.inl ⟨u, e, k, rfl, ?_⟩)))
      cases u with
      | none => exact h
      | some u => exact h
    | wait r => exact .inr (.inr (.inr (.inr (.inl ⟨r, rfl, h⟩))))
    | queue q => exact .inr (.inr (.inr (.inr (.inr (.inl ⟨q, rfl, h⟩)))))
    | waitIn u r => exact .inr (.inr (.inr (.inr (.inr (.inr ⟨u, r, rfl, h⟩)))))
    | stop r => exact absurd h (by simp [finish])

end Sys2Proof.Machine
end

