-- ==== Sys2Proof/Laws/PerInstr.lean ====
section
/-! SUPPORT. One lemma per instruction: a well-formed instruction has a word whose P and C bits are clear, and it
carries a literal prefix only where its major opcode takes one (R48, R52, R54). An event has no word. -/

namespace Sys2Proof.Laws.Wf

/-- A well-formed instruction has a word with bits 31 and 30 clear, and a prefix only where its major takes one. -/
def Statement (i : Instr) : Prop :=
  i.wf = true → ∃ pre n, encodeBase i = some (pre, n) ∧ n < 2 ^ 30 ∧ (pre.isSome = true → takesPrefix (n / 2 ^ 24) = true)

theorem imm_field_lt {w : Nat} (v : Imm w) : v.field < 2 ^ w := by
  cases v with
  | short v => exact v.isLt
  | long v => exact Nat.mod_lt _ (Nat.two_pow_pos w)

theorem of_word {i : Instr} {n : Nat} (h : encodeBase i = some (none, n)) (hn : n < 2 ^ 30) : Statement i :=
  fun _ => ⟨none, n, h, hn, fun k => Bool.noConfusion k⟩

theorem of_imm {i : Instr} {pre : Option (BitVec 24)} {n m : Nat} (h : encodeBase i = some (pre, n))
    (hm : takesPrefix m = true) (hlo : m * 2 ^ 24 ≤ n) (hhi : n < (m + 1) * 2 ^ 24) (h30 : m < 64) : Statement i := by
  refine fun _ => ⟨pre, n, h, by omega, fun _ => ?_⟩
  have : n / 2 ^ 24 = m := by omega
  rw [this]; exact hm

theorem add (d : BitVec 6) (a : BitVec 6) (b : BitVec 6) : Statement (.add d a b) := by
  have := d.isLt
  have := a.isLt
  have := b.isLt
  exact of_word rfl (by simp only [put, List.foldl]; omega)

theorem sub (d : BitVec 6) (a : BitVec 6) (b : BitVec 6) : Statement (.sub d a b) := by
  have := d.isLt
  have := a.isLt
  have := b.isLt
  exact of_word rfl (by simp only [put, List.foldl]; omega)

theorem and_ (d : BitVec 6) (a : BitVec 6) (b : BitVec 6) : Statement (.and_ d a b) := by
  have := d.isLt
  have := a.isLt
  have := b.isLt
  exact of_word rfl (by simp only [put, List.foldl]; omega)

theorem or_ (d : BitVec 6) (a : BitVec 6) (b : BitVec 6) : Statement (.or_ d a b) := by
  have := d.isLt
  have := a.isLt
  have := b.isLt
  exact of_word rfl (by simp only [put, List.foldl]; omega)

theorem xor_ (d : BitVec 6) (a : BitVec 6) (b : BitVec 6) : Statement (.xor_ d a b) := by
  have := d.isLt
  have := a.isLt
  have := b.isLt
  exact of_word rfl (by simp only [put, List.foldl]; omega)

theorem andn (d : BitVec 6) (a : BitVec 6) (b : BitVec 6) : Statement (.andn d a b) := by
  have := d.isLt
  have := a.isLt
  have := b.isLt
  exact of_word rfl (by simp only [put, List.foldl]; omega)

theorem orn (d : BitVec 6) (a : BitVec 6) (b : BitVec 6) : Statement (.orn d a b) := by
  have := d.isLt
  have := a.isLt
  have := b.isLt
  exact of_word rfl (by simp only [put, List.foldl]; omega)

theorem sll (d : BitVec 6) (a : BitVec 6) (b : BitVec 6) : Statement (.sll d a b) := by
  have := d.isLt
  have := a.isLt
  have := b.isLt
  exact of_word rfl (by simp only [put, List.foldl]; omega)

theorem srl (d : BitVec 6) (a : BitVec 6) (b : BitVec 6) : Statement (.srl d a b) := by
  have := d.isLt
  have := a.isLt
  have := b.isLt
  exact of_word rfl (by simp only [put, List.foldl]; omega)

theorem sra (d : BitVec 6) (a : BitVec 6) (b : BitVec 6) : Statement (.sra d a b) := by
  have := d.isLt
  have := a.isLt
  have := b.isLt
  exact of_word rfl (by simp only [put, List.foldl]; omega)

theorem rol (d : BitVec 6) (a : BitVec 6) (b : BitVec 6) : Statement (.rol d a b) := by
  have := d.isLt
  have := a.isLt
  have := b.isLt
  exact of_word rfl (by simp only [put, List.foldl]; omega)

theorem ror (d : BitVec 6) (a : BitVec 6) (b : BitVec 6) : Statement (.ror d a b) := by
  have := d.isLt
  have := a.isLt
  have := b.isLt
  exact of_word rfl (by simp only [put, List.foldl]; omega)

theorem slt (d : BitVec 6) (a : BitVec 6) (b : BitVec 6) : Statement (.slt d a b) := by
  have := d.isLt
  have := a.isLt
  have := b.isLt
  exact of_word rfl (by simp only [put, List.foldl]; omega)

theorem sltn (d : BitVec 6) (a : BitVec 6) (b : BitVec 6) : Statement (.sltn d a b) := by
  have := d.isLt
  have := a.isLt
  have := b.isLt
  exact of_word rfl (by simp only [put, List.foldl]; omega)

theorem min (d : BitVec 6) (a : BitVec 6) (b : BitVec 6) : Statement (.min d a b) := by
  have := d.isLt
  have := a.isLt
  have := b.isLt
  exact of_word rfl (by simp only [put, List.foldl]; omega)

theorem max (d : BitVec 6) (a : BitVec 6) (b : BitVec 6) : Statement (.max d a b) := by
  have := d.isLt
  have := a.isLt
  have := b.isLt
  exact of_word rfl (by simp only [put, List.foldl]; omega)

theorem minn (d : BitVec 6) (a : BitVec 6) (b : BitVec 6) : Statement (.minn d a b) := by
  have := d.isLt
  have := a.isLt
  have := b.isLt
  exact of_word rfl (by simp only [put, List.foldl]; omega)

theorem maxn (d : BitVec 6) (a : BitVec 6) (b : BitVec 6) : Statement (.maxn d a b) := by
  have := d.isLt
  have := a.isLt
  have := b.isLt
  exact of_word rfl (by simp only [put, List.foldl]; omega)

theorem mul (d : BitVec 6) (a : BitVec 6) (b : BitVec 6) : Statement (.mul d a b) := by
  have := d.isLt
  have := a.isLt
  have := b.isLt
  exact of_word rfl (by simp only [put, List.foldl]; omega)

theorem mulh (d : BitVec 6) (a : BitVec 6) (b : BitVec 6) : Statement (.mulh d a b) := by
  have := d.isLt
  have := a.isLt
  have := b.isLt
  exact of_word rfl (by simp only [put, List.foldl]; omega)

theorem mulhn (d : BitVec 6) (a : BitVec 6) (b : BitVec 6) : Statement (.mulhn d a b) := by
  have := d.isLt
  have := a.isLt
  have := b.isLt
  exact of_word rfl (by simp only [put, List.foldl]; omega)

theorem div (d : BitVec 6) (a : BitVec 6) (b : BitVec 6) : Statement (.div d a b) := by
  have := d.isLt
  have := a.isLt
  have := b.isLt
  exact of_word rfl (by simp only [put, List.foldl]; omega)

theorem divn (d : BitVec 6) (a : BitVec 6) (b : BitVec 6) : Statement (.divn d a b) := by
  have := d.isLt
  have := a.isLt
  have := b.isLt
  exact of_word rfl (by simp only [put, List.foldl]; omega)

theorem rem (d : BitVec 6) (a : BitVec 6) (b : BitVec 6) : Statement (.rem d a b) := by
  have := d.isLt
  have := a.isLt
  have := b.isLt
  exact of_word rfl (by simp only [put, List.foldl]; omega)

theorem remn (d : BitVec 6) (a : BitVec 6) (b : BitVec 6) : Statement (.remn d a b) := by
  have := d.isLt
  have := a.isLt
  have := b.isLt
  exact of_word rfl (by simp only [put, List.foldl]; omega)

theorem clz (d : BitVec 6) (a : BitVec 6) : Statement (.clz d a) := by
  have := d.isLt
  have := a.isLt
  exact of_word rfl (by simp only [put, List.foldl]; omega)

theorem ctz (d : BitVec 6) (a : BitVec 6) : Statement (.ctz d a) := by
  have := d.isLt
  have := a.isLt
  exact of_word rfl (by simp only [put, List.foldl]; omega)

theorem popc (d : BitVec 6) (a : BitVec 6) : Statement (.popc d a) := by
  have := d.isLt
  have := a.isLt
  exact of_word rfl (by simp only [put, List.foldl]; omega)

theorem bext (d : BitVec 6) (a : BitVec 6) (b : BitVec 6) : Statement (.bext d a b) := by
  have := d.isLt
  have := a.isLt
  have := b.isLt
  exact of_word rfl (by simp only [put, List.foldl]; omega)

theorem bdep (d : BitVec 6) (a : BitVec 6) (b : BitVec 6) : Statement (.bdep d a b) := by
  have := d.isLt
  have := a.isLt
  have := b.isLt
  exact of_word rfl (by simp only [put, List.foldl]; omega)

theorem sext (d : BitVec 6) (a : BitVec 6) (n : BitVec 6) : Statement (.sext d a n) := by
  have := d.isLt
  have := a.isLt
  have := n.isLt
  exact of_word rfl (by simp only [put, List.foldl]; omega)

theorem zext (d : BitVec 6) (a : BitVec 6) (n : BitVec 6) : Statement (.zext d a n) := by
  have := d.isLt
  have := a.isLt
  have := n.isLt
  exact of_word rfl (by simp only [put, List.foldl]; omega)

theorem addi (d : BitVec 6) (a : BitVec 6) (imm : Imm 12) : Statement (.addi d a imm) := by
  have := d.isLt
  have := a.isLt
  have := imm_field_lt imm
  exact of_imm (m := 0x02) rfl (by decide) (by simp only [put, List.foldl]; omega)
    (by simp only [put, List.foldl]; omega) (by decide)

theorem andi (d : BitVec 6) (a : BitVec 6) (imm : Imm 12) : Statement (.andi d a imm) := by
  have := d.isLt
  have := a.isLt
  have := imm_field_lt imm
  exact of_imm (m := 0x03) rfl (by decide) (by simp only [put, List.foldl]; omega)
    (by simp only [put, List.foldl]; omega) (by decide)

theorem ori (d : BitVec 6) (a : BitVec 6) (imm : Imm 12) : Statement (.ori d a imm) := by
  have := d.isLt
  have := a.isLt
  have := imm_field_lt imm
  exact of_imm (m := 0x04) rfl (by decide) (by simp only [put, List.foldl]; omega)
    (by simp only [put, List.foldl]; omega) (by decide)

theorem xori (d : BitVec 6) (a : BitVec 6) (imm : Imm 12) : Statement (.xori d a imm) := by
  have := d.isLt
  have := a.isLt
  have := imm_field_lt imm
  exact of_imm (m := 0x05) rfl (by decide) (by simp only [put, List.foldl]; omega)
    (by simp only [put, List.foldl]; omega) (by decide)

theorem slli (d : BitVec 6) (a : BitVec 6) (sh : BitVec 6) : Statement (.slli d a sh) := by
  have := d.isLt
  have := a.isLt
  have := sh.isLt
  exact of_word rfl (by simp only [put, List.foldl]; omega)

theorem srli (d : BitVec 6) (a : BitVec 6) (sh : BitVec 6) : Statement (.srli d a sh) := by
  have := d.isLt
  have := a.isLt
  have := sh.isLt
  exact of_word rfl (by simp only [put, List.foldl]; omega)

theorem srai (d : BitVec 6) (a : BitVec 6) (sh : BitVec 6) : Statement (.srai d a sh) := by
  have := d.isLt
  have := a.isLt
  have := sh.isLt
  exact of_word rfl (by simp only [put, List.foldl]; omega)

theorem rori (d : BitVec 6) (a : BitVec 6) (sh : BitVec 6) : Statement (.rori d a sh) := by
  have := d.isLt
  have := a.isLt
  have := sh.isLt
  exact of_word rfl (by simp only [put, List.foldl]; omega)

theorem slti (d : BitVec 6) (a : BitVec 6) (imm : Imm 12) : Statement (.slti d a imm) := by
  have := d.isLt
  have := a.isLt
  have := imm_field_lt imm
  exact of_imm (m := 0x07) rfl (by decide) (by simp only [put, List.foldl]; omega)
    (by simp only [put, List.foldl]; omega) (by decide)

theorem sltni (d : BitVec 6) (a : BitVec 6) (imm : Imm 12) : Statement (.sltni d a imm) := by
  have := d.isLt
  have := a.isLt
  have := imm_field_lt imm
  exact of_imm (m := 0x08) rfl (by decide) (by simp only [put, List.foldl]; omega)
    (by simp only [put, List.foldl]; omega) (by decide)

theorem lui (d : BitVec 6) (imm : Imm 12) : Statement (.lui d imm) := by
  have := d.isLt
  have := imm_field_lt imm
  exact of_imm (m := 0x09) rfl (by decide) (by simp only [put, List.foldl]; omega)
    (by simp only [put, List.foldl]; omega) (by decide)

theorem pcadd (d : BitVec 6) (imm : Imm 12) : Statement (.pcadd d imm) := by
  have := d.isLt
  have := imm_field_lt imm
  exact of_imm (m := 0x0A) rfl (by decide) (by simp only [put, List.foldl]; omega)
    (by simp only [put, List.foldl]; omega) (by decide)

theorem beq (a : BitVec 6) (b : BitVec 6) (off : Imm 12) : Statement (.beq a b off) := by
  have := a.isLt
  have := b.isLt
  have := imm_field_lt off
  exact of_imm (m := 0x0B) rfl (by decide) (by simp only [put, List.foldl]; omega)
    (by simp only [put, List.foldl]; omega) (by decide)

theorem bne (a : BitVec 6) (b : BitVec 6) (off : Imm 12) : Statement (.bne a b off) := by
  have := a.isLt
  have := b.isLt
  have := imm_field_lt off
  exact of_imm (m := 0x0C) rfl (by decide) (by simp only [put, List.foldl]; omega)
    (by simp only [put, List.foldl]; omega) (by decide)

theorem blt (a : BitVec 6) (b : BitVec 6) (off : Imm 12) : Statement (.blt a b off) := by
  have := a.isLt
  have := b.isLt
  have := imm_field_lt off
  exact of_imm (m := 0x0D) rfl (by decide) (by simp only [put, List.foldl]; omega)
    (by simp only [put, List.foldl]; omega) (by decide)

theorem bge (a : BitVec 6) (b : BitVec 6) (off : Imm 12) : Statement (.bge a b off) := by
  have := a.isLt
  have := b.isLt
  have := imm_field_lt off
  exact of_imm (m := 0x0E) rfl (by decide) (by simp only [put, List.foldl]; omega)
    (by simp only [put, List.foldl]; omega) (by decide)

theorem bltn (a : BitVec 6) (b : BitVec 6) (off : Imm 12) : Statement (.bltn a b off) := by
  have := a.isLt
  have := b.isLt
  have := imm_field_lt off
  exact of_imm (m := 0x0F) rfl (by decide) (by simp only [put, List.foldl]; omega)
    (by simp only [put, List.foldl]; omega) (by decide)

theorem bgen (a : BitVec 6) (b : BitVec 6) (off : Imm 12) : Statement (.bgen a b off) := by
  have := a.isLt
  have := b.isLt
  have := imm_field_lt off
  exact of_imm (m := 0x10) rfl (by decide) (by simp only [put, List.foldl]; omega)
    (by simp only [put, List.foldl]; omega) (by decide)

theorem jal (off : Imm 24) : Statement (.jal off) := by
  have := imm_field_lt off
  exact of_imm (m := 0x11) rfl (by decide) (by simp only [put, List.foldl]; omega)
    (by simp only [put, List.foldl]; omega) (by decide)

theorem jalr (d : BitVec 6) (a : BitVec 6) (imm : Imm 12) : Statement (.jalr d a imm) := by
  have := d.isLt
  have := a.isLt
  have := imm_field_lt imm
  exact of_imm (m := 0x12) rfl (by decide) (by simp only [put, List.foldl]; omega)
    (by simp only [put, List.foldl]; omega) (by decide)

theorem loop (len : BitVec 6) (a : BitVec 6) (stg : BitVec 3) (rote : BitVec 1) : Statement (.loop len a stg rote) := by
  have := len.isLt
  have := a.isLt
  have := stg.isLt
  have := rote.isLt
  exact of_word rfl (by simp only [put, List.foldl]; omega)

theorem loopEndIteration  : Statement (.loopEndIteration) := fun h => Bool.noConfusion h

theorem trap (a : BitVec 6) : Statement (.trap a) := by
  have := a.isLt
  exact of_word rfl (by simp only [put, List.foldl]; omega)

theorem eret  : Statement (.eret) := by
  exact of_word rfl (by simp only [put, List.foldl]; omega)

theorem wfe  : Statement (.wfe) := by
  exact of_word rfl (by simp only [put, List.foldl]; omega)

theorem yield  : Statement (.yield) := by
  exact of_word rfl (by simp only [put, List.foldl]; omega)

theorem halt  : Statement (.halt) := by
  exact of_word rfl (by simp only [put, List.foldl]; omega)

theorem brk  : Statement (.brk) := by
  exact of_word rfl (by simp only [put, List.foldl]; omega)

theorem nop  : Statement (.nop) := by
  exact of_word rfl (by simp only [put, List.foldl]; omega)

theorem ifence  : Statement (.ifence) := by
  exact of_word rfl (by simp only [put, List.foldl]; omega)

theorem kread (d : BitVec 6) (k : BitVec 12) : Statement (.kread d k) := by
  have := d.isLt
  have := k.isLt
  exact of_word rfl (by simp only [put, List.foldl]; omega)

theorem kwrite (d : BitVec 6) (k : BitVec 12) : Statement (.kwrite d k) := by
  have := d.isLt
  have := k.isLt
  exact of_word rfl (by simp only [put, List.foldl]; omega)

theorem kset (d : BitVec 6) (k : BitVec 12) : Statement (.kset d k) := by
  have := d.isLt
  have := k.isLt
  exact of_word rfl (by simp only [put, List.foldl]; omega)

theorem kclr (d : BitVec 6) (k : BitVec 12) : Statement (.kclr d k) := by
  have := d.isLt
  have := k.isLt
  exact of_word rfl (by simp only [put, List.foldl]; omega)

theorem ldb (d : BitVec 6) (a : BitVec 6) (off : Imm 9) : Statement (.ldb d a off) := by
  have := d.isLt
  have := a.isLt
  have := imm_field_lt off
  exact of_imm (m := 0x16) rfl (by decide) (by simp only [put, List.foldl]; omega)
    (by simp only [put, List.foldl]; omega) (by decide)

theorem ldh (d : BitVec 6) (a : BitVec 6) (off : Imm 9) : Statement (.ldh d a off) := by
  have := d.isLt
  have := a.isLt
  have := imm_field_lt off
  exact of_imm (m := 0x16) rfl (by decide) (by simp only [put, List.foldl]; omega)
    (by simp only [put, List.foldl]; omega) (by decide)

theorem ldw (d : BitVec 6) (a : BitVec 6) (off : Imm 9) : Statement (.ldw d a off) := by
  have := d.isLt
  have := a.isLt
  have := imm_field_lt off
  exact of_imm (m := 0x16) rfl (by decide) (by simp only [put, List.foldl]; omega)
    (by simp only [put, List.foldl]; omega) (by decide)

theorem ldd (d : BitVec 6) (a : BitVec 6) (off : Imm 9) : Statement (.ldd d a off) := by
  have := d.isLt
  have := a.isLt
  have := imm_field_lt off
  exact of_imm (m := 0x16) rfl (by decide) (by simp only [put, List.foldl]; omega)
    (by simp only [put, List.foldl]; omega) (by decide)

theorem ldbn (d : BitVec 6) (a : BitVec 6) (off : Imm 9) : Statement (.ldbn d a off) := by
  have := d.isLt
  have := a.isLt
  have := imm_field_lt off
  exact of_imm (m := 0x16) rfl (by decide) (by simp only [put, List.foldl]; omega)
    (by simp only [put, List.foldl]; omega) (by decide)

theorem ldhn (d : BitVec 6) (a : BitVec 6) (off : Imm 9) : Statement (.ldhn d a off) := by
  have := d.isLt
  have := a.isLt
  have := imm_field_lt off
  exact of_imm (m := 0x16) rfl (by decide) (by simp only [put, List.foldl]; omega)
    (by simp only [put, List.foldl]; omega) (by decide)

theorem ldwn (d : BitVec 6) (a : BitVec 6) (off : Imm 9) : Statement (.ldwn d a off) := by
  have := d.isLt
  have := a.isLt
  have := imm_field_lt off
  exact of_imm (m := 0x16) rfl (by decide) (by simp only [put, List.foldl]; omega)
    (by simp only [put, List.foldl]; omega) (by decide)

theorem stb (d : BitVec 6) (a : BitVec 6) (off : Imm 9) : Statement (.stb d a off) := by
  have := d.isLt
  have := a.isLt
  have := imm_field_lt off
  exact of_imm (m := 0x17) rfl (by decide) (by simp only [put, List.foldl]; omega)
    (by simp only [put, List.foldl]; omega) (by decide)

theorem sth (d : BitVec 6) (a : BitVec 6) (off : Imm 9) : Statement (.sth d a off) := by
  have := d.isLt
  have := a.isLt
  have := imm_field_lt off
  exact of_imm (m := 0x17) rfl (by decide) (by simp only [put, List.foldl]; omega)
    (by simp only [put, List.foldl]; omega) (by decide)

theorem stw (d : BitVec 6) (a : BitVec 6) (off : Imm 9) : Statement (.stw d a off) := by
  have := d.isLt
  have := a.isLt
  have := imm_field_lt off
  exact of_imm (m := 0x17) rfl (by decide) (by simp only [put, List.foldl]; omega)
    (by simp only [put, List.foldl]; omega) (by decide)

theorem std (d : BitVec 6) (a : BitVec 6) (off : Imm 9) : Statement (.std d a off) := by
  have := d.isLt
  have := a.isLt
  have := imm_field_lt off
  exact of_imm (m := 0x17) rfl (by decide) (by simp only [put, List.foldl]; omega)
    (by simp only [put, List.foldl]; omega) (by decide)

theorem ldacqb (d : BitVec 6) (a : BitVec 6) (scope : BitVec 3) : Statement (.ldacqb d a scope) := by
  have := d.isLt
  have := a.isLt
  have := scope.isLt
  exact of_word rfl (by simp only [put, List.foldl]; omega)

theorem ldacqh (d : BitVec 6) (a : BitVec 6) (scope : BitVec 3) : Statement (.ldacqh d a scope) := by
  have := d.isLt
  have := a.isLt
  have := scope.isLt
  exact of_word rfl (by simp only [put, List.foldl]; omega)

theorem ldacqw (d : BitVec 6) (a : BitVec 6) (scope : BitVec 3) : Statement (.ldacqw d a scope) := by
  have := d.isLt
  have := a.isLt
  have := scope.isLt
  exact of_word rfl (by simp only [put, List.foldl]; omega)

theorem ldacqd (d : BitVec 6) (a : BitVec 6) (scope : BitVec 3) : Statement (.ldacqd d a scope) := by
  have := d.isLt
  have := a.isLt
  have := scope.isLt
  exact of_word rfl (by simp only [put, List.foldl]; omega)

theorem strelb (d : BitVec 6) (a : BitVec 6) (scope : BitVec 3) : Statement (.strelb d a scope) := by
  have := d.isLt
  have := a.isLt
  have := scope.isLt
  exact of_word rfl (by simp only [put, List.foldl]; omega)

theorem strelh (d : BitVec 6) (a : BitVec 6) (scope : BitVec 3) : Statement (.strelh d a scope) := by
  have := d.isLt
  have := a.isLt
  have := scope.isLt
  exact of_word rfl (by simp only [put, List.foldl]; omega)

theorem strelw (d : BitVec 6) (a : BitVec 6) (scope : BitVec 3) : Statement (.strelw d a scope) := by
  have := d.isLt
  have := a.isLt
  have := scope.isLt
  exact of_word rfl (by simp only [put, List.foldl]; omega)

theorem streld (d : BitVec 6) (a : BitVec 6) (scope : BitVec 3) : Statement (.streld d a scope) := by
  have := d.isLt
  have := a.isLt
  have := scope.isLt
  exact of_word rfl (by simp only [put, List.foldl]; omega)

theorem amoswap (d : BitVec 6) (a : BitVec 6) (b : BitVec 6) (scope : BitVec 3) : Statement (.amoswap d a b scope) := by
  have := d.isLt
  have := a.isLt
  have := b.isLt
  have := scope.isLt
  exact of_word rfl (by simp only [put, List.foldl]; omega)

theorem amoadd (d : BitVec 6) (a : BitVec 6) (b : BitVec 6) (scope : BitVec 3) : Statement (.amoadd d a b scope) := by
  have := d.isLt
  have := a.isLt
  have := b.isLt
  have := scope.isLt
  exact of_word rfl (by simp only [put, List.foldl]; omega)

theorem amoand (d : BitVec 6) (a : BitVec 6) (b : BitVec 6) (scope : BitVec 3) : Statement (.amoand d a b scope) := by
  have := d.isLt
  have := a.isLt
  have := b.isLt
  have := scope.isLt
  exact of_word rfl (by simp only [put, List.foldl]; omega)

theorem amoor (d : BitVec 6) (a : BitVec 6) (b : BitVec 6) (scope : BitVec 3) : Statement (.amoor d a b scope) := by
  have := d.isLt
  have := a.isLt
  have := b.isLt
  have := scope.isLt
  exact of_word rfl (by simp only [put, List.foldl]; omega)

theorem amoxor (d : BitVec 6) (a : BitVec 6) (b : BitVec 6) (scope : BitVec 3) : Statement (.amoxor d a b scope) := by
  have := d.isLt
  have := a.isLt
  have := b.isLt
  have := scope.isLt
  exact of_word rfl (by simp only [put, List.foldl]; omega)

theorem amomax (d : BitVec 6) (a : BitVec 6) (b : BitVec 6) (scope : BitVec 3) : Statement (.amomax d a b scope) := by
  have := d.isLt
  have := a.isLt
  have := b.isLt
  have := scope.isLt
  exact of_word rfl (by simp only [put, List.foldl]; omega)

theorem amomin (d : BitVec 6) (a : BitVec 6) (b : BitVec 6) (scope : BitVec 3) : Statement (.amomin d a b scope) := by
  have := d.isLt
  have := a.isLt
  have := b.isLt
  have := scope.isLt
  exact of_word rfl (by simp only [put, List.foldl]; omega)

theorem amomaxn (d : BitVec 6) (a : BitVec 6) (b : BitVec 6) (scope : BitVec 3) : Statement (.amomaxn d a b scope) := by
  have := d.isLt
  have := a.isLt
  have := b.isLt
  have := scope.isLt
  exact of_word rfl (by simp only [put, List.foldl]; omega)

theorem amorswap (d : BitVec 6) (a : BitVec 6) (b : BitVec 6) (scope : BitVec 3) : Statement (.amorswap d a b scope) := by
  have := d.isLt
  have := a.isLt
  have := b.isLt
  have := scope.isLt
  exact of_word rfl (by simp only [put, List.foldl]; omega)

theorem amoradd (d : BitVec 6) (a : BitVec 6) (b : BitVec 6) (scope : BitVec 3) : Statement (.amoradd d a b scope) := by
  have := d.isLt
  have := a.isLt
  have := b.isLt
  have := scope.isLt
  exact of_word rfl (by simp only [put, List.foldl]; omega)

theorem amorand (d : BitVec 6) (a : BitVec 6) (b : BitVec 6) (scope : BitVec 3) : Statement (.amorand d a b scope) := by
  have := d.isLt
  have := a.isLt
  have := b.isLt
  have := scope.isLt
  exact of_word rfl (by simp only [put, List.foldl]; omega)

theorem amoror (d : BitVec 6) (a : BitVec 6) (b : BitVec 6) (scope : BitVec 3) : Statement (.amoror d a b scope) := by
  have := d.isLt
  have := a.isLt
  have := b.isLt
  have := scope.isLt
  exact of_word rfl (by simp only [put, List.foldl]; omega)

theorem amorxor (d : BitVec 6) (a : BitVec 6) (b : BitVec 6) (scope : BitVec 3) : Statement (.amorxor d a b scope) := by
  have := d.isLt
  have := a.isLt
  have := b.isLt
  have := scope.isLt
  exact of_word rfl (by simp only [put, List.foldl]; omega)

theorem amormax (d : BitVec 6) (a : BitVec 6) (b : BitVec 6) (scope : BitVec 3) : Statement (.amormax d a b scope) := by
  have := d.isLt
  have := a.isLt
  have := b.isLt
  have := scope.isLt
  exact of_word rfl (by simp only [put, List.foldl]; omega)

theorem amormin (d : BitVec 6) (a : BitVec 6) (b : BitVec 6) (scope : BitVec 3) : Statement (.amormin d a b scope) := by
  have := d.isLt
  have := a.isLt
  have := b.isLt
  have := scope.isLt
  exact of_word rfl (by simp only [put, List.foldl]; omega)

theorem amormaxn (d : BitVec 6) (a : BitVec 6) (b : BitVec 6) (scope : BitVec 3) : Statement (.amormaxn d a b scope) := by
  have := d.isLt
  have := a.isLt
  have := b.isLt
  have := scope.isLt
  exact of_word rfl (by simp only [put, List.foldl]; omega)

theorem cas (d : BitVec 6) (a : BitVec 6) (b : BitVec 6) (scope : BitVec 3) : Statement (.cas d a b scope) := by
  have := d.isLt
  have := a.isLt
  have := b.isLt
  have := scope.isLt
  exact of_word rfl (by simp only [put, List.foldl]; omega)

theorem fenceAcq (scope : BitVec 3) : Statement (.fenceAcq scope) := by
  have := scope.isLt
  exact of_word rfl (by simp only [put, List.foldl]; omega)

theorem fenceRel (scope : BitVec 3) : Statement (.fenceRel scope) := by
  have := scope.isLt
  exact of_word rfl (by simp only [put, List.foldl]; omega)

theorem fenceAcqrel (scope : BitVec 3) : Statement (.fenceAcqrel scope) := by
  have := scope.isLt
  exact of_word rfl (by simp only [put, List.foldl]; omega)

theorem binit (a : BitVec 6) (n : BitVec 9) : Statement (.binit a n) := by
  have := a.isLt
  have := n.isLt
  exact of_word rfl (by simp only [put, List.foldl]; omega)

theorem barrive (d : BitVec 6) (n : BitVec 9) : Statement (.barrive d n) := by
  have := d.isLt
  have := n.isLt
  exact of_word rfl (by simp only [put, List.foldl]; omega)

theorem bwait (d : BitVec 6) (a : BitVec 6) (n : BitVec 9) : Statement (.bwait d a n) := by
  have := d.isLt
  have := a.isLt
  have := n.isLt
  exact of_word rfl (by simp only [put, List.foldl]; omega)

theorem bsync (d : BitVec 6) (n : BitVec 9) : Statement (.bsync d n) := by
  have := d.isLt
  have := n.isLt
  exact of_word rfl (by simp only [put, List.foldl]; omega)

theorem bxch (d : BitVec 6) (n : BitVec 9) : Statement (.bxch d n) := by
  have := d.isLt
  have := n.isLt
  exact of_word rfl (by simp only [put, List.foldl]; omega)

theorem btest (d : BitVec 6) (n : BitVec 9) : Statement (.btest d n) := by
  have := d.isLt
  have := n.isLt
  exact of_word rfl (by simp only [put, List.foldl]; omega)

theorem bbind (a : BitVec 6) (n : BitVec 9) : Statement (.bbind a n) := by
  have := a.isLt
  have := n.isLt
  exact of_word rfl (by simp only [put, List.foldl]; omega)

theorem publish (d : BitVec 6) (a : BitVec 6) : Statement (.publish d a) := by
  have := d.isLt
  have := a.isLt
  exact of_word rfl (by simp only [put, List.foldl]; omega)

theorem pubwait (d : BitVec 6) (a : BitVec 6) (b : BitVec 6) : Statement (.pubwait d a b) := by
  have := d.isLt
  have := a.isLt
  have := b.isLt
  exact of_word rfl (by simp only [put, List.foldl]; omega)

theorem fadd (d : BitVec 5) (a : BitVec 5) (b : BitVec 5) (z : BitVec 1) : Statement (.fadd d a b z) := by
  have := d.isLt
  have := a.isLt
  have := b.isLt
  have := z.isLt
  exact of_word rfl (by simp only [put, List.foldl]; omega)

theorem fsub (d : BitVec 5) (a : BitVec 5) (b : BitVec 5) (z : BitVec 1) : Statement (.fsub d a b z) := by
  have := d.isLt
  have := a.isLt
  have := b.isLt
  have := z.isLt
  exact of_word rfl (by simp only [put, List.foldl]; omega)

theorem fmul (d : BitVec 5) (a : BitVec 5) (b : BitVec 5) (z : BitVec 1) : Statement (.fmul d a b z) := by
  have := d.isLt
  have := a.isLt
  have := b.isLt
  have := z.isLt
  exact of_word rfl (by simp only [put, List.foldl]; omega)

theorem fdiv (d : BitVec 5) (a : BitVec 5) (b : BitVec 5) (z : BitVec 1) : Statement (.fdiv d a b z) := by
  have := d.isLt
  have := a.isLt
  have := b.isLt
  have := z.isLt
  exact of_word rfl (by simp only [put, List.foldl]; omega)

theorem fsqrt (d : BitVec 5) (a : BitVec 5) (z : BitVec 1) : Statement (.fsqrt d a z) := by
  have := d.isLt
  have := a.isLt
  have := z.isLt
  exact of_word rfl (by simp only [put, List.foldl]; omega)

theorem fmadd (d : BitVec 5) (a : BitVec 5) (b : BitVec 5) (z : BitVec 1) : Statement (.fmadd d a b z) := by
  have := d.isLt
  have := a.isLt
  have := b.isLt
  have := z.isLt
  exact of_word rfl (by simp only [put, List.foldl]; omega)

theorem fmin (d : BitVec 5) (a : BitVec 5) (b : BitVec 5) (z : BitVec 1) : Statement (.fmin d a b z) := by
  have := d.isLt
  have := a.isLt
  have := b.isLt
  have := z.isLt
  exact of_word rfl (by simp only [put, List.foldl]; omega)

theorem fmax (d : BitVec 5) (a : BitVec 5) (b : BitVec 5) (z : BitVec 1) : Statement (.fmax d a b z) := by
  have := d.isLt
  have := a.isLt
  have := b.isLt
  have := z.isLt
  exact of_word rfl (by simp only [put, List.foldl]; omega)

theorem feq (d : BitVec 6) (a : BitVec 5) (b : BitVec 5) (z : BitVec 1) : Statement (.feq d a b z) := by
  have := d.isLt
  have := a.isLt
  have := b.isLt
  have := z.isLt
  exact of_word rfl (by simp only [put, List.foldl]; omega)

theorem flt (d : BitVec 6) (a : BitVec 5) (b : BitVec 5) (z : BitVec 1) : Statement (.flt d a b z) := by
  have := d.isLt
  have := a.isLt
  have := b.isLt
  have := z.isLt
  exact of_word rfl (by simp only [put, List.foldl]; omega)

theorem fle (d : BitVec 6) (a : BitVec 5) (b : BitVec 5) (z : BitVec 1) : Statement (.fle d a b z) := by
  have := d.isLt
  have := a.isLt
  have := b.isLt
  have := z.isLt
  exact of_word rfl (by simp only [put, List.foldl]; omega)

theorem fcvt (d : BitVec 6) (a : BitVec 6) (code : BitVec 6) (z : BitVec 1) : Statement (.fcvt d a code z) := by
  have := d.isLt
  have := a.isLt
  have := code.isLt
  have := z.isLt
  exact of_word rfl (by simp only [put, List.foldl]; omega)

theorem fmvg (d : BitVec 6) (a : BitVec 5) (z : BitVec 1) : Statement (.fmvg d a z) := by
  have := d.isLt
  have := a.isLt
  have := z.isLt
  exact of_word rfl (by simp only [put, List.foldl]; omega)

theorem fmvf (d : BitVec 5) (a : BitVec 6) (z : BitVec 1) : Statement (.fmvf d a z) := by
  have := d.isLt
  have := a.isLt
  have := z.isLt
  exact of_word rfl (by simp only [put, List.foldl]; omega)

theorem fclass (d : BitVec 6) (a : BitVec 5) (z : BitVec 1) : Statement (.fclass d a z) := by
  have := d.isLt
  have := a.isLt
  have := z.isLt
  exact of_word rfl (by simp only [put, List.foldl]; omega)

theorem fsgnj (d : BitVec 5) (a : BitVec 5) (b : BitVec 5) (z : BitVec 1) : Statement (.fsgnj d a b z) := by
  have := d.isLt
  have := a.isLt
  have := b.isLt
  have := z.isLt
  exact of_word rfl (by simp only [put, List.foldl]; omega)

theorem vadd (d : BitVec 6) (a : BitVec 6) (b : BitVec 6) (pr : BitVec 3) : Statement (.vadd d a b pr) := by
  have := d.isLt
  have := a.isLt
  have := b.isLt
  have := pr.isLt
  exact of_word rfl (by simp only [put, List.foldl]; omega)

theorem vsub (d : BitVec 6) (a : BitVec 6) (b : BitVec 6) (pr : BitVec 3) : Statement (.vsub d a b pr) := by
  have := d.isLt
  have := a.isLt
  have := b.isLt
  have := pr.isLt
  exact of_word rfl (by simp only [put, List.foldl]; omega)

theorem vmul (d : BitVec 6) (a : BitVec 6) (b : BitVec 6) (pr : BitVec 3) : Statement (.vmul d a b pr) := by
  have := d.isLt
  have := a.isLt
  have := b.isLt
  have := pr.isLt
  exact of_word rfl (by simp only [put, List.foldl]; omega)

theorem vmulh (d : BitVec 6) (a : BitVec 6) (b : BitVec 6) (pr : BitVec 3) : Statement (.vmulh d a b pr) := by
  have := d.isLt
  have := a.isLt
  have := b.isLt
  have := pr.isLt
  exact of_word rfl (by simp only [put, List.foldl]; omega)

theorem vmin (d : BitVec 6) (a : BitVec 6) (b : BitVec 6) (pr : BitVec 3) : Statement (.vmin d a b pr) := by
  have := d.isLt
  have := a.isLt
  have := b.isLt
  have := pr.isLt
  exact of_word rfl (by simp only [put, List.foldl]; omega)

theorem vmax (d : BitVec 6) (a : BitVec 6) (b : BitVec 6) (pr : BitVec 3) : Statement (.vmax d a b pr) := by
  have := d.isLt
  have := a.isLt
  have := b.isLt
  have := pr.isLt
  exact of_word rfl (by simp only [put, List.foldl]; omega)

theorem vminn (d : BitVec 6) (a : BitVec 6) (b : BitVec 6) (pr : BitVec 3) : Statement (.vminn d a b pr) := by
  have := d.isLt
  have := a.isLt
  have := b.isLt
  have := pr.isLt
  exact of_word rfl (by simp only [put, List.foldl]; omega)

theorem vmaxn (d : BitVec 6) (a : BitVec 6) (b : BitVec 6) (pr : BitVec 3) : Statement (.vmaxn d a b pr) := by
  have := d.isLt
  have := a.isLt
  have := b.isLt
  have := pr.isLt
  exact of_word rfl (by simp only [put, List.foldl]; omega)

theorem vand (d : BitVec 6) (a : BitVec 6) (b : BitVec 6) (pr : BitVec 3) : Statement (.vand d a b pr) := by
  have := d.isLt
  have := a.isLt
  have := b.isLt
  have := pr.isLt
  exact of_word rfl (by simp only [put, List.foldl]; omega)

theorem vor (d : BitVec 6) (a : BitVec 6) (b : BitVec 6) (pr : BitVec 3) : Statement (.vor d a b pr) := by
  have := d.isLt
  have := a.isLt
  have := b.isLt
  have := pr.isLt
  exact of_word rfl (by simp only [put, List.foldl]; omega)

theorem vxor (d : BitVec 6) (a : BitVec 6) (b : BitVec 6) (pr : BitVec 3) : Statement (.vxor d a b pr) := by
  have := d.isLt
  have := a.isLt
  have := b.isLt
  have := pr.isLt
  exact of_word rfl (by simp only [put, List.foldl]; omega)

theorem vandn (d : BitVec 6) (a : BitVec 6) (b : BitVec 6) (pr : BitVec 3) : Statement (.vandn d a b pr) := by
  have := d.isLt
  have := a.isLt
  have := b.isLt
  have := pr.isLt
  exact of_word rfl (by simp only [put, List.foldl]; omega)

theorem vsll (d : BitVec 6) (a : BitVec 6) (b : BitVec 6) (pr : BitVec 3) : Statement (.vsll d a b pr) := by
  have := d.isLt
  have := a.isLt
  have := b.isLt
  have := pr.isLt
  exact of_word rfl (by simp only [put, List.foldl]; omega)

theorem vsrl (d : BitVec 6) (a : BitVec 6) (b : BitVec 6) (pr : BitVec 3) : Statement (.vsrl d a b pr) := by
  have := d.isLt
  have := a.isLt
  have := b.isLt
  have := pr.isLt
  exact of_word rfl (by simp only [put, List.foldl]; omega)

theorem vsra (d : BitVec 6) (a : BitVec 6) (b : BitVec 6) (pr : BitVec 3) : Statement (.vsra d a b pr) := by
  have := d.isLt
  have := a.isLt
  have := b.isLt
  have := pr.isLt
  exact of_word rfl (by simp only [put, List.foldl]; omega)

theorem vrol (d : BitVec 6) (a : BitVec 6) (b : BitVec 6) (pr : BitVec 3) : Statement (.vrol d a b pr) := by
  have := d.isLt
  have := a.isLt
  have := b.isLt
  have := pr.isLt
  exact of_word rfl (by simp only [put, List.foldl]; omega)

theorem vfadd (d : BitVec 6) (a : BitVec 6) (b : BitVec 6) (pr : BitVec 3) : Statement (.vfadd d a b pr) := by
  have := d.isLt
  have := a.isLt
  have := b.isLt
  have := pr.isLt
  exact of_word rfl (by simp only [put, List.foldl]; omega)

theorem vfsub (d : BitVec 6) (a : BitVec 6) (b : BitVec 6) (pr : BitVec 3) : Statement (.vfsub d a b pr) := by
  have := d.isLt
  have := a.isLt
  have := b.isLt
  have := pr.isLt
  exact of_word rfl (by simp only [put, List.foldl]; omega)

theorem vfmul (d : BitVec 6) (a : BitVec 6) (b : BitVec 6) (pr : BitVec 3) : Statement (.vfmul d a b pr) := by
  have := d.isLt
  have := a.isLt
  have := b.isLt
  have := pr.isLt
  exact of_word rfl (by simp only [put, List.foldl]; omega)

theorem vfmin (d : BitVec 6) (a : BitVec 6) (b : BitVec 6) (pr : BitVec 3) : Statement (.vfmin d a b pr) := by
  have := d.isLt
  have := a.isLt
  have := b.isLt
  have := pr.isLt
  exact of_word rfl (by simp only [put, List.foldl]; omega)

theorem vfmax (d : BitVec 6) (a : BitVec 6) (b : BitVec 6) (pr : BitVec 3) : Statement (.vfmax d a b pr) := by
  have := d.isLt
  have := a.isLt
  have := b.isLt
  have := pr.isLt
  exact of_word rfl (by simp only [put, List.foldl]; omega)

theorem vfmacc (d : BitVec 6) (a : BitVec 6) (b : BitVec 6) (pr : BitVec 3) : Statement (.vfmacc d a b pr) := by
  have := d.isLt
  have := a.isLt
  have := b.isLt
  have := pr.isLt
  exact of_word rfl (by simp only [put, List.foldl]; omega)

theorem vfnmacc (d : BitVec 6) (a : BitVec 6) (b : BitVec 6) (pr : BitVec 3) : Statement (.vfnmacc d a b pr) := by
  have := d.isLt
  have := a.isLt
  have := b.isLt
  have := pr.isLt
  exact of_word rfl (by simp only [put, List.foldl]; omega)

theorem vfdiv (d : BitVec 6) (a : BitVec 6) (b : BitVec 6) (pr : BitVec 3) : Statement (.vfdiv d a b pr) := by
  have := d.isLt
  have := a.isLt
  have := b.isLt
  have := pr.isLt
  exact of_word rfl (by simp only [put, List.foldl]; omega)

theorem vfsqrt (d : BitVec 6) (a : BitVec 6) (pr : BitVec 3) : Statement (.vfsqrt d a pr) := by
  have := d.isLt
  have := a.isLt
  have := pr.isLt
  exact of_word rfl (by simp only [put, List.foldl]; omega)

theorem vfabs (d : BitVec 6) (a : BitVec 6) (pr : BitVec 3) : Statement (.vfabs d a pr) := by
  have := d.isLt
  have := a.isLt
  have := pr.isLt
  exact of_word rfl (by simp only [put, List.foldl]; omega)

theorem vfneg (d : BitVec 6) (a : BitVec 6) (pr : BitVec 3) : Statement (.vfneg d a pr) := by
  have := d.isLt
  have := a.isLt
  have := pr.isLt
  exact of_word rfl (by simp only [put, List.foldl]; omega)

theorem vabs (d : BitVec 6) (a : BitVec 6) (pr : BitVec 3) : Statement (.vabs d a pr) := by
  have := d.isLt
  have := a.isLt
  have := pr.isLt
  exact of_word rfl (by simp only [put, List.foldl]; omega)

theorem vneg (d : BitVec 6) (a : BitVec 6) (pr : BitVec 3) : Statement (.vneg d a pr) := by
  have := d.isLt
  have := a.isLt
  have := pr.isLt
  exact of_word rfl (by simp only [put, List.foldl]; omega)

theorem vnot (d : BitVec 6) (a : BitVec 6) (pr : BitVec 3) : Statement (.vnot d a pr) := by
  have := d.isLt
  have := a.isLt
  have := pr.isLt
  exact of_word rfl (by simp only [put, List.foldl]; omega)

theorem vclz (d : BitVec 6) (a : BitVec 6) (pr : BitVec 3) : Statement (.vclz d a pr) := by
  have := d.isLt
  have := a.isLt
  have := pr.isLt
  exact of_word rfl (by simp only [put, List.foldl]; omega)

theorem vpopc (d : BitVec 6) (a : BitVec 6) (pr : BitVec 3) : Statement (.vpopc d a pr) := by
  have := d.isLt
  have := a.isLt
  have := pr.isLt
  exact of_word rfl (by simp only [put, List.foldl]; omega)

theorem vceq (d : BitVec 3) (a : BitVec 6) (b : BitVec 6) (pr : BitVec 3) : Statement (.vceq d a b pr) := by
  have := d.isLt
  have := a.isLt
  have := b.isLt
  have := pr.isLt
  exact of_word rfl (by simp only [put, List.foldl]; omega)

theorem vcne (d : BitVec 3) (a : BitVec 6) (b : BitVec 6) (pr : BitVec 3) : Statement (.vcne d a b pr) := by
  have := d.isLt
  have := a.isLt
  have := b.isLt
  have := pr.isLt
  exact of_word rfl (by simp only [put, List.foldl]; omega)

theorem vclt (d : BitVec 3) (a : BitVec 6) (b : BitVec 6) (pr : BitVec 3) : Statement (.vclt d a b pr) := by
  have := d.isLt
  have := a.isLt
  have := b.isLt
  have := pr.isLt
  exact of_word rfl (by simp only [put, List.foldl]; omega)

theorem vcle (d : BitVec 3) (a : BitVec 6) (b : BitVec 6) (pr : BitVec 3) : Statement (.vcle d a b pr) := by
  have := d.isLt
  have := a.isLt
  have := b.isLt
  have := pr.isLt
  exact of_word rfl (by simp only [put, List.foldl]; omega)

theorem vcltn (d : BitVec 3) (a : BitVec 6) (b : BitVec 6) (pr : BitVec 3) : Statement (.vcltn d a b pr) := by
  have := d.isLt
  have := a.isLt
  have := b.isLt
  have := pr.isLt
  exact of_word rfl (by simp only [put, List.foldl]; omega)

theorem vclen (d : BitVec 3) (a : BitVec 6) (b : BitVec 6) (pr : BitVec 3) : Statement (.vclen d a b pr) := by
  have := d.isLt
  have := a.isLt
  have := b.isLt
  have := pr.isLt
  exact of_word rfl (by simp only [put, List.foldl]; omega)

theorem vcflt (d : BitVec 3) (a : BitVec 6) (b : BitVec 6) (pr : BitVec 3) : Statement (.vcflt d a b pr) := by
  have := d.isLt
  have := a.isLt
  have := b.isLt
  have := pr.isLt
  exact of_word rfl (by simp only [put, List.foldl]; omega)

theorem vcfle (d : BitVec 3) (a : BitVec 6) (b : BitVec 6) (pr : BitVec 3) : Statement (.vcfle d a b pr) := by
  have := d.isLt
  have := a.isLt
  have := b.isLt
  have := pr.isLt
  exact of_word rfl (by simp only [put, List.foldl]; omega)

theorem vexp2 (d : BitVec 6) (a : BitVec 6) (pr : BitVec 3) : Statement (.vexp2 d a pr) := by
  have := d.isLt
  have := a.isLt
  have := pr.isLt
  exact of_word rfl (by simp only [put, List.foldl]; omega)

theorem vrcp (d : BitVec 6) (a : BitVec 6) (pr : BitVec 3) : Statement (.vrcp d a pr) := by
  have := d.isLt
  have := a.isLt
  have := pr.isLt
  exact of_word rfl (by simp only [put, List.foldl]; omega)

theorem vrsq (d : BitVec 6) (a : BitVec 6) (pr : BitVec 3) : Statement (.vrsq d a pr) := by
  have := d.isLt
  have := a.isLt
  have := pr.isLt
  exact of_word rfl (by simp only [put, List.foldl]; omega)

theorem vlog2 (d : BitVec 6) (a : BitVec 6) (pr : BitVec 3) : Statement (.vlog2 d a pr) := by
  have := d.isLt
  have := a.isLt
  have := pr.isLt
  exact of_word rfl (by simp only [put, List.foldl]; omega)

theorem vtanh (d : BitVec 6) (a : BitVec 6) (pr : BitVec 3) : Statement (.vtanh d a pr) := by
  have := d.isLt
  have := a.isLt
  have := pr.isLt
  exact of_word rfl (by simp only [put, List.foldl]; omega)

theorem vsin (d : BitVec 6) (a : BitVec 6) (pr : BitVec 3) : Statement (.vsin d a pr) := by
  have := d.isLt
  have := a.isLt
  have := pr.isLt
  exact of_word rfl (by simp only [put, List.foldl]; omega)

theorem vcos (d : BitVec 6) (a : BitVec 6) (pr : BitVec 3) : Statement (.vcos d a pr) := by
  have := d.isLt
  have := a.isLt
  have := pr.isLt
  exact of_word rfl (by simp only [put, List.foldl]; omega)

theorem verf (d : BitVec 6) (a : BitVec 6) (pr : BitVec 3) : Statement (.verf d a pr) := by
  have := d.isLt
  have := a.isLt
  have := pr.isLt
  exact of_word rfl (by simp only [put, List.foldl]; omega)

theorem vrsum (d : BitVec 6) (a : BitVec 6) (pr : BitVec 3) : Statement (.vrsum d a pr) := by
  have := d.isLt
  have := a.isLt
  have := pr.isLt
  exact of_word rfl (by simp only [put, List.foldl]; omega)

theorem vrfsum (d : BitVec 6) (a : BitVec 6) (pr : BitVec 3) : Statement (.vrfsum d a pr) := by
  have := d.isLt
  have := a.isLt
  have := pr.isLt
  exact of_word rfl (by simp only [put, List.foldl]; omega)

theorem vrmax (d : BitVec 6) (a : BitVec 6) (pr : BitVec 3) : Statement (.vrmax d a pr) := by
  have := d.isLt
  have := a.isLt
  have := pr.isLt
  exact of_word rfl (by simp only [put, List.foldl]; omega)

theorem vrmin (d : BitVec 6) (a : BitVec 6) (pr : BitVec 3) : Statement (.vrmin d a pr) := by
  have := d.isLt
  have := a.isLt
  have := pr.isLt
  exact of_word rfl (by simp only [put, List.foldl]; omega)

theorem vramax (d : BitVec 6) (a : BitVec 6) (pr : BitVec 3) : Statement (.vramax d a pr) := by
  have := d.isLt
  have := a.isLt
  have := pr.isLt
  exact of_word rfl (by simp only [put, List.foldl]; omega)

theorem vrand (d : BitVec 6) (a : BitVec 6) (pr : BitVec 3) : Statement (.vrand d a pr) := by
  have := d.isLt
  have := a.isLt
  have := pr.isLt
  exact of_word rfl (by simp only [put, List.foldl]; omega)

theorem vror (d : BitVec 6) (a : BitVec 6) (pr : BitVec 3) : Statement (.vror d a pr) := by
  have := d.isLt
  have := a.isLt
  have := pr.isLt
  exact of_word rfl (by simp only [put, List.foldl]; omega)

theorem vrxor (d : BitVec 6) (a : BitVec 6) (pr : BitVec 3) : Statement (.vrxor d a pr) := by
  have := d.isLt
  have := a.isLt
  have := pr.isLt
  exact of_word rfl (by simp only [put, List.foldl]; omega)

theorem vgather (d : BitVec 6) (a : BitVec 6) (b : BitVec 6) (pr : BitVec 3) : Statement (.vgather d a b pr) := by
  have := d.isLt
  have := a.isLt
  have := b.isLt
  have := pr.isLt
  exact of_word rfl (by simp only [put, List.foldl]; omega)

theorem vslideup (d : BitVec 6) (a : BitVec 6) (b : BitVec 6) (pr : BitVec 3) : Statement (.vslideup d a b pr) := by
  have := d.isLt
  have := a.isLt
  have := b.isLt
  have := pr.isLt
  exact of_word rfl (by simp only [put, List.foldl]; omega)

theorem vslidedn (d : BitVec 6) (a : BitVec 6) (b : BitVec 6) (pr : BitVec 3) : Statement (.vslidedn d a b pr) := by
  have := d.isLt
  have := a.isLt
  have := b.isLt
  have := pr.isLt
  exact of_word rfl (by simp only [put, List.foldl]; omega)

theorem vcompress (d : BitVec 6) (a : BitVec 6) (pr : BitVec 3) : Statement (.vcompress d a pr) := by
  have := d.isLt
  have := a.isLt
  have := pr.isLt
  exact of_word rfl (by simp only [put, List.foldl]; omega)

theorem vexpand (d : BitVec 6) (a : BitVec 6) (pr : BitVec 3) : Statement (.vexpand d a pr) := by
  have := d.isLt
  have := a.isLt
  have := pr.isLt
  exact of_word rfl (by simp only [put, List.foldl]; omega)

theorem vzip (d : BitVec 6) (a : BitVec 6) (b : BitVec 6) (pr : BitVec 3) : Statement (.vzip d a b pr) := by
  have := d.isLt
  have := a.isLt
  have := b.isLt
  have := pr.isLt
  exact of_word rfl (by simp only [put, List.foldl]; omega)

theorem vunzip (d : BitVec 6) (a : BitVec 6) (pr : BitVec 3) : Statement (.vunzip d a pr) := by
  have := d.isLt
  have := a.isLt
  have := pr.isLt
  exact of_word rfl (by simp only [put, List.foldl]; omega)

theorem vbcast (d : BitVec 6) (a : BitVec 6) (b : BitVec 6) (pr : BitVec 3) : Statement (.vbcast d a b pr) := by
  have := d.isLt
  have := a.isLt
  have := b.isLt
  have := pr.isLt
  exact of_word rfl (by simp only [put, List.foldl]; omega)

theorem vshlw (d : BitVec 6) (a : BitVec 6) (b : BitVec 6) : Statement (.vshlw d a b) := by
  have := d.isLt
  have := a.isLt
  have := b.isLt
  exact of_word rfl (by simp only [put, List.foldl]; omega)

theorem vshrw (d : BitVec 6) (a : BitVec 6) (b : BitVec 6) : Statement (.vshrw d a b) := by
  have := d.isLt
  have := a.isLt
  have := b.isLt
  exact of_word rfl (by simp only [put, List.foldl]; omega)

theorem vfunl (d : BitVec 6) (a : BitVec 6) (b : BitVec 6) : Statement (.vfunl d a b) := by
  have := d.isLt
  have := a.isLt
  have := b.isLt
  exact of_word rfl (by simp only [put, List.foldl]; omega)

theorem vfunr (d : BitVec 6) (a : BitVec 6) (b : BitVec 6) : Statement (.vfunr d a b) := by
  have := d.isLt
  have := a.isLt
  have := b.isLt
  exact of_word rfl (by simp only [put, List.foldl]; omega)

theorem vrevb (d : BitVec 6) (a : BitVec 6) (pr : BitVec 3) : Statement (.vrevb d a pr) := by
  have := d.isLt
  have := a.isLt
  have := pr.isLt
  exact of_word rfl (by simp only [put, List.foldl]; omega)

theorem vbswap (d : BitVec 6) (a : BitVec 6) (pr : BitVec 3) : Statement (.vbswap d a pr) := by
  have := d.isLt
  have := a.isLt
  have := pr.isLt
  exact of_word rfl (by simp only [put, List.foldl]; omega)

theorem vclzw (d : BitVec 6) (a : BitVec 6) : Statement (.vclzw d a) := by
  have := d.isLt
  have := a.isLt
  exact of_word rfl (by simp only [put, List.foldl]; omega)

theorem vpopw (d : BitVec 6) (a : BitVec 6) : Statement (.vpopw d a) := by
  have := d.isLt
  have := a.isLt
  exact of_word rfl (by simp only [put, List.foldl]; omega)

theorem vcvt (d : BitVec 6) (a : BitVec 6) (q : BitVec 1) (tag : BitVec 5) (pr : BitVec 3) : Statement (.vcvt d a q tag pr) := by
  have := d.isLt
  have := a.isLt
  have := q.isLt
  have := tag.isLt
  have := pr.isLt
  exact of_word rfl (by simp only [put, List.foldl]; omega)

theorem vcvts (d : BitVec 6) (a : BitVec 6) (q : BitVec 1) (tag : BitVec 5) (pr : BitVec 3) : Statement (.vcvts d a q tag pr) := by
  have := d.isLt
  have := a.isLt
  have := q.isLt
  have := tag.isLt
  have := pr.isLt
  exact of_word rfl (by simp only [put, List.foldl]; omega)

theorem vpack (d : BitVec 6) (a : BitVec 6) (b : BitVec 6) (pr : BitVec 3) : Statement (.vpack d a b pr) := by
  have := d.isLt
  have := a.isLt
  have := b.isLt
  have := pr.isLt
  exact of_word rfl (by simp only [put, List.foldl]; omega)

theorem vunpack (d : BitVec 6) (a : BitVec 6) (b : BitVec 6) (pr : BitVec 3) : Statement (.vunpack d a b pr) := by
  have := d.isLt
  have := a.isLt
  have := b.isLt
  have := pr.isLt
  exact of_word rfl (by simp only [put, List.foldl]; omega)

theorem vretag (d : BitVec 6) (a : BitVec 6) (tag : BitVec 5) : Statement (.vretag d a tag) := by
  have := d.isLt
  have := a.isLt
  have := tag.isLt
  exact of_word rfl (by simp only [put, List.foldl]; omega)

theorem vdeq (d : BitVec 6) (a : BitVec 6) (b : BitVec 6) (pr : BitVec 3) : Statement (.vdeq d a b pr) := by
  have := d.isLt
  have := a.isLt
  have := b.isLt
  have := pr.isLt
  exact of_word rfl (by simp only [put, List.foldl]; omega)

theorem vqnt (d : BitVec 6) (a : BitVec 6) (b : BitVec 6) (pr : BitVec 3) : Statement (.vqnt d a b pr) := by
  have := d.isLt
  have := a.isLt
  have := b.isLt
  have := pr.isLt
  exact of_word rfl (by simp only [put, List.foldl]; omega)

theorem vround (d : BitVec 6) (a : BitVec 6) (pr : BitVec 3) : Statement (.vround d a pr) := by
  have := d.isLt
  have := a.isLt
  have := pr.isLt
  exact of_word rfl (by simp only [put, List.foldl]; omega)

theorem vbamax (d : BitVec 6) (a : BitVec 6) (q : BitVec 1) (tag : BitVec 5) (pr : BitVec 3) : Statement (.vbamax d a q tag pr) := by
  have := d.isLt
  have := a.isLt
  have := q.isLt
  have := tag.isLt
  have := pr.isLt
  exact of_word rfl (by simp only [put, List.foldl]; omega)

theorem vbscale (d : BitVec 6) (a : BitVec 6) (q : BitVec 1) (tag : BitVec 5) (pr : BitVec 3) : Statement (.vbscale d a q tag pr) := by
  have := d.isLt
  have := a.isLt
  have := q.isLt
  have := tag.isLt
  have := pr.isLt
  exact of_word rfl (by simp only [put, List.foldl]; omega)

theorem vbqnt (d : BitVec 6) (a : BitVec 6) (q : BitVec 1) (tag : BitVec 5) (pr : BitVec 3) : Statement (.vbqnt d a q tag pr) := by
  have := d.isLt
  have := a.isLt
  have := q.isLt
  have := tag.isLt
  have := pr.isLt
  exact of_word rfl (by simp only [put, List.foldl]; omega)

theorem vdot4s (d : BitVec 6) (a : BitVec 6) (b : BitVec 6) (pr : BitVec 3) : Statement (.vdot4s d a b pr) := by
  have := d.isLt
  have := a.isLt
  have := b.isLt
  have := pr.isLt
  exact of_word rfl (by simp only [put, List.foldl]; omega)

theorem vdot2f (d : BitVec 6) (a : BitVec 6) (b : BitVec 6) (pr : BitVec 3) : Statement (.vdot2f d a b pr) := by
  have := d.isLt
  have := a.isLt
  have := b.isLt
  have := pr.isLt
  exact of_word rfl (by simp only [put, List.foldl]; omega)

theorem vsladd (d : BitVec 6) (a : BitVec 6) (b : BitVec 6) (pr : BitVec 3) : Statement (.vsladd d a b pr) := by
  have := d.isLt
  have := a.isLt
  have := b.isLt
  have := pr.isLt
  exact of_word rfl (by simp only [put, List.foldl]; omega)

theorem vslsub (d : BitVec 6) (a : BitVec 6) (b : BitVec 6) (pr : BitVec 3) : Statement (.vslsub d a b pr) := by
  have := d.isLt
  have := a.isLt
  have := b.isLt
  have := pr.isLt
  exact of_word rfl (by simp only [put, List.foldl]; omega)

theorem vslmul (d : BitVec 6) (a : BitVec 6) (b : BitVec 6) (pr : BitVec 3) : Statement (.vslmul d a b pr) := by
  have := d.isLt
  have := a.isLt
  have := b.isLt
  have := pr.isLt
  exact of_word rfl (by simp only [put, List.foldl]; omega)

theorem vsldiv (d : BitVec 6) (a : BitVec 6) (b : BitVec 6) (pr : BitVec 3) : Statement (.vsldiv d a b pr) := by
  have := d.isLt
  have := a.isLt
  have := b.isLt
  have := pr.isLt
  exact of_word rfl (by simp only [put, List.foldl]; omega)

theorem vslmed (d : BitVec 6) (a : BitVec 6) (b : BitVec 6) (pr : BitVec 3) : Statement (.vslmed d a b pr) := by
  have := d.isLt
  have := a.isLt
  have := b.isLt
  have := pr.isLt
  exact of_word rfl (by simp only [put, List.foldl]; omega)

theorem vslcvt (d : BitVec 6) (a : BitVec 6) (b : BitVec 6) (pr : BitVec 3) : Statement (.vslcvt d a b pr) := by
  have := d.isLt
  have := a.isLt
  have := b.isLt
  have := pr.isLt
  exact of_word rfl (by simp only [put, List.foldl]; omega)

theorem vslcanon (d : BitVec 6) (a : BitVec 6) (pr : BitVec 3) : Statement (.vslcanon d a pr) := by
  have := d.isLt
  have := a.isLt
  have := pr.isLt
  exact of_word rfl (by simp only [put, List.foldl]; omega)

theorem vslcmp (d : BitVec 6) (a : BitVec 6) (b : BitVec 6) (pr : BitVec 3) : Statement (.vslcmp d a b pr) := by
  have := d.isLt
  have := a.isLt
  have := b.isLt
  have := pr.isLt
  exact of_word rfl (by simp only [put, List.foldl]; omega)

theorem vmv (d : BitVec 6) (a : BitVec 6) (pr : BitVec 3) : Statement (.vmv d a pr) := by
  have := d.isLt
  have := a.isLt
  have := pr.isLt
  exact of_word rfl (by simp only [put, List.foldl]; omega)

theorem vsplat (d : BitVec 6) (a : BitVec 6) (pr : BitVec 3) : Statement (.vsplat d a pr) := by
  have := d.isLt
  have := a.isLt
  have := pr.isLt
  exact of_word rfl (by simp only [put, List.foldl]; omega)

theorem vextg (d : BitVec 6) (a : BitVec 6) (b : BitVec 6) : Statement (.vextg d a b) := by
  have := d.isLt
  have := a.isLt
  have := b.isLt
  exact of_word rfl (by simp only [put, List.foldl]; omega)

theorem vinsg (d : BitVec 6) (a : BitVec 6) (b : BitVec 6) : Statement (.vinsg d a b) := by
  have := d.isLt
  have := a.isLt
  have := b.isLt
  exact of_word rfl (by simp only [put, List.foldl]; omega)

theorem vid (d : BitVec 6) (pr : BitVec 3) : Statement (.vid d pr) := by
  have := d.isLt
  have := pr.isLt
  exact of_word rfl (by simp only [put, List.foldl]; omega)

theorem vmovxRead (d : BitVec 6) (b : BitVec 6) : Statement (.vmovxRead d b) := by
  have := d.isLt
  have := b.isLt
  exact of_word rfl (by simp only [put, List.foldl]; omega)

theorem vmovxWrite (a : BitVec 6) (b : BitVec 6) : Statement (.vmovxWrite a b) := by
  have := a.isLt
  have := b.isLt
  exact of_word rfl (by simp only [put, List.foldl]; omega)

theorem vmskv (d : BitVec 6) (a : BitVec 3) : Statement (.vmskv d a) := by
  have := d.isLt
  have := a.isLt
  exact of_word rfl (by simp only [put, List.foldl]; omega)

theorem vmvp (d : BitVec 3) (a : BitVec 6) : Statement (.vmvp d a) := by
  have := d.isLt
  have := a.isLt
  exact of_word rfl (by simp only [put, List.foldl]; omega)

theorem vsetvl (d : BitVec 6) (a : BitVec 6) (b : BitVec 6) : Statement (.vsetvl d a b) := by
  have := d.isLt
  have := a.isLt
  have := b.isLt
  exact of_word rfl (by simp only [put, List.foldl]; omega)

theorem vcoll (d : BitVec 6) (a : BitVec 6) (b : BitVec 6) : Statement (.vcoll d a b) := by
  have := d.isLt
  have := a.isLt
  have := b.isLt
  exact of_word rfl (by simp only [put, List.foldl]; omega)

theorem vldu (d : BitVec 6) (a : BitVec 6) (mk : BitVec 1) (mfc : BitVec 2) : Statement (.vldu d a mk mfc) := by
  have := d.isLt
  have := a.isLt
  have := mk.isLt
  have := mfc.isLt
  exact of_word rfl (by simp only [put, List.foldl]; omega)

theorem vlds (d : BitVec 6) (a : BitVec 6) (b : BitVec 6) (mk : BitVec 1) (mfc : BitVec 2) : Statement (.vlds d a b mk mfc) := by
  have := d.isLt
  have := a.isLt
  have := b.isLt
  have := mk.isLt
  have := mfc.isLt
  exact of_word rfl (by simp only [put, List.foldl]; omega)

theorem vldx (d : BitVec 6) (a : BitVec 6) (b : BitVec 6) (mk : BitVec 1) (mfc : BitVec 2) : Statement (.vldx d a b mk mfc) := by
  have := d.isLt
  have := a.isLt
  have := b.isLt
  have := mk.isLt
  have := mfc.isLt
  exact of_word rfl (by simp only [put, List.foldl]; omega)

theorem vstu (d : BitVec 6) (a : BitVec 6) (mk : BitVec 1) (mfc : BitVec 2) (uo : BitVec 1) : Statement (.vstu d a mk mfc uo) := by
  have := d.isLt
  have := a.isLt
  have := mk.isLt
  have := mfc.isLt
  have := uo.isLt
  exact of_word rfl (by simp only [put, List.foldl]; omega)

theorem vsts (d : BitVec 6) (a : BitVec 6) (b : BitVec 6) (mk : BitVec 1) (mfc : BitVec 2) (uo : BitVec 1) : Statement (.vsts d a b mk mfc uo) := by
  have := d.isLt
  have := a.isLt
  have := b.isLt
  have := mk.isLt
  have := mfc.isLt
  have := uo.isLt
  exact of_word rfl (by simp only [put, List.foldl]; omega)

theorem vstx (d : BitVec 6) (a : BitVec 6) (b : BitVec 6) (mk : BitVec 1) (mfc : BitVec 2) (uo : BitVec 1) : Statement (.vstx d a b mk mfc uo) := by
  have := d.isLt
  have := a.isLt
  have := b.isLt
  have := mk.isLt
  have := mfc.isLt
  have := uo.isLt
  exact of_word rfl (by simp only [put, List.foldl]; omega)

theorem vldtr (d : BitVec 6) (a : BitVec 6) (b : BitVec 6) (mk : BitVec 1) (mfc : BitVec 2) : Statement (.vldtr d a b mk mfc) := by
  have := d.isLt
  have := a.isLt
  have := b.isLt
  have := mk.isLt
  have := mfc.isLt
  exact of_word rfl (by simp only [put, List.foldl]; omega)

theorem vldwin (d : BitVec 6) (a : BitVec 6) (b : BitVec 6) (mk : BitVec 1) (mfc : BitVec 2) : Statement (.vldwin d a b mk mfc) := by
  have := d.isLt
  have := a.isLt
  have := b.isLt
  have := mk.isLt
  have := mfc.isLt
  exact of_word rfl (by simp only [put, List.foldl]; omega)

theorem vldz (d : BitVec 6) (a : BitVec 6) (b : BitVec 6) (mfc : BitVec 2) : Statement (.vldz d a b mfc) := by
  have := d.isLt
  have := a.isLt
  have := b.isLt
  have := mfc.isLt
  exact of_word rfl (by simp only [put, List.foldl]; omega)

theorem cpy (d : BitVec 6) (a : BitVec 6) (b : BitVec 6) : Statement (.cpy d a b) := by
  have := d.isLt
  have := a.isLt
  have := b.isLt
  exact of_word rfl (by simp only [put, List.foldl]; omega)

theorem cpyt (d : BitVec 6) (a : BitVec 6) (b : BitVec 6) : Statement (.cpyt d a b) := by
  have := d.isLt
  have := a.isLt
  have := b.isLt
  exact of_word rfl (by simp only [put, List.foldl]; omega)

theorem cpymc (d : BitVec 6) (a : BitVec 6) (b : BitVec 6) : Statement (.cpymc d a b) := by
  have := d.isLt
  have := a.isLt
  have := b.isLt
  exact of_word rfl (by simp only [put, List.foldl]; omega)

theorem cpyh (d : BitVec 6) (a : BitVec 6) (b : BitVec 6) : Statement (.cpyh d a b) := by
  have := d.isLt
  have := a.isLt
  have := b.isLt
  exact of_word rfl (by simp only [put, List.foldl]; omega)

theorem cpycancel (d : BitVec 6) (a : BitVec 6) : Statement (.cpycancel d a) := by
  have := d.isLt
  have := a.isLt
  exact of_word rfl (by simp only [put, List.foldl]; omega)

theorem tmset (a : BitVec 6) (n : BitVec 3) : Statement (.tmset a n) := by
  have := a.isLt
  have := n.isLt
  exact of_word rfl (by simp only [put, List.foldl]; omega)

theorem tmwalk (d : BitVec 6) (n : BitVec 3) : Statement (.tmwalk d n) := by
  have := d.isLt
  have := n.isLt
  exact of_word rfl (by simp only [put, List.foldl]; omega)

theorem tmstep (d : BitVec 6) (a : BitVec 6) (n : BitVec 3) : Statement (.tmstep d a n) := by
  have := d.isLt
  have := a.isLt
  have := n.isLt
  exact of_word rfl (by simp only [put, List.foldl]; omega)

theorem qlen (d : BitVec 6) (a : BitVec 6) : Statement (.qlen d a) := by
  have := d.isLt
  have := a.isLt
  exact of_word rfl (by simp only [put, List.foldl]; omega)

theorem qflush (a : BitVec 6) : Statement (.qflush a) := by
  have := a.isLt
  exact of_word rfl (by simp only [put, List.foldl]; omega)

theorem qpeek (d : BitVec 6) (a : BitVec 6) : Statement (.qpeek d a) := by
  have := d.isLt
  have := a.isLt
  exact of_word rfl (by simp only [put, List.foldl]; omega)

theorem hrank (sel : BitVec 9) (a : BitVec 6) (b : BitVec 6) : Statement (.hrank sel a b) := by
  have := sel.isLt
  have := a.isLt
  have := b.isLt
  exact of_word rfl (by simp only [put, List.foldl]; omega)

theorem hranks (sel : BitVec 9) (a : BitVec 6) (b : BitVec 6) : Statement (.hranks sel a b) := by
  have := sel.isLt
  have := a.isLt
  have := b.isLt
  exact of_word rfl (by simp only [put, List.foldl]; omega)

theorem hrankx (sel : BitVec 9) (a : BitVec 6) (b : BitVec 6) : Statement (.hrankx sel a b) := by
  have := sel.isLt
  have := a.isLt
  have := b.isLt
  exact of_word rfl (by simp only [put, List.foldl]; omega)

theorem hrankg (sel : BitVec 9) (a : BitVec 6) (b : BitVec 6) : Statement (.hrankg sel a b) := by
  have := sel.isLt
  have := a.isLt
  have := b.isLt
  exact of_word rfl (by simp only [put, List.foldl]; omega)

theorem hget (sel : BitVec 9) (a : BitVec 6) : Statement (.hget sel a) := by
  have := sel.isLt
  have := a.isLt
  exact of_word rfl (by simp only [put, List.foldl]; omega)

theorem hput (sel : BitVec 9) (a : BitVec 6) : Statement (.hput sel a) := by
  have := sel.isLt
  have := a.isLt
  exact of_word rfl (by simp only [put, List.foldl]; omega)

theorem hzero (sel : BitVec 9) (tag : BitVec 5) : Statement (.hzero sel tag) := by
  have := sel.isLt
  have := tag.isLt
  exact of_word rfl (by simp only [put, List.foldl]; omega)

theorem hacc (sel : BitVec 9) (a : BitVec 6) : Statement (.hacc sel a) := by
  have := sel.isLt
  have := a.isLt
  exact of_word rfl (by simp only [put, List.foldl]; omega)

theorem hbiasc (sel : BitVec 9) (a : BitVec 6) : Statement (.hbiasc sel a) := by
  have := sel.isLt
  have := a.isLt
  exact of_word rfl (by simp only [put, List.foldl]; omega)

theorem hbiasr (sel : BitVec 9) (a : BitVec 6) : Statement (.hbiasr sel a) := by
  have := sel.isLt
  have := a.isLt
  exact of_word rfl (by simp only [put, List.foldl]; omega)

theorem hscalc (sel : BitVec 9) (a : BitVec 6) : Statement (.hscalc sel a) := by
  have := sel.isLt
  have := a.isLt
  exact of_word rfl (by simp only [put, List.foldl]; omega)

theorem hrelu (sel : BitVec 9) : Statement (.hrelu sel) := by
  have := sel.isLt
  exact of_word rfl (by simp only [put, List.foldl]; omega)

theorem hclamp (sel : BitVec 9) (a : BitVec 6) : Statement (.hclamp sel a) := by
  have := sel.isLt
  have := a.isLt
  exact of_word rfl (by simp only [put, List.foldl]; omega)

theorem hrq (sel : BitVec 9) (a : BitVec 6) (tag : BitVec 5) : Statement (.hrq sel a tag) := by
  have := sel.isLt
  have := a.isLt
  have := tag.isLt
  exact of_word rfl (by simp only [put, List.foldl]; omega)

theorem hsumsq (sel : BitVec 9) (a : BitVec 6) : Statement (.hsumsq sel a) := by
  have := sel.isLt
  have := a.isLt
  exact of_word rfl (by simp only [put, List.foldl]; omega)

theorem hnorm (sel : BitVec 9) (a : BitVec 6) : Statement (.hnorm sel a) := by
  have := sel.isLt
  have := a.isLt
  exact of_word rfl (by simp only [put, List.foldl]; omega)

theorem hexp2 (sel : BitVec 9) : Statement (.hexp2 sel) := by
  have := sel.isLt
  exact of_word rfl (by simp only [put, List.foldl]; omega)

theorem hrcp (sel : BitVec 9) : Statement (.hrcp sel) := by
  have := sel.isLt
  exact of_word rfl (by simp only [put, List.foldl]; omega)

theorem htanh (sel : BitVec 9) : Statement (.htanh sel) := by
  have := sel.isLt
  exact of_word rfl (by simp only [put, List.foldl]; omega)

theorem hrsq (sel : BitVec 9) : Statement (.hrsq sel) := by
  have := sel.isLt
  exact of_word rfl (by simp only [put, List.foldl]; omega)

theorem hsave (sel : BitVec 9) (a : BitVec 6) (b : BitVec 6) : Statement (.hsave sel a b) := by
  have := sel.isLt
  have := a.isLt
  have := b.isLt
  exact of_word rfl (by simp only [put, List.foldl]; omega)

theorem hrest (sel : BitVec 9) (a : BitVec 6) (b : BitVec 6) : Statement (.hrest sel a b) := by
  have := sel.isLt
  have := a.isLt
  have := b.isLt
  exact of_word rfl (by simp only [put, List.foldl]; omega)

theorem vsave (a : BitVec 6) (b : BitVec 6) : Statement (.vsave a b) := by
  have := a.isLt
  have := b.isLt
  exact of_word rfl (by simp only [put, List.foldl]; omega)

theorem vrest (a : BitVec 6) (b : BitVec 6) : Statement (.vrest a b) := by
  have := a.isLt
  have := b.isLt
  exact of_word rfl (by simp only [put, List.foldl]; omega)

theorem hdmap (sel : BitVec 9) (a : BitVec 6) : Statement (.hdmap sel a) := by
  have := sel.isLt
  have := a.isLt
  exact of_word rfl (by simp only [put, List.foldl]; omega)

theorem tspawn (d : BitVec 6) (a : BitVec 6) (b : BitVec 6) : Statement (.tspawn d a b) := by
  have := d.isLt
  have := a.isLt
  have := b.isLt
  exact of_word rfl (by simp only [put, List.foldl]; omega)

theorem tend (a : BitVec 6) : Statement (.tend a) := by
  have := a.isLt
  exact of_word rfl (by simp only [put, List.foldl]; omega)

theorem tyield  : Statement (.tyield) := by
  exact of_word rfl (by simp only [put, List.foldl]; omega)

theorem tbank  : Statement (.tbank) := by
  exact of_word rfl (by simp only [put, List.foldl]; omega)

theorem gjoin  : Statement (.gjoin) := by
  exact of_word rfl (by simp only [put, List.foldl]; omega)

theorem gleave  : Statement (.gleave) := by
  exact of_word rfl (by simp only [put, List.foldl]; omega)

theorem trec (d : BitVec 6) (a : BitVec 6) : Statement (.trec d a) := by
  have := d.isLt
  have := a.isLt
  exact of_word rfl (by simp only [put, List.foldl]; omega)

theorem queueTimeout (q : Nat) : Statement (.queueTimeout q) := fun h => Bool.noConfusion h

theorem watchdog (reason : Nat) : Statement (.watchdog reason) := fun h => Bool.noConfusion h

theorem timer  : Statement (.timer) := fun h => Bool.noConfusion h

theorem takeInterrupt  : Statement (.takeInterrupt) := fun h => Bool.noConfusion h

theorem trapEntry (cause : Nat) (eval : Word) : Statement (.trapEntry cause eval) := fun h => Bool.noConfusion h

theorem faultWindowClose  : Statement (.faultWindowClose) := fun h => Bool.noConfusion h

theorem scalarResultWrite (d : Nat) : Statement (.scalarResultWrite d) := fun h => Bool.noConfusion h

theorem slashResult (d : Nat) : Statement (.slashResult d) := fun h => Bool.noConfusion h

theorem scalarLoadReply (tag : Nat) : Statement (.scalarLoadReply tag) := fun h => Bool.noConfusion h

theorem atomicResponse (tag : Nat) : Statement (.atomicResponse tag) := fun h => Bool.noConfusion h

theorem vectorGroupWrite (entry : Nat) : Statement (.vectorGroupWrite entry) := fun h => Bool.noConfusion h

theorem vectorLoadData (entry : Nat) : Statement (.vectorLoadData entry) := fun h => Bool.noConfusion h

theorem sfuCommit  : Statement (.sfuCommit) := fun h => Bool.noConfusion h

theorem hsfuCommit  : Statement (.hsfuCommit) := fun h => Bool.noConfusion h

theorem latchCommit  : Statement (.latchCommit) := fun h => Bool.noConfusion h

theorem hoopRowLand (row : Nat) : Statement (.hoopRowLand row) := fun h => Bool.noConfusion h

theorem freezeBegin (va : Word) : Statement (.freezeBegin va) := fun h => Bool.noConfusion h

theorem lateReplyArrival  : Statement (.lateReplyArrival) := fun h => Bool.noConfusion h

theorem correctedError (words : Nat) : Statement (.correctedError words) := fun h => Bool.noConfusion h

theorem correctionFreezeEnd  : Statement (.correctionFreezeEnd) := fun h => Bool.noConfusion h

theorem freezeTimeout  : Statement (.freezeTimeout) := fun h => Bool.noConfusion h

theorem uncorrectableError (place : ErrorPlace) : Statement (.uncorrectableError place) := fun h => Bool.noConfusion h

theorem bankSwitch  : Statement (.bankSwitch) := fun h => Bool.noConfusion h

theorem preempt  : Statement (.preempt) := fun h => Bool.noConfusion h

theorem contextSave (area : Nat) : Statement (.contextSave area) := fun h => Bool.noConfusion h

theorem contextRestore (area : Nat) : Statement (.contextRestore area) := fun h => Bool.noConfusion h

theorem wfeWake  : Statement (.wfeWake) := fun h => Bool.noConfusion h

theorem barrierWaitRelease  : Statement (.barrierWaitRelease) := fun h => Bool.noConfusion h

theorem bxchArrival  : Statement (.bxchArrival) := fun h => Bool.noConfusion h

theorem binitTeamComplete (n : Nat) : Statement (.binitTeamComplete n) := fun h => Bool.noConfusion h

theorem gjoinRendezvous  : Statement (.gjoinRendezvous) := fun h => Bool.noConfusion h

theorem tyieldRendezvous (othersReady : Bool) : Statement (.tyieldRendezvous othersReady) := fun h => Bool.noConfusion h

theorem pubwaitSatisfied  : Statement (.pubwaitSatisfied) := fun h => Bool.noConfusion h

theorem publishAck (io : Nat) : Statement (.publishAck io) := fun h => Bool.noConfusion h

theorem gangBroadcastExecute  : Statement (.gangBroadcastExecute) := fun h => Bool.noConfusion h

theorem gangFail (member : Nat) (row : Nat) (timeout : Bool) : Statement (.gangFail member row timeout) := fun h => Bool.noConfusion h

theorem copyLineLand (id : Nat) (line : Nat) : Statement (.copyLineLand id line) := fun h => Bool.noConfusion h

theorem copyComplete (id : Nat) : Statement (.copyComplete id) := fun h => Bool.noConfusion h

theorem cpytStart (id : Nat) : Statement (.cpytStart id) := fun h => Bool.noConfusion h

theorem cpyhStart (id : Nat) : Statement (.cpyhStart id) := fun h => Bool.noConfusion h

theorem lineWrite (src : Nat) (dst : Nat) : Statement (.lineWrite src dst) := fun h => Bool.noConfusion h

theorem partialWrite (src : Nat) (dst : Nat) : Statement (.partialWrite src dst) := fun h => Bool.noConfusion h

theorem readRequest (src : Nat) (dst : Nat) : Statement (.readRequest src dst) := fun h => Bool.noConfusion h

theorem atomicPacket (src : Nat) (dst : Nat) : Statement (.atomicPacket src dst) := fun h => Bool.noConfusion h

theorem readReply (src : Nat) (dst : Nat) : Statement (.readReply src dst) := fun h => Bool.noConfusion h

theorem atomicOrErrorReply (src : Nat) (dst : Nat) : Statement (.atomicOrErrorReply src dst) := fun h => Bool.noConfusion h

theorem orderAcknowledgement (src : Nat) (dst : Nat) : Statement (.orderAcknowledgement src dst) := fun h => Bool.noConfusion h

theorem knotAdvance (src : Nat) (dst : Nat) : Statement (.knotAdvance src dst) := fun h => Bool.noConfusion h

theorem knotFrame (src : Nat) (dst : Nat) : Statement (.knotFrame src dst) := fun h => Bool.noConfusion h

theorem beacon (src : Nat) (dst : Nat) : Statement (.beacon src dst) := fun h => Bool.noConfusion h

theorem cutAdvance (src : Nat) (dst : Nat) : Statement (.cutAdvance src dst) := fun h => Bool.noConfusion h

theorem removalNotice (src : Nat) (dst : Nat) : Statement (.removalNotice src dst) := fun h => Bool.noConfusion h

theorem reservedKindFlit (src : Nat) (dst : Nat) : Statement (.reservedKindFlit src dst) := fun h => Bool.noConfusion h

theorem heldPacketRelease (src : Nat) (dst : Nat) : Statement (.heldPacketRelease src dst) := fun h => Bool.noConfusion h

theorem beaconSend (die : Nat) : Statement (.beaconSend die) := fun h => Bool.noConfusion h

theorem forwardEntryLeave (cluster : Nat) (index : Nat) : Statement (.forwardEntryLeave cluster index) := fun h => Bool.noConfusion h

theorem atomicReplyTimeout (tag : Nat) : Statement (.atomicReplyTimeout tag) := fun h => Bool.noConfusion h

theorem knotReset  : Statement (.knotReset) := fun h => Bool.noConfusion h

theorem cutRequest (die : Nat) : Statement (.cutRequest die) := fun h => Bool.noConfusion h

theorem granulePreserve (index : Nat) : Statement (.granulePreserve index) := fun h => Bool.noConfusion h

theorem snapshotCopierStream (index : Nat) : Statement (.snapshotCopierStream index) := fun h => Bool.noConfusion h

theorem snapshotComplete  : Statement (.snapshotComplete) := fun h => Bool.noConfusion h

theorem freqSwitchFreeze  : Statement (.freqSwitchFreeze) := fun h => Bool.noConfusion h

theorem freqSwitchResume  : Statement (.freqSwitchResume) := fun h => Bool.noConfusion h

theorem retentionEntry (die : Nat) (bank : Nat) : Statement (.retentionEntry die bank) := fun h => Bool.noConfusion h

theorem retentionExit (die : Nat) (bank : Nat) : Statement (.retentionExit die bank) := fun h => Bool.noConfusion h

theorem scrub (pa : Nat) : Statement (.scrub pa) := fun h => Bool.noConfusion h

theorem tinvAsn (io : Nat) (asn : Nat) : Statement (.tinvAsn io asn) := fun h => Bool.noConfusion h

theorem tinvVpn (io : Nat) (asn : Nat) (vpn : Nat) : Statement (.tinvVpn io asn vpn) := fun h => Bool.noConfusion h

theorem tinvAll (io : Nat) : Statement (.tinvAll io) := fun h => Bool.noConfusion h

theorem tinvVpnEveryAsn (io : Nat) (vpn : Nat) : Statement (.tinvVpnEveryAsn io vpn) := fun h => Bool.noConfusion h

theorem invalidationComplete (io : Nat) : Statement (.invalidationComplete io) := fun h => Bool.noConfusion h

theorem pans (io : Nat) (value : Word) : Statement (.pans io value) := fun h => Bool.noConfusion h

theorem prtailWrite (io : Nat) (value : Word) : Statement (.prtailWrite io value) := fun h => Bool.noConfusion h

theorem notify (io : Nat) (value : Word) : Statement (.notify io value) := fun h => Bool.noConfusion h

theorem slotMap (io : Nat) (q : Nat) : Statement (.slotMap io q) := fun h => Bool.noConfusion h

theorem slotUnmap (io : Nat) (q : Nat) : Statement (.slotUnmap io q) := fun h => Bool.noConfusion h

theorem slotWritebackComplete (io : Nat) (q : Nat) : Statement (.slotWritebackComplete io q) := fun h => Bool.noConfusion h

theorem takeRecord (io : Nat) (q : Nat) : Statement (.takeRecord io q) := fun h => Bool.noConfusion h

theorem aliasRetire (io : Nat) (index : Nat) : Statement (.aliasRetire io index) := fun h => Bool.noConfusion h

theorem taskPlace (handle : Nat) (cores : List Nat) (bank : Nat) (lfBase : Nat) (hBase : Nat) : Statement (.taskPlace handle cores bank lfBase hBase) := fun h => Bool.noConfusion h

theorem taskPromote (handle : Nat) : Statement (.taskPromote handle) := fun h => Bool.noConfusion h

theorem strandStart (handle : Nat) (member : Nat) : Statement (.strandStart handle member) := fun h => Bool.noConfusion h

theorem memberStop (handle : Nat) (member : Nat) : Statement (.memberStop handle member) := fun h => Bool.noConfusion h

theorem addressSpaceDestroy (root : Nat) : Statement (.addressSpaceDestroy root) := fun h => Bool.noConfusion h

theorem level3  : Statement (.level3) := fun h => Bool.noConfusion h

theorem clock (half : Bool) : Statement (.clock half) := fun h => Bool.noConfusion h

theorem remove (die : Nat) : Statement (.remove die) := fun h => Bool.noConfusion h

theorem reset  : Statement (.reset) := fun h => Bool.noConfusion h

theorem fwload (pa : Nat) : Statement (.fwload pa) := fun h => Bool.noConfusion h

theorem snapshot (pa : Nat) : Statement (.snapshot pa) := fun h => Bool.noConfusion h

theorem svnset (version : Nat) : Statement (.svnset version) := fun h => Bool.noConfusion h

theorem wake (value : Word) : Statement (.wake value) := fun h => Bool.noConfusion h

theorem registerWrite (pa : Nat) (value : Word) : Statement (.registerWrite pa value) := fun h => Bool.noConfusion h

theorem powerWindow (watts : Nat) : Statement (.powerWindow watts) := fun h => Bool.noConfusion h

theorem powerOn  : Statement (.powerOn) := fun h => Bool.noConfusion h

theorem perstPackage  : Statement (.perstPackage) := fun h => Bool.noConfusion h

theorem perstLink  : Statement (.perstLink) := fun h => Bool.noConfusion h

theorem firmwareVerify  : Statement (.firmwareVerify) := fun h => Bool.noConfusion h

theorem linkTraining (unit : TrainUnit) (ok : Bool) : Statement (.linkTraining unit ok) := fun h => Bool.noConfusion h

theorem level2Entry  : Statement (.level2Entry) := fun h => Bool.noConfusion h

theorem getVersion (io : Nat) : Statement (.getVersion io) := fun h => Bool.noConfusion h

theorem getCapabilities (io : Nat) : Statement (.getCapabilities io) := fun h => Bool.noConfusion h

theorem negotiateAlgorithms (io : Nat) : Statement (.negotiateAlgorithms io) := fun h => Bool.noConfusion h

theorem getDigests (io : Nat) : Statement (.getDigests io) := fun h => Bool.noConfusion h

theorem getCertificate (io : Nat) (slot : Nat) : Statement (.getCertificate io slot) := fun h => Bool.noConfusion h

theorem challenge (io : Nat) (slot : Nat) : Statement (.challenge io slot) := fun h => Bool.noConfusion h

theorem getMeasurements (io : Nat) (index : Nat) : Statement (.getMeasurements io index) := fun h => Bool.noConfusion h

theorem hostWrite (io : Nat) (pa : Nat) (data : List Byte) (relaxed : Bool) (poisoned : Bool) : Statement (.hostWrite io pa data relaxed poisoned) := fun h => Bool.noConfusion h

theorem hostRead (io : Nat) (pa : Nat) (len : Nat) : Statement (.hostRead io pa len) := fun h => Bool.noConfusion h

theorem hostCompletionTimeout (tag : Nat) : Statement (.hostCompletionTimeout tag) := fun h => Bool.noConfusion h

theorem rdmaWriteInbound (io : Nat) (rkey : Nat) (pa : Nat) (data : List Byte) : Statement (.rdmaWriteInbound io rkey pa data) := fun h => Bool.noConfusion h

theorem rdmaReadInbound (io : Nat) (rkey : Nat) (pa : Nat) (len : Nat) : Statement (.rdmaReadInbound io rkey pa len) := fun h => Bool.noConfusion h

theorem rdmaNak (id : Nat) : Statement (.rdmaNak id) := fun h => Bool.noConfusion h

theorem illegalOpcode (word : BitVec 32) (offset : Nat) : Statement (.illegalOpcode word offset) := fun h => Bool.noConfusion h

theorem fetchFault (va : Word) : Statement (.fetchFault va) := fun h => Bool.noConfusion h

theorem spawnRecordAccept (io : Nat) : Statement (.spawnRecordAccept io) := fun h => Bool.noConfusion h

theorem fconsWrite (io : Nat) (q : Nat) (value : BitVec 32) : Statement (.fconsWrite io q value) := fun h => Bool.noConfusion h

theorem rconsWrite (io : Nat) (q : Nat) (value : BitVec 32) : Statement (.rconsWrite io q value) := fun h => Bool.noConfusion h

theorem d3hot (io : Nat) (enter : Bool) : Statement (.d3hot io enter) := fun h => Bool.noConfusion h

theorem autoNegotiation (io : Nat) (port : Nat) (up : Bool) : Statement (.autoNegotiation io port up) := fun h => Bool.noConfusion h

theorem priorityFlowControl (io : Nat) (port : Nat) (pause : Bool) : Statement (.priorityFlowControl io port pause) := fun h => Bool.noConfusion h

end Sys2Proof.Laws.Wf
end

