-- ==== Sys2Proof/Laws/Store.lean ====
section
/-! SUPPORT. The laws of sparse stores and of memory: every operation keeps the canonical form, a read after a
write to the same place gives the value written, and a write leaves every other place alone. -/

namespace Sys2Proof.Machine

theorem Sparse.wfFrom_mono {β : Type} [DecidableEq β] {dflt : β} {lo lo' : Nat} (h : lo ≤ lo') (l : List (Nat × β)) :
    Sparse.wfFrom dflt lo' l = true → Sparse.wfFrom dflt lo l = true := by
  cases l with
  | nil => simp [Sparse.wfFrom]
  | cons p r =>
    simp only [Sparse.wfFrom, Bool.and_eq_true, decide_eq_true_eq]
    rintro ⟨⟨h1, h2⟩, h3⟩
    exact ⟨⟨by omega, h2⟩, h3⟩

/-- Below the lowest key a store reads its default. -/
theorem Sparse.get_below {β : Type} [DecidableEq β] {dflt : β} (l : List (Nat × β)) {lo a : Nat}
    (h : Sparse.wfFrom dflt lo l = true) (ha : a < lo) : Sparse.get dflt l a = dflt := by
  cases l with
  | nil => rfl
  | cons p r =>
    simp only [Sparse.wfFrom, Bool.and_eq_true, decide_eq_true_eq] at h
    have : a < p.1 := by omega
    simp [Sparse.get, this]

theorem Sparse.wfFrom_set {β : Type} [DecidableEq β] {dflt : β} (l : List (Nat × β)) {lo a : Nat} (v : β)
    (h : Sparse.wfFrom dflt lo l = true) (ha : lo ≤ a) : Sparse.wfFrom dflt lo (Sparse.set dflt l a v) = true := by
  induction l generalizing lo with
  | nil =>
    by_cases hv : v = dflt <;> simp [Sparse.set, Sparse.wfFrom, hv, ha]
  | cons p r ih =>
    obtain ⟨k, w⟩ := p
    simp only [Sparse.wfFrom, Bool.and_eq_true, decide_eq_true_eq] at h
    obtain ⟨⟨h1, h2⟩, h3⟩ := h
    simp only [Sparse.set]
    split
    · split
      · simp [Sparse.wfFrom, h1, h2, h3]
      · rename_i hv
        simp only [Sparse.wfFrom, Bool.and_eq_true, decide_eq_true_eq]
        exact ⟨⟨ha, hv⟩, ⟨by omega, h2⟩, h3⟩
    · split
      · split
        · exact Sparse.wfFrom_mono (by omega) r h3
        · rename_i hk hv
          subst hk
          simp [Sparse.wfFrom, h1, h3, hv]
      · simp only [Sparse.wfFrom, Bool.and_eq_true, decide_eq_true_eq]
        exact ⟨⟨h1, h2⟩, ih h3 (by omega)⟩

/-- Setting a key keeps the canonical form. -/
theorem Sparse.wf_set {β : Type} [DecidableEq β] {dflt : β} (l : List (Nat × β)) (a : Nat) (v : β)
    (h : Sparse.wf dflt l = true) : Sparse.wf dflt (Sparse.set dflt l a v) = true :=
  Sparse.wfFrom_set l v h (Nat.zero_le a)

theorem Sparse.get_set_from {β : Type} [DecidableEq β] {dflt : β} (l : List (Nat × β)) {lo a : Nat} (v : β) (b : Nat)
    (h : Sparse.wfFrom dflt lo l = true) :
    Sparse.get dflt (Sparse.set dflt l a v) b = if b = a then v else Sparse.get dflt l b := by
  induction l generalizing lo with
  | nil =>
    by_cases hv : v = dflt
    · simp [Sparse.set, Sparse.get, hv]
    · simp only [Sparse.set, hv, if_false, Sparse.get]
      split <;> split <;> simp_all
  | cons p r ih =>
    obtain ⟨k, w⟩ := p
    simp only [Sparse.wfFrom, Bool.and_eq_true, decide_eq_true_eq] at h
    obtain ⟨⟨h1, h2⟩, h3⟩ := h
    simp only [Sparse.set]
    split
    · rename_i hak
      split
      · rename_i hv
        by_cases hb : b = a
        · subst hb; simp [Sparse.get, hak, hv]
        · simp [hb]
      · by_cases hb : b = a
        · subst hb; simp [Sparse.get]
        · by_cases hlt : b < a
          · have : b < k := by omega
            simp [Sparse.get, hlt, hb, this]
          · simp [Sparse.get, hlt, hb]
    · split
      · rename_i hk
        subst hk
        split
        · rename_i hv
          by_cases hb : b = a
          · subst hb; simp [hv, Sparse.get_below r h3 (Nat.lt_succ_self b)]
          · by_cases hlt : b < a
            · simp [Sparse.get, hlt, hb, Sparse.get_below r h3 (by omega : b < a + 1)]
            · simp [Sparse.get, hlt, hb]
        · by_cases hb : b = a
          · subst hb; simp [Sparse.get]
          · simp [Sparse.get, hb]
      · rename_i hk1 hk2
        simp only [Sparse.get]
        rw [ih h3]
        by_cases hb : b = a
        · subst hb; simp [hk1, hk2]
        · simp [hb]

/-- A read after a write. -/
theorem Memory.read_write {m : Memory} (h : m.wf = true) (a b : Nat) (v : Byte) :
    (m.write a v).read b = if b = a then v else m.read b := Sparse.get_set_from m v b h

theorem Memory.read_write_same {m : Memory} (h : m.wf = true) (a : Nat) (v : Byte) : (m.write a v).read a = v := by
  simp [Memory.read_write h]

theorem Memory.read_write_other {m : Memory} (h : m.wf = true) {a b : Nat} (v : Byte) (hb : b ≠ a) :
    (m.write a v).read b = m.read b := by simp [Memory.read_write h, hb]

theorem Memory.wf_nil : Memory.wf [] = true := rfl

theorem Memory.wf_write {m : Memory} (h : m.wf = true) (a : Nat) (v : Byte) : (m.write a v).wf = true :=
  Sparse.wf_set m a v h

theorem Memory.wf_writeLE {m : Memory} (h : m.wf = true) (a n x : Nat) : (m.writeLE a n x).wf = true := by
  induction n generalizing m a x with
  | zero => exact h
  | succ n ih => exact ih (Memory.wf_write h a _) _ _

theorem Memory.wf_writeBytes {m : Memory} (h : m.wf = true) (a : Nat) (l : List Byte) : (m.writeBytes a l).wf = true := by
  induction l generalizing m a with
  | nil => exact h
  | cons b r ih => exact ih (Memory.wf_write h a b) _

theorem Memory.wf_writeCells {m : Memory} (h : m.wf = true) (l : List (Nat × Byte)) : (m.writeCells l).wf = true := by
  induction l generalizing m with
  | nil => exact h
  | cons c r ih => exact ih (Memory.wf_write h c.1 c.2)

theorem Sparse.wfFrom_filter {β : Type} [DecidableEq β] {dflt : β} (f : Nat × β → Bool) (l : List (Nat × β)) {lo : Nat}
    (h : Sparse.wfFrom dflt lo l = true) : Sparse.wfFrom dflt lo (l.filter f) = true := by
  induction l generalizing lo with
  | nil => rfl
  | cons p r ih =>
    obtain ⟨k, w⟩ := p
    simp only [Sparse.wfFrom, Bool.and_eq_true, decide_eq_true_eq] at h
    obtain ⟨⟨h1, h2⟩, h3⟩ := h
    rw [List.filter_cons]
    split
    · simp only [Sparse.wfFrom, Bool.and_eq_true, decide_eq_true_eq]
      exact ⟨⟨h1, h2⟩, ih h3⟩
    · exact Sparse.wfFrom_mono (by omega) _ (ih h3)

theorem Memory.wf_filter {m : Memory} (f : Nat × Byte → Bool) (h : m.wf = true) : Memory.wf (m.filter f) = true :=
  Sparse.wfFrom_filter f m h

/-- A write of listed bytes leaves every address that the list does not name. -/
theorem Memory.read_writeCells_other {m : Memory} (h : m.wf = true) (l : List (Nat × Byte)) {a : Nat}
    (ha : ∀ c ∈ l, c.1 ≠ a) : (m.writeCells l).read a = m.read a := by
  induction l generalizing m with
  | nil => rfl
  | cons c r ih =>
    have h1 := ih (Memory.wf_write h c.1 c.2) (fun x hx => ha x (List.mem_cons_of_mem c hx))
    exact h1.trans (Memory.read_write_other h _ (fun e => ha c List.mem_cons_self e.symm))

/-- The addresses of the bytes of a number stored from `pa` upward. -/
theorem mem_wordBytes {pa n x : Nat} {c : Nat × Byte} (h : c ∈ wordBytes pa n x) : pa ≤ c.1 ∧ c.1 < pa + n := by
  induction n generalizing pa x with
  | zero => simp [wordBytes] at h
  | succ n ih =>
    simp only [wordBytes, List.mem_cons] at h
    rcases h with rfl | h
    · exact ⟨Nat.le_refl _, by simp⟩
    · have := ih h; omega

/-- The number stored little-endian reads back. -/
theorem Memory.readLE_wordBytes {m : Memory} (h : m.wf = true) (pa n x : Nat) :
    (m.writeCells (wordBytes pa n x)).readLE pa n = x % 256 ^ n := by
  suffices ∀ (m : Memory), m.wf = true → (m.writeCells (wordBytes pa n x)).readLE pa n = x % 256 ^ n from this m h
  induction n generalizing pa x with
  | zero => intro m _; simp [Memory.readLE, Nat.mod_one]
  | succ n ih =>
    intro m h
    simp only [wordBytes, Memory.writeCells, Memory.readLE]
    rw [ih (pa + 1) (x / 256) _ (Memory.wf_write h _ _)]
    rw [Memory.read_writeCells_other (Memory.wf_write h _ _) _ (fun c hc => by have := mem_wordBytes hc; omega)]
    rw [Memory.read_write_same h]
    simp only [BitVec.toNat_ofNat]
    have e : (256 : Nat) ^ (n + 1) = 256 * 256 ^ n := by rw [Nat.pow_succ, Nat.mul_comm]
    rw [e, Nat.mod_mul]

/-- R289: a write at its home keeps the canonical form of memory. -/
theorem Pkg.homeWrite_wf {p : Pkg} (h : p.mem.wf = true) (bytes : List (Nat × Byte)) (poison : List Nat) (snap preCut : Bool) :
    (p.homeWrite bytes poison snap preCut).mem.wf = true := Memory.wf_writeCells h bytes

theorem Pkg.engineWrite_wf {p : Pkg} (h : p.mem.wf = true) (pa n x : Nat) : (p.engineWrite pa n x).mem.wf = true :=
  Pkg.homeWrite_wf h _ _ _ _

end Sys2Proof.Machine
end

