-- ==== Sys2Proof/Tests/Slice0.lean ====
section
/-! SUPPORT. Small tests: terms that WellFormed refuses, words decoded as the manual lists them, single steps with
results that the manual works out, and for each statement a state and operands that meet its hypotheses. -/

namespace Sys2Proof.Tests

open Sys2Proof Sys2Proof.Machine Sys2Proof.Safety Sys2Proof.Claims

set_option maxRecDepth 100000
set_option Elab.async false

/-! ### Terms that no encoding has (R56) -/

theorem test_wf_loop_length : (Instr.loop 0 5 0 0).wf = false := by decide
theorem test_wf_loop_stages : (Instr.loop 1 5 5 0).wf = false := by decide
theorem test_wf_loop : (Instr.loop 63 5 4 1).wf = true := by decide
theorem test_wf_fcvt : (Instr.fcvt 1 2 63 0).wf = false := by decide
theorem test_wf_fcvt_register : (Instr.fcvt 32 2 0 0).wf = false := by decide
theorem test_wf_vcvt : (Instr.vcvt 1 2 0 31 0).wf = false := by decide
theorem test_wf_vcvts : (Instr.vcvts 1 2 0 31 0).wf = false := by decide
theorem test_wf_vretag : (Instr.vretag 1 2 0x1D).wf = false := by decide
theorem test_wf_vbamax : (Instr.vbamax 1 2 0 0 0).wf = false := by decide
theorem test_wf_vbscale : (Instr.vbscale 1 2 1 8 0).wf = false := by decide
theorem test_wf_vbqnt : (Instr.vbqnt 1 2 0 0x0D 0).wf = false := by decide
theorem test_wf_hrank : (Instr.hrank 0x1FF 1 2).wf = false := by decide
theorem test_wf_hranks : (Instr.hranks 0x1FF 1 2).wf = false := by decide
theorem test_wf_hrankx : (Instr.hrankx 0x1FF 1 2).wf = false := by decide
theorem test_wf_hrankg : (Instr.hrankg 0x1FF 1 2).wf = false := by decide
theorem test_wf_hget : (Instr.hget 0x1FF 1).wf = false := by decide
theorem test_wf_hput : (Instr.hput 0x1FF 1).wf = false := by decide
theorem test_wf_hacc : (Instr.hacc 0x1FF 1).wf = false := by decide
theorem test_wf_hzero : (Instr.hzero 0x100 0x0B).wf = false := by decide
theorem test_wf_hrq : (Instr.hrq 0x000 1 0x10).wf = false := by decide
theorem test_wf_epilogue_bit : [Instr.hbiasc 0x100 1, .hbiasr 0x100 1, .hscalc 0x100 1, .hrelu 0x100, .hclamp 0x100 1,
    .hsumsq 0x100 1, .hnorm 0x100 1, .hexp2 0x100, .hrcp 0x100, .htanh 0x100, .hrsq 0x100, .hsave 0x100 1 2,
    .hrest 0x100 1 2].all (fun i => !i.wf) = true := by decide
theorem test_wf_hdmap : (Instr.hdmap 4 1).wf = false ∧ (Instr.hdmap 3 1).wf = true := by decide
theorem test_wf_event : Instr.takeInterrupt.wf = false := by decide

/-! ### Words written out from their encodings -/

/-- A word alone decodes to an instruction, with P and C as given. -/
def reads (w : Nat) (p c : Bool) (i : Instr) : Prop := decodeWords [BitVec.ofNat 32 w] = .ok (⟨p, c, i⟩, 1)

-- The words and their listings are the manual's own, at the rules named.
theorem test_decode_add : reads 0x81414540 true false (.add 16 20 21) := by unfold reads; decide +kernel -- R70
theorem test_decode_addi : reads 0x02400005 false false (.addi 16 0 (.short 5)) := by unfold reads; decide +kernel -- R14
theorem test_decode_addi_negative : reads 0x02540FFF false false (.addi 21 0 (.short (-1))) := by unfold reads; decide +kernel
theorem test_decode_addi_prefixed : decodeWords [0x3F012345, 0x02500678]
    = .ok (⟨false, false, .addi 20 0 (.long 0x12345678)⟩, 2) := by decide +kernel -- R53
theorem test_decode_lui_prefixed : decodeWords [0x3F012345, 0x09400678]
    = .ok (⟨false, false, .lui 16 (.long 0x12345678)⟩, 2) := by decide +kernel -- R102
theorem test_decode_prefix_of_alu : decodeWords [0x3F000001, 0x01000000] = .error .badPrefix := by decide +kernel -- R52
theorem test_decode_prefix_twice : decodeWords [0x3F000001, 0x3F000001] = .error .badPrefix := by decide +kernel -- R52
theorem test_decode_prefix_with_c : decodeWords [0x7F000001, 0x02400005] = .error .badPrefix := by decide +kernel -- R52
theorem test_decode_reserved_major : decodeWords [0x3A000000] = .error .reservedMajor := by decide +kernel -- R54
theorem test_decode_reserved_field : decodeWords [0x01000059] = .error .reservedField := by decide +kernel -- R98, clz
theorem test_decode_unused_form : decodeWords [0x01000020] = .error .unusedForm := by decide +kernel -- R98
theorem test_decode_bne : reads 0x4C500FFB false true (.bne 20 0 (.short (-5))) := by unfold reads; decide +kernel -- R103
theorem test_decode_loop : reads 0x53194500 false true (.loop 6 20 2 1) := by unfold reads; decide +kernel -- R108
theorem test_decode_trap : reads 0x54010000 false true (.trap 16) := by unfold reads; decide +kernel
theorem test_decode_nop : reads 0x14000006 false false .nop := by unfold reads; decide +kernel -- R72
theorem test_decode_kwrite : reads 0x15410000 false false (.kwrite 16 0) := by unfold reads; decide +kernel -- R115
theorem test_decode_ldd : reads 0x56446602 false true (.ldd 17 6 (.short 2)) := by unfold reads; decide +kernel
theorem test_decode_stw : reads 0x174025FE false false (.stw 16 2 (.short (-2))) := by unfold reads; decide +kernel -- R177
theorem test_decode_ldacqd : reads 0x18408700 false false (.ldacqd 16 8 4) := by unfold reads; decide +kernel -- R180
theorem test_decode_streld : reads 0x18448F40 false false (.streld 17 8 5) := by unfold reads; decide +kernel -- R180
theorem test_decode_amoadd : reads 0x19408269 false false (.amoadd 16 8 9 5) := by unfold reads; decide +kernel -- R181
theorem test_decode_cas : reads 0x1B408258 false false (.cas 16 8 9 3) := by unfold reads; decide +kernel -- R181
theorem test_decode_fence : reads 0x1C00002B false false (.fenceAcqrel 5) := by unfold reads; decide +kernel -- R183
theorem test_decode_bxch : reads 0x1D500807 false false (.bxch 20 7) := by unfold reads; decide +kernel -- R208
theorem test_decode_bbind : reads 0x1D015C07 false false (.bbind 21 7) := by unfold reads; decide +kernel -- R208
theorem test_decode_publish : reads 0x1E508000 false false (.publish 20 8) := by unfold reads; decide +kernel -- R214
theorem test_decode_fadd : reads 0x1F0C1080 false false (.fadd 3 1 2 0) := by unfold reads; decide +kernel -- R121
theorem test_decode_vadd : reads 0x60043100 false true (.vadd 1 3 4 0) := by unfold reads; decide +kernel -- R136
theorem test_decode_vexp2 : reads 0x65040000 false true (.vexp2 1 0 0) := by unfold reads; decide +kernel
theorem test_decode_vrfsum : reads 0x26400001 false false (.vrfsum 16 0 0) := by unfold reads; decide +kernel -- R144
theorem test_decode_vmovx : reads 0x2C00550D false false (.vmovxWrite 5 20) := by unfold reads; decide +kernel -- R148
theorem test_decode_vmv : reads 0x6C081000 false true (.vmv 2 1 0) := by unfold reads; decide +kernel
theorem test_decode_vcoll : reads 0x2D515581 false false (.vcoll 20 21 22) := by unfold reads; decide +kernel -- R150
theorem test_decode_vcvt : reads 0x29081200 false false (.vcvt 2 1 0 8 0) := by unfold reads; decide +kernel -- R219
theorem test_decode_vpack : reads 0x29101082 false false (.vpack 4 1 2 0) := by unfold reads; decide +kernel -- R222
theorem test_decode_vretag : reads 0x291C7204 false false (.vretag 7 7 8) := by unfold reads; decide +kernel -- R221
theorem test_decode_vqnt : reads 0x290810C6 false false (.vqnt 2 1 3 0) := by unfold reads; decide +kernel -- R223
theorem test_decode_vbamax : reads 0x6A0F1200 false true (.vbamax 3 49 0 8 0) := by unfold reads; decide +kernel -- R229
theorem test_decode_vbqnt : reads 0xAA1B0202 true false (.vbqnt 6 48 0 8 0) := by unfold reads; decide +kernel -- R229
theorem test_decode_vslmed : reads 0x2B0C1084 false false (.vslmed 3 1 2 0) := by unfold reads; decide +kernel -- R233
theorem test_decode_vslcvt : reads 0x2B144505 false false (.vslcvt 5 4 20 0) := by unfold reads; decide +kernel -- R234
theorem test_decode_vstu : reads 0x2F0C9008 false false (.vstu 3 9 0 1 0) := by unfold reads; decide +kernel -- R184
theorem test_decode_vldtr : reads 0x3010A2C0 false false (.vldtr 4 10 11 0 0) := by unfold reads; decide +kernel -- R184
theorem test_decode_vldz : reads 0x30188242 false false (.vldz 6 8 9 0) := by unfold reads; decide +kernel -- R193
theorem test_decode_cpy : reads 0x31515580 false false (.cpy 20 21 22) := by unfold reads; decide +kernel -- R197
theorem test_decode_cpyh : reads 0x31515583 false false (.cpyh 20 21 22) := by unfold reads; decide +kernel -- R197
theorem test_decode_tmwalk : reads 0x32100011 false false (.tmwalk 4 2) := by unfold reads; decide +kernel -- R195
theorem test_decode_qlen : reads 0x33515000 false false (.qlen 20 21) := by unfold reads; decide +kernel -- R213
theorem test_decode_hrank : reads 0x74008210 false true (.hrank 1 1 2) := by unfold reads; decide +kernel -- R155
theorem test_decode_hrelu : reads 0x76010003 false true (.hrelu 2) := by unfold reads; decide +kernel -- R155
theorem test_decode_hrankg : reads 0x740009E3 false true (.hrankg 0 4 60) := by unfold reads; decide +kernel -- R162
theorem test_decode_hdmap : reads 0x38002804 false false (.hdmap 0 20) := by unfold reads; decide +kernel -- R175
theorem test_decode_tspawn : reads 0x79594540 false true (.tspawn 22 20 21) := by unfold reads; decide +kernel
theorem test_decode_tend : reads 0x79000001 false true (.tend 0) := by unfold reads; decide +kernel

/-! ### Single steps -/

/-- A strand at user level with its first pair to come. -/
def strand : State := { State.reset.placeStrand 0 0 with pairAddr := 0x10000, wordAddr := 0x10000, npc := 0x10004 }

/-- What holds of the state an instruction answers, where it answers one. -/
def holdsAfter (i : Instr) (s : State) (f : State → Bool) : Bool :=
  match exec i s with
  | .next t => f t
  | _ => false

/-- Elements of one width in an entry. -/
def lanesOf (w : Nat) (l : List Nat) : Lanes := l.zipIdx.foldl (fun d x => setElem w d x.2 x.1) 0

/-- A state with a logical entry set, and one with VL set. -/
def withEntry (s : State) (e : Nat) (tag : BitVec 5) (w : Nat) (l : List Nat) : State :=
  s.setEntry e { tag := tag, data := lanesOf w l, poison := false }

/-- The first elements of an entry. -/
def elems (s : State) (e w n : Nat) : List Nat := (List.range n).map (fun i => elem w (s.entry e).data i)

/-- A taken trap's cause and EVAL. -/
def trapOf (s : State) : Nat × Nat := if s.taken ∧ s.trap.isSome then (s.ctx.ecause.toNat, s.ctx.eval.toNat) else (0x100, 0)

theorem test_add_wraps : holdsAfter (.add 16 17 18) ((strand.setGr 17 (-1)).setGr 18 2) (fun t => t.gr 16 == 1) = true := by
  decide +kernel
theorem test_g0_discards : holdsAfter (.add 0 17 17) (strand.setGr 17 5) (fun t => t.gr 0 == 0) = true := by decide +kernel
theorem test_div_least : holdsAfter (.div 16 17 18) ((strand.setGr 17 0x8000000000000000).setGr 18 (-1))
    (fun t => t.gr 16 == 0x8000000000000000) = true := by decide +kernel -- R99
theorem test_rem_zero : holdsAfter (.rem 16 17 18) (strand.setGr 17 7) (fun t => t.gr 16 == 7) = true := by decide +kernel -- R99
theorem test_bext : holdsAfter (.bext 16 17 18) ((strand.setGr 17 0xB4).setGr 18 0xF0) (fun t => t.gr 16 == 0xB) = true := by
  decide +kernel -- R98
theorem test_lui : holdsAfter (.lui 16 (.long 0x12345678)) strand (fun t => t.gr 16 == 0x0123456780000000) = true := by
  decide +kernel -- R102
theorem test_loop_starts : holdsAfter (.loop 6 20 2 1) (strand.setGr 20 3)
    (fun t => t.ctx.lc == 0x0000068600000002 && t.pr 4 == BitVec.allOnes 1024 && t.pr 5 == 0) = true := by decide +kernel -- R108
theorem test_trap : trapOf (match exec (.trap 16) (strand.setGr 16 77) with | .next t => t | _ => strand) = (0x0A, 77) := by
  decide +kernel -- R110
theorem test_fadd_rational : holdsAfter (.fadd 3 1 2 0)
    (({ strand with ctx := { strand.ctx with acr := 8 } }.setFr 1 0x06000003).setFr 2 0x06000006)
    (fun t => t.fr 3 == 0x06000002 && t.ctx.acr == 8) = true := by decide +kernel -- R121
theorem test_vadd : holdsAfter (.vadd 1 3 4 0) ((withEntry (withEntry strand 3 1 8 [100, 1]) 4 1 8 [100, 2]).setVl 2)
    (fun t => elems t 1 8 3 == [200, 3, 0] && (t.entry 1).tag == 1 && t.ctx.satcnt == 0) = true := by decide +kernel -- R136
theorem test_vrfsum : holdsAfter (.vrfsum 16 0 0)
    ((withEntry strand 0 0x0D 32 [0x4B800000, 0x3F800000, 0x3F800000, 0xCB800000]).setVl 4)
    (fun t => t.gr 16 == 0x40000000 && t.ctx.acr == 0) = true := by decide +kernel -- R144
theorem test_vpack : holdsAfter (.vpack 4 1 2 0)
    ((withEntry (withEntry strand 1 5 32 [70000, 0xFFFFFFFB]) 2 5 32 [300, 0xFFFF63C0]).setVl 2)
    (fun t => elems t 4 16 2 == [32767, 0xFFFB] && elem 16 (t.entry 4).data 256 == 300
      && elem 16 (t.entry 4).data 257 == 0x8000 && (t.entry 4).tag == 3 && bit t.ctx.acr 13) = true := by decide +kernel -- R222
theorem test_vslmed : holdsAfter (.vslmed 3 1 2 0)
    ((withEntry (withEntry strand 1 0x0F 32 [0x06000003, 0x86000002]) 2 0x0F 32 [0x06000002, 0x06000003]).setVl 2)
    (fun t => elems t 3 32 2 == [0x0A000005, 0x04000001]) = true := by decide +kernel -- R233
theorem test_vslcvt : holdsAfter (.vslcvt 5 4 20 0) (((withEntry strand 4 0x0D 32 [0x40490FDB]).setVl 1).setGr 20 1000)
    (fun t => elems t 5 32 1 == [0x26C60071] && (t.entry 5).tag == 0x0F && bit t.ctx.acr 8) = true := by decide +kernel -- R234
theorem test_vdot4s : holdsAfter (.vdot4s 3 1 2 0)
    ((withEntry (withEntry (withEntry strand 1 1 8 [127, 127, 0x80, 0x80]) 2 1 8 [127, 127, 127, 127]) 3 5 32 [2147480000]).setVl 1)
    (fun t => elems t 3 32 1 == [2147479746] && t.ctx.acr == 0) = true := by decide +kernel -- R94, R230
theorem test_vcoll : holdsAfter (.vcoll 20 21 22) ((strand.setGr 21 0x6000070001400030).setGr 22 768)
    (fun t => t.ctx.vl == 192 && t.gr 20 == 6) = true := by decide +kernel -- R150
theorem test_vmovx : holdsAfter (.vmovxWrite 5 20) ((withEntry strand 5 0x0D 32 [7]).setGr 20 245)
    (fun t => t.entry 245 == t.entry 5 && t.ctx.dirty.getLsbD 245) = true := by decide +kernel -- R148
theorem test_past_allocation : trapOf (match exec (.vmv 2 1 0) ({ strand with ctx := { strand.ctx with alloc := 0x1000 } }.setVl 1) with
    | .next t => t
    | _ => strand) = (0x100, 0) := by decide +kernel -- R22: entries 1 and 2 lie below LFSIZE = 16
theorem test_misaligned : trapOf (match exec (.ldd 16 17 (.short 0)) (strand.setGr 17 4) with | .next t => t | _ => strand)
    = (0x05, 4) := by decide +kernel -- R177
theorem test_unmapped : trapOf (match exec (.ldd 16 17 (.short 0)) (strand.setGr 17 0x20000) with | .next t => t | _ => strand)
    = (0x06, 0x20000) := by decide +kernel -- R346
theorem test_home_per_die : State.reset.pkg.homeOf 0x0040003ABCDE = some 3 := by decide +kernel -- R333
theorem test_counters_wrap : cntAbove 1 4095 = true ∧ cntAbove 4095 1 = false ∧ cntAbove 5 5 = false := by decide +kernel -- R304

/-! ### A state and operands that meet the hypotheses of each statement -/

/-- A computation answers, and a test holds of the answer. -/
def okAnd {ε α : Type} (x : Except ε α) (f : α → Bool) : Bool :=
  match x with
  | .ok a => f a
  | .error _ => false

/-- A value is present, and a test holds of it. -/
def someAnd {α : Type} (x : Option α) (f : α → Bool) : Bool :=
  match x with
  | some a => f a
  | none => false

theorem answered {ε α : Type} {x : Except ε α} {f : α → Bool} (h : okAnd x f = true) : ∃ a, x = .ok a ∧ f a = true := by
  cases x with
  | ok a => exact ⟨a, rfl, h⟩
  | error e => exact absurd h (by simp [okAnd])

theorem present {α : Type} {x : Option α} {f : α → Bool} (h : someAnd x f = true) : ∃ a, x = some a ∧ f a = true := by
  cases x with
  | some a => exact ⟨a, rfl, h⟩
  | none => exact absurd h (by simp [someAnd])

/-- A strand at system level. -/
def sysStrand : State := { strand with ctx := { strand.ctx with estat := 0x81 } }

/-- A strand whose active loop has a body of `len` words, `stages` stages and `count` iterations to come. -/
def looping (len stages count : Nat) : State :=
  { strand with ctx := { strand.ctx with first := 0x10000, lc := word (2 ^ 42 + stages * 2 ^ 38 + len * 2 ^ 32 + count) } }

theorem meets_branches : (∃ (d a : BitVec 6) (i : Imm 12) (s : State), (s.gr a + imm64 i).toNat % 4 = 0 ∧ d = a)
    ∧ (∃ (a : BitVec 6) (i : Imm 12) (s : State), (s.gr a + imm64 i).toNat % 4 ≠ 0)
    ∧ (Instr.loop 63 16 4 1).wf = true ∧ (Instr.loop 1 16 0 0).wf = true :=
  ⟨⟨16, 16, .short 0x800, strand.setGr 16 4, by decide +kernel, rfl⟩, ⟨16, .short 3, strand, by decide +kernel⟩,
    by decide, by decide⟩

theorem meets_loop_end : runsAgain (looping 63 0 1) ∧ ¬ runsAgain (looping 63 4 0) :=
  ⟨.inl (by decide +kernel), by unfold runsAgain; decide +kernel⟩

/-- An instruction standing at the start of the pair. -/
def issue (i : Instr) (w : BitVec 32) (addr : Word) : Issue := { addr := addr, word := w, slot := { instr := i, p := false, c := false } }

theorem meets_second_trap : ∃ u, runOne exec strand (issue (.add 16 16 16) 0 0x10000) false = .done u := by
  have h : (match runOne exec strand (issue (.add 16 16 16) 0 0x10000) false with | .done _ => true | _ => false) = true := by
    decide +kernel
  cases hx : runOne exec strand (issue (.add 16 16 16) 0 0x10000) false with
  | done u => exact ⟨u, rfl⟩
  | stalled _ => rw [hx] at h; exact absurd h (by simp)
  | trapped _ _ => rw [hx] at h; exact absurd h (by simp)
  | stop _ => rw [hx] at h; exact absurd h (by simp)

theorem meets_levels : sysStrand.ctx.estat.getLsbD 7 = true ∧ strand.ctx.estat.getLsbD 7 = false := by decide +kernel

theorem meets_wfe : ∃ (s : State) (w : WaitRec), s.ctx.wait = some w ∧ w.kind = .wfe ∧ s.ctx.eventFlag = false :=
  ⟨{ strand with ctx := { strand.ctx with wait := some { kind := .wfe, dest := 0, place := 0, value := 0, second := false } } },
    _, rfl, rfl, by decide +kernel⟩

theorem meets_kread : (∀ k ∈ kStored, kOpen sysStrand k.1) ∧ strand.ctx.lc.getLsbD 42 = false
    ∧ (looping 2 0 1).ctx.lc.getLsbD 42 = true ∧ sysStrand.ctx.board = [] :=
  ⟨fun _ _ => .inr (by decide +kernel), by decide +kernel, by decide +kernel, by decide +kernel⟩

/-- A boundary value of each plain register, legal and not. -/
def kBounds : List (Word × Option Word) :=
  [(1024, some 1025), (2047, some 2048), (127, some 128), (0x4080, some 0x4081), (232, some 240), (0xBE4, some 0xCE4),
   (0x3F3F1C, some 0x3F3F1D), (-1, none), (-1, none), (-1, none), (0xFF, some 0x100), (-1, none), (0xFFFFFFFFFFFFFF00, some 0x80),
   (0xFFFFFFFF, some 0)]

theorem meets_kwrite : (kPlain.zip kBounds).all (fun p => p.1.legal (sysStrand.setGr 16 p.2.1) ((sysStrand.setGr 16 p.2.1).gr 16)
      && (match p.2.2 with | some v => !p.1.legal (sysStrand.setGr 16 v) ((sysStrand.setGr 16 v).gr 16) | none => true)
      && (match (sysStrand.setGr 16 0).kValue p.1.number.toNat with
          | some v => p.1.legal (sysStrand.setGr 16 0) (v ||| 0) && p.1.legal (sysStrand.setGr 16 0) (v &&& ~~~0)
          | none => false)) = true
    ∧ kPlain.length = kBounds.length ∧ (∀ k ∈ kPlain, kOpen sysStrand k.number) := by
  refine ⟨by decide +kernel, rfl, fun _ _ => .inr (by decide +kernel)⟩

theorem meets_kreg_checks : (¬ kListed 0x007 ∧ ¬ kListed 0x80B ∧ ¬ kListed 0x080) ∧ (kListed 0x800 ∧ ¬ kOpen strand 0x800)
    ∧ kFixed 0x010 ∧ kFixed 0x033 := by
  refine ⟨⟨?_, ?_, ?_⟩, ⟨?_, ?_⟩, ?_, ?_⟩ <;> first | (unfold kListed; decide) | (unfold kFixed; decide) | skip
  exact fun h => by rcases h with h | h <;> revert h <;> decide +kernel

theorem meets_kwrite_special :
    ((sysStrand.setGr 16 0x3FF).gr 16).toNat < 2 ^ 10 ∧ ((sysStrand.setGr 16 7).gr 16).toNat < 2 ^ 3
    ∧ sysStrand.pkg.cyc < ((sysStrand.setGr 16 1).gr 16).toNat ∧ ((sysStrand.setGr 16 0).gr 16).toNat ≤ sysStrand.pkg.cyc
    ∧ (let v := (strand.setGr 16 0x1FD3F00000000).gr 16
       v.toNat < 2 ^ 49 ∧ v.toNat / 2 ^ 38 % 8 ≤ 4 ∧ v.getLsbD 42 = true ∧ v.toNat / 2 ^ 32 % 64 ≠ 0)
    ∧ (let v := (strand.setGr 16 0xFFFFFFFFFFFF73FF).gr 16
       v.getLsbD 15 = false ∧ v.toNat / 2 ^ 10 % 4 = 0) := by decide +kernel

/-- Two f registers. -/
def withF (s : State) (x y : Word) : State := (s.setFr 1 x).setFr 2 y

theorem meets_fp : (let s := withF strand 0x3F800000 0x80000000
      s.ctx.acr.getLsbD 3 = false ∧ finite (fpValue s 0 1) = true ∧ finite (fpValue s 0 2) = true
      ∧ ratOf (fpValue s 0 1) ≠ 0 ∧ ratOf (fpValue s 0 2) = 0 ∧ (fpValue s 0 2).sign = true ∧ 0 ≤ ratOf (fpValue s 0 1))
    ∧ ratOf (fpValue (withF strand 0xBFF0000000000000 0x3FF0000000000000) 1 1) < 0
    ∧ ratOf (fpValue (withF strand 0xBFF0000000000000 0x3FF0000000000000) 1 2) ≠ 0
    ∧ (fpValue (withF strand 0x7FC00000 0) 0 1).isNan = true := by decide +kernel

theorem meets_fcvt : (∃ n k, fpValue (withF strand 0xC0200000 0) 0 (BitVec.truncate 5 (1 : BitVec 6)) = .fin true n k ∧ 0 < k ∧ n / k < 2 ^ 63)
    ∧ (let s := { withF strand 0x0B000004 0x0B000004 with ctx := { (withF strand 0x0B000004 0x0B000004).ctx with acr := 8 } }
       s.ctx.acr.getLsbD 3 = true ∧ finite (slashOperand s 0 1).1 = true ∧ finite (slashOperand s 0 2).1 = true
       ∧ (slashOperand s 0 1).2 = Fx.none ∧ (slashOperand s 0 2).2 = Fx.none ∧ ratOf (slashOperand s 0 2).1 ≠ 0) :=
  ⟨⟨_, _, rfl, by decide +kernel, by decide +kernel⟩, by decide +kernel⟩

/-- A destination by name can be written, and has room. -/
def writable (u : State) (d : BitVec 6) : Bool :=
  decide (u.checkRef (u.vref d) = .ok ()) && decide (u.checkRoom (u.vref d) = .ok ())

/-- Two sources by name and a destination are ready. -/
theorem meets2 {s : State} {d a b : BitVec 6} {f : Entry → Entry → Bool}
    (h : okAnd (s.takeV a) (fun p => okAnd (p.2.takeV b) (fun q => f p.1 q.1 && writable q.2 d)) = true) :
    ∃ ea eb u, ready2 s d a b ea eb u ∧ f ea eb = true := by
  obtain ⟨⟨ea, s1⟩, h1, h⟩ := answered h
  obtain ⟨⟨eb, u⟩, h2, h⟩ := answered h
  simp only [writable, Bool.and_eq_true, decide_eq_true_eq] at h
  exact ⟨ea, eb, u, ⟨⟨s1, h1, h2⟩, h.2.1, h.2.2⟩, h.1⟩

/-- One source by name and a destination are ready. -/
theorem meets1 {s : State} {d a : BitVec 6} {f : Entry → Bool}
    (h : okAnd (s.takeV a) (fun p => f p.1 && writable p.2 d) = true) : ∃ ea u, ready1 s d a ea u ∧ f ea = true := by
  obtain ⟨⟨ea, u⟩, h1, h⟩ := answered h
  simp only [writable, Bool.and_eq_true, decide_eq_true_eq] at h
  exact ⟨ea, u, ⟨h1, h.2.1, h.2.2⟩, h.1⟩

/-- Two entries of one tag whose elements are zero, and VL. -/
def pair2 (tag : BitVec 5) (vl : Nat) : State := (withEntry (withEntry strand 1 tag 8 []) 2 tag 8 []).setVl vl

theorem meets_vint : ∃ ea eb u, ready2 (pair2 1 1) 3 1 2 ea eb u
    ∧ (decide (startOf (pair2 1 1) < countOf (pair2 1 1) (tagWidth ea.tag)) && intTagOk ea.tag && decide (eb.tag = ea.tag)) = true :=
  meets2 (by decide +kernel)

/-- Where no trap is enabled, no element stops an instruction. -/
theorem quiet_without_enables {s : State} (h : BitVec.ofNat 6 (s.ctx.acr.toNat / 2 ^ 16) = 0) (res : Nat → Nat × Fx)
    (l : List Nat) : quiet s res l := by
  intro i _ hi
  rw [enabledIn, h] at hi
  exact hi (by simp)

theorem meets_vfloat : (∃ ea eb u, ready2 (pair2 0x0D 256) 3 1 2 ea eb u
      ∧ (decide (startOf (pair2 0x0D 256) < countOf (pair2 0x0D 256) (tagWidth ea.tag)) && floatTagOk (pair2 0x0D 256) ea.tag
        && decide (eb.tag = ea.tag)) = true)
    ∧ ∀ res l, quiet (pair2 0x0D 256) res l :=
  ⟨meets2 (by decide +kernel), quiet_without_enables (by decide +kernel)⟩

theorem meets_untrapped : untrapped strand ∧ strand.ctx.acr.getLsbD 3 = false
    ∧ ({ strand with ctx := { strand.ctx with acr := 8 } }).ctx.acr.getLsbD 3 = true := by
  unfold untrapped; decide +kernel

theorem meets_vfmacc : ∃ ea eb u, ready2 (pair2 0x0E 16) 1 1 2 ea eb u ∧ (decide (startOf (pair2 0x0E 16) <
      countOf (pair2 0x0E 16) (tagWidth ea.tag)) && floatTagOk (pair2 0x0E 16) ea.tag && decide (eb.tag = ea.tag)
      && okAnd ((pair2 0x0E 16).takeV 1) (fun p => decide (p.1.tag = ea.tag))) = true :=
  meets2 (by decide +kernel)

theorem meets_vunary : (∃ ea u, ready1 (pair2 7 1) 3 1 ea u
      ∧ (decide (startOf (pair2 7 1) < countOf (pair2 7 1) (tagWidth ea.tag)) && intTagOk ea.tag) = true)
    ∧ ∃ ea u, ready1 (pair2 8 1) 3 1 ea u
      ∧ (decide (startOf (pair2 8 1) < countOf (pair2 8 1) (tagWidth ea.tag)) && decide (ea.tag.toNat ∈ [0x08, 0x09, 0x0B, 0x0C, 0x0D, 0x0E])) = true :=
  ⟨meets1 (by decide +kernel), meets1 (by decide +kernel)⟩

/-- F32 entries whose quotient in element 1 divides by zero, with DZ enabled. -/
def dividing : State :=
  let s := (withEntry (withEntry strand 1 0x0D 32 [0x3F800000, 0x3F800000]) 2 0x0D 32 [0x3F800000, 0]).setVl 2
  { s with ctx := { s.ctx with acr := 0x80000 } }

theorem meets_vector_fault : (∃ ea eb u, ready2 dividing 3 1 2 ea eb u ∧ (floatTagOk dividing ea.tag && decide (eb.tag = ea.tag)
      && decide (startOf dividing < countOf dividing (tagWidth ea.tag)) && decide (1 ∈ processed dividing 32 0)
      && decide ((fpArith .div ea.tag (elem 32 ea.data 1) (elem 32 eb.data 1) .rne).2.flags
          &&& BitVec.ofNat 6 (dividing.ctx.acr.toNat / 2 ^ 16) ≠ 0)
      && decide ((fpArith .div ea.tag (elem 32 ea.data 0) (elem 32 eb.data 0) .rne).2.flags = 0)) = true)
    ∧ dividing.vref 3 = .entry 3 ∧ dividing.ctx.lfBase + 3 < 256 ∧ dividing.ctx.live = [] ∧ dividing.ctx.held = [] :=
  ⟨meets2 (by decide +kernel), by decide +kernel⟩

theorem meets_past_end : (strand.ctx.vl.toNat % 2 ^ 11 ≤ startOf strand)
    ∧ (∃ ea eb u, ready2 (pair2 0 1) 3 1 2 ea eb u ∧ (decide (startOf (pair2 0 1) < countOf (pair2 0 1) (tagWidth ea.tag))
      && !intTagOk ea.tag) = true)
    ∧ ∃ ea eb u, ready2 ((pair2 7 1).setEntry 2 { tag := 1, data := 0, poison := false }) 3 1 2 ea eb u
      ∧ (intTagOk ea.tag && decide (eb.tag ≠ ea.tag)) = true :=
  ⟨by decide +kernel, meets2 (by decide +kernel), meets2 (by decide +kernel)⟩

theorem meets_sfu : (∃ ea u, ready1 (pair2 0x0D 1) 3 1 ea u ∧ (decide (startOf (pair2 0x0D 1) <
      countOf (pair2 0x0D 1) (tagWidth ea.tag)) && decide (ea.tag.toNat ∈ [0x0B, 0x0C, 0x0D])) = true)
    ∧ (∃ n k, fmtF32.ieeeValue 0x44800000 = .fin false n k ∧ 0 < k ∧ 0 < n)
    ∧ (∃ n k, fmtF32.ieeeValue 0x80000000 = .fin true n k ∧ 0 < k ∧ n = 0) :=
  ⟨meets1 (by decide +kernel), ⟨_, _, rfl, by decide +kernel, by decide +kernel⟩, ⟨_, _, rfl, by decide +kernel, by decide +kernel⟩⟩

/-- An entry of two elements under a tag, VL and VSTART. -/
def ones (tag : BitVec 5) (w : Nat) (codes : List Nat) : State := (withEntry strand 1 tag w codes).setVl codes.length

theorem meets_reductions : (strand.ctx.team.getLsbD 10 = false)
    ∧ (∃ p, (ones 1 8 [0x80, 0x7F]).takeV 1 = .ok p ∧ (intTagOk p.1.tag
        && decide (startOf (ones 1 8 [0x80, 0x7F]) < countOf (ones 1 8 [0x80, 0x7F]) (tagWidth p.1.tag))) = true)
    ∧ ∃ p, (ones 0x0E 64 [0x3FF0000000000000, 0]).takeV 1 = .ok p ∧ (decide (p.1.tag.toNat ∈ [0x0B, 0x0C, 0x0D, 0x0E])
        && decide (codesOf (ones 0x0E 64 [0x3FF0000000000000, 0]) 0 p.1 ≠ [])
        && (codesOf (ones 0x0E 64 [0x3FF0000000000000, 0]) 0 p.1).all (fun c => finite (fmtF64.ieeeValue c))) = true :=
  ⟨by decide +kernel, answered (by decide +kernel), answered (by decide +kernel)⟩

theorem meets_permutes : (∃ ea u, ready1 (pair2 0x12 2) 3 1 ea u ∧ (decide (startOf (pair2 0x12 2) <
      countOf (pair2 0x12 2) (tagWidth ea.tag)) && decide (ea.tag ≠ 0) && decide (ea.tag.toNat ≤ 0x12)) = true)
    ∧ (∃ ea eb u, ready2 (pair2 7 2) 3 1 2 ea eb u ∧ (intTagOk eb.tag && decide (eb.tag = ea.tag)) = true)
    ∧ startOf strand = 0 ∧ startOf { strand with ctx := { strand.ctx with vstart := 1 } } ≠ 0 :=
  ⟨meets1 (by decide +kernel), meets2 (by decide +kernel), by decide +kernel, by decide +kernel⟩

theorem meets_whole_entries : ∃ ea u, ready1 (pair2 1 2) 3 1 ea u ∧ (okAnd ((pair2 1 2).takeV 3) (fun _ => true)
    && decide ((((pair2 1 2).setEntry 3 { tag := 1, data := 0, poison := false }).entry 3).tag = ea.tag)) = true :=
  meets1 (by decide +kernel)

theorem meets_moves : (strand.checkRef (strand.vref 5) = .ok () ∧ strand.checkRoom (strand.vref 5) = .ok ())
    ∧ (startOf (strand.setVl 1) < countOf (strand.setVl 1) (tagWidth 0))
    ∧ strand.vref 5 = .entry 5
    ∧ (strand.gr 16).toNat % 2 ^ 8 < strand.ctx.alloc.toNat / 2 ^ 8 % 2 ^ 9
    ∧ (strand.entry 0).poison = false ∧ vlmaxOf 8 ≤ ((strand.setGr 16 1024).gr 16).toNat
    ∧ ((strand.setGr 16 1023).gr 16).toNat < vlmaxOf 8
    ∧ ∃ p, (ones tBIT 8 [1]).takeV 1 = .ok p ∧ decide (p.1.tag = tBIT) = true :=
  ⟨⟨by decide +kernel, by decide +kernel⟩, by decide +kernel, by decide +kernel, by decide +kernel, by decide +kernel,
    by decide +kernel, by decide +kernel, answered (by decide +kernel)⟩

theorem meets_conversions : (∃ ea u, ready1 (pair2 0x0D 256) 3 1 ea u ∧ (convSourceOk ea.tag && decide (ea.tag = 0x0D)
      && decide (startOf (pair2 0x0D 256) < countBetween (pair2 0x0D 256) 32 8)) = true) ∧ convTargetOk 0x10 = true
    ∧ (∃ ea u, ready1 (pair2 tNarrow 1) 3 1 ea u ∧ (convSourceOk ea.tag && decide (ea.tag = tNarrow)) = true)
    ∧ (∀ res l, quiet (pair2 0x0D 256) res l) ∧ wideTag 0x0E = true
    ∧ (processed (pair2 0x0D 2) 32 0).all (fun i => finite (fmtF32.ieeeValue (elem 32 ((pair2 0x0D 2).entry 1).data i))) = true :=
  ⟨meets1 (by decide +kernel), by decide +kernel, meets1 (by decide +kernel), quiet_without_enables (by decide +kernel),
    by decide +kernel, by decide +kernel⟩

/-- Two I32 entries of which the second has an element beyond I16, with SAT enabled. -/
def packing : State :=
  let s := (withEntry (withEntry strand 1 5 32 [70000]) 2 5 32 [300]).setVl 1
  { s with ctx := { s.ctx with acr := 0x200000 } }

theorem meets_pack : (5, 3) ∈ partners ∧ (∃ ea eb u, ready2 packing 4 1 2 ea eb u ∧ (decide (ea.tag.toNat = 5) && decide (eb.tag = ea.tag)
      && decide ((packedOne packing 5 3 (elem 32 ea.data 0)).2.flags &&& BitVec.ofNat 6 (packing.ctx.acr.toNat / 2 ^ 16) ≠ 0)) = true)
    ∧ packing.ctx.live = []
    ∧ (∃ ea u, ready1 (pair2 8 1) 3 1 ea u ∧ (decide ((0x0B, 8) ∈ partners) && decide (ea.tag.toNat = 8)) = true)
    ∧ (∀ p ∈ partners, (0x0F : Nat) ≠ p.1) :=
  ⟨by decide, meets2 (by decide +kernel), by decide +kernel, meets1 (by decide +kernel), by decide⟩

/-- An F32 entry, a scale entry and a destination of one tag. -/
def blocks (src dst : BitVec 5) : State :=
  (withEntry (withEntry (withEntry strand 1 src 8 []) 2 tE8M0 8 [127]) 3 dst 8 []).setVl 1

theorem meets_blocks : (∃ ea eb u, ready2 (blocks 0x0D 8) 3 1 2 ea eb u ∧ (decide (eb.tag = tE8M0) && wideTag ea.tag
      && decide (startOf (blocks 0x0D 8) < countBetween (blocks 0x0D 8) 32 8)) = true)
    ∧ (∃ ea eb u, ready2 (blocks 9 0x0E) 3 1 2 ea eb u ∧ (decide (eb.tag = tE8M0) && decide (ea.tag.toNat = 9)
      && wideTag ((blocks 9 0x0E).entry 3).tag) = true)
    ∧ (blocks 0x0D 8).vref 3 = .entry 3 ∧ (blocks 0x0D 8).ctx.team.getLsbD 10 = false
    ∧ ((blocks 0x0D 8).pkg.mgmt.level = 2 → (blocks 0x0D 8).ctx.live = [])
    ∧ (∀ res l, quiet (blocks 0x0D 8) res l) :=
  ⟨meets2 (by decide +kernel), meets2 (by decide +kernel), by decide +kernel, by decide +kernel, by decide +kernel,
    quiet_without_enables (by decide +kernel)⟩

theorem meets_maxima : (∃ ea u, ready1 (blocks 0x0D 8) 3 1 ea u ∧ (wideTag ea.tag && narrowTag tNarrow
      && decide (chosenTo (blocks 0x0D 8) (countOf (blocks 0x0D 8) 32) 0 ≠ [])
      && (chosenTo (blocks 0x0D 8) (countOf (blocks 0x0D 8) 32) 0).all (fun i =>
          finite (valueOf ea.tag false (elem 32 ea.data i)).1.abs)) = true)
    ∧ chosenTo ((blocks 0x0D 8).setVl 0) (countOf ((blocks 0x0D 8).setVl 0) 32) 0 = []
    ∧ startOf (blocks 0x0D 8) < Nat.min ((blocks 0x0D 8).ctx.vl.toNat % 2 ^ 11) (8192 / 32) :=
  ⟨meets1 (by decide +kernel), by decide +kernel, by decide +kernel⟩

/-- Sources and an accumulator of a packed dot product. -/
def dotted (a b d : BitVec 5) : State :=
  (withEntry (withEntry (withEntry strand 1 a 8 []) 2 b 8 []) 3 d 8 []).setVl 256

theorem meets_dots : (∃ ea eb u, ready2 (dotted 1 2 tI32) 3 1 2 ea eb u ∧ (decide (ea.tag.toNat = 1) && decide (eb.tag.toNat = 2)
      && okAnd ((dotted 1 2 tI32).takeV 3) (fun p => decide (p.1.tag = tI32))
      && decide (startOf (dotted 1 2 tI32) < countOf (dotted 1 2 tI32) 32)) = true)
    ∧ (∃ ea eb u, ready2 (dotted tBF16 tF16 tF32) 3 1 2 ea eb u ∧ (decide (ea.tag = tBF16) && decide (eb.tag = tF16)
      && okAnd ((dotted tBF16 tF16 tF32).takeV 3) (fun p => decide (p.1.tag = tF32) && (processed (dotted tBF16 tF16 tF32) 32 0).all
          (fun i => finite (fmtF32.ieeeValue (elem 32 p.1.data i)) && finite ((tagFmt ea.tag).ieeeValue (elem 16 ea.data (2 * i + 1)))
            && finite ((tagFmt eb.tag).ieeeValue (elem 16 eb.data (2 * i + 1)))))) = true)
    ∧ (∀ res l, quiet (dotted 1 2 tI32) res l) :=
  ⟨meets2 (by decide +kernel), meets2 (by decide +kernel), quiet_without_enables (by decide +kernel)⟩

theorem meets_slash : (∃ ea eb u, ready2 (pair2 0x10 16) 3 1 2 ea eb u ∧ (slashTagOk ea.tag && decide (eb.tag = ea.tag)
      && decide (startOf (pair2 0x10 16) < countOf (pair2 0x10 16) (tagWidth ea.tag))) = true)
    ∧ (∃ ea u, ready1 (ones 0x0E 64 [0x3FF0000000000000]) 3 1 ea u ∧ (decide (ea.tag.toNat = 0x0E)
      && decide (startOf (ones 0x0E 64 [0x3FF0000000000000]) < countBetween (ones 0x0E 64 [0x3FF0000000000000]) 64 64)) = true)
    ∧ pairOf (slashRead 0x0F 0x0B000004).1 3 4 :=
  ⟨meets2 (by decide +kernel), meets1 (by decide +kernel), ⟨by decide +kernel, by decide +kernel, by decide +kernel⟩⟩

/-- An access that nothing holds up. -/
theorem meets_reached {s : State} {va : Word} {n : Nat} {k : Acc} {f : Trans → State → Bool}
    (h : (decide (va.toNat % n = 0) && !s.interlocked va.toNat n (k != .read) && (s.underWay .load).isNone
      && (s.underWay .atomic).isNone && okAnd (s.translate .l1 va.toNat k) (fun p => f p.1 p.2)) = true) :
    ∃ u tr, Reached s u va n k tr ∧ f tr u = true := by
  simp only [Bool.and_eq_true, decide_eq_true_eq, Bool.not_eq_true', Option.isNone_iff_eq_none] at h
  obtain ⟨⟨tr, u⟩, ht, h5⟩ := answered h.2
  exact ⟨u, tr, ⟨h.1.1.1.1, ht, h.1.1.1.2, h.1.1.2, h.1.2⟩, h5⟩

/-- An access of the strand's own die. -/
theorem meets_own {s : State} {va : Word} {n : Nat} {k : Acc} {f : Trans → State → Bool}
    (h : (decide (va.toNat % n = 0) && !s.interlocked va.toNat n (k != .read) && (s.underWay .load).isNone
      && (s.underWay .atomic).isNone
      && okAnd (s.translate .l1 va.toNat k) (fun p => (decide (p.1.tlb.mt ≤ 2)
        && decide (p.2.pkg.homeOf p.1.pa = some s.core.die) && p.2.pkg.knows s.core.die s.core.knotv) && f p.1 p.2)) = true) :
    ∃ u tr, OwnAccess s u va n k tr ∧ f tr u = true := by
  obtain ⟨u, tr, hr, h5⟩ := meets_reached (f := fun tr u => (decide (tr.tlb.mt ≤ 2)
    && decide (u.pkg.homeOf tr.pa = some s.core.die) && u.pkg.knows s.core.die s.core.knotv) && f tr u) h
  simp only [Bool.and_eq_true, decide_eq_true_eq] at h5
  exact ⟨u, tr, ⟨hr, h5.1.1.1, h5.1.1.2, h5.1.2⟩, h5.2⟩

/-- A strand with a third granule, in HBM of its own die, a fourth in the SRAM of die 2 and a fifth it may not write. -/
def reaching : State :=
  let m := strand.pkg.mem.writeLE (placedTable 3 + 16) 8 0x6F
  let m := m.writeLE (placedTable 3 + 24) 8 (sramBase 2 + 0xEF)
  { strand with pkg := { strand.pkg with mem := m.writeLE (placedTable 3 + 32) 8 (sramBase 1 + 0x1200E3) } }

/-- The least of what a load, a store and an atomic at its last byte ask for. -/
theorem meets_loads : (∃ u tr, OwnAccess reaching u (addressOf reaching 0 (.short 1) 8) 8 .read tr
      ∧ (decide (tr.tlb.mt = 0 → isHbm tr.pa = true → u.cacheLine tr.pa = none) && decide (u.pkg.overlay 0 tr.pa 8 = [])
        && decide (u.pkg.poisonIn tr.pa 8 = [])) = true)
    ∧ (∃ u tr, OwnAccess (reaching.setGr 17 0xFFFF) u (addressOf (reaching.setGr 17 0xFFFF) 17 (.short 0) 1) 1 .read tr ∧ true = true) :=
  ⟨meets_own (by decide +kernel), meets_own (by decide +kernel)⟩

/-- The state after a load of HBM has filled a line. -/
def cached : State := match exec (.ldd 16 17 (.short 0)) (reaching.setGr 17 0x20000) with | .next t => t | _ => reaching

theorem meets_cached_load : ∃ u tr, OwnAccess cached u (addressOf cached 17 (.short 0) 8) 8 .read tr
    ∧ (decide (tr.tlb.mt = 0) && isHbm tr.pa && someAnd (u.cacheLine tr.pa) (fun _ => true)) = true :=
  meets_own (by decide +kernel)

theorem meets_stores : (∃ u tr, OwnAccess reaching u (addressOf reaching 0 (.short 7) 1) 1 .write tr
      ∧ (decide (u.pkg.overlay 0 tr.pa 1 = []) && Memory.wf u.pkg.mem) = true)
    ∧ (∃ u tr, Reached (reaching.setGr 17 0x30000) u (addressOf (reaching.setGr 17 0x30000) 17 (.short 0) 8) 8 .write tr
      ∧ (decide (tr.tlb.mt ≤ 3) && decide (u.pkg.homeOf tr.pa = some 2)) = true)
    ∧ reaching.core.die = 1 ∧ reaching.ctx.fences = [] :=
  ⟨meets_own (by decide +kernel), meets_reached (by decide +kernel), by decide +kernel, by decide +kernel⟩

/-- A strand with a store to another die in its cluster's buffer, whose bytes a load finds there. -/
def storing : State := match exec (.std 0 17 (.short 0)) (reaching.setGr 17 0x30000) with | .next t => t | _ => reaching

theorem meets_forwarded : ∃ u tr, Reached storing u (addressOf storing 17 (.short 0) 8) 8 .read tr ∧ tr.tlb.mt ≤ 3
    ∧ u.pkg.homeOf tr.pa = some 2 ∧ storing.core.die = 1 ∧ tr.tlb.mt ≠ 0 ∧ Forwarded u tr.pa 8 (fun _ => 0) := by
  obtain ⟨u, tr, hr, h⟩ := meets_reached (s := storing) (va := addressOf storing 17 (.short 0) 8) (n := 8) (k := .read)
    (f := fun tr u => decide (tr.tlb.mt ≤ 3) && decide (u.pkg.homeOf tr.pa = some 2) && decide (storing.core.die = 1)
      && decide (tr.tlb.mt ≠ 0)
      && (List.range 8).all (fun i => decide (assoc (tr.pa + i) (u.pkg.overlay (clusterOf u.coreNo) tr.pa 8) = some (0, 0xFF))))
    (by decide +kernel)
  simp only [Bool.and_eq_true, decide_eq_true_eq, List.all_eq_true, List.mem_range] at h
  exact ⟨u, tr, hr, h.1.1.1.1, h.1.1.1.2, h.1.1.2, h.1.2, fun i hi => ⟨0, rfl, h.2 i hi⟩⟩

/-- A load of another die whose request goes out. -/
theorem meets_far_load : (∃ u tr, Reached (reaching.setGr 17 0x30000) u (addressOf (reaching.setGr 17 0x30000) 17 (.short 0) 8) 8 .read tr
      ∧ (decide (tr.tlb.mt ≤ 3) && decide (tr.tlb.mt ≠ 0) && decide (u.pkg.homeOf tr.pa = some 2)
        && decide (u.pkg.overlay (clusterOf reaching.coreNo) tr.pa 8 = []) && !(assoc 2 (u.pkg.die 1).frozenBy).isSome) = true)
    ∧ reaching.sync = false :=
  ⟨meets_reached (by decide +kernel), by decide +kernel⟩

theorem meets_access_traps : (strand.setGr 17 7).gr 17 = 7 ∧ 2 ^ 56 ≤ ((strand.setGr 17 (BitVec.ofNat 64 (2 ^ 56))).gr 17).toNat
    ∧ reaching.underWay .load = none ∧ reaching.underWay .atomic = none
    ∧ (match (reaching.setGr 17 0x40000).translate .l1 0x40000 .write with | .error .denied => true | _ => false) = true := by
  decide +kernel

theorem meets_scoped : (∃ u tr, OwnAccess reaching u (reaching.gr 0) 8 .rmw tr ∧ (decide (u.pkg.overlay 0 tr.pa 8 = [])
      && decide (u.pkg.poisonedAt tr.pa 8 = false) && decide (u.pkg.buffer 0 = [])
      && okAnd (u.release 7) (fun r => r.pkg.knows 1 r.core.knotv && decide (r.pkg.overlay 0 tr.pa 8 = []) && Memory.wf r.pkg.mem)
      && okAnd (u.release 0) (fun r => r.pkg.knows 1 r.core.knotv && decide (r.pkg.overlay 0 tr.pa 8 = []) && Memory.wf r.pkg.mem)) = true) :=
  meets_own (by decide +kernel)

/-- The same strand once its load of die 2, its pair's only access, has an answer, or waits for it. -/
def answeredLoad (x : Option Answer) : State :=
  let q : Pending := { kind := .load, tag := 0, va := 0x30000, pa := sramBase 2, size := 8, overlay := [], fill := none,
                       since := 0, answer := x, dest := 16, first := sramBase 2 }
  { reaching.setGr 17 0x30000 with ctx := { (reaching.setGr 17 0x30000).ctx with pending := [q] } }

theorem meets_replies : ∀ x ∈ [none, some { value := 5, byte8 := 0, poison := [], raised := [] },
        some { value := 0, byte8 := 0x31, poison := [], raised := [] }],
      someAnd ((answeredLoad x).underWay .load) (fun q => decide (q.answer = x ∧ q.overlay = [] ∧ q.fill = none
        ∧ q.scope = none ∧ q.dest = 16 ∧ q.width = 8 ∧ q.signed = false ∧ q.kind = .load)) = true := by
  decide +kernel

/-- A strand whose atomic on die 2 has an answer. -/
def answeredAtomic (byte8 : Nat) : State :=
  let q : Pending := { kind := .atomic, tag := 0, va := 0x30000, pa := sramBase 2, size := 8, overlay := [], fill := none,
                       since := 0, answer := some { value := 5, byte8 := byte8, poison := [], raised := [] }, dest := 16 }
  { reaching.setGr 17 0x30000 with ctx := { (reaching.setGr 17 0x30000).ctx with pending := [q] } }

theorem meets_atomic_replies : ∀ n ∈ [0, 1, 3, 7], someAnd ((answeredAtomic n).underWay .atomic) (fun q =>
        someAnd q.answer (fun x => decide (x.byte8 = n)) && decide (q.scope = none ∧ q.dest = 16)) = true := by decide +kernel

theorem meets_fences : strand.mechanism 0 = 0 ∧ strand.mechanism 7 ≥ 5 ∧ strand.core.die < 10
    ∧ strand.ctx.fences = [] ∧ strand.pkg.buffer (clusterOf strand.coreNo) = [] ∧ strand.pkg.canAdvance 1 = true ∧ strand.mechanism 2 < 3
    ∧ ({ strand.pkg with dies := strand.pkg.dies.set 1 { strand.pkg.die 1 with v := (strand.pkg.die 1).v.set 1 2047 } }).canAdvance 1 = false := by
  decide +kernel

/-- The translation of a placed program's data granule. -/
def granule0 : Tlb :=
  { asn := 0, vbase := 0, run := 0, pbase := placedData / 65536, snap := false, mt := 1, dty := true, g := false, x := true
    w := true, r := true }

/-- A strand whose gather TLB holds the granules of its data and of a granule it may not read, VL elements of a
destination's tag in entries 1 to 3, and MFC0. -/
def warm (tag : BitVec 5) (vl : Nat) (mfc : Word) : State :=
  let s := reaching
  let s := { s with pkg := { s.pkg with mem := s.pkg.mem.writeLE (placedTable 3 + 40) 8 (sramBase 1 + 0x1300E5),
                                        mgmt := { s.pkg.mgmt with svnmin := 0 } } }
  let s := { s with ctx := { s.ctx with mfc := s.ctx.mfc.set 0 mfc } }
  let s := { s with core := { s.core with gather := [granule0] } }
  (withEntry (withEntry (withEntry s 1 tag 8 []) 2 7 8 []) 3 tag 8 []).setVl vl

/-- An access that hits the gather TLB leaves the state as it is. -/
theorem reached {s : State} {va n h : Nat} {k : Acc} {x : Tlb} (hv : va < 2 ^ 56)
    (hf : tlbFind (s.core.tlb .gather) s.ctx.asn (va / 65536) k = some x)
    (hr : (s.pkg.reachable x va && decide (x.mt = 1) && !s.interlocked va n (k == .write)
      && decide (s.pkg.homeOf (x.address va) = some h) && decide (h = s.core.die) && !s.pkg.removed h && s.pkg.homeReady s.core.die h s.core.knotv) = true) :
    s.vreach va n k = .ok ({ pa := x.address va, tlb := x }, s) := by
  simp only [Bool.and_eq_true, decide_eq_true_eq, Bool.not_eq_true'] at hr
  obtain ⟨⟨⟨⟨⟨⟨h1, h2⟩, h3⟩, h4⟩, h0⟩, h5⟩, h6⟩ := hr
  subst h0
  have hm : va % 2 ^ 64 = va := Nat.mod_eq_of_lt (by omega)
  have ht : s.translate .gather va k = .ok ({ pa := x.address va, tlb := x }, s) := by
    simp [State.translate, hf, h1]
    omega
  unfold State.vreach
  rw [hm, ht]
  simp [h2, h3, h4, h5, h6, State.trip]

/-- The bytes from 8 on of a placed program's data can be read and written, and a page that denies reads is met. -/
theorem meets_vector_places : Readable (warm 1 1 0) 8 8 (placedData + 8) ∧ Writable (warm 1 1 0) 8 8 (placedData + 8)
    ∧ (match (warm 1 1 0).vreach 0x50000 1 .read with | .error (.x a .denied) => decide (a = 0x50000) | _ => false) = true := by
  have ha := reached (s := warm 1 1 0) (va := 8) (n := 8) (k := .read) (x := granule0) (h := 1) (by decide) (by decide +kernel) (by decide +kernel)
  have hb := reached (s := warm 1 1 0) (va := 8) (n := 8) (k := .write) (x := granule0) (h := 1) (by decide) (by decide +kernel) (by decide +kernel)
  exact ⟨⟨_, ha, by decide, by decide +kernel, by decide +kernel, by decide +kernel⟩, ⟨_, hb, by decide, by decide +kernel, by decide +kernel⟩,
    by decide +kernel⟩

/-- The format of a plain access and of one that converts or scales by blocks. -/
theorem meets_formats : formatOk (formatOf (warm 1 1 0) 0 (foundTag (warm 1 1 0) 1)) true true
    ∧ formatOk (formatOf (warm tNarrow 1 0) 0 (foundTag (warm tNarrow 1 0) 1)) true false
    ∧ formatOk (formatOf (warm 0x0D 1 0x91A8) 0 (foundTag (warm 0x0D 1 0x91A8) 1)) false true
    ∧ (formatOf (warm 0x0D 1 0x91A8) 0 (foundTag (warm 0x0D 1 0x91A8) 1)).bscale = true
    ∧ (formatOf (warm 1 1 0) 0 (foundTag (warm 1 1 0) 1)).bscale = false := by
  unfold formatOk; decide +kernel

theorem meets_vector_memory : (startOf (warm 1 1 0) < movedCount (warm 1 1 0) (formatOf (warm 1 1 0) 0 (foundTag (warm 1 1 0) 1)))
    ∧ 0 ∈ movedElems (warm 1 1 0) (formatOf (warm 1 1 0) 0 1) 1 0
    ∧ (∃ p, (warm 1 1 0).takeV 2 = .ok p ∧ intTagOk p.1.tag = true) ∧ Memory.wf (warm 1 1 0).pkg.mem = true
    ∧ writable (warm 1 1 0) 1 = true ∧ (warm 1 1 0).vref 1 = .entry 1 ∧ (warm 1 1 0).ctx.lfBase + 1 < 256
    ∧ (warm 1 1 0).ctx.fences = [] ∧ (warm 1 1 0).pkg.knows (warm 1 1 0).core.die (warm 1 1 0).core.knotv = true
    ∧ (warm 1 1 0).ctx.live = [] ∧ (warm 1 1 0).ctx.resume = false ∧ (∀ res l, quiet (warm 1 1 0) res l) :=
  ⟨by decide +kernel, by decide +kernel, answered (by decide +kernel), by decide +kernel, by decide +kernel, by decide +kernel,
    by decide +kernel, by decide +kernel, by decide +kernel, by decide +kernel, by decide +kernel,
    quiet_without_enables (by decide +kernel)⟩

/-- A window of one entry with a slide of its whole length, and with none. -/
theorem meets_window : (((warm 1 1 0).setGr 18 0x400).gr 18).toNat % 2 ^ 13 = 0x400
    ∧ (((warm 1 1 0).setGr 18 0).gr 18).toNat % 2 ^ 13 = 0 ∧ (((warm 1 1 0).setGr 18 0x400).gr 18).toNat / 2 ^ 16 % 8 = 0
    ∧ ((warm 1 1 0).setGr 18 0x400).checkRef (.entry 1) = .ok () ∧ (warm 1 1 0).ctx.lfBase + (warm 1 1 0).ctx.lfSize ≤ 256 :=
  ⟨by decide +kernel, by decide +kernel, by decide +kernel, by decide +kernel, by decide +kernel⟩

theorem meets_tensor_maps : (∃ p, (warm 1 1 0).translate .l1 0 .read = .ok p ∧ (decide (p.1.tlb.mt = 1)
      && decide (p.2.pkg.homeOf p.1.pa = some 1) && !p.2.pkg.removed 1 && p.2.pkg.knows 1 (warm 1 1 0).core.knotv && decide (p.2.pkg.overlay 0 p.1.pa 64 = []) && decide (p.2.pkg.poisonIn p.1.pa 64 = [])
      && (List.range 8).all (fun i => tmLegal i (word (littleAt p.2.pkg (p.1.pa + 8 * i) 8)))) = true)
    ∧ (warm 1 1 0).interlocked 0 64 false = false ∧ tmLegal 0 (-1) = false ∧ tmLegal 7 0x10000 = false ∧ tmLegal 3 0xFFFFFFFF = true
    ∧ boxAddress (warm 1 1 0).ctx 0 8 0 = none :=
  ⟨answered (by decide +kernel), by decide +kernel, by decide, by decide, by decide, by decide +kernel⟩

/-- A strand with one barrier of core scope in place. -/
def barred (count arrived : Nat) : State :=
  let b : Barrier := { Barrier.none with init := true, obj := { BarObj.fresh count with arrived := arrived } }
  strand.setBar 3 b

theorem meets_barriers : ((strand.setGr 17 0x1FFFF).gr 17 = word (0xFFFF + 2 ^ 16) ∧ (strand.bar 3).init = false
      ∧ strand.barBusy 3 = false ∧ strand.teamBar 3 = none)
    ∧ (((barred 2 1).bar 3).init = true ∧ ((barred 2 1).bar 3).team = false ∧ ((barred 2 1).bar 3).obj.arrived + 1 = ((barred 2 1).bar 3).obj.count)
    ∧ ((barred 2 0).bar 3).obj.arrived + 1 ≠ ((barred 2 0).bar 3).obj.count
    ∧ ((barred 2 0).barObj 3).phase.toNat = ((barred 2 0).gr 0).toNat % 2 ^ 16
    ∧ ((barred 2 0).barObj 3).phase.toNat ≠ (((barred 2 0).setGr 17 0xFFFF).gr 17).toNat % 2 ^ 16
    ∧ (barred 2 0).barBusy 3 = false ∧ ((barred 2 0).setBar 3 { (barred 2 0).bar 3 with rec0 := some 0 }).barBusy 3 = true
    ∧ ((barred 2 0).bar 3).owner = (barred 2 0).ctx.taskh ∧ okAnd ((barred 2 1).release 1) (fun _ => true) = true
    ∧ (barred 2 0).arrival 3 = none ∧ ((barred 2 0).boundCopies 3 true).isEmpty = true := by decide +kernel

/-- The state once a `bsync` of the barrier has arrived and waits. -/
def arrivedState : State := match exec (.bsync 16 3) (barred 2 0) with | .next t => t | _ => strand

theorem meets_waiting : arrivedState.arrival 3 = some 0 ∧ (arrivedState.barObj 3).phase = 0
    ∧ someAnd arrivedState.ctx.wait (fun w => decide (w.kind = .flip ∧ w.place = 3 ∧ w.dest = 16
        ∧ w.value = (arrivedState.barObj w.place).phase.toNat)) = true
    ∧ (let t := arrivedState.setBar 3 { arrivedState.bar 3 with obj := flipped (arrivedState.bar 3).obj arrivedState.core.knotv }
       someAnd t.ctx.wait (fun w => decide (w.value ≠ (t.barObj w.place).phase.toNat)) = true) := by decide +kernel

/-- A copy of two lines between the strand's data and itself, a put bound to barrier 3. -/
def put : Copy :=
  { id := 280, form := 0, bank := 0, dest := 16, src := .memory 0, dst := .memory 0x1000, dstWord := 0x1000, lines := 2, mask := 0
    time := 0, eq := 0, iod := 0, tag := 0, bound := some (3, 1), root := strand.ctx.root, asn := 0, handle := 0, member := 0
    owner := 24, started := true, headCyc := 0, late := false, landed := [], status := 0, stopped := false, waitXlat := none
    ended := false, discard := false, early := 0, staged := [], pushed := 0 }

/-- The barred strand with copies under way, its event flag waiting for the puts of barrier 3. -/
def putting (l : List Copy) : State :=
  let s := barred 2 0
  { s with core := { s.core with copies := l }
           pkg := { s.pkg with cyc := 1000 }
           ctx := { s.ctx with wait := some { kind := .puts, dest := 16, place := 3, value := 0, second := false } } }

theorem meets_puts : ((putting [put]).boundCopies 3 true).isEmpty = false ∧ ((putting []).boundCopies 3 true).isEmpty = true
    ∧ ((putting []).bar 3).init = true ∧ ((putting []).bar 3).team = false := by decide +kernel

/-- A team barrier to which all or none of the members have registered. -/
def teamed (l : List Nat) (usable : Bool) : State :=
  let b : TeamBar := { n := 3, handle := strand.ctx.taskh, members := l, left := [], config := 0x40001, usable := usable
                       failed := false, obj := BarObj.fresh 1 }
  { strand with pkg := { strand.pkg with teamBars := [b] } }

theorem meets_team_barrier : someAnd ((teamed [0] false).teamBar 3) (fun b => decide (b.usable = false ∧ b.failed = false
        ∧ (teamed [0] false).ctx.teamSize ≤ b.members.length)) = true
    ∧ (teamed [0] false).teamCores = [(teamed [0] false).coreNo] ∧ (teamed [0] false).ctx.holds = true
    ∧ someAnd ((teamed [] false).teamBar 3) (fun b => decide (b.members.length < (teamed [] false).ctx.teamSize)) = true
    ∧ someAnd ((teamed [0] true).teamBar 3) (fun b => b.usable) = true ∧ strand.teamBar 3 = none := by decide +kernel

theorem meets_queues : (strand.ctx.alloc.getLsbD (32 + 3) = true) ∧ strand.copiesInto 3 = false ∧ strand.ctx.live = []
    ∧ ({ strand with ctx := { strand.ctx with alloc := 0 } }).ctx.alloc.getLsbD (32 + 3) = false
    ∧ (putting [{ put with dst := .queue 0 3 }]).copiesInto 3 = true := by decide +kernel

/-- A strand whose granule 2 is a host window, over a counter at 5. -/
def published : State :=
  let m := strand.pkg.mem.writeLE (placedTable 3 + 16) 8 (0x100000000000 + 0x1E7)
  { strand with pkg := { strand.pkg with mem := m.writeLE 0x100000000000 8 5, io0 := { strand.pkg.io0 with portUp := true } } }

/-- The same strand once the release of its `publish` is done. -/
def released : State :=
  let q : Pending := { kind := .released, tag := 0, va := 0x20000, pa := 0x100000000000, size := 8, overlay := [], fill := none,
                       since := 0, answer := none }
  { published.setGr 17 0x20000 with ctx := { (published.setGr 17 0x20000).ctx with pending := [q] } }

theorem meets_publish : okAnd ((published.setGr 17 0x20000).translate .l1 0x20000 .rmw) (fun p => isHostWindow p.1.pa
        && okAnd (p.2.release 6) (fun r => !r.portsReady)) = true
    ∧ okAnd (released.translate .l1 0x20000 .rmw) (fun p => isHostWindow p.1.pa && p.2.portsReady
        && decide (assoc p.1.pa p.2.pkg.lastPublish ≠ some true) && decide (p.2.pkg.poisonedAt p.1.pa 8 = false) && Memory.wf p.2.pkg.mem) = true
    ∧ (published.setGr 17 0x20000).interlocked 0x20000 8 true = false ∧ released.interlocked 0x20000 8 true = false
    ∧ published.underWay .released = none ∧ someAnd (released.underWay .released) (fun _ => true) = true
    ∧ okAnd (strand.translate .l1 0 .rmw) (fun p => !isHostWindow p.1.pa) = true := by decide +kernel

/-- The same strand where both ports know of a release as soon as it is made. -/
def publishedNear : State :=
  let d1 := { published.pkg.die 1 with frozenBy := [(0, 0), (9, 0)] }
  let know (d : Nat) : Die := { published.pkg.die d with v := (published.pkg.die d).v.set 1 1 }
  { published.setGr 17 0x20000 with pkg := { published.pkg with dies := ((published.pkg.dies.set 1 d1).set 0 (know 0)).set 9 (know 9) } }

theorem meets_publish_now : publishedNear.underWay .released = none
    ∧ okAnd (publishedNear.translate .l1 0x20000 .rmw) (fun p => isHostWindow p.1.pa && okAnd (p.2.release 6) (fun r => r.portsReady
        && decide (assoc p.1.pa r.pkg.lastPublish ≠ some true) && decide (r.pkg.poisonedAt p.1.pa 8 = false) && Memory.wf r.pkg.mem)) = true := by
  decide +kernel

theorem meets_pubwait : okAnd (published.translate .l1 0x20000 .read) (fun p => isHostWindow p.1.pa
        && someAnd (p.2.pkg.homeOf p.1.pa) (fun h => p.2.pkg.homeReady 1 h p.2.core.knotv) && decide (p.2.pkg.poisonedAt p.1.pa 8 = false)
        && decide (littleAt p.2.pkg p.1.pa 8 = 5)) = true
    ∧ published.interlocked 0x20000 8 false = false
    ∧ someAnd (published.pkg.homeOf 0x100000000000) (fun h => published.pkg.homeReady 1 h published.core.knotv && decide (h = 0)) = true := by
  decide +kernel

theorem meets_copies : okAnd (strand.checkSpace 0 false 0 0) (fun x => decide (x = .memory 0)) = true
    ∧ okAnd (strand.checkSpace 0 true 0x1000 256) (fun x => decide (x = .memory 0x1000)) = true
    ∧ strand.checkFleet 0 0 .read (.memory 0) = .ok () ∧ strand.leastFree 0 = 1024 ∧ strand.interlockEntries < 16
    ∧ strand.pkg.io0.bobbin.length < 4096 ∧ (putting [{ put with lines := 1024 }]).leastFree 0 = 0
    ∧ 0 < strand.ctx.teamSize ∧ 3 ≤ (BitVec.ofNat 64 (3 * 2 ^ 56)).toNat / 2 ^ 56
    ∧ okAnd (strand.checkSpace 2 true (BitVec.ofNat 64 (2 ^ 56)) 16) (fun x => decide (x = .lanes 0 0)) = true
    ∧ strand.checkFleet 2 (BitVec.ofNat 64 (2 ^ 56)) .write (.lanes 0 0) = .ok ()
    ∧ 0x10000 / 2 ^ 16 % 2 ^ 16 / 2 ^ strand.ctx.teamSize = 0 ∧ 0x10000 / 2 ^ 16 % 2 ^ 16 ≠ 0 := by decide +kernel

/-- The strand with its put under way and the translation that the put needs in its stream TLB. -/
def streaming : State := { putting [put] with core := { (putting [put]).core with stream := [granule0] } }

/-- An access of a copy of its own core that hits the stream TLB leaves the state as it is. -/
theorem copied {s : State} {c : Copy} {va l : Nat} {k : Acc} {x : Tlb} (hv : va < 2 ^ 56) (hform : c.form ≠ 3)
    (hf : tlbFind (s.coreAt c.owner).core.stream c.asn (va / 65536) k = some x)
    (hr : (s.pkg.reachable x va && decide (x.mt = 1) && s.pkg.copyAllows c { pa := x.address va, tlb := x } (64 * (c.lines - l))
      && !s.pkg.homeGone (x.address va) && s.copyReady c (x.address va) 64
      && decide (s.pkg.homeOf (x.address va) = some (c.owner / 24))) = true) :
    s.copyReach c va l k = .ok ({ pa := x.address va, tlb := x }, s) := by
  simp only [Bool.and_eq_true, decide_eq_true_eq, Bool.not_eq_true'] at hr
  obtain ⟨⟨⟨⟨⟨h1, h2⟩, h3⟩, h4⟩, h5⟩, h6⟩ := hr
  have ht : s.copyTranslate c va k = .ok ({ pa := x.address va, tlb := x }, s) := by
    simp [State.copyTranslate, State.streamTlb, hform, hf, h1]
    omega
  unfold State.copyReach
  rw [ht]
  simp [h2, h3, h4, h5, h6, Copy.engineDie, hform, Pkg.trip, Pkg.hop]

theorem meets_copy_line : streaming.copyOf 280 = some put ∧ streaming.lineReady put 1 = true
    ∧ (∃ tr, streaming.copyReach put 64 1 .read = .ok (tr, streaming) ∧ tr.tlb.mt ≤ 3 ∧ isHostWindow tr.pa = false)
    ∧ (∃ tw, streaming.copyReach put (0x1000 + 64) 1 .write = .ok (tw, streaming)) ∧ Memory.wf streaming.pkg.mem = true :=
  ⟨by decide +kernel, by decide +kernel,
    ⟨_, copied (x := granule0) (by decide) (by decide) (by decide +kernel) (by decide +kernel), by decide, by decide +kernel⟩,
    ⟨_, copied (x := granule0) (by decide) (by decide) (by decide +kernel) (by decide +kernel)⟩, by decide +kernel⟩

/-- The same put from the first granule of die 0's host window. -/
def hostPut : Copy := { put with src := .memory 0x50000 }
def fromHost : State :=
  let x : Tlb := { granule0 with vbase := 5, pbase := 0x100000000000 / 65536, mt := 3 }
  { putting [hostPut] with core := { (putting [hostPut]).core with stream := [granule0, x] } }

theorem meets_host_line : fromHost.copyOf 280 = some hostPut ∧ fromHost.lineReady hostPut 1 = true
    ∧ okAnd (fromHost.copyReach hostPut (0x50000 + 64) 1 .read) (fun p => p.1.tlb.mt == 3 && isHostWindow p.1.pa
      && okAnd ((p.2.completion p.1.pa).2.copyReach hostPut (0x1000 + 64) 1 .write) (fun q => Memory.wf q.2.pkg.mem)) = true :=
  ⟨by decide +kernel, by decide +kernel, by decide +kernel⟩

theorem meets_copy_events : (putting []).copyOf 280 = none ∧ put.finished = false ∧ (putting [put]).lineReady put 2 = false
    ∧ { put with landed := [0, 1] }.finished = true ∧ (putting [put]).copyMember put 0 = .here 24 0
    ∧ timeReached strand.pkg.cyc 1 = false ∧ timeReached strand.pkg.cyc 0 = true
    ∧ (putting [{ put with form := 1, started := false }]).atHead { put with form := 1, started := false } = true
    ∧ (putting [put]).cancels 1 put = true
    ∧ (let s := { strand with pkg := { strand.pkg with mgmt := { strand.pkg.mgmt with switching := true, switchAt := 100 } } }
       s.pkg.mgmt.switching = true ∧ timeDelta (s.pkg.mgmt.switchAt + 8191) 200 ≤ 8191) ∧ strand.pkg.mgmt.switching = false :=
  ⟨by decide +kernel, by decide +kernel, by decide +kernel, by decide +kernel, by decide +kernel, by decide +kernel, by decide +kernel, by decide +kernel,
    by decide +kernel, by decide +kernel, by decide +kernel⟩

/-- A strand of one Hoop row and one column, rows of one tag, and panels of another in entries 1 and 2. -/
def hooped (row panel : BitVec 5) : State :=
  let s := withEntry (withEntry strand 1 panel 8 [1]) 2 panel 8 [1]
  { s with ctx := { s.ctx with hshape := 0x0101 }
           core := { s.core with hoop := Vector.replicate 128 { tag := row, cells := 0, poison := false } } }

theorem meets_regions : (regionLegal 0 ∧ regionLegal 2 ∧ regionLegal 0xF8 ∧ regionLegal 0x87 ∧ ¬ regionLegal 3 ∧ ¬ regionLegal 0xF9)
    ∧ rowsHeld (hooped 0x0D 0x0B) (formRows (hooped 0x0D 0x0B) 0) ∧ formRows (hooped 0x0D 0x0B) 0 = [0]
    ∧ laterRows (hooped 0x0D 0x0B) (formRows (hooped 0x0D 0x0B) 0) = [0] ∧ columns (hooped 0x0D 0x0B) = 1
    ∧ formRows (hooped 0x0D 0x0B) 2 = [] := by
  unfold regionLegal rowsHeld
  decide +kernel

theorem meets_ranks : ∀ x ∈ inputClasses, someAnd x.tags.head? (fun t =>
      okAnd ((hooped (if x.int then 5 else 0x0D) (BitVec.ofNat 5 t)).takeV 1) (fun p => okAnd (p.2.takeV 2) (fun q =>
        decide (p.1.tag.toNat ∈ x.tags) && decide (q.1.tag.toNat ∈ x.tags)
          && okAnd (q.2.takeGroups 2 ((List.range (elem 8 q.1.data 512 % 8 + 1)).drop 1)) (fun g => g.1.isEmpty))))
      && (formRows (hooped (if x.int then 5 else 0x0D) 0) 0).all (fun r =>
          !((hooped (if x.int then 5 else 0x0D) 0).row r).poison
          && decide (((hooped (if x.int then 5 else 0x0D) 0).row r).tag.toNat ∈ if x.int then [0x05, 0x07] else [0x0D, 0x0E]))
      && decide ((hooped 5 0).pkg.mgmt.level ≠ 2)
      && decide (formRows (hooped 5 0) 0 = (List.range (0 + 1 - 0)).map (fun i => 0 + i)) = true := by decide +kernel

/-- A rank update that a trap on NX stops, and one that is quiet. -/
theorem meets_rank_trap : (enabledIn { strand with ctx := { strand.ctx with acr := 0x10000 } } Fx.nx) ∧ ¬ enabledIn strand Fx.nx := by
  unfold enabledIn; decide +kernel

theorem meets_slices : (sliceOf (hooped 0x0E 0x0E) 0 ≠ [] ∧ (movedCells (hooped 0x0E 0x0E) 0x180 64).length = 16
      ∧ (sliceOf (hooped 0x0E 0x0E) 0x100).length = 128)
    ∧ (sliceHeld (hooped 0x0E 0x0E) 0x7F ∧ sliceHeld (hooped 0x0E 0x0E) 0x0BF)
    ∧ (∀ x ∈ sliceOf (hooped 0x0E 0x0E) 0x0BF, ((hooped 0x0E 0x0E).row x.1).tag = 0x0E ∧ ((hooped 0x0E 0x0E).row x.1).poison = false)
    ∧ writable (hooped 0x0E 0x0E) 3 = true
    ∧ (∃ p, (hooped 0x0E 0x0E).takeV 1 = .ok p ∧ (decide (p.1.tag.toNat ≤ 0x11) && decide (p.1.tag.toNat ∈ accTags)) = true) :=
  ⟨by decide +kernel, ⟨⟨fun _ => by decide +kernel, by decide +kernel⟩, ⟨fun _ => by decide +kernel, by decide +kernel⟩⟩,
    by decide +kernel, by decide +kernel, answered (by decide +kernel)⟩

theorem meets_epilogues : (∃ p, (hooped 0x0D 0x0D).takeV 1 = .ok p ∧ (decide (p.1.tag = tF32) && wideTag p.1.tag) = true)
    ∧ (∃ p, (hooped 5 7).takeV 1 = .ok p ∧ intTagOk p.1.tag = true)
    ∧ ((hooped 0x0D 0x0D).row 0).tag = 0x0D ∧ ((hooped 0x0D 0x0D).row 0).poison = false
    ∧ (0x0D : Nat) ∈ accTags ∧ finite ((tagFmt tF32).ieeeValue (((hooped 0x0D 0x0D).row 0).cell 0 % 2 ^ 32)) = true
    ∧ (hooped 0x0D 0x0D).ctx.board = [] :=
  ⟨answered (by decide +kernel), answered (by decide +kernel), by decide +kernel, by decide +kernel, by decide, by decide +kernel,
    by decide +kernel⟩

/-- The translation of eight granules. -/
def granules : Tlb := { granule0 with run := 3, pbase := placedCode / 65536 }

/-- The strand with the translation of eight granules, one Hoop row and one lane-file entry, both dirty. -/
def saving : State :=
  let s := { strand with core := { strand.core with gather := [granules] } }
  { s with ctx := { s.ctx with alloc := 0xF01000100, hshape := 0x0101, dirty := 1, hdirty := 1 } }

/-- Where the image at 0x400 lies. -/
theorem meets_slot {k : Acc} (hk : k = .read ∨ k = .write) {m : ImageKind} (hm : m = hoopImage ∨ m = laneImage) :
    SlotAt saving k 0x400 m 0 (placedCode + 0x400) (placedCode + 0x400 + m.tags) := by
  refine ⟨_, _, reached (x := granules) (h := 1) ?_ ?_ ?_, reached (x := granules) (h := 1) ?_ ?_ ?_, ?_, ?_⟩ <;>
    rcases hk with rfl | rfl <;> rcases hm with rfl | rfl <;> decide +kernel

theorem meets_images : laterRows saving (regionOf 0 saving.ctx.hRows true) = [0]
    ∧ (List.range saving.ctx.lfSize).filter (fun e => decide (startOf saving ≤ e)) = [0]
    ∧ saving.pkg.overlay (clusterOf saving.coreNo) (placedCode + 0x400) 1024 = [] ∧ saving.pkg.homeOf (placedCode + 0x400 + 1023) = some saving.core.die
    ∧ saving.pkg.poisonIn (placedCode + 0x400) 1024 = [] ∧ saving.ctx.live = [] ∧ Memory.wf saving.pkg.mem = true
    ∧ (saving.pkg.mem.read (placedCode + 0x400 + laneImage.tags)).toNat < 128 := by decide +kernel

/-- Queue 0, with one record in its ring, mapped on die 0; its address space is that of the placed program. -/
def queued : State :=
  let m := strand.pkg.mem.writeLE (qrec 0) 8 0x1004
  let m := m.writeLE (qrec 0 + 40) 8 (placedTable 0)
  let m := m.writeLE (qrec 0 + 48) 8 (2 ^ 63)
  let m := m.writeLE (placedData + 0x1000) 8 0x2040
  let m := m.writeLE (placedData + 0x2000) 8 1
  let l : QSlot := { queue := 0, state := .mapped, head := 0, tail := 1, ridx := 0, fidx := 0, notified := 0, ready := 0 }
  { strand with pkg := { strand.pkg with mem := m, io0 := { strand.pkg.io0 with slots := [l] } } }

theorem meets_record : someAnd (queued.pkg.slot 0) (fun l => decide (l.state = .mapped ∧ l.head ≠ l.tail ∧ l.ready ≤ queued.pkg.cyc)) = true
    ∧ queued.pkg.qEn 0 = true ∧ (queued.pkg.io0.tasks.filter (fun t => !t.darning)).length < 16384 ∧ strand.pkg.slot 0 = none
    ∧ okAnd (queued.pkg.qwords 0 ((queued.pkg.qRing 0 0).1 + 64 * (0 % 2 ^ (queued.pkg.qRing 0 0).2)) true 8)
        (fun w => okAnd (w.2.readRecord 0 w.1) (fun _ => true)) = true := by decide +kernel

/-- Task 1 of queue 0 in a state, of one member, in a state with it alone. -/
def aTask (st : TaskState) : Task :=
  { Task.fresh 0x4000000000000001 0 1 [0x2040, 0, 0, 0, 0, 0, 0, 0] 0 with header := [1, 0], state := st, cls := 1 }
def tasked (k : Task) : State :=
  { queued with ctx := { queued.ctx with taskh := 0x4000000000000001 }
                pkg := { queued.pkg with io0 := { queued.pkg.io0 with tasks := [k] } } }

theorem meets_spawns : ∀ q ∈ [0, 1, 65536],
    (let r : SpawnReq := { core := 24, bank := 0, dest := 16, queue := q, group := 0, words := [], handle := 0, tag := 9 }
     let w : Pending := { kind := .spawn, tag := 9, va := 0, pa := 0, size := 0, overlay := [], fill := none, since := 0, answer := none }
     let s := { queued with ctx := { queued.ctx with pending := [w] }
                            pkg := { queued.pkg with io0 := { queued.pkg.io0 with spawns := [r] } } }
     decide (r.core = s.coreNo) && decide (r.bank = s.ctx.bank) && s.ctx.holds && decide (s.ctx.taskh = r.handle)
       && decide (r.dest < 64) && s.ctx.pending.any (fun q => q.kind == .spawn && q.tag == r.tag) && s.pkg.homeReady (r.core / 24) 0 s.core.knotv
       && decide (s.pkg.qEn q = decide (q = 0)) && decide (s.pkg.qGroup q = r.group)
       && decide (diff32 (s.pkg.qTail q) (s.pkg.qHead q) ≠ 2 ^ (s.pkg.qRing q 0).2 ∨ q ≠ 0)) = true := by decide +kernel

theorem meets_task_states : (∃ k, (tasked (aTask .ready)).pkg.task (word 0x4000000000000001) = some k ∧ (decide (k.state = .ready)
      && (tasked (aTask .ready)).canPlace k [25] 0 0 0 && decide ((tasked (aTask .ready)).taskCopies k.handle k.cores = [])
      && !((tasked (aTask .ready)).pkg.io0.tasks.any (fun u => (tasked (aTask .ready)).pkg.io0.goesBefore u k && (tasked (aTask .ready)).canPlace u [25] 0 0 0))
      && decide (0 < k.cls)) = true)
    ∧ (aTask .ready).since + 2 ^ 20 ≤ ({ strand.pkg with cyc := 2 ^ 20 }).cyc ∧ (aTask .taken).state ≠ .ready :=
  ⟨present (by decide +kernel), by decide +kernel, by decide⟩

/-- The same task placed on the core in focus, and stopping there. -/
def placedTask : Task := { aTask .placed with cores := [24] }
def stoppingTask : Task := { aTask .stopping with cores := [24], started := [0] }

theorem meets_member : (∃ k, (tasked placedTask).pkg.task (word 0x4000000000000001) = some k ∧ (decide (k.state = .placed) && !k.started.contains 0
      && decide (0 < k.size) && decide (k.saves = []) && k.cores.all (fun c => ((tasked placedTask).coreAt c).core.clearOf k.allocWord)
      && decide (k.cores.getD 0 0 = (tasked placedTask).coreNo) && decide (k.bank = (tasked placedTask).ctx.bank)) = true)
    ∧ (∃ k, (tasked stoppingTask).pkg.task (word 0x4000000000000001) = some k ∧ (decide (k.state = .stopping) && k.started.contains 0
      && !k.ended.contains 0 && decide (k.cores.getD 0 0 = (tasked stoppingTask).coreNo)) = true)
    ∧ ((tasked stoppingTask).ctx.atPoint = true ∧ (tasked stoppingTask).ctx.parked = none)
    ∧ ((tasked stoppingTask).releaseAll [((tasked stoppingTask).coreNo, 0)]).2 = true
    ∧ ((tasked stoppingTask).releaseAll [((tasked stoppingTask).coreNo, 0)]).1.coreNo = (tasked stoppingTask).coreNo
    ∧ ((tasked stoppingTask).releaseAll [((tasked stoppingTask).coreNo, 0)]).1.ctx.bank = 0 :=
  ⟨present (by decide +kernel), present (by decide +kernel), by decide +kernel, by decide +kernel, by decide +kernel, by decide +kernel⟩

/-- A strand with a `tspawn` answered, and one whose `tend` has released. -/
def pended (k : PendKind) (x : Option Answer) : State :=
  let q : Pending := { kind := k, tag := 0, va := 0, pa := 0, size := 0, overlay := [], fill := none, since := 0, answer := x }
  { strand with ctx := { strand.ctx with pending := [q] } }

theorem meets_task_instructions :
    ((strand.setGr 17 0x20).gr 17).toNat % 64 ≠ 0
    ∧ someAnd ((pended .released none).underWay .released) (fun _ => true) = true
    ∧ (pended .released none).pkg.homeReady 1 (handleIo 0) (pended .released none).core.knotv = true
    ∧ strand.ctx.gang = false ∧ strand.ctx.system = false ∧ strand.trailerBusy = false ∧ sysStrand.ctx.system = true
    ∧ (strand.releaseAll [(strand.coreNo, strand.ctx.bank)]).2 = true
    ∧ (let u := (strand.releaseAll [(strand.coreNo, strand.ctx.bank)]).1
       u.pkg.homeReady u.core.die (handleIo u.ctx.taskh) u.core.knotv = false)
    ∧ strand.myTask = none ∧ strand.ctx.seqr = false := by decide +kernel

theorem meets_tspawn : (strand.gr 0).toNat % 64 = 0
    ∧ (∀ x ∈ [(strand, 0, 1, true), (reaching, 0x30000, 2, false)], okAnd (x.1.translate .l1 x.2.1 .read) (fun p =>
        decide (p.1.tlb.mt ≠ 4) && decide (p.2.pkg.homeOf p.1.pa = some x.2.2.1) && !p.2.pkg.homeGone p.1.pa
        && okAnd (p.2.release 5) (fun r => (r.pkg.homeReady 1 x.2.2.1 r.core.knotv == x.2.2.2)
          && decide (r.pkg.overlay (clusterOf x.1.coreNo) p.1.pa 64 = []) && decide (r.pkg.poisonIn p.1.pa 64 = []))) = true
      ∧ x.1.interlocked x.2.1 64 false = false ∧ x.1.underWay .released = none) := by decide +kernel

/-- A strand whose release is known at its queue's I/O die as soon as it is made. -/
def farKnown : State :=
  let d1 := { strand.pkg.die 1 with frozenBy := [(0, 0)] }
  let d0 := { strand.pkg.die 0 with v := (strand.pkg.die 0).v.set 1 1 }
  { strand with pkg := { strand.pkg with dies := (strand.pkg.dies.set 1 d1).set 0 d0 } }

theorem meets_tend : farKnown.ctx.gang = false ∧ farKnown.underWay .released = none ∧ farKnown.trailerBusy = false
    ∧ (farKnown.releaseAll [(farKnown.coreNo, farKnown.ctx.bank)]).2 = true
    ∧ (let u := (farKnown.releaseAll [(farKnown.coreNo, farKnown.ctx.bank)]).1
       u.coreNo = farKnown.coreNo ∧ u.ctx.bank = farKnown.ctx.bank
       ∧ u.pkg.homeReady u.core.die (handleIo u.ctx.taskh) u.core.knotv = true) := by decide +kernel

/-- A running task of one member on the core in focus; as a team that has joined, its member is the sequencer. -/
def runningTask : Task := { aTask .running with cores := [24], started := [0] }
def gangTask : Task := { runningTask with header := [1, 0, 0x80], gang := true, joined := [0] }
def sequencer : State := { tasked gangTask with ctx := { (tasked gangTask).ctx with team := (tasked gangTask).ctx.team ||| 0xC00 } }

/-- The task with a copy to its trailer's engine queue. -/
def trailing : State :=
  let s := tasked { runningTask with header := [1, 0, 0, 0, 1, 0] }
  { s with core := { s.core with copies := [{ put with bound := none, handle := 0x4000000000000001 }] } }

theorem meets_teams : (∃ k, (tasked runningTask).myTask = some k ∧ (!k.isGang && decide (k.joined.length < k.size)) = true)
    ∧ (∃ k, sequencer.myTask = some k ∧ (k.isGang && decide (k.cores = [sequencer.coreNo])) = true) ∧ sequencer.ctx.seqr = true
    ∧ sequencer.ctx.holds = true ∧ trailing.trailerBusy = true
    ∧ (insertNat 0 (aTask .running).ended).length = (aTask .running).size
    ∧ (insertNat 0 { aTask .running with header := [1, 0, 1] }.ended).length ≠ { aTask .running with header := [1, 0, 1] }.size :=
  ⟨present (by decide +kernel), present (by decide +kernel), by decide +kernel, by decide +kernel, by decide +kernel,
    by decide +kernel, by decide +kernel⟩

/-- A member that waits at a rendezvous. -/
def meeting1 (k : Task) (w : WaitKind) : State :=
  { tasked k with ctx := { (tasked k).ctx with wait := some { kind := w, dest := 0, place := 0, value := 0x10004, second := false } } }

theorem meets_rendezvous : (∃ k, (meeting1 { gangTask with gang := false } .gjoin).myTask = some k ∧ (decide (k.size ≤ k.joined.length)
      && !k.gang && decide (k.cores = [(meeting1 { gangTask with gang := false } .gjoin).coreNo])) = true)
    ∧ (meeting1 { gangTask with gang := false } .gjoin).ctx.member = 0
    ∧ (∃ k, (meeting1 { runningTask with yielded := [0] } .tyield).myTask = some k ∧ (decide (k.state = .running)
      && decide (k.yielded.length = k.size)) = true)
    ∧ (meeting1 { runningTask with yielded := [0] } .tyield).ctx.follower = false
    ∧ (meeting1 { runningTask with yielded := [0] } .tyield).ctx.gang = false
    ∧ (meeting1 { runningTask with yielded := [0] } .tyield).ctx.holds = true :=
  ⟨present (by decide +kernel), by decide +kernel, present (by decide +kernel), by decide +kernel, by decide +kernel, by decide +kernel⟩

theorem meets_alias : (let x : Alias := { id := 0, queue := 0, base := 0, len := 64, buffer := 0, writer := 5, readers := [], superseded := true }
      let io := { queued.pkg.io0 with aliases := [x] }
      io.aliasDone x && x.superseded) = true
    ∧ queued.pkg.io0.aliases[0]? = none
    ∧ (strand.pkg.io0.tasks ++ strand.pkg.io9.tasks).filter (fun t => (t.state == .taken || t.state == .ready)
        && strand.pkg.qRoot t.queue == 0) = []
    ∧ strand.pkg.io0.reports = [] ∧ (strand.pkg.io0.tasks.filter (fun t => t.queue == 0 && t.state == .stopping)) = [] := by
  decide +kernel

/-- A strand whose next pair has stalled for a cycle. -/
def stalling (reason : Nat) : State := { strand with ctx := { strand.ctx with stall := 1, stallReason := reason } }

theorem meets_stalls : Alone strand ∧ (stalling 11).hasStalled = true ∧ (stalling 11).ctx.owns 3 = true ∧ (stalling 11).queue 3 = []
    ∧ (stalling 11).ctx.stallQueue = 0 ∧ (stalling 10).hasStalled = true ∧ (stalling 1).ctx.stallReason = 1 ∧ strand.hasStalled = false := by
  unfold Alone; decide +kernel

/-- Strands with a trap to take, with an interrupt due, and with a frozen core. -/
def owing : State := { strand with ctx := { strand.ctx with sfuTrap := some 1, remoteError := some (5, 7, true) } }
def interruptible : State := { strand with ctx := { strand.ctx with ipend := 4, imask := 4 } }
/-- A strand whose load, under an open window, has a reply that is late. -/
def windowed : State :=
  let u : Undo := { bank := 0, pair := 0x10000, skip := 0, ctx := strand.ctx, lane := strand.core.lane, gs := [], fs := [], ps := []
                    entries := [], due := none }
  { strand with core := { strand.core with undo := some u, freeze := { strand.core.freeze with late := some 0x20000 } } }
def frozen : State := { strand with core := { strand.core with freeze := { strand.core.freeze with late := some 0x20000 } } }

theorem meets_entries : (∃ e, owing.ctx.sfuTrap = some e) ∧ owing.ctx.remoteError = some (5, 7, true) ∧ interruptible.interrupted = true
    ∧ interruptible.ctx.board = [] ∧ frozen.core.freeze.late = some 0x20000 ∧ frozen.ctx.ready = true ∧ frozen.ctx.gang = false
    ∧ strand.interrupted = false ∧ strand.core.freeze.late = none ∧ State.reset.ctx.ready = false
    ∧ ({ owing with ctx := { owing.ctx with remoteError := none } }).ctx.remoteError = none ∧ frozen.core.undo = none
    ∧ windowed.core.undo.isSome = true ∧ windowed.ctx.bank = 0 ∧ windowed.ctx.ready = true :=
  ⟨⟨_, rfl⟩, by decide +kernel⟩

theorem meets_fetch : (∃ p, strand.translate .l1 (strand.ctx.pc + word 4).toNat .fetch = .ok p ∧ (decide (littleAt p.2.pkg p.1.pa 4 = 0)
      && decide (p.2.pkg.poisonedAt p.1.pa 4 = false)) = true)
    ∧ (match ({ reaching with ctx := { reaching.ctx with pc := 0x40000 } }).translate .l1 0x40000 .fetch with | .error .denied => true | _ => false) = true
    ∧ okAnd (({ strand with pkg := { strand.pkg with poisoned := [placedCode / 8] } }).translate .l1 0x10000 .fetch)
        (fun p => p.2.pkg.poisonedAt p.1.pa 4) = true
    ∧ okAnd (({ reaching with pkg := { reaching.pkg with mem := reaching.pkg.mem.writeLE (placedTable 3 + 48) 8 0x02000000016F } }).translate
        .l1 0x60000 .fetch) (fun p => decide (p.1.tlb.mt = 2)) = true
    ∧ ((0x10000 : Word) - strand.ctx.pc).toNat < 16 :=
  ⟨answered (by decide +kernel), by decide +kernel, by decide +kernel, by decide +kernel, by decide +kernel⟩

/-- A strand with a result in flight for g5, and shadow results of each kind. -/
def busy : State :=
  let r (k : ShadowKind) (n : Nat) : Shadow :=
    { kind := k, at_ := n, tag := 0x0D, flags := 0, sat := 0, und := 0, data := 0, lmask := 0, amax := 0, codes := 0, poison := false }
  { strand with ctx := { strand.ctx with board := [{ res := .g 5, due := 4, fresh := false, groups := [], width := 0 }],
                                         live := [r (.sfuEntry 1) 16, r (.hsfu 2) 17, r .bscale 18] } }

theorem meets_landings : (∃ b ∈ busy.ctx.board, b.res = .g 5 ∧ busy.core.clock < b.due ∧ ∀ c ∈ busy.ctx.board, b.due ≤ c.due)
    ∧ (∃ r ∈ busy.ctx.live, r.kind = .sfuEntry 1) ∧ (∃ r ∈ busy.ctx.live, r.kind = .hsfu 2) ∧ (∃ r ∈ busy.ctx.live, r.kind = .bscale)
    ∧ busy.core.freeze.inForce = false ∧ busy.pkg.mgmt.switching = false ∧ busy.pkg.cyc < busy.ctx.tcmp.toNat
    ∧ busy.core.freeze.correctUntil = 0 := by decide +kernel

theorem meets_errors : strand.gangOwner (fun _ => true) = none ∧ (strand.pkg.homeOf 0).isSome = true ∧ strand.ctx.holds = true
    ∧ strand.myTask = none ∧ strand.pkg.mgmt.knotPhase = 0 := by decide +kernel

/-- A halted strand whose other bank can run. -/
def leaving : State := { strand with ctx := { strand.ctx with halted := true }, other := { strand.other with holds := true } }

theorem meets_banks : (leaving.other.ready = true ∧ leaving.ctx.idle = true ∧ leaving.ctx.ready = false) ∧ strand.other.ready = false
    ∧ State.reset.ctx.holds = false ∧ (strand.ctx.stopped = false ∧ strand.ctx.parked = none ∧ strand.ctx.atPoint = true
      ∧ strand.ctx.convoy = [] ∧ strand.pkg.gangs = []) ∧ sequencer.ctx.gang = true ∧ sequencer.broadcasting = false
    ∧ someAnd sequencer.myTask (fun k => k.gang && decide (0 < k.size) && decide (k.cores = [sequencer.coreNo])) = true := by decide +kernel

/-- A stopped strand to be saved, and a vacated bank with an image that names FORMAT 1. -/
def stoppedStrand : State := { strand with ctx := { strand.ctx with stopped := true } }
def savedStrand (area : Nat) : State :=
  { strand with ctx := { strand.ctx.vacated with saved := true, saveArea := area, alloc := 0 }
                pkg := { strand.pkg with mem := strand.pkg.mem.writeLE (area + 0x758) 2 1 } }

theorem meets_saves : (sramBase 1 + 0x200000) % 4096 = 0 ∧ stoppedStrand.pkg.areaBacked (sramBase 1 + 0x200000) = true
    ∧ stoppedStrand.pkg.areaBacked (sramBase 1 + 0x0C000000) = false ∧ stoppedStrand.pkg.areaAnswers (sramBase 1 + 0x0C000000) = true
    ∧ stoppedStrand.pkg.areaAnswers 0x00C000000000 = false
    ∧ (savedStrand (sramBase 1 + 0x0C000000)).pkg.areaReady 1 (sramBase 1 + 0x0C000000) (savedStrand (sramBase 1 + 0x0C000000)).core.knotv = true
    ∧ stoppedStrand.puts stoppedStrand.ctx.taskh = []
    ∧ ({ stoppedStrand with core := { stoppedStrand.core with copies := [{ put with dst := .lanes 1 0 }] } }).puts 0 ≠ []
    ∧ okAnd (stoppedStrand.release 5) (fun u => !u.pkg.knows 0 u.core.knotv) = true ∧ stoppedStrand.underWay .released = none
    ∧ (let s := stoppedStrand.markReleased 0 0 0
       (s.underWay .released).isSome = true ∧ s.pkg.areaReady 1 (sramBase 1 + 0x200000) s.core.knotv = true
       ∧ s.pkg.knows (handleIo s.ctx.taskh) s.core.knotv = true ∧ s.pkg.areaSpoilt (sramBase 1 + 0x200000) = false
       ∧ ({ s.pkg with poisoned := [(sramBase 1 + 0x200000) / 8] }).areaSpoilt (sramBase 1 + 0x200000) = true
       ∧ s.ctx.holds = true ∧ s.ctx.stopped = true ∧ s.myTask = none)
    ∧ (savedStrand (sramBase 1 + 0x200000)).pkg.areaReady 1 (sramBase 1 + 0x200000) (savedStrand (sramBase 1 + 0x200000)).core.knotv = true := by
  decide +kernel

theorem meets_restore : ∃ u, ({ savedStrand (sramBase 1 + 0x200000) with ctx := { (savedStrand (sramBase 1 + 0x200000)).ctx.vacated with
      saved := true, saveArea := sramBase 1 + 0x200000 } }).restore (sramBase 1 + 0x200000) = some u ∧ (fun _ => true) u = true :=
  present (by decide +kernel)

/-- A packet from die 2 to die 1 for the strand, and a state with packets on links. -/
def packet (p : Payload) : Packet :=
  { src := 2, dst := 1, stamp := 1, deps := [], frame := false, snap := false, ackReq := false, tag := 9, owner := 24, bank := 0
    handle := 0, payload := p }
def carrying (s : State) (l : List Packet) : State := { s with pkg := { s.pkg with net := l } }

/-- A packet that names an entry which its destination has not delivered. -/
def early : Packet := { packet .knotAdvance with deps := [(3, 5)], frame := true }

theorem meets_arrival (p : Payload) (hp : ∀ v, p ≠ .beacon v) : Arrives (carrying strand [packet p]) (packet p)
    ∧ Met (carrying strand [packet p]) (packet p) := by
  have hr : strand.pkg.removed 1 = false := by decide +kernel
  have hf : (strand.pkg.die 1).frozenBy = [] := by decide +kernel
  have hh : (strand.pkg.die 1).hold = [] := by decide +kernel
  refine ⟨⟨by simp [carrying, Pkg.head, packet], by simp [packet], by simp [packet], by simp [packet], hr, hf, hp⟩, ?_, ?_⟩
  · intro h hm
    rw [show ((carrying strand [packet p]).pkg.die (packet p).dst).hold = [] from hh] at hm
    exact absurd hm (by simp)
  · intro j hj
    exact absurd hj (by simp [packet])

theorem meets_held : (carrying strand [early]).pkg.head 2 1 = some early ∧ ((carrying strand [early]).pkg.die 1).room 2 = true
    ∧ (¬ ∀ j ∈ early.deps, cntGe (((carrying strand [early]).pkg.die 1).v.getD j.1 0) j.2 = true)
    ∧ ({ strand.pkg.die 1 with hold := List.replicate 128 early }).room 2 = false ∧ strand.pkg.head 2 1 = none := by decide +kernel

/-- A strand that waits for an answer with tag 9. -/
def tagged (k : PendKind) : Ctx :=
  let c := (pended k none).ctx
  { c with pending := c.pending.map (fun q => { q with tag := 9 }) }

theorem meets_payloads : (strand.pkg.homeOf (sramBase 1)).isSome = true ∧ isIoRegion (sramBase 1) = false
    ∧ isHostWindow (sramBase 1) = false ∧ strand.pkg.poisonedAt (sramBase 1) 8 = false ∧ Memory.wf strand.pkg.mem = true
    ∧ strand.ctx.holds = true ∧ strand.coreNo = 24 ∧ strand.ctx.taskh = 0 ∧ strand.pkg.removed 1 = false
    ∧ (tagged .load).awaits .load 9 = true ∧ (tagged .atomic).awaits .atomic 9 = true := by decide +kernel

/-- A buffered store on its way to die 2. -/
def leavingStore : FwdEntry :=
  { core := 24, bank := 0, handle := 0, home := 2, bytes := [(sramBase 2, 1)], poison := [], snap := false
    knot := Vector.replicate 16 0, seen := [], order := none, cyc := 0 }

theorem meets_fabric : strand.pkg.mayLeave [leavingStore] 0 = true ∧ strand.pkg.mayLeave [] 0 = false
    ∧ ({ strand.pkg.die 1 with hold := [early] }).meets early = false
    ∧ ({ strand.pkg.die 1 with hold := [{ early with deps := [] }] }).meets { early with deps := [] } = true
    ∧ ({ strand.pkg.die 1 with hold := [early] }).dooms early = false ∧ (strand.pkg.die 1).frozenBy = []
    ∧ ({ strand.pkg.mgmt with knotPhase := 1 }).knotPhase ≠ 0
    ∧ strand.pkg.mgmt.half = false ∧ (pended .atomic none).ctx.pending.length = 1 := by decide +kernel

/-- A snapshot of one unit of die 1, at a state of its dies. -/
def snapped (cut : Bool) : State :=
  let u : SnapUnit := { granule := 0, base := placedData, size := 4096, state := .pending, slot := [], slotPoison := [], streamed := false }
  let k := { packet (.write [(placedData, 1)] [] false []) with snap := true, stamp := 9 }
  let d := { strand.pkg.die 1 with cut := if cut then some 1 else none, cutSeen := [0, 2, 3, 4, 5, 6, 7, 8, 9] }
  { strand with pkg := { strand.pkg with dies := (strand.pkg.dies.set 1 d).set 2 { strand.pkg.die 2 with cut := some 1 }, net := [k]
                                         snap := some { number := 1, desc := 0x100000000000, units := [u], preserved := 0, lost := 0 } } }

theorem meets_taken : (carrying strand [packet .knotAdvance]).pkg.takes (packet .knotAdvance) = true
    ∧ (carrying strand [packet (.write [(placedData, 1)] [] false [])]).pkg.takes (packet (.write [(placedData, 1)] [] false [])) = true
    ∧ ((carrying strand []).pkg.die 1).room 2 = true ∧ (snapped false).pkg.takes { packet .knotAdvance with src := 3 } = true
    ∧ ({ strand.pkg with snap := (snapped false).pkg.snap, dies := strand.pkg.dies.set 1 { strand.pkg.die 1 with
        hold := [packet (.cutAdvance 1)] } }).takes (packet .knotAdvance) = false
    ∧ (0, 9) ∉ strand.core.fabricated ∧ (0, 9) ∈ { strand.core with fabricated := [(0, 9)] }.fabricated := by decide +kernel

theorem meets_snapshot : (snapped true).pkg.snap.isSome = true ∧ (snapped true).pkg.closed 1 = true
    ∧ (snapped false).pkg.canAdvance 1 = true ∧ (snapped false).pkg.canAdvance 0 = true ∧ strand.pkg.snap = none
    ∧ Memory.wf (snapped true).pkg.mem = true ∧ ((snapped true).pkg.die 1).cut.isSome = true := by decide +kernel

theorem meets_snapshot_unit : someAnd (snapped true).pkg.snap (fun n => someAnd n.units[0]? (fun u =>
    decide (u.state = .pending ∧ u.streamed = false ∧ (snapped true).pkg.homeOf u.base = some 1))) = true := by decide +kernel

theorem meets_snapshot_write : someAnd (snapped true).pkg.snap (fun n => someAnd n.units[0]? (fun u =>
    (snapped true).pkg.waitingWrite u)) = true := by decide +kernel

theorem meets_snapshot_cut : ((snapped false).pkg.die 1).cut = none
    ∧ (dieClusters 1).all (fun cl => ((snapped false).pkg.buffer cl).isEmpty) = true := by decide +kernel

/-- A state whose I/O die 0 is another. -/
def onIo (s : State) (f : IODie → IODie) : State := { s with pkg := { s.pkg with io0 := f s.pkg.io0 } }

/-- A state whose management block is another. -/
def onMgmt (s : State) (f : Mgmt → Mgmt) : State := { s with pkg := { s.pkg with mgmt := f s.pkg.mgmt } }

/-- A request of the strand that the pager has not yet answered. -/
def asked : State :=
  let r : FaultReq := { tag := 5, agent := 0, core := 24, bank := 0, copy := 0, bytes := [] }
  let s := onIo strand (fun x => { x with faults := [r] })
  { s with ctx := { s.ctx with parked := some 5 } }

theorem meets_io_dies : ((onIo strand (fun x => { x with tinv := [⟨2, 0, 0⟩] })).underWayAt = [] ∧ strand.pkg.canAdvance 0 = true
      ∧ strand.peers = [] ∧ strand.pkg.io0.tinv = [] ∧ 64 ≤ (List.replicate 64 (⟨2, 0, 0⟩ : Tinv)).length)
    ∧ someAnd ((asked.pkg.io0.faults ++ asked.pkg.io0.faultQueue).find? (fun r => r.tag == (0x500000005 : Word).toNat % 2 ^ 32))
        (fun r => decide (r.agent < 2 ∧ r.core = asked.coreNo ∧ r.bank = asked.ctx.bank ∧ asked.ctx.parked = some r.tag)) = true
    ∧ (asked.pkg.io0.faults ++ asked.pkg.io0.faultQueue).find? (fun r => r.tag == (6 : Word).toNat % 2 ^ 32) = none
    ∧ queued.pkg.notifyOk 0 1 = false ∧ queued.pkg.notifyOk 0 2 = true := by decide +kernel

/-- Queue 0 with a record that is legal and asks to be mapped. -/
def pendingQueue : State :=
  let m := queued.pkg.mem.writeLE (qrec 0 + 8) 8 0x1004
  let m := m.writeLE (qrec 0 + 16) 8 0x1006
  let m := m.writeLE (qrec 0 + 24) 8 0x1004
  let m := m.writeLE (qrec 0 + 48) 8 (2 ^ 63 + 2 ^ 61)
  { queued with pkg := { queued.pkg with mem := m, io0 := { queued.pkg.io0 with slots := [] } } }

theorem meets_slots : (pendingQueue.pkg.qPend 0 = true ∧ pendingQueue.pkg.slot 0 = none ∧ pendingQueue.pkg.qLegal 0 = true
      ∧ pendingQueue.pkg.io0.mapNext ≤ pendingQueue.pkg.cyc ∧ pendingQueue.pkg.pendQueues 0 = [0] ∧ queueIo 0 = 0 ∧ queued.pkg.qPend 0 = false)
    ∧ someAnd (queued.pkg.slot 0) (fun l => decide (({ l with head := 1 }.head = l.tail)
        ∧ l.notified + 65536 ≤ ({ queued.pkg with cyc := 65536 }).cyc)) = true
    ∧ (({ queued.pkg with io0 := { queued.pkg.io0 with slots := queued.pkg.io0.slots.map (fun (l : QSlot) => { l with state := .unmapping true }) } }).slot 0).isSome
    ∧ queued.pkg.io0.tasks = [] := by decide +kernel

/-- The strand's package at Level 2 with its firmware running. -/
def level2 : State := onMgmt strand (fun m => { m with level := 2, firmware := true, busy := false })

theorem meets_commands : (0 < level2.pkg.mgmt.level ∧ level2.pkg.mgmt.busy = false ∧ level2.pkg.mgmt.firmware = true)
    ∧ level2.pkg.removed 1 = false ∧ level2.pkg.removed 8 = false ∧ level2.coreNo / 24 ≠ 8
    ∧ (onMgmt level2 (fun m => { m with dies := 0x20003FF })).pkg.removed 9 = true
    ∧ (onMgmt level2 (fun m => { m with dies := 0x10003FF })).pkg.removed 8 = true
    ∧ level2.pkg.io0.tasks = [] ∧ level2.pkg.io9.tasks = [] ∧ backedSpan (0x300000000000 % 2 ^ 56) 1024 = false
    ∧ State.reset.pkg.mgmt.level = 0 := by decide +kernel

/-- A snapshot descriptor of one granule at the strand's data. -/
def described : State :=
  let m := strand.pkg.mem.writeLE placedData 8 1
  let m := m.writeLE (placedData + 8) 8 0x100000000000
  let m := m.writeLE (placedData + 16) 8 (placedData + 0x1000)
  let m := m.writeLE (placedData + 24) 8 0x100000100000
  let m := m.writeLE (placedData + 64) 8 0x010100000000
  onMgmt { strand with pkg := { strand.pkg with mem := m } } (fun x => { x with level := 3, firmware := true })

theorem meets_snapshot_command : 3 ≤ described.pkg.mgmt.level ∧ described.pkg.snap = none
    ∧ described.pkg.descLegal (placedData % 2 ^ 56) = true ∧ described.pkg.descLegal 64 = false ∧ described.pkg.mgmt.busy = false := by decide +kernel

theorem meets_wake : strand.coreNo = 24 * 1 + 0 ∧ strand.peers = []
    ∧ (∀ v ∈ [0x100, 0x140], (BitVec.ofNat 64 v).toNat / 2 ^ 8 % 2 ^ 4 = 1 ∧ (BitVec.ofNat 64 v).toNat % 2 ^ 5 = 0
      ∧ (BitVec.ofNat 64 v).toNat / 2 ^ 12 = 0 ∧ (BitVec.ofNat 64 v).toNat / 2 ^ 5 % 2 = 0 ∧ (BitVec.ofNat 64 v).toNat / 2 ^ 7 % 2 = 0)
    ∧ (0x100 : Word).toNat / 2 ^ 6 % 2 = 0 ∧ (0x140 : Word).toNat / 2 ^ 6 % 2 = 1 :=
  ⟨by decide +kernel, rfl, by decide +kernel, by decide +kernel, by decide +kernel⟩

/-- The package at Level 1 with a set of units trained. -/
def training (l : List Nat) : State := onMgmt State.reset (fun m => { m with level := 1, firmware := true, trained := l })

theorem meets_bring_up : State.reset.pkg.mgmt.romDone = false ∧ trainDue (.edge 0) State.reset = false
    ∧ retrains (.edge 0) State.reset = false
    ∧ (let m := (onMgmt (training (List.range 32)) (fun m => { m with level := 2 })).pkg.mgmt
       12 ∈ m.trained ∧ 2 ≤ m.level ∧ m.knotPhase = 0)
    ∧ (0 ∉ (training []).pkg.mgmt.trained ∧ 0 ∉ (training []).pkg.mgmt.failed) ∧ State.reset.pkg.io0.portUp = false
    ∧ State.reset.pkg.mgmt.trained = [] ∧ State.reset.pkg.mgmt.failed = []
    ∧ (∀ e, e < 13 → e ∈ (training (List.range 32)).pkg.mgmt.trained)
    ∧ (∀ i, i < 16 → 16 + i ∈ (training (List.range 32)).pkg.mgmt.trained) ∧ Memory.wf (training (List.range 32)).pkg.mem = true
    ∧ strand.pkg.mgmt.switchTo = none ∧ (onMgmt strand (fun m => { m with retcfg := 1 <<< 63 })).pkg.mgmt.retcfg.getLsbD 63 = true
    ∧ strand.pkg.mgmt.retcfg.getLsbD 63 = false
    ∧ (let p := (onMgmt strand (fun m => { m with retcfg := (1 <<< 63) + 4096 })).pkg
       assoc 5 (p.die 1).retaining = none ∧ (assoc 5 (p.die 1).waking).getD 0 ≤ p.cyc
       ∧ ¬ (Nat.max ((assoc 5 (p.die 1).touched).getD 0) p.mgmt.retSince + p.mgmt.retcfg.toNat % 2 ^ 32 ≤ p.cyc)
       ∧ Nat.max ((assoc 5 (p.die 1).touched).getD 0) p.mgmt.retSince + p.mgmt.retcfg.toNat % 2 ^ 32 ≤ 4096) := by decide +kernel

/-- The strand's package with its host port up, one scale-out link, and a region over the strand's data. -/
def hosted : State :=
  let e := regionBase 0 + 0x00050000
  let m := strand.pkg.mem.writeLE e 8 placedData
  let m := m.writeLE (e + 8) 8 64
  let m := m.writeLE (e + 16) 8 0x300000007
  onIo { strand with pkg := { strand.pkg with mem := m } } (fun x => { x with portUp := true, d3hot := false, links := [0] })

theorem meets_host : hosted.pkg.hostReaches 0 placedData 512 = true ∧ hosted.pkg.hostReaches 0 placedData 0 = false
    ∧ hosted.pkg.portClear 0 placedData = true ∧ isIoRegion placedData = false
    ∧ hosted.pkg.regionAdmits 0 7 placedData 64 1 = true ∧ hosted.pkg.regionAdmits 0 7 placedData 64 2 = true
    ∧ hosted.pkg.regionAdmits 0 7 placedData 65 1 = false ∧ hosted.pkg.regionAdmits 0 8 placedData 64 2 = false
    ∧ hosted.pkg.inboundReaches 0 placedData 64 = true ∧ Memory.wf hosted.pkg.mem = true
    ∧ 0 < hosted.pkg.mgmt.level ∧ State.reset.pkg.io0.portUp = false := by decide +kernel

theorem meets_invariant : Safety.Inv strand ∧ Memory.wf strand.pkg.mem = true := ⟨by unfold Safety.Inv; decide +kernel, by decide +kernel⟩

theorem meets_encoding : (Instr.addi 63 63 (.long 0xFFFFFFFF)).wf = true ∧ (Instr.addi 0 0 (.short 0xFFF)).wf = true
    ∧ (Instr.fadd 31 31 31 1).wf = true ∧ (Instr.hrankg 0xF8 63 60).wf = true ∧ (Instr.vcvt 63 63 3 14 3).wf = true := by decide

/-- A placed strand whose first words are two words. -/
def placed (w1 w2 : Nat) : State := State.reset.withFetchWord 64 (w1 + 2 ^ 32 * w2)

/-- What the first fetch of a placed strand leaves. -/
def fetched (w1 w2 : Nat) : State := match (placed w1 w2).fetchPair 0x10000 with
  | .ok p => p.2
  | _ => strand

theorem meets_issue : IssuesNext (placed 0x02400005 0) := by
  unfold IssuesNext; decide +kernel

/-- An instruction executes to a state without a trap or a stall. -/
noncomputable def executes (s : State) (x : Issue) (second : Bool) : Option State :=
  match exec x.slot.instr (s.facing x second) with
  | .next t => if t.trap.isNone && !t.stalled then some (s.noted (s.post t x s.now) x) else none
  | _ => none

/-- The conditions under which a fetched pair runs. -/
noncomputable def runs (p : List Raw × State) : Bool :=
  match decodePair p.1 with
  | .ok l =>
    let ws := l.map (fun x => x.word)
    let r := waitedFor p.2 l
    let b := began p.2 l ((p.1.getLast?.map (fun a => a.next)).getD 0)
    (p.2.convoyFailure l).isNone && (p.2.notPrivileged l).isNone && (p.2.copyHolds ws).isNone && (p.2.leftHolds ws).isNone
      && decide (p.2.issueCycle l < p.2.ctx.stallFrom p.2.now 1 - 1 + 2 ^ 24)
      && !p.2.ctx.gang && !r.ctx.gang && !r.ctx.resume && r.ctx.sfuTrap.isNone && !r.interrupted && !b.ctx.skip1 && !b.ctx.skip2
      && (match l with
        | [x] => someAnd (executes b x false) (fun _ => true)
        | [x, y] => (p.2.pairReason x.word y.word).isNone && someAnd (executes b x false) (fun u => someAnd (executes u y true) (fun _ => true))
        | _ => false)
  | _ => false

theorem meets_step : okAnd ((placed 0x02400005 0).fetchPair 0x10000) (fun p => runs p && decide (p.1.length = 1)) = true := by decide +kernel

theorem meets_step_pair : okAnd ((placed 0x82400005 0x20043100).fetchPair 0x10000) (fun p => runs p && decide (p.1.length = 2)) = true := by
  decide +kernel

theorem meets_step_trap : okAnd ((placed 0x54000000 0).fetchPair 0x10000) (fun p => match decodePair p.1 with
    | .ok [x] => (match exec x.slot.instr ((began p.2 [x] 0x10004).facing x false) with
      | .next t => someAnd t.trap (fun k => !k.late) && !(began p.2 [x] 0x10004).ctx.leftOpen
      | _ => false)
    | _ => false) = true := by decide +kernel

theorem meets_step_illegal : okAnd ((placed 0x3A000000 0).fetchPair 0x10000) (fun p => match decodePair p.1 with
    | .error (w, addr) => decide (w = 0x3A000000 ∧ addr = 0x10000)
    | _ => false) = true := by decide +kernel

/-- Pairs of words that break one condition each, with its reason. -/
def brokenPairs : List (Nat × Nat × Nat) :=
  [(1, 0x81414540, 0x01414540), (2, 0xB6010003, 0x36010003), (3, 0x96446602, 0x2F0C9008), (4, 0x94000000, 0x20043100),
   (5, 0x81414540, 0xA0043100), (6, 0xC1414540, 0x20043100)]

theorem meets_illegal_pairs : ∀ x ∈ brokenPairs, okAnd ((placed x.2.1 x.2.2).fetchPair 0x10000) (fun p =>
    !p.2.ctx.gang && !p.2.ctx.leftOpen && (match decodePair p.1 with
      | .ok [a, b] => decide (a.word = BitVec.ofNat 32 x.2.1 ∧ b.word = BitVec.ofNat 32 x.2.2)
      | _ => false)) = true := by decide +kernel


theorem meets_reason1 : breaksPair strand 0x81414540 0x01414540 1 := by simp only [breaksPair]; decide +kernel

theorem meets_reason2 : breaksPair (fetched 0xB6010003 0x36010003) 0xB6010003 0x36010003 2 := by simp only [breaksPair]; decide +kernel

theorem meets_reason3 : breaksPair strand 0x96446602 0x2F0C9008 3 := by simp only [breaksPair]; decide +kernel

theorem meets_reason4 : breaksPair strand 0x94000000 0x20043100 4 := by simp only [breaksPair]; decide +kernel

theorem meets_reason5 : breaksPair strand 0x81414540 0xA0043100 5 := by simp only [breaksPair]; decide +kernel

theorem meets_reason6 : breaksPair strand 0xC1414540 0x20043100 6 := by simp only [breaksPair]; decide +kernel

theorem meets_no_lower_reason : ∀ j, j < 6 → ¬ breaksPair (fetched 0xC1414540 0x20043100) 0xC1414540 0x20043100 j := by
  intro j hj
  rcases j with _ | _ | _ | _ | _ | _ | j <;> first | (simp only [breaksPair]; decide +kernel) | omega


theorem test_kwrite_illegal : trapOf (match exec (.kwrite 16 0x007) (strand.setGr 16 0) with | .next t => t | _ => strand)
    = (0x01, 7) := by decide +kernel -- R35: a number that R34 does not list

theorem test_store_then_load : holdsAfter (.std 16 17 (.short 0)) ((strand.setGr 16 0x0123456789ABCDEF).setGr 17 0x100)
    (fun t => holdsAfter (.ldwn 18 17 (.short 1)) t (fun u => u.gr 18 == 0x01234567)) = true := by decide +kernel -- R14, R15

theorem test_prefix_before_reserved : okAnd ((placed 0x3F012345 0x3A000000).fetchPair 0x10000) (fun p => match decodePair p.1 with
    | .error (w, addr) => decide (w = 0x3A000000 ∧ addr = 0x10004)
    | _ => false) = true := by decide +kernel -- R52, R56

/-- A strand whose chain has begun, with overflow trapped: v1 holds four ones to store at 0x400, and v3 the greatest number in
element 2. -/
def breaking : State :=
  let s := strand.setGr 17 0x400
  let s := { s with ctx := { s.ctx with acr := 0x40000, vl := 4, chained := true } }
  withEntry (withEntry s 1 0x0D 32 [0x3F800000, 0x3F800000, 0x3F800000, 0x3F800000]) 3 0x0D 32
    [0x3F800000, 0x3F800000, 0x7F7FFFFF, 0x3F800000]

theorem test_store_stops_at_the_break :
    (match runPair exec breaking [issue (.vstu 1 17 0 0 0) 0x2F051000 0x10000] [issue (.vfadd 5 3 3 0) 0x221430C0 0x10004] with
    | .done t => (t.pkg.readAt (placedData + 0x400) 8, t.pkg.readAt (placedData + 0x408) 8)
    | _ => (0, 1)) = (0x3F8000003F800000, 0) := by decide +kernel -- R67

end Sys2Proof.Tests
end

/-! SUPPORT. The shared operations once more: a register written in the terms of the claims, and a meaning that goes on
or stops after its first part. -/

namespace Sys2Proof.Machine

open Sys2Proof.Safety Sys2Proof.Claims

theorem State.setGr_wroteG (s : State) (d : BitVec 6) (v : Word) : WroteG s (s.setGr d v) d v := by
  refine ⟨?_, ?_, fun r hr => ?_⟩
  · unfold State.setGr
    split <;> rfl
  · rw [State.gr_setGr]
    split
    · next h => rw [h]; exact State.gr_zero s
    · rw [if_pos rfl]
  · rw [State.gr_setGr, if_neg hr, ite_self]

/-- A part that answers hands its value to the rest of the meaning. -/
theorem finish_bind_ok {α : Type} {s : State} {m : M α} {f : α → M State} {x : α} (h : m = .ok x) :
    finish s (m >>= f) = finish s (f x) := by
  rw [h]; rfl

/-- A part that stops ends the meaning. -/
theorem finish_bind_error {α : Type} {s : State} {m : M α} {f : α → M State} {e : Stop} (h : m = .error e) :
    finish s (m >>= f) = finish s (.error e) := by
  rw [h]; rfl

/-! ### Reset (R303, R403, R406) -/

theorem reset_coreAt (k : Nat) : State.reset.coreAt k = Peer.reset k := by
  unfold State.coreAt
  split
  · next h => subst h; rfl
  · rfl

theorem getD_replicate_self {α : Type} (n r : Nat) (x : α) : (Vector.replicate n x).toList.getD r x = x := by
  simp

theorem Ctx.reset_atReset (d b : Nat) (hd : d < 10) : AtReset (Ctx.reset d b) d b := by
  refine ⟨?_, ?_, ?_, rfl, rfl, rfl, rfl, rfl, rfl, rfl, ?_, rfl, rfl, rfl, rfl, rfl, ?_, ?_, rfl, rfl, rfl, rfl, rfl, rfl, rfl, rfl, rfl, ?_,
    rfl, rfl, rfl⟩
  · exact fun r => getD_replicate_self 64 r 0
  · exact fun r => getD_replicate_self 32 r 0
  · exact fun r => getD_replicate_self 8 r 0
  · exact fun r => getD_replicate_self 4 r 0
  · exact fun r => getD_replicate_self 64 r 0
  · show (BitVec.ofNat 64 (d * 4096 + 32)).toNat = _
    rw [BitVec.toNat_ofNat]
    omega
  · show (if b = 0 then (0xF80010000 : Word) else 0).toNat = _
    split <;> rfl

theorem Pkg.reset_die (d : Nat) : State.reset.pkg.die d = Die.reset := by
  show (Vector.replicate 10 Die.reset).getD d Die.reset = _
  unfold Vector.getD Array.getD
  split
  · simp
  · rfl

theorem Pkg.reset_io (io : Nat) : State.reset.pkg.io io = IODie.reset := by
  unfold Pkg.io
  split <;> rfl

/-! ### Reads of k-registers (R34, R41, R108, R114) -/

theorem kValue_tensorMap (s : State) (n : Nat) (h : 0x040 ≤ n ∧ n ≤ 0x07F) :
    s.kValue n = some (s.ctx.tm.getD (n - 0x040) 0) := by
  unfold State.kValue
  split <;> first | omega | exact if_pos h

theorem kValue_isSome_iff (s : State) (n : Nat) : (s.kValue n).isSome = true ↔ kListed n := by
  unfold State.kValue kListed
  split
  all_goals try (simp; done)
  split
  · simp only [Option.isSome_some, true_iff]
    omega
  · simp only [imp_false, Option.isSome_none, Bool.false_eq_true, false_iff] at *
    omega

theorem kStored_kValue : ∀ k ∈ kStored, ∀ s : State, s.kValue k.1.toNat = some (k.2 s) := by
  simp only [kStored, List.forall_mem_cons]
  simp [State.kValue]


theorem kAccess_ok {s : State} {k : BitVec 12} {v : Word} (hv : s.kValue k.toNat = some v) (ho : kOpen s k) :
    s.kAccess k.toNat = .ok v := by
  have hn : ¬ (0x800 ≤ k.toNat ∧ s.ctx.system = false) := by
    rintro ⟨h8, hs⟩
    rcases ho with h | h
    · omega
    · exact absurd hs (by simp [Ctx.system, bit, h])
  simp only [State.kAccess, hv]
  exact if_neg hn

theorem kread_yields {s : State} {k : BitVec 12} {v : Word} (d : BitVec 6) (hv : s.kValue k.toNat = some v)
    (ho : kOpen s k) : Yields (.kread d k) s (fun t => WroteG s t d v) := by
  refine ⟨s.setGr d v, ?_, State.setGr_wroteG s d v⟩
  show execKread d k s = _
  unfold execKread
  rw [kAccess_ok hv ho]
  rfl

/-- Entry n of a knot vector as KNOTV shows it: entries 10 to 15 read as zero (R41). -/
def knotEntry (v : Vector (BitVec 12) 16) (n : Nat) : Nat := if n < 10 then (v.getD n 0).toNat else 0

theorem knotEntry_lt (v : Vector (BitVec 12) 16) (n : Nat) : knotEntry v n < 2 ^ 12 := by
  unfold knotEntry
  split
  · exact BitVec.isLt _
  · decide

theorem foldl_add_range_five (f : Nat → Nat) :
    (List.range 5).foldl (fun a i => a + f i) 0 = f 0 + f 1 + f 2 + f 3 + f 4 := by
  simp [List.range_succ]

theorem knotWord_toNat (v : Vector (BitVec 12) 16) (w : Nat) :
    (knotWord v w).toNat = knotEntry v (5 * w + 0) * 2 ^ (12 * 0) + knotEntry v (5 * w + 1) * 2 ^ (12 * 1)
      + knotEntry v (5 * w + 2) * 2 ^ (12 * 2) + knotEntry v (5 * w + 3) * 2 ^ (12 * 3)
      + knotEntry v (5 * w + 4) * 2 ^ (12 * 4) := by
  have bound := fun i => knotEntry_lt v (5 * w + i)
  have e : knotWord v w = word ((List.range 5).foldl (fun a i => a + knotEntry v (5 * w + i) * 2 ^ (12 * i)) 0) := rfl
  rw [e, foldl_add_range_five, word, BitVec.toNat_ofNat]
  have b0 := bound 0
  have b1 := bound 1
  have b2 := bound 2
  have b3 := bound 3
  have b4 := bound 4
  omega

/-- R41: KNOTVw holds five entries of 12 bits. -/
theorem knotWord_digits (v : Vector (BitVec 12) 16) (w : Nat) :
    (∀ j : Fin 5, (knotWord v w).toNat / 2 ^ (12 * j.val) % 2 ^ 12 = knotEntry v (5 * w + j.val))
    ∧ (knotWord v w).toNat < 2 ^ 60 := by
  have bound := fun i => knotEntry_lt v (5 * w + i)
  have b0 := bound 0
  have b1 := bound 1
  have b2 := bound 2
  have b3 := bound 3
  have b4 := bound 4
  rw [knotWord_toNat]
  generalize knotEntry v = e at *
  refine ⟨fun j => ?_, by omega⟩
  fin_cases j <;> dsimp only <;> omega

theorem knotEntry_eq (v : Vector (BitVec 12) 16) (n : Nat) :
    knotEntry v n = if h : n < 10 then (v[n]).toNat else 0 := by
  unfold knotEntry
  split
  · next h => simp [Vector.getD, show n < 16 by omega]
  · rfl

theorem lcNow_of_loop {s : State} (h : s.ctx.lc.getLsbD 42 = true) :
    s.lcNow.toNat / 2 ^ 43 % 64 = (s.wordAddr - s.ctx.first).toNat / 4 % 64
    ∧ s.lcNow.toNat % 2 ^ 43 = s.ctx.lc.toNat % 2 ^ 43 ∧ s.lcNow.toNat / 2 ^ 49 = s.ctx.lc.toNat / 2 ^ 49 := by
  have e : s.lcNow = setBits s.ctx.lc 48 43 ((s.wordAddr - s.ctx.first).toNat / 4) := if_pos h
  rw [e, setBits_toNat _ _ _ _ (by decide) (by decide)]
  generalize (s.wordAddr - s.ctx.first).toNat / 4 = n
  unfold bits
  omega

theorem dirtyNow_of_no_write {s : State} (h : s.ctx.board = []) : s.dirtyNow = s.ctx.dirty := by
  unfold State.dirtyNow
  rw [h]
  rfl

theorem hdirtyNow_of_no_write {s : State} (h : s.ctx.board = []) : s.hdirtyNow = s.ctx.hdirty := by
  unfold State.hdirtyNow
  rw [h]
  rfl

theorem kOpen_of_lt {s : State} {n : Nat} (h : n < 0x800) : kOpen s (BitVec.ofNat 12 n) :=
  .inl (by rw [BitVec.toNat_ofNat]; omega)

theorem kreadReturnsTheRegister : KreadReturnsTheRegister := by
  refine ⟨fun k hk d s ho => kread_yields d (kStored_kValue k hk s) ho, fun i d s => ?_, fun w d s => ?_,
    fun d s h => ?_, fun d s h => ?_⟩
  · refine kread_yields d ?_ (kOpen_of_lt (by omega))
    have hi := i.isLt
    rw [BitVec.toNat_ofNat, Nat.mod_eq_of_lt (by omega), kValue_tensorMap s _ (by omega), Nat.add_sub_cancel_left]
    simp [Vector.getD, hi]
  · obtain ⟨digits, bound⟩ := knotWord_digits s.core.knotv w.val
    refine ⟨knotWord s.core.knotv w.val, fun j => (digits j).trans (knotEntry_eq _ _), bound, kread_yields d ?_ (kOpen_of_lt (by omega))⟩
    fin_cases w <;> rfl
  · have e : s.lcNow = s.ctx.lc := if_neg (by simp only [Ctx.lcOn, bit, h, Bool.false_eq_true, not_false_eq_true])
    exact e ▸ kread_yields d rfl (.inl (by decide))
  · obtain ⟨pos, low, high⟩ := lcNow_of_loop h
    exact ⟨s.lcNow, pos, low, high, kread_yields d rfl (.inl (by decide))⟩

theorem kreadReturnsTheDirtyBits : KreadReturnsTheDirtyBits := by
  intro d s hb
  refine ⟨fun w => kread_yields d ?_ (kOpen_of_lt (by omega)), fun w => kread_yields d ?_ (kOpen_of_lt (by omega))⟩
  · rw [← dirtyNow_of_no_write hb]
    fin_cases w <;> rfl
  · rw [← hdirtyNow_of_no_write hb]
    fin_cases w <;> rfl

/-! ### Writes of k-registers (R35, R39 to R46, R114) -/

theorem setBit_seven_bit (v e : Word) :
    setBit v 7 (bit e 7) = (v &&& ~~~0x80#64) ||| (e &&& 0x80#64) := by
  apply BitVec.eq_of_getLsbD_eq
  intro i hi
  have m : (0x80#64).getLsbD i = decide (i = 7) := by
    rw [show (0x80#64) = BitVec.twoPow 64 7 from rfl, BitVec.getLsbD_twoPow]
    simp [eq_comm]
  rw [getLsbD_setBit _ _ _ _ (by decide)]
  simp only [BitVec.getLsbD_or, BitVec.getLsbD_and, BitVec.getLsbD_not, m, hi]
  by_cases h7 : i = 7
  · subst h7
    simp [bit]
  · simp [h7]

theorem kAccess_unlisted {s : State} {n : Nat} (h : ¬ kListed n) :
    s.kAccess n = .error (.trap cIllegalOpcode (word n)) := by
  have hv : s.kValue n = none := by simpa using mt (kValue_isSome_iff s n).1 h
  simp only [State.kAccess, hv]

theorem kAccess_user {s : State} {k : BitVec 12} (hl : kListed k.toNat) (ho : ¬ kOpen s k) :
    s.kAccess k.toNat = .error (.trap cPrivilege (word k.toNat)) := by
  obtain ⟨v, hv⟩ := Option.isSome_iff_exists.1 ((kValue_isSome_iff s k.toNat).2 hl)
  simp only [State.kAccess, hv]
  refine if_pos ⟨?_, ?_⟩
  · exact Nat.le_of_not_lt fun h => ho (.inl h)
  · exact Bool.eq_false_iff.2 fun h => ho (.inr h)

theorem kAccess_listed {s : State} {k : BitVec 12} (hl : kListed k.toNat) (ho : kOpen s k) :
    ∃ v, s.kAccess k.toNat = .ok v := by
  obtain ⟨v, hv⟩ := Option.isSome_iff_exists.1 ((kValue_isSome_iff s k.toNat).2 hl)
  exact ⟨v, kAccess_ok hv ho⟩

theorem kWriteValue_refused {s : State} {n : Nat} {rmw : Bool} {v : Word}
    (h : kReadOnly n = true ∨ (n = 0x808 ∧ rmw = true) ∨ s.kLegal n v = false) :
    kWriteValue s n rmw v = .error (.trap cIllegalOpcode (word n)) := if_pos h

theorem kWriteValue_ok {s : State} {n : Nat} {rmw : Bool} {v : Word} (hr : kReadOnly n = false)
    (hw : n = 0x808 → rmw = false) (hl : s.kLegal n v = true) (ha : n ≠ 0x805) :
    kWriteValue s n rmw v = .ok (s.kPut n v) := by
  unfold kWriteValue
  rw [if_neg (by simp [hr, hl]; exact hw), if_neg (fun h => ha h.1)]

/-- The forms of KREG as the access to the register and what follows it. -/
theorem kregForm_traps {s : State} {d : BitVec 6} {k : BitVec 12} {cause : Nat} {e : Word}
    (h : s.kAccess k.toNat = .error (.trap cause e)) (hc : cause ≠ 0x06) :
    ∀ i ∈ [Instr.kread d k, .kwrite d k, .kset d k, .kclr d k], Yields i s (fun t => Trapped s t cause e) := by
  simp only [List.forall_mem_cons]
  exact ⟨trapOut_yields (finish_bind_error h) hc, trapOut_yields (finish_bind_error h) hc,
    trapOut_yields (finish_bind_error h) hc, trapOut_yields (finish_bind_error h) hc, nofun⟩

/-- A form of KREG that writes, with the value it leaves in the register. -/
theorem kregWrite_next {s : State} {k : BitVec 12} {rmw : Bool} {x : Word} {f : Word → Word}
    (hx : s.kAccess k.toNat = .ok x) (hr : kReadOnly k.toNat = false) (hw : k.toNat = 0x808 → rmw = false)
    (ha : k.toNat ≠ 0x805) (hv : s.kLegal k.toNat (f x) = true) :
    finish s (s.kAccess k.toNat >>= fun x => kWriteValue s k.toNat rmw (f x)) = .next (s.kPut k.toNat (f x)) := by
  rw [finish_bind_ok hx, kWriteValue_ok hr hw hv ha, finish_ok]

theorem kregWrite_refused {i : Instr} {s : State} {k : BitVec 12} {rmw : Bool} {x : Word} {f : Word → Word}
    (hi : exec i s = finish s (s.kAccess k.toNat >>= fun x => kWriteValue s k.toNat rmw (f x)))
    (hx : s.kAccess k.toNat = .ok x) (h : kReadOnly k.toNat = true ∨ s.kLegal k.toNat (f x) = false) :
    Yields i s (fun t => Trapped s t 0x01 (word k.toNat)) := by
  refine trapOut_yields (hi.trans ?_) (by decide)
  rw [finish_bind_ok hx, kWriteValue_refused (h.imp_right .inr)]
  rfl

/-- `kwrite` of a value within the register's map, but for IPEND's rule and ALLOC's wait. -/
theorem kwrite_next {s : State} {d : BitVec 6} {k : BitVec 12} (hl : kListed k.toNat) (ho : kOpen s k)
    (hr : kReadOnly k.toNat = false) (ha : k.toNat ≠ 0x805) (hv : s.kLegal k.toNat (s.gr d) = true) :
    exec (.kwrite d k) s = .next (s.kPut k.toNat (s.gr d)) := by
  obtain ⟨x, hx⟩ := kAccess_listed hl ho
  exact kregWrite_next (f := fun _ => s.gr d) hx hr (fun _ => rfl) ha hv

/-- What `kPlain` says of a register agrees with its map and its effect in the model. -/
structure PlainAgrees (k : KPlain) : Prop where
  listed : kListed k.number.toNat
  writable : kReadOnly k.number.toNat = false
  notAlloc : k.number.toNat ≠ 0x805
  notIpend : k.number.toNat ≠ 0x808
  legal : ∀ s v, s.kLegal k.number.toNat v = k.legal s v
  put : ∀ s v, s.kPut k.number.toNat v = k.put s v

/-- The bits from l upward are clear in a value below 2^l alone. -/
theorem bits_top_eq_zero (v : Word) (l : Nat) (hl : l < 64) : bits v 63 l = 0 ↔ v.toNat < 2 ^ l := by
  have e : 2 ^ 64 = 2 ^ (63 - l + 1) * 2 ^ l := by rw [← Nat.pow_add]; congr 1; omega
  have small : v.toNat / 2 ^ l < 2 ^ (63 - l + 1) := by
    rw [Nat.div_lt_iff_lt_mul (Nat.two_pow_pos l), ← e]
    exact v.isLt
  unfold bits
  rw [Nat.mod_eq_of_lt small, Nat.div_eq_zero_iff]
  simp

theorem kPlain_agrees : ∀ k ∈ kPlain, PlainAgrees k := by
  simp only [kPlain, List.forall_mem_cons]
  refine ⟨?_, ?_, ?_, ?_, ?_, ?_, ?_, ?_, ?_, ?_, ?_, ?_, ?_, ?_, nofun⟩
  all_goals refine ⟨by unfold kListed; decide, by decide, by decide, by decide, fun s v => ?_, fun s v => rfl⟩
  all_goals rw [Bool.eq_iff_iff]
  all_goals simp [State.kLegal, bits_top_eq_zero]
  all_goals
    simp only [bits, Ctx.hRows]
    omega

theorem kwritesStoreLegalValues : KwritesStoreLegalValues := by
  intro k hk d s ho
  obtain ⟨listed, writable, notAlloc, notIpend, legal, put⟩ := kPlain_agrees k hk
  refine ⟨fun hv => ?_, fun v hx => ⟨fun hv => ?_, fun hv => ?_⟩⟩
  · exact ⟨_, kwrite_next listed ho writable notAlloc ((legal _ _).trans hv), put _ _⟩
  · exact ⟨_, kregWrite_next (f := fun x => x ||| s.gr d) (kAccess_ok hx ho) writable (fun h => absurd h notIpend)
      notAlloc ((legal _ _).trans hv), put _ _⟩
  · exact ⟨_, kregWrite_next (f := fun x => x &&& ~~~s.gr d) (kAccess_ok hx ho) writable (fun h => absurd h notIpend)
      notAlloc ((legal _ _).trans hv), put _ _⟩

theorem kregAccessIsChecked : KregAccessIsChecked := by
  refine ⟨fun d k s hl => ?_, fun d k s hl ho => ?_, fun d k s hf => ?_, fun k hk d s ho hv => ?_⟩
  · exact kregForm_traps (kAccess_unlisted hl) (by decide)
  · exact kregForm_traps (kAccess_user hl ho) (by decide)
  · have hl : kListed k.toNat := by unfold kFixed at hf; unfold kListed; omega
    have ho : kOpen s k := .inl (by unfold kFixed at hf; omega)
    have hr : kReadOnly k.toNat = true := decide_eq_true hf
    obtain ⟨x, hx⟩ := kAccess_listed hl ho
    simp only [List.forall_mem_cons]
    exact ⟨kregWrite_refused (f := fun _ => s.gr d) rfl hx (.inl hr),
      kregWrite_refused (f := fun x => x ||| s.gr d) rfl hx (.inl hr),
      kregWrite_refused (f := fun x => x &&& ~~~s.gr d) rfl hx (.inl hr), nofun⟩
  · have agrees := kPlain_agrees k hk
    obtain ⟨x, hx⟩ := kAccess_listed agrees.listed ho
    exact kregWrite_refused (f := fun _ => s.gr d) rfl hx (.inr ((agrees.legal _ _).trans hv))

theorem Ctx.timerAt_early {c : Ctx} {cyc : Nat} (h : cyc < c.tcmp.toNat) : c.timerAt cyc = c := if_neg (by omega)

theorem Ctx.timerAt_tcmp (c : Ctx) (cyc : Nat) : (c.timerAt cyc).tcmp = c.tcmp := by
  unfold Ctx.timerAt
  split
  · split
    · rfl
    · dsimp only
      split <;> rfl
  · rfl

theorem Ctx.timerAt_timer {c : Ctx} {cyc : Nat} (h : c.tcmp.toNat ≤ cyc) : (c.timerAt cyc).ipend.getLsbD 0 = true := by
  have set : (setBit c.ipend 0 true).getLsbD 0 = true := by
    rw [getLsbD_setBit _ _ _ _ (by decide), if_pos rfl]
  unfold Ctx.timerAt
  rw [if_pos h]
  split
  · next hb => exact hb
  · dsimp only
    split <;> exact set

theorem kPut_mfc (s : State) (i : Fin 4) (v : Word) :
    s.kPut (BitVec.ofNat 12 (0x009 + i.val)).toNat v = { s with ctx := { s.ctx with mfc := s.ctx.mfc.set i.val v i.isLt } } := by
  fin_cases i <;> rfl

theorem kLegal_mfc (s : State) (i : Fin 4) (v : Word) :
    s.kLegal (BitVec.ofNat 12 (0x009 + i.val)).toNat v = mfcLegal v := by
  fin_cases i <;> rfl

theorem kPut_tensorMap (s : State) (n : Nat) (v : Word) (h : 0x040 ≤ n ∧ n ≤ 0x07F) :
    s.kPut n v = { s with ctx := { s.ctx with tm := s.ctx.tm.setIfInBounds (n - 0x040) v } } := by
  unfold State.kPut
  split <;> first | omega | exact if_pos h

theorem kLegal_tensorMap (s : State) (n : Nat) (v : Word) (h : 0x040 ≤ n ∧ n ≤ 0x07F) :
    s.kLegal n v = tmLegal ((n - 0x040) % 8) v := by
  unfold State.kLegal
  split <;> first | omega | exact if_pos h

/-- R194: words 1, 2, 4, 5 and 6 of a tensor map take every value. -/
theorem tmLegal_free {w : Nat} (h : w ∈ [1, 2, 4, 5, 6]) (v : Word) : tmLegal w v = true := by
  simp only [List.mem_cons, List.not_mem_nil, or_false] at h
  rcases h with h | h | h | h | h <;> subst h <;> rfl

theorem kwritesOfSpecialRegistersTakeEffect : KwritesOfSpecialRegistersTakeEffect := by
  intro d s
  refine ⟨fun hs hv => ?_, fun hs hv => ?_, fun hs hv => ?_, fun hs hv => ?_, fun h1 h2 h3 h4 => ?_, fun i h1 h2 => ?_,
    fun i hi => ?_⟩
  · refine ⟨_, kwrite_next (by unfold kListed; decide) (.inr hs) (by decide) (by decide) ?_, ?_⟩
    · exact decide_eq_true (by unfold bits; omega)
    · rw [← setBit_seven_bit]
      rfl
  · exact ⟨_, kwrite_next (by unfold kListed; decide) (.inr hs) (by decide) (by decide) (decide_eq_true hv), rfl⟩
  · refine ⟨_, kwrite_next (by unfold kListed; decide) (.inr hs) (by decide) (by decide) rfl, ?_⟩
    exact congrArg (fun c => { s with ctx := c }) (Ctx.timerAt_early (c := { s.ctx with tcmp := s.gr d }) hv)
  · refine ⟨_, kwrite_next (by unfold kListed; decide) (.inr hs) (by decide) (by decide) rfl, ?_, ?_⟩
    · exact Ctx.timerAt_tcmp _ _
    · exact Ctx.timerAt_timer (c := { s.ctx with tcmp := s.gr d }) hv
  · refine ⟨_, kwrite_next (by unfold kListed; decide) (.inl (by decide)) (by decide) (by decide) ?_, ?_⟩
    · have e : bits (s.gr d) 37 32 ≠ 0 := by unfold bits; omega
      have e2 : bits (s.gr d) 63 49 = 0 := by unfold bits; omega
      have e3 : bits (s.gr d) 40 38 ≤ 4 := by unfold bits; omega
      simp [State.kLegal, e, e2, e3]
    · exact congrArg (fun f => { s with ctx := { s.ctx with lc := s.gr d, first := f } }) (if_pos h3)
  · have hn : (BitVec.ofNat 12 (0x009 + i.val)).toNat = 0x009 + i.val := by rw [BitVec.toNat_ofNat]; omega
    refine ⟨_, kwrite_next ?_ (kOpen_of_lt (by omega)) ?_ (by omega) ?_, kPut_mfc s i _⟩
    · unfold kListed; omega
    · rw [hn]; exact decide_eq_false (by omega)
    · have e : bits (s.gr d) 11 10 = 0 := h2
      simp only [kLegal_mfc, mfcLegal, e, bit, h1, Bool.not_false, Bool.true_or, decide_true, Bool.and_self]
  · have hn : (BitVec.ofNat 12 (0x040 + i.val)).toNat = 0x040 + i.val := by rw [BitVec.toNat_ofNat]; omega
    refine ⟨_, kwrite_next ?_ (kOpen_of_lt (by omega)) ?_ (by omega) ?_, ?_⟩
    · unfold kListed; omega
    · rw [hn]; exact decide_eq_false (by omega)
    · rw [hn, kLegal_tensorMap _ _ _ (by omega), Nat.add_sub_cancel_left]
      exact tmLegal_free hi _
    · rw [hn, kPut_tensorMap _ _ _ (by omega), Nat.add_sub_cancel_left]
      simp [Vector.setIfInBounds, Vector.set, Array.setIfInBounds]

/-! ### System instructions -/

theorem systemOnly_system {s : State} {o : Out} (h : s.ctx.estat.getLsbD 7 = true) : systemOnly s o = o := if_pos h

theorem systemOnly_user {s : State} {o : Out} (h : s.ctx.estat.getLsbD 7 = false) :
    systemOnly s o = trapOut s cPrivilege s.wordEval := if_neg (by simp only [Ctx.system, bit, h, Bool.false_eq_true, not_false_eq_true])

theorem execWfeWake_frozen {s : State} (h : s.frozen = true) : execWfeWake s = .next s := by
  unfold execWfeWake
  split
  · rfl
  · rw [h]
    simp

theorem execWfeWake_waiting {s : State} {w : WaitRec} (hw : s.ctx.wait = some w) (hk : w.kind = .wfe)
    (hf : s.frozen = false) :
    execWfeWake s = .next { s.waitOver w with ctx := { (s.waitOver w).ctx with eventFlag := false } } := by
  unfold execWfeWake
  rw [hw]
  simp [hk, hf]

theorem systemInstructionsTakeEffect : SystemInstructionsTakeEffect := by
  intro s
  refine ⟨?_, fun h => ⟨_, systemOnly_system h, rfl⟩, fun h => ⟨_, if_pos h, rfl⟩, fun h => ?_,
    fun h => ⟨s, execWfeWake_frozen h, rfl⟩, fun w hw hk hf => ⟨_, execWfeWake_waiting hw hk hf, rfl⟩⟩
  · simp only [List.forall_mem_cons]
    exact ⟨⟨s, rfl, rfl⟩, ⟨s, rfl, rfl⟩, ⟨s, rfl, rfl⟩, nofun⟩
  · refine ⟨_, if_neg (by simp [h]), ?_⟩
    exact ⟨rfl, h, rfl, rfl, rfl⟩

theorem privilege_yields {i : Instr} {s : State} {o : Out} (hi : exec i s = systemOnly s o)
    (h : s.ctx.estat.getLsbD 7 = false) :
    Yields i s (fun t => Trapped s t 0x10 s.wordEval ∧ t.ctx.halted = s.ctx.halted) :=
  ⟨_, hi.trans (systemOnly_user h), State.takeTrap_trapped s _ _ false (by decide), State.takeTrap_halted s _ _ false (by decide)⟩

theorem systemOnlyInstructionsTrapAtUserLevel : SystemOnlyInstructionsTrapAtUserLevel := by
  simp only [SystemOnlyInstructionsTrapAtUserLevel, List.forall_mem_cons]
  exact ⟨fun s h => privilege_yields rfl h, fun s h => privilege_yields rfl h, nofun⟩

/-! ### Queue operations -/

theorem State.ownQueue_owned {s : State} {a : BitVec 6} {q : Nat} (hq : (s.gr a).toNat % 4 = q)
    (h : s.ctx.alloc.getLsbD (32 + q) = true) : s.ownQueue a = .ok q := by
  have e : bits (s.gr a) 1 0 = q := by
    unfold bits
    omega
  unfold State.ownQueue
  simp only [e]
  exact if_pos h

theorem State.ownQueue_other {s : State} {a : BitVec 6} {q : Nat} (hq : (s.gr a).toNat % 4 = q)
    (h : s.ctx.alloc.getLsbD (32 + q) = false) : s.ownQueue a = .error (.trap cPermission (word (0x10000 + q))) := by
  have e : bits (s.gr a) 1 0 = q := by
    unfold bits
    omega
  unfold State.ownQueue
  simp only [e]
  exact if_neg (by simp only [Ctx.owns, bit, h, Bool.false_eq_true, not_false_eq_true])

theorem State.queue_setQueue (s : State) (q j : Nat) (l : List Entry) (hq : q < 4) :
    (s.setQueue q l).queue j = if j = q then l else s.queue j := by
  unfold State.queue State.setQueue
  by_cases h : j = q
  · subst h
    simp [Vector.getD, hq]
  · simp [Vector.getD, h, Array.getElem?_setIfInBounds_ne (Ne.symm h)]

theorem State.reserved_eq_zero {s : State} {q : Nat}
    (h : ∀ r ∈ s.ctx.live ++ s.ctx.held, r.kind ≠ .sfuQueue q ∧ r.kind ≠ .bamaxQueue q) : s.reserved q = 0 := by
  unfold State.reserved Ctx.reserved
  rw [List.length_eq_zero_iff, List.filter_eq_nil_iff]
  intro r hr
  simpa using h r hr

theorem qflush_of_no_push {s : State} {a : BitVec 6} {q : Nat} (ho : s.ownQueue a = .ok q)
    (hc : s.copiesInto q = false) (hr : s.reserved q = 0) : execQflush a s = .next (s.setQueue q []) := by
  unfold execQflush
  rw [finish_bind_ok ho, if_neg (by simp [hc, hr]), finish_ok]

theorem qflush_of_copy {s : State} {a : BitVec 6} {q : Nat} (ho : s.ownQueue a = .ok q)
    (hc : s.copiesInto q = true) :
    execQflush a s = .next { s with stalled := true, ctx := { s.ctx with stallReason := 10 } } := by
  unfold execQflush
  rw [finish_bind_ok ho, if_pos (by simp [hc]), finish_wait]

/-- R213: a form on a queue that the context does not own. -/
theorem queueForm_refused {i : Instr} {s : State} {a : BitVec 6} (f : Nat → M State)
    (hi : exec i s = finish s (s.ownQueue a >>= f)) (h : s.ctx.alloc.getLsbD (32 + (s.gr a).toNat % 4) = false) :
    Yields i s (fun t => Trapped s t 0x07 (word (0x10000 + (s.gr a).toNat % 4))) :=
  trapOut_yields (hi.trans (finish_bind_error (State.ownQueue_other rfl h))) (by decide)

end Sys2Proof.Machine

section

open Sys2Proof.Machine Sys2Proof.Claims

/-- Settles O53: every core is at its own reset state, and every die and I/O die at that of its kind. -/
theorem resetHoldsTheStatedValues : Obligations.ResetHoldsTheStatedValues := by
  unfold Obligations.ResetHoldsTheStatedValues
  refine ⟨fun k _ hk => ?_, fun _ => rfl, rfl, rfl, fun d n => ?_, fun d => ?_, rfl, fun io => ?_, ?_⟩
  · rw [reset_coreAt]
    have hd : k / 24 < 10 := by omega
    exact ⟨Ctx.reset_atReset _ 0 hd, Ctx.reset_atReset _ 1 hd, rfl, rfl, fun n => getD_replicate_self 16 n 0⟩
  · rw [Pkg.reset_die]
    exact getD_replicate_self 16 n 0
  · rw [Pkg.reset_die]; rfl
  · rw [Pkg.reset_io]
    exact ⟨rfl, rfl, rfl⟩
  · exact ⟨rfl, rfl, rfl, rfl, rfl, rfl, rfl, rfl, rfl, rfl, rfl, rfl⟩

/-- Settles O5: each register's number answers the value named, and `kread` writes what the number answers. -/
theorem kreadReturnsRegistersAndDirtyBits : Obligations.KreadReturnsRegistersAndDirtyBits :=
  ⟨kreadReturnsTheRegister, kreadReturnsTheDirtyBits⟩

/-- Settles O6: the access check, the map check and the effect of a write, register by register. -/
theorem kwritesTakeEffectOrAreRefused : Obligations.KwritesTakeEffectOrAreRefused :=
  ⟨kwritesStoreLegalValues, kregAccessIsChecked, kwritesOfSpecialRegistersTakeEffect⟩

/-- Settles O4 by the level of the context, its event flag and its wait. -/
theorem systemInstructionsTakeEffectAtTheirLevel : Obligations.SystemInstructionsTakeEffectAtTheirLevel :=
  ⟨systemInstructionsTakeEffect, systemOnlyInstructionsTrapAtUserLevel⟩

/-- Settles O32 by the queue that g[a] names: its owner's read or flush, or the trap. -/
theorem queueOperationsReadAndFlush : Obligations.QueueOperationsReadAndFlush := by
  intro d a s
  refine ⟨fun ho => ?_, fun hn => ?_⟩
  · have own := State.ownQueue_owned rfl ho
    refine ⟨?_, ?_, fun hc hp => ?_, fun hc => ?_⟩
    · exact ⟨_, finish_bind_ok own, State.setGr_wroteG s d _⟩
    · exact ⟨_, finish_bind_ok own, State.setGr_wroteG s d _⟩
    · refine ⟨_, qflush_of_no_push own hc (State.reserved_eq_zero hp), rfl, ?_, fun j hj => ?_⟩
      · rw [State.queue_setQueue _ _ _ _ (Nat.mod_lt _ (by decide)), if_pos rfl]
      · rw [State.queue_setQueue _ _ _ _ (Nat.mod_lt _ (by decide)), if_neg hj]
    · exact ⟨_, qflush_of_copy own hc, ⟨rfl, rfl, rfl, rfl, rfl, rfl⟩, rfl⟩
  · simp only [List.forall_mem_cons]
    exact ⟨queueForm_refused _ rfl hn, queueForm_refused _ rfl hn, queueForm_refused _ rfl hn, nofun⟩

end

/-! SUPPORT. Frames, one equation each, of what passes in the background: shadow results that commit, time, and the entry
of a handler. What a frame does not name is as it was. Then the events of a core's own time and its traps. -/

namespace Sys2Proof.Machine

open Sys2Proof.Safety Sys2Proof.Claims

/-! ### What passes in the background: time, and shadow results that commit -/

/-- `s` but for what a commit of shadow results can write, taken from `t` (R143, R170, R229). -/
def State.postedFrom (s t : State) : State :=
  { s with
    ctx := { s.ctx with acr := t.ctx.acr, satcnt := t.ctx.satcnt, undcnt := t.ctx.undcnt, latch := t.ctx.latch
                        dirty := t.ctx.dirty, hdirty := t.ctx.hdirty, eventFlag := t.ctx.eventFlag
                        amaxk := t.ctx.amaxk, sfuTrap := t.ctx.sfuTrap }
    other := { s.other with eventFlag := t.other.eventFlag }
    core := { s.core with lane := t.core.lane, hoop := t.core.hoop, queues := t.core.queues, undo := t.core.undo } }

/-- `t` is `s` after commits of shadow results. -/
def Posted (s t : State) : Prop := t = s.postedFrom t

theorem Posted.refl (s : State) : Posted s s := rfl

theorem Posted.trans {s t u : State} (h : Posted s t) (k : Posted t u) : Posted s u := by
  have e : t.postedFrom u = (s.postedFrom t).postedFrom u := congrArg (fun x => x.postedFrom u) h
  exact Eq.trans k e

theorem Posted.ite {c : Prop} [Decidable c] {s t u : State} (h : Posted s t) (k : Posted t u) :
    Posted s (if c then u else t) := by
  split
  · exact h.trans k
  · exact h

/-- What no commit writes is as it was. -/
theorem Posted.same {s t : State} (h : Posted s t) {α : Type} (f : State → α) (hf : ∀ x, f (s.postedFrom x) = f s) :
    f t = f s := by
  rw [h]
  exact hf t

theorem State.push_posted (s : State) (q : Nat) (v : Entry) : Posted s (s.push q v) := by
  unfold State.push
  dsimp only
  split
  · rfl
  · split <;> rfl

theorem State.commitHere_posted (s : State) (r : Shadow) : Posted s (s.commitHere r) := by
  unfold State.commitHere
  dsimp only
  generalize List.foldl _ _ _ = latch
  refine Posted.ite ?_ rfl
  have start : Posted s { s.record { flags := r.flags, sat := r.sat, und := r.und } with
      ctx := { (s.record { flags := r.flags, sat := r.sat, und := r.und }).ctx with latch := latch } } := rfl
  split
  · exact start.trans rfl
  · exact start.trans (State.push_posted _ _ _)
  · exact start.trans rfl
  · exact (start.trans (State.push_posted _ _ _)).trans rfl
  · exact start.trans rfl
  · exact start
  · exact start.trans rfl

theorem State.commit_posted (s : State) (r : Shadow) : Posted s (s.commit r) := by
  have h := State.commitHere_posted s r
  unfold State.commit
  dsimp only
  split
  · exact h
  · split
    · exact h.trans rfl
    · exact h

theorem State.commits_posted (s : State) (l : List Shadow) : Posted s (l.foldl State.commit s) := by
  induction l generalizing s with
  | nil => exact Posted.refl s
  | cons r l ih => exact (State.commit_posted s r).trans (ih _)


/-- `s` but for what time that passes, and shadow results that land in it, can write, taken from `t` (R37, R46, R247,
R251). -/
def State.elapsedFrom (s t : State) : State :=
  { s with
    ctx := { s.ctx with acr := t.ctx.acr, satcnt := t.ctx.satcnt, undcnt := t.ctx.undcnt, latch := t.ctx.latch
                        dirty := t.ctx.dirty, hdirty := t.ctx.hdirty, eventFlag := t.ctx.eventFlag
                        amaxk := t.ctx.amaxk, sfuTrap := t.ctx.sfuTrap
                        ipend := t.ctx.ipend, halted := t.ctx.halted, live := t.ctx.live
                        held := t.ctx.held, resume := t.ctx.resume, sfshadow := t.ctx.sfshadow }
    other := { s.other with eventFlag := t.other.eventFlag, ipend := t.other.ipend, halted := t.other.halted }
    core := { s.core with lane := t.core.lane, hoop := t.core.hoop, queues := t.core.queues, undo := t.core.undo
                          clock := t.core.clock, freeze := { s.core.freeze with later := t.core.freeze.later } }
    peers := t.peers
    pkg := { s.pkg with cyc := t.pkg.cyc } }

/-- `t` is `s` after time has passed and shadow results have landed. -/
def Elapsed (s t : State) : Prop := t = s.elapsedFrom t

theorem Elapsed.refl (s : State) : Elapsed s s := rfl

theorem Elapsed.trans {s t u : State} (h : Elapsed s t) (k : Elapsed t u) : Elapsed s u := by
  have e : t.elapsedFrom u = (s.elapsedFrom t).elapsedFrom u := congrArg (fun x => x.elapsedFrom u) h
  exact Eq.trans k e

/-- What neither time nor a commit writes is as it was. -/
theorem Elapsed.same {s t : State} (h : Elapsed s t) {α : Type} (f : State → α) (hf : ∀ x, f (s.elapsedFrom x) = f s) :
    f t = f s := by
  rw [h]
  exact hf t

theorem Posted.elapsed {s t : State} (h : Posted s t) : Elapsed s t := by
  have e : s.elapsedFrom t = s.postedFrom t := congrArg s.elapsedFrom h
  exact Eq.trans h e.symm

theorem Ctx.timerAt_frame (c : Ctx) (cyc : Nat) : c.timerAt cyc =
    { c with ipend := (c.timerAt cyc).ipend, eventFlag := (c.timerAt cyc).eventFlag, halted := (c.timerAt cyc).halted } := by
  unfold Ctx.timerAt
  split
  · split
    · rfl
    · dsimp only
      split <;> rfl
  · rfl

theorem Ctx.timerPast_frame (c : Ctx) (old cyc : Nat) : c.timerPast old cyc =
    { c with ipend := (c.timerPast old cyc).ipend, eventFlag := (c.timerPast old cyc).eventFlag
             halted := (c.timerPast old cyc).halted } := by
  unfold Ctx.timerPast
  split
  · exact Ctx.timerAt_frame c cyc
  · rfl

theorem State.pass_elapsed (s : State) (n : Nat) : Elapsed s (s.pass n) := by
  unfold State.pass
  dsimp only
  generalize (s.pkg.cyc + n + _ : Nat) = cyc
  rw [Ctx.timerPast_frame s.ctx, Ctx.timerPast_frame s.other]
  split <;> rfl

theorem State.commitUpTo_elapsed (s : State) (t : Nat) : Elapsed s (s.commitUpTo t) := by
  unfold State.commitUpTo
  split
  · exact Elapsed.refl s
  · have h : Elapsed s { s with ctx := { s.ctx with live := s.ctx.live.filter (fun r => decide (t < r.at_)) } } := rfl
    exact h.trans (State.commits_posted _ _).elapsed

theorem State.resumed_elapsed (s : State) : Elapsed s s.resumed := by
  unfold State.resumed
  split <;> rfl

/-! ### What entering a handler writes -/

/-- `s` but for what the entry of a trap that posts no fault request can write, with the time it takes, taken from `t`
(R44, R244 to R246). -/
def State.handledFrom (s t : State) : State :=
  { s with
    ctx := { s.ctx with
      acr := t.ctx.acr, satcnt := t.ctx.satcnt, undcnt := t.ctx.undcnt, latch := t.ctx.latch
      dirty := t.ctx.dirty, hdirty := t.ctx.hdirty, eventFlag := t.ctx.eventFlag
      amaxk := t.ctx.amaxk, sfuTrap := t.ctx.sfuTrap
      ipend := t.ctx.ipend, halted := t.ctx.halted, live := t.ctx.live
      held := t.ctx.held, resume := t.ctx.resume, sfshadow := t.ctx.sfshadow
      g := t.ctx.g, pc := t.ctx.pc, epc := t.ctx.epc, ecause := t.ctx.ecause, eval := t.ctx.eval, estat := t.ctx.estat
      lc := t.ctx.lc, skip1 := t.ctx.skip1, skip2 := t.ctx.skip2, parked := t.ctx.parked
      parkedWith := t.ctx.parkedWith, wait := t.ctx.wait, convoy := t.ctx.convoy, convoyWords := t.ctx.convoyWords
      chained := t.ctx.chained, replayed := t.ctx.replayed, snapLane := t.ctx.snapLane, stall := t.ctx.stall
      board := t.ctx.board, atYield := t.ctx.atYield, pending := t.ctx.pending }
    other := { s.other with eventFlag := t.other.eventFlag, ipend := t.other.ipend, halted := t.other.halted }
    core := { s.core with lane := t.core.lane, hoop := t.core.hoop, queues := t.core.queues, undo := t.core.undo
                          clock := t.core.clock, freeze := { s.core.freeze with later := t.core.freeze.later } }
    peers := t.peers
    pkg := { s.pkg with cyc := t.pkg.cyc, gangs := t.pkg.gangs }
    npc := t.npc, pairAddr := t.pairAddr, trap := t.trap, stalled := t.stalled, taken := t.taken, switch := t.switch }

/-- `t` is `s` after it has entered a handler. -/
def Handled (s t : State) : Prop := t = s.handledFrom t

theorem Handled.trans {s t u : State} (h : Handled s t) (k : Handled t u) : Handled s u := by
  have e : t.handledFrom u = (s.handledFrom t).handledFrom u := congrArg (fun x => x.handledFrom u) h
  exact Eq.trans k e

/-- What the entry of a handler does not write is as it was. -/
theorem Handled.same {s t : State} (h : Handled s t) {α : Type} (f : State → α) (hf : ∀ x, f (s.handledFrom x) = f s) :
    f t = f s := by
  rw [h]
  exact hf t

theorem Elapsed.handled {s t : State} (h : Elapsed s t) : Handled s t := by
  have e : s.handledFrom t = s.elapsedFrom t := congrArg s.handledFrom h
  exact Eq.trans h e.symm

theorem State.capture_handled (s : State) : Handled s s.capture := by
  have h := (s.resumed_elapsed.trans (s.resumed.commitUpTo_elapsed s.now)).handled
  unfold State.capture
  dsimp only
  generalize s.resumed.commitUpTo s.now = u at h ⊢
  have clear (v : State) (hv : Handled s v) : Handled s { v with ctx := { v.ctx with sfuTrap := none } } := hv.trans rfl
  split
  · have k : Handled s { u with ctx := { u.ctx with live := [] } } := h.trans rfl
    exact clear _ (k.trans (State.commits_posted _ u.ctx.live).elapsed.handled)
  · exact h.trans rfl

theorem State.takeTrap_handled (s : State) (cause : Nat) (eval : Word) (late : Bool) :
    Handled s (s.takeTrap cause eval late) := by
  have h := s.capture_handled
  unfold State.takeTrap
  dsimp only
  generalize s.capture = u at h ⊢
  split
  · exact h.trans rfl
  · exact h.trans rfl

theorem State.afterTrap_handled (s : State) : Handled s s.afterTrap := rfl

/-- The handler entered from the pair at the program counter, before time passes for it. -/
def State.entering (s : State) (cause : Nat) (eval : Word) (parks : Bool) : State :=
  let u := { s.startPair s.ctx.pc with pairAddr := s.ctx.pc }
  let v := u.takeTrap cause eval
  { v with ctx := { v.ctx with parkedWith := parks && v.ctx.parked.isNone } }.afterTrap

theorem State.entering_handled (s : State) (cause : Nat) (eval : Word) (parks : Bool) :
    Handled s (s.entering cause eval parks) := by
  have h : Handled s { s.startPair s.ctx.pc with pairAddr := s.ctx.pc } := rfl
  have k := h.trans (State.takeTrap_handled _ cause eval false)
  unfold State.entering
  dsimp only
  generalize State.takeTrap _ cause eval = u at k ⊢
  exact k.trans rfl

theorem State.capture_sfuTrap (s : State) : s.capture.ctx.sfuTrap = none := by
  unfold State.capture
  dsimp only
  split
  · rfl
  · rfl

theorem Ctx.setG_ne (c : Ctx) (n : Nat) (v : Word) (r : BitVec 6) (h : r.toNat ≠ n) :
    (c.setG n v).g[r.toNat]'r.isLt = c.g[r.toNat]'r.isLt := by
  unfold Ctx.setG
  split
  · rfl
  · exact Vector.getElem_setIfInBounds_ne r.isLt (Ne.symm h)

/-- R44: what a trap that posts no fault request leaves in the registers a handler reads, whatever the cause. -/
theorem State.takeTrap_enters (s : State) (cause : Nat) (eval : Word) (late : Bool) :
    let t := s.takeTrap cause eval late
    t.ctx.epc = s.pairAddr ∧ t.ctx.ecause = word cause ∧ t.ctx.eval = eval ∧ t.npc = s.ctx.tvec + word (64 * cause)
    ∧ t.ctx.estat.getLsbD 0 = s.ctx.estat.getLsbD 7 ∧ t.ctx.estat.getLsbD 2 = s.ctx.estat.getLsbD 1
    ∧ t.ctx.estat.getLsbD 1 = false ∧ t.ctx.estat.getLsbD 7 = true ∧ t.ctx.sfuTrap = none
    ∧ ∀ r : BitVec 6, r ≠ 62 → t.gr r = s.gr r := by
  have k := s.capture_kept
  have b (x : Word) (n : Nat) (v : Bool) (j : Nat) (hn : n < 64) := getLsbD_setBit x n v j hn
  have e7 := k.estat 7 (by decide)
  have e1 := k.estat 1 (by decide)
  have trap := s.capture_sfuTrap
  unfold State.takeTrap
  generalize s.capture = u at k e7 e1 trap ⊢
  refine ⟨k.pairAddr, rfl, rfl, ?_, ?_, ?_, ?_, ?_, ?_, fun r hr => ?_⟩
  · dsimp only
    split <;> simp [Ctx.setG, k.tvec]
  · simp only [b, bit, Nat.reduceLT]
    simpa using e7
  · simp only [b, bit, Nat.reduceLT]
    simpa using e1
  · simp only [b, bit, Nat.reduceLT]
    simp
  · simp only [b, bit, Nat.reduceLT]
    simp
  · dsimp only
    split <;> simp [Ctx.setG, trap]
  · unfold State.gr
    split
    · rfl
    · have hn : r.toNat ≠ 62 := fun h => hr (BitVec.eq_of_toNat_eq h)
      dsimp only
      split
      · exact (Ctx.setG_ne _ 62 1 r hn).trans (by simp only [k.g])
      · simp only [k.g]

/-- R44 with R244: the handler entered at the pair's first word. -/
theorem State.entering_entered (s : State) (cause : Nat) (eval : Word) (parks : Bool) :
    Entered s (s.entering cause eval parks) cause eval := by
  obtain ⟨epc, ecause, heval, npc, e0, e2, e1, e7, -, g⟩ :=
    State.takeTrap_enters { s.startPair s.ctx.pc with pairAddr := s.ctx.pc } cause eval false
  have h := s.entering_handled cause eval parks
  exact ⟨epc, ecause, heval, npc, e0, e2, e1, e7, g, h.same (fun t => t.ctx.f) (fun _ => rfl),
    h.same (fun t => t.ctx.p) (fun _ => rfl), h.same (fun t => t.pkg.mem) (fun _ => rfl)⟩

theorem State.entering_sfuTrap (s : State) (cause : Nat) (eval : Word) (parks : Bool) :
    (s.entering cause eval parks).ctx.sfuTrap = none :=
  (State.takeTrap_enters { s.startPair s.ctx.pc with pairAddr := s.ctx.pc } cause eval false).2.2.2.2.2.2.2.2.1


/-! ### A strand that is in no gang -/

section Alone

variable {s : State} (hg : s.ctx.gang = false)

include hg

theorem State.mates_alone : s.mates = [(s.coreNo, s.ctx.bank)] := by
  unfold State.mates
  rw [hg]
  rfl

theorem State.mateCtxs_alone : s.mateCtxs = [s.ctx] := by
  unfold State.mateCtxs
  rw [State.mates_alone hg]
  simp [State.coreAt, Peer.bankCtx]

end Alone

theorem State.bankCtx_coreAt_self (s : State) : (s.coreAt s.coreNo).bankCtx s.ctx.bank = s.ctx := by
  simp [State.coreAt, Peer.bankCtx]

/-- `t` with the words of the pair under way as in `s`. -/
def State.facingOf (s t : State) : State :=
  { t with trap := s.trap, stalled := s.stalled, taken := s.taken, npc := s.npc, wordAddr := s.wordAddr
           pairAddr := s.pairAddr, curWord := s.curWord }

theorem State.focusOn_self (s : State) : s.focusOn s.coreNo = s := if_pos rfl

theorem State.inCtxWith_self {α : Type} (s : State) (f : State → State × α) (h : (f s).1.coreNo = s.coreNo) :
    s.inCtxWith s.coreNo s.ctx.bank f = (s.facingOf (f s).1, (f s).2) := by
  unfold State.inCtxWith
  simp only [State.focusOn_self, if_true]
  rw [← h, State.focusOn_self]
  rfl

theorem State.inCtx_self (s : State) (f : State → State) (h : (f s).coreNo = s.coreNo) :
    s.inCtx s.coreNo s.ctx.bank f = s.facingOf (f s) :=
  congrArg Prod.fst (s.inCtxWith_self (fun t => (f t, ())) h)

theorem State.eachMate_self (s : State) (f : State → State) (h : (f s).coreNo = s.coreNo) :
    s.eachMate [(s.coreNo, s.ctx.bank)] f = s.facingOf (f s) := s.inCtx_self f h

theorem State.passTeam_self (s : State) (b n : Nat) : s.passTeam [(s.coreNo, b)] n = s.pass n := by
  unfold State.passTeam
  simp


theorem Handled.facing {s t : State} (h : Handled s t) : Handled s (s.facingOf t) := by
  have e : s.facingOf (s.handledFrom t) = s.handledFrom (s.facingOf t) := rfl
  exact (congrArg s.facingOf h).trans e

theorem Handled.coreNo {s t : State} (h : Handled s t) : t.coreNo = s.coreNo := h.same State.coreNo (fun _ => rfl)

theorem Elapsed.coreNo {s t : State} (h : Elapsed s t) : t.coreNo = s.coreNo := h.same State.coreNo (fun _ => rfl)

/-- What a member of `allTrap` does: it enters its handler with its own EVAL and fault request, or with none. -/
def State.enteringOwn (s : State) (cause : Nat) (own : Option (Word × Option Park)) (parks : Bool) : State :=
  let u := { s.startPair s.ctx.pc with pairAddr := s.ctx.pc }
  let v := match own with
    | some (e, p) => u.takeTrap cause e false p
    | none =>
      let v := u.takeTrap cause 0
      { v with ctx := { v.ctx with g := u.ctx.g } }
  { v with ctx := { v.ctx with parkedWith := parks && v.ctx.parked.isNone } }.afterTrap

theorem State.allTrap_eq (s : State) (cause : Nat) (own : Nat → Option (Word × Option Park)) :
    s.allTrap cause own = (s.mates.foldl (fun t k => t.inCtx k.1 k.2 (fun u =>
        u.enteringOwn cause (own k.1) (s.mates.any (fun k => (own k.1).any (fun o => o.2.isSome))))) s).dropBroadcast.passTeam
      s.mates (s.mates.foldl (fun n k => Nat.max n (s.inCtxWith k.1 k.2 (fun u => (u, u.entryTime))).2) 0 + s.gangLag) :=
  rfl

/-- A trap that no instruction raises, of a strand in no gang: it enters its handler, and the entry takes time. -/
theorem State.allTrap_alone {s : State} {cause : Nat} {eval : Word} {own : Nat → Option (Word × Option Park)}
    (hg : s.ctx.gang = false) (ho : own s.coreNo = some (eval, none)) :
    ∃ n, s.allTrap cause own = (s.facingOf (s.entering cause eval false)).dropBroadcast.pass n := by
  have hh := s.entering_handled cause eval false
  have core : (s.facingOf (s.entering cause eval false)).dropBroadcast.coreNo = s.coreNo := hh.facing.coreNo
  have enter : s.inCtx s.coreNo s.ctx.bank (fun u => u.enteringOwn cause (some (eval, none)) false)
      = s.facingOf (s.entering cause eval false) := State.inCtx_self s (fun u => u.entering cause eval false) hh.coreNo
  have parks : [(s.coreNo, s.ctx.bank)].any (fun k => (own k.1).any (fun o => o.2.isSome)) = false := by simp [ho]
  rw [State.allTrap_eq, State.mates_alone hg, parks, List.foldl_cons, List.foldl_nil, ho, enter, ← core]
  exact ⟨_, State.passTeam_self _ _ _⟩

theorem State.allTrap_handled {s : State} {cause : Nat} {eval : Word} {own : Nat → Option (Word × Option Park)}
    (hg : s.ctx.gang = false) (ho : own s.coreNo = some (eval, none)) : Handled s (s.allTrap cause own) := by
  obtain ⟨n, e⟩ := State.allTrap_alone (cause := cause) hg ho
  rw [e]
  have h := (s.entering_handled cause eval false).facing
  generalize s.facingOf (s.entering cause eval false) = t at h ⊢
  have d : Handled t t.dropBroadcast := rfl
  exact h.trans (d.trans (State.pass_elapsed _ n).handled)

/-- A handler entered stays entered while time passes. -/
theorem Entered.later {s t u : State} {cause : Nat} {eval : Word} (h : Entered s t cause eval) (k : Elapsed t u) :
    Entered s u cause eval := by
  rw [k]
  exact h

/-- A handler entered from a later state is entered from the one before. -/
theorem Entered.earlier {s t u : State} {cause : Nat} {eval : Word} (k : Elapsed s t) (h : Entered t u cause eval) :
    Entered s u cause eval := by
  rw [k] at h
  exact h

theorem State.allTrap_entered {s : State} {cause : Nat} {eval : Word} {own : Nat → Option (Word × Option Park)}
    (hg : s.ctx.gang = false) (ho : own s.coreNo = some (eval, none)) : Entered s (s.allTrap cause own) cause eval := by
  obtain ⟨n, e⟩ := State.allTrap_alone (cause := cause) hg ho
  have h : Entered s (s.facingOf (s.entering cause eval false)).dropBroadcast cause eval :=
    s.entering_entered cause eval false
  rw [e]
  exact Entered.later h (State.pass_elapsed _ n)

theorem State.pass_sfuTrap (s : State) (n : Nat) : (s.pass n).ctx.sfuTrap = s.ctx.sfuTrap := by
  show (s.ctx.timerPast _ _).sfuTrap = _
  rw [Ctx.timerPast_frame]

theorem State.allTrap_sfuTrap {s : State} {cause : Nat} {eval : Word} {own : Nat → Option (Word × Option Park)}
    (hg : s.ctx.gang = false) (ho : own s.coreNo = some (eval, none)) : (s.allTrap cause own).ctx.sfuTrap = none := by
  obtain ⟨n, e⟩ := State.allTrap_alone (cause := cause) hg ho
  rw [e, State.pass_sfuTrap]
  exact s.entering_sfuTrap cause eval false

/-! ### Events of time (R37, R46, R96, R132, R143, R242, R249, R251) -/

theorem State.pass_clock {s : State} (n : Nat) (h : s.frozen = false) : (s.pass n).core.clock = s.core.clock + n := by
  simp [State.pass, h]

theorem State.pass_clock_frozen {s : State} (n : Nat) (h : s.frozen = true) : (s.pass n).core.clock = s.core.clock := by
  simp [State.pass, h]

theorem State.pass_cyc_frozen {s : State} (n : Nat) (h : s.frozen = true) : (s.pass n).pkg.cyc = s.pkg.cyc + n := by
  rw [State.pass_cyc, h]
  rfl

theorem State.commitUpTo_clock (s : State) (t : Nat) : (s.commitUpTo t).core.clock = s.core.clock := by
  unfold State.commitUpTo
  split
  · rfl
  · exact (State.commits_posted _ _).same (fun t => t.core.clock) (fun _ => rfl)

theorem State.commitUpTo_pkg (s : State) (t : Nat) : (s.commitUpTo t).pkg = s.pkg := by
  unfold State.commitUpTo
  split
  · rfl
  · exact (State.commits_posted _ _).same (fun t => t.pkg) (fun _ => rfl)

/-- What is left of the live results after those due by cycle t. -/
theorem State.commitUpTo_live (s : State) (t : Nat) :
    (s.commitUpTo t).ctx.live = s.ctx.live.filter (fun r => decide (t < r.at_)) := by
  unfold State.commitUpTo
  split
  · next h => rw [h]; rfl
  · exact (State.commits_posted _ _).same (fun t => t.ctx.live) (fun _ => rfl)

/-- The least of a list that is not empty. -/
theorem foldl_min_eq {t m : Nat} {l : List Nat} (hm : m ∈ t :: l) (least : ∀ n ∈ t :: l, m ≤ n) :
    l.foldl Nat.min t = m := by
  have e : some (l.foldl Nat.min t) = (t :: l).min? := List.min?_cons'.symm
  exact Option.some.inj (e.trans (List.min?_eq_some_iff.2 ⟨hm, least⟩))

theorem State.awaitBoard_none {s : State} {f : Busy → Bool} {P : Res → Prop} (hf : ∀ b, f b = true ↔ P b.res)
    (h : ∀ b ∈ s.ctx.board, P b.res → b.due ≤ s.core.clock) : s.awaitBoard f = s := by
  have none : s.ctx.board.filter (fun b => f b && decide (s.now < b.due)) = [] := by
    rw [List.filter_eq_nil_iff]
    intro b hb
    simp only [Bool.and_eq_true, decide_eq_true_eq, not_and]
    intro hfb
    exact Nat.not_lt.2 (h b hb ((hf b).1 hfb))
  unfold State.awaitBoard
  rw [none]
  rfl

/-- Where an entry of the kind is due, time passes to the first that is. -/
theorem State.awaitBoard_due {s : State} {f : Busy → Bool} {P : Res → Prop} {b : Busy} (hg : s.ctx.gang = false)
    (hf : ∀ b, f b = true ↔ P b.res) (hb : b ∈ s.ctx.board) (hp : P b.res) (hd : s.core.clock < b.due)
    (first : ∀ c ∈ s.ctx.board, P c.res → s.core.clock < c.due → b.due ≤ c.due) (hz : s.frozen = false) :
    s.awaitBoard f = (s.pass (b.due - s.now)).commitUpTo b.due := by
  have mem : b.due ∈ (s.ctx.board.filter (fun b => f b && decide (s.now < b.due))).map (fun b => b.due) :=
    List.mem_map_of_mem (List.mem_filter.2 ⟨hb, by simpa using ⟨(hf b).2 hp, hd⟩⟩)
  have least : ∀ n ∈ (s.ctx.board.filter (fun b => f b && decide (s.now < b.due))).map (fun b => b.due), b.due ≤ n := by
    intro n hn
    obtain ⟨c, hc, rfl⟩ := List.mem_map.1 hn
    obtain ⟨hcb, hcd⟩ := List.mem_filter.1 hc
    simp only [Bool.and_eq_true, decide_eq_true_eq] at hcd
    exact first c hcb ((hf c).1 hcd.1) hcd.2
  unfold State.awaitBoard
  dsimp only
  generalize (s.ctx.board.filter (fun b => f b && decide (s.now < b.due))).map (fun b => b.due) = due at mem least ⊢
  cases due with
  | nil => exact absurd mem (List.not_mem_nil)
  | cons t l =>
    dsimp only
    rw [foldl_min_eq mem least, hz, State.mates_alone hg, State.passTeam_self]
    rfl


theorem State.awaitShadow_none {s : State} {f : ShadowKind → Bool} {P : ShadowKind → Prop} (hf : ∀ k, f k = true ↔ P k)
    (h : ∀ r ∈ s.ctx.live, ¬ P r.kind) : s.awaitShadow f = s := by
  have none : s.ctx.live.filter (fun r => f r.kind) = [] := by
    rw [List.filter_eq_nil_iff]
    exact fun r hr hfr => h r hr ((hf r.kind).1 hfr)
  unfold State.awaitShadow
  rw [none]
  rfl

/-- Where a live result is of the kind, time passes to the commit of the first. -/
theorem State.awaitShadow_due {s : State} {f : ShadowKind → Bool} {P : ShadowKind → Prop} {r : Shadow}
    (hg : s.ctx.gang = false) (hf : ∀ k, f k = true ↔ P k) (hr : r ∈ s.ctx.live) (hp : P r.kind)
    (first : ∀ q ∈ s.ctx.live, P q.kind → r.at_ ≤ q.at_) (hz : s.frozen = false) :
    s.awaitShadow f = (s.pass (r.at_ - s.now)).commitUpTo r.at_ := by
  have mem : r.at_ ∈ (s.ctx.live.filter (fun r => f r.kind)).map (fun r => r.at_) :=
    List.mem_map_of_mem (List.mem_filter.2 ⟨hr, (hf r.kind).2 hp⟩)
  have least : ∀ n ∈ (s.ctx.live.filter (fun r => f r.kind)).map (fun r => r.at_), r.at_ ≤ n := by
    intro n hn
    obtain ⟨q, hq, rfl⟩ := List.mem_map.1 hn
    obtain ⟨hql, hqf⟩ := List.mem_filter.1 hq
    exact first q hql ((hf q.kind).1 hqf)
  unfold State.awaitShadow
  dsimp only
  generalize (s.ctx.live.filter (fun r => f r.kind)).map (fun r => r.at_) = due at mem least ⊢
  cases due with
  | nil => exact absurd mem (List.not_mem_nil)
  | cons t l =>
    dsimp only
    rw [foldl_min_eq mem least, hz, State.mates_alone hg, State.passTeam_self]
    rfl

theorem State.pass_live (s : State) (n : Nat) : (s.pass n).ctx.live = s.ctx.live := by
  show (s.ctx.timerPast _ _).live = _
  rw [Ctx.timerPast_frame]

/-- The events that wait for the board, each with the entries it waits for. -/
noncomputable def landingEvents : List (Instr × (Res → Prop)) :=
  [(Instr.faultWindowClose, fun r : Res => r = .window ∨ r = .hold)]
    ++ (List.range 64).map (fun n => (Instr.scalarResultWrite n, fun r : Res => r = .g n))
    ++ (List.range 32).map (fun n => (Instr.scalarResultWrite (64 + n), fun r : Res => r = .f n))
    ++ (List.range 32).map (fun n => (Instr.slashResult n, fun r : Res => r = .f n ∨ r = .slash))
    ++ (List.range 256).map (fun n => (Instr.vectorGroupWrite n, fun r : Res => r = .lane n))
    ++ (List.range 256).map (fun n => (Instr.vectorLoadData n, fun r : Res => r = .lane n ∨ r = .window))
    ++ (List.range 128).map (fun n => (Instr.hoopRowLand n, fun r : Res => r = .row n))

/-- The event awaits the board's entries of a kind. -/
def Awaits (x : Instr × (Res → Prop)) : Prop :=
  ∃ f : Busy → Bool, (∀ b, f b = true ↔ x.2 b.res) ∧ ∀ s, exec x.1 s = .next (s.awaitBoard f)

theorem landingEvents_await : ∀ x ∈ landingEvents, Awaits x := by
  unfold landingEvents
  simp only [List.mem_append, List.mem_singleton, List.mem_map, List.mem_range]
  rintro x ((((((rfl | ⟨n, hn, rfl⟩) | ⟨n, hn, rfl⟩) | ⟨n, -, rfl⟩) | ⟨n, -, rfl⟩) | ⟨n, -, rfl⟩) | ⟨n, -, rfl⟩)
  · exact ⟨_, fun b => by simp, fun s => rfl⟩
  · exact ⟨_, fun b => by simp [hn], fun s => rfl⟩
  · exact ⟨_, fun b => by simp, fun s => rfl⟩
  · exact ⟨_, fun b => by simp, fun s => rfl⟩
  · exact ⟨_, fun b => by simp, fun s => rfl⟩
  · exact ⟨_, fun b => by simp, fun s => rfl⟩
  · exact ⟨_, fun b => by simp, fun s => rfl⟩

/-- The events that wait for a shadow result to commit, each with the kinds it waits for. -/
noncomputable def commitEvents : List (Instr × (ShadowKind → Prop)) :=
  [(Instr.sfuCommit, fun k : ShadowKind => ∃ n, k = .sfuEntry n ∨ k = .sfuQueue n),
    (.hsfuCommit, fun k => ∃ n, k = .hsfu n),
    (.latchCommit, fun k => k = .bamaxPeer ∨ k = .bscale ∨ ∃ n, k = .bamax n ∨ k = .bamaxQueue n)]

theorem commitEvents_await : ∀ x ∈ commitEvents, ∃ f : ShadowKind → Bool, (∀ k, f k = true ↔ x.2 k) ∧
    ∀ s, exec x.1 s = .next (s.awaitShadow f) := by
  simp only [commitEvents, List.forall_mem_cons]
  refine ⟨?_, ?_, ?_, nofun⟩
  · exact ⟨_, fun k => by cases k <;> simp, fun s => rfl⟩
  · exact ⟨_, fun k => by cases k <;> simp, fun s => rfl⟩
  · exact ⟨_, fun k => by cases k <;> simp, fun s => rfl⟩

theorem Elapsed.gang {s t : State} (h : Elapsed s t) : t.ctx.gang = s.ctx.gang :=
  h.same (fun t => t.ctx.gang) (fun _ => rfl)

theorem Elapsed.mem {s t : State} (h : Elapsed s t) : t.pkg.mem = s.pkg.mem :=
  h.same (fun t => t.pkg.mem) (fun _ => rfl)

theorem Elapsed.g {s t : State} (h : Elapsed s t) : t.ctx.g = s.ctx.g := h.same (fun t => t.ctx.g) (fun _ => rfl)

theorem landing_yields {x : Instr × (Res → Prop)} {s : State} (hx : Awaits x) (hg : s.ctx.gang = false) :
    ((∀ b ∈ s.ctx.board, x.2 b.res → b.due ≤ s.core.clock) → Yields x.1 s (fun t => t = s))
    ∧ (∀ b ∈ s.ctx.board, x.2 b.res → s.core.clock < b.due →
        (∀ c ∈ s.ctx.board, x.2 c.res → s.core.clock < c.due → b.due ≤ c.due) →
        s.frozen = false → Yields x.1 s (fun t => t.core.clock = b.due ∧ t.pkg.mem = s.pkg.mem
          ∧ (s.core.freeze.later = [] → t.pkg.cyc = s.pkg.cyc + (b.due - s.core.clock)))) := by
  obtain ⟨f, hf, he⟩ := hx
  refine ⟨fun h => ⟨_, he s, State.awaitBoard_none hf h⟩, fun b hb hp hd first hz => ⟨_, he s, ?_⟩⟩
  rw [State.awaitBoard_due hg hf hb hp hd first hz]
  dsimp only
  rw [State.commitUpTo_clock, State.commitUpTo_pkg, State.pass_clock _ hz]
  exact ⟨Nat.add_sub_cancel' (Nat.le_of_lt hd), rfl, State.pass_cyc_on_time s _⟩

theorem commit_yields {i : Instr} {P : ShadowKind → Prop} {f : ShadowKind → Bool} {s : State}
    (hf : ∀ k, f k = true ↔ P k) (he : exec i s = .next (s.awaitShadow f)) (hg : s.ctx.gang = false) :
    ((∀ r ∈ s.ctx.live, ¬ P r.kind) → Yields i s (fun t => t = s))
    ∧ (∀ r ∈ s.ctx.live, P r.kind → (∀ q ∈ s.ctx.live, P q.kind → r.at_ ≤ q.at_) → s.frozen = false →
        Yields i s (fun t => (∀ q ∈ t.ctx.live, r.at_ < q.at_) ∧ t.pkg.mem = s.pkg.mem ∧ t.ctx.g = s.ctx.g)) := by
  refine ⟨fun h => ⟨_, he, State.awaitShadow_none hf h⟩, fun r hr hp first hz => ⟨_, he, ?_⟩⟩
  rw [State.awaitShadow_due hg hf hr hp first hz]
  have h := (s.pass_elapsed (r.at_ - s.now)).trans ((s.pass (r.at_ - s.now)).commitUpTo_elapsed r.at_)
  refine ⟨fun q hq => ?_, h.mem, h.g⟩
  rw [State.commitUpTo_live] at hq
  exact of_decide_eq_true (List.mem_filter.1 hq).2

/-! ### Freezes (R249, R250) -/

/-- The state with its core's freezes changed. -/
def State.refrozen (s : State) (f : Freeze → Freeze) : State :=
  { s with core := { s.core with freeze := f s.core.freeze } }

theorem State.onFreeze_alone {s : State} (hg : s.ctx.gang = false) (f : Freeze → Freeze) :
    s.onFreeze f = s.refrozen f := by
  unfold State.onFreeze
  rw [State.mates_alone hg]
  exact State.eachMate_self s _ rfl

theorem State.frozen_of_late {s : State} (h : s.core.freeze.late.isSome = true) : s.frozen = true := by
  simp [State.frozen, Freeze.inForce, h]

theorem State.frozen_of_correction {s : State} (h : s.core.freeze.correctUntil ≠ 0) : s.frozen = true := by
  simp [State.frozen, Freeze.inForce, h]

theorem lateReplyArrival_yields {s : State} (hg : s.ctx.gang = false) (h : s.core.freeze.late.isSome = true) :
    Yields .lateReplyArrival s (fun t => t.core.freeze.late = none
      ∧ t.core.clock = s.core.clock ∧ s.pkg.cyc ≤ t.pkg.cyc ∧ t.ctx.g = s.ctx.g ∧ t.pkg.mem = s.pkg.mem) := by
  refine ⟨_, congrArg Host.Outcome.next (if_neg (by simpa using Option.isSome_iff_ne_none.1 h)), ?_⟩
  set u : State := { s with free := s.free + 1 }
  have hz : u.frozen = true := State.frozen_of_late (s := u) h
  have p := u.pass_elapsed (s.core.freeze.lateSince + 1 + Config.latency s.free % 65535 - s.pkg.cyc)
  rw [State.onFreeze_alone (p.gang.trans hg)]
  refine ⟨rfl, State.pass_clock_frozen _ hz, ?_, p.g, p.mem⟩
  exact (Nat.le_add_right _ _).trans_eq (State.pass_cyc_frozen _ hz).symm

theorem correctionFreezeEnd_yields {s : State} (hg : s.ctx.gang = false) (h : s.core.freeze.correctUntil ≠ 0) :
    Yields .correctionFreezeEnd s (fun t => t.core.freeze.correctUntil = 0
      ∧ t.pkg.cyc = Nat.max s.pkg.cyc s.core.freeze.correctUntil ∧ t.core.clock = s.core.clock ∧ t.ctx.g = s.ctx.g) := by
  refine ⟨_, congrArg Host.Outcome.next (if_neg h), ?_⟩
  have hz : s.frozen = true := State.frozen_of_correction h
  have p := s.pass_elapsed (s.core.freeze.correctUntil - s.pkg.cyc)
  rw [State.onFreeze_alone (p.gang.trans hg)]
  refine ⟨rfl, ?_, State.pass_clock_frozen _ hz, p.g⟩
  refine (State.pass_cyc_frozen _ hz).trans ?_
  show _ = max _ _
  omega

theorem timer_yields {s : State} (hg : s.ctx.gang = false) (h : s.pkg.cyc < s.ctx.tcmp.toNat) :
    Yields .timer s (fun t => s.ctx.tcmp.toNat ≤ t.pkg.cyc
      ∧ (s.core.freeze.later = [] → t.pkg.cyc = s.ctx.tcmp.toNat) ∧ t.ctx.ipend.getLsbD 0 = true
      ∧ t.pkg.mem = s.pkg.mem ∧ t.ctx.g = s.ctx.g) := by
  refine ⟨_, rfl, ?_⟩
  rw [State.mates_alone hg, State.passTeam_self]
  have p := s.pass_elapsed (s.ctx.tcmp.toNat - s.pkg.cyc)
  have reached : s.ctx.tcmp.toNat ≤ (s.pass (s.ctx.tcmp.toNat - s.pkg.cyc)).pkg.cyc := by
    rw [State.pass_cyc]
    omega
  refine ⟨reached, fun hl => ?_, ?_, p.mem, p.g⟩
  · rw [State.pass_cyc_on_time _ _ hl]
    omega
  · show (s.ctx.timerPast s.pkg.cyc (s.pass (s.ctx.tcmp.toNat - s.pkg.cyc)).pkg.cyc).ipend.getLsbD 0 = true
    unfold Ctx.timerPast
    rw [if_pos h]
    exact Ctx.timerAt_timer reached

/-! ### Traps that no instruction raises (R26, R46, R56, R57, R182, R243, R244, R250) -/

theorem Elapsed.allTrap_entered {s u : State} {cause : Nat} {eval : Word} {own : Nat → Option (Word × Option Park)}
    (k : Elapsed s u) (hg : s.ctx.gang = false) (ho : own s.coreNo = some (eval, none)) :
    Entered s (u.allTrap cause own) cause eval :=
  Entered.earlier k (State.allTrap_entered (k.gang.trans hg) (by rw [k.coreNo]; exact ho))

theorem Elapsed.trapNow_entered {s u : State} (k : Elapsed s u) (hg : s.ctx.gang = false) (cause : Nat) (eval : Word) :
    Entered s (u.trapNow cause eval) cause eval :=
  k.allTrap_entered hg (if_pos k.coreNo.symm)

theorem State.trapNow_handled {s : State} (hg : s.ctx.gang = false) (cause : Nat) (eval : Word) :
    Handled s (s.trapNow cause eval) := State.allTrap_handled hg (if_pos rfl)

theorem State.stalledMates_hit {s : State} {f : Ctx → Bool} (hg : s.ctx.gang = false)
    (h : (s.ctx.stall != 0 && f s.ctx) = true) : ∃ n, s.stalledMates f = ([s.coreNo], n) := by
  unfold State.stalledMates
  rw [State.mates_alone hg, State.mateCtxs_alone hg]
  simp only [List.filter_cons, State.bankCtx_coreAt_self, h, if_true, List.filter_nil, List.map_cons, List.map_nil]
  exact ⟨_, rfl⟩

theorem State.stalledMates_miss {s : State} {f : Ctx → Bool} (hg : s.ctx.gang = false)
    (h : (s.ctx.stall != 0 && f s.ctx) = false) : ∃ n, s.stalledMates f = ([], n) := by
  unfold State.stalledMates
  rw [State.mates_alone hg, State.mateCtxs_alone hg]
  simp only [List.filter_cons, State.bankCtx_coreAt_self, h, Bool.false_eq_true, if_false, List.filter_nil, List.map_nil]
  exact ⟨_, rfl⟩

theorem State.hasStalled_iff (s : State) :
    s.hasStalled = true ↔ s.ctx.ready = true ∧ s.ctx.stall ≠ 0 ∧ s.frozen = false := by
  simp [State.hasStalled, Nat.pos_iff_ne_zero, and_assoc]

/-- The two limits on stalls at once: where the strand has stalled for what `f` says, and `ok` holds, the limit passes and
the handler is entered. -/
def State.stallLimit (s : State) (f : Ctx → Bool) (limit cause : Nat) (eval : Word) (ok : Bool) : State :=
  let (l, n) := s.stalledMates f
  if s.ctx.ready && !s.frozen && ok && !l.isEmpty then
    (s.passTeam s.mates (limit - n)).allTrap cause (fun k => if l.contains k then some (eval, none) else none)
  else s

theorem execQueueTimeout_eq (q : Nat) (s : State) : execQueueTimeout q s =
    .next (s.stallLimit (fun c => c.stallReason == 11 && c.stallQueue == q) s.ctx.qto.toNat cQueueTimeout (word q) true) := by
  unfold State.stallLimit
  rw [Bool.and_true] <;> rfl

theorem execWatchdog_eq (r : Nat) (s : State) : execWatchdog r s =
    .next (s.stallLimit (fun c => c.stallReason == r) (2 ^ 24) cWatchdog (word r) (decide (1 ≤ r ∧ r ≤ 10))) := rfl

theorem State.stallLimit_entered {s : State} {f : Ctx → Bool} (limit cause : Nat) (eval : Word) {ok : Bool}
    (hg : s.ctx.gang = false) (h : s.hasStalled = true) (hf : f s.ctx = true) (hok : ok = true) :
    Entered s (s.stallLimit f limit cause eval ok) cause eval := by
  obtain ⟨ready, stalled, thawed⟩ := s.hasStalled_iff.1 h
  obtain ⟨n, hn⟩ := State.stalledMates_hit (f := f) hg (by simp [stalled, hf])
  have e : s.stallLimit f limit cause eval ok
      = (s.pass (limit - n)).allTrap cause (fun k => if [s.coreNo].contains k then some (eval, none) else none) := by
    unfold State.stallLimit
    rw [hn, ready, thawed, hok, State.mates_alone hg]
    dsimp only
    rw [State.passTeam_self]
    rfl
  rw [e]
  exact (s.pass_elapsed _).allTrap_entered hg (by simp)

theorem State.stallLimit_idle {s : State} {f : Ctx → Bool} (limit cause : Nat) (eval : Word) (ok : Bool)
    (hg : s.ctx.gang = false) (h : s.hasStalled = false) : s.stallLimit f limit cause eval ok = s := by
  unfold State.stallLimit
  by_cases hs : (s.ctx.stall != 0 && f s.ctx) = true
  · have idle : (s.ctx.ready && !s.frozen) = false := by
      have hn := mt s.hasStalled_iff.2 (Bool.eq_false_iff.1 h)
      cases hr : s.ctx.ready <;> cases hz : s.frozen <;> simp_all
    dsimp only
    rw [idle]
    rfl
  · obtain ⟨n, hn⟩ := State.stalledMates_miss hg (Bool.eq_false_iff.2 hs)
    rw [hn]
    dsimp only
    rw [List.isEmpty_nil, Bool.not_true, Bool.and_false]
    rfl

/-! #### What the strand owes (R143, R182, R244) -/

theorem State.owed_alone {s : State} (hg : s.ctx.gang = false) : s.owed = s.ctx.owed.toList.map (fun o => (s.coreNo, o)) := by
  unfold State.owed
  rw [State.mates_alone hg]
  simp only [List.filterMap_cons, List.filterMap_nil, State.bankCtx_coreAt_self]
  cases s.ctx.owed <;> rfl

/-- The state without what it owed for a cause. -/
def State.paid (s : State) (cause : Nat) : State :=
  if cause = cRemoteError then { s with ctx := { s.ctx with remoteError := none } }
  else { s with ctx := { s.ctx with sfuTrap := none } }

theorem State.paid_cases (s : State) (cause : Nat) {P : State → Prop}
    (h : P { s with ctx := { s.ctx with remoteError := none } }) (k : P { s with ctx := { s.ctx with sfuTrap := none } }) :
    P (s.paid cause) := by
  unfold State.paid
  split
  · exact h
  · exact k

/-- The debts of one cause taken together: the trap, and APPLIED where a debt has it. -/
def State.settleOwed (s : State) (cause : Nat) (same : List (Nat × Nat × Word × Option Bool)) : State :=
  same.foldl (fun t x => match x.2.2.2, t.bankOf x.1 s.ctx.taskh with
      | some applied, some b => t.inCtx x.1 b (fun u => u.setApplied applied)
      | _, _ => t)
    ((s.eachMate s.mates (fun u => u.paid cause)).allTrap cause
      (fun k => (same.find? (fun x => x.1 == k)).map (fun x => (x.2.2.1, none))))

theorem State.takeOwed_cons {s : State} {x : Nat × Nat × Word × Option Bool} {l : List (Nat × Nat × Word × Option Bool)}
    (h : s.owed = x :: l) : s.takeOwed = s.settleOwed x.2.1 ((x :: l).filter (fun y => y.2.1 == x.2.1)) := by
  unfold State.takeOwed
  split
  · next h' => rw [h] at h'; exact absurd h' (by simp)
  · next h' =>
    rw [h] at h'
    obtain ⟨rfl, rfl⟩ := List.cons.inj h'
    rfl

theorem State.takeOwed_alone {s : State} {cause : Nat} {eval : Word} {applied : Option Bool} (hg : s.ctx.gang = false)
    (ho : s.ctx.owed = some (cause, eval, applied)) :
    s.takeOwed = s.settleOwed cause [(s.coreNo, cause, eval, applied)] := by
  have owed : s.owed = [(s.coreNo, cause, eval, applied)] := by
    rw [State.owed_alone hg, ho]
    rfl
  rw [State.takeOwed_cons owed]
  simp

theorem Ctx.owed_arith {c : Ctx} {e : Word} (h : c.remoteError = none) (k : c.sfuTrap = some e) :
    c.owed = some (cArith, e, none) := by
  unfold Ctx.owed
  rw [h, k]
  rfl

theorem Ctx.owed_remote {c : Ctx} {x : Nat × Word × Bool} (h : c.remoteError = some x) :
    c.owed = some (cRemoteError, x.2.1, some x.2.2) := by
  unfold Ctx.owed
  rw [h]

theorem State.paid_entered {s t : State} {cause debt : Nat} {eval : Word} (h : Entered (s.paid debt) t cause eval) :
    Entered s t cause eval := by
  revert h
  exact s.paid_cases (P := fun u => Entered u t cause eval → Entered s t cause eval) debt id id

/-- The trap of a debt that the strand alone owes, and the state it is taken in. -/
theorem State.settleOwed_trap {s : State} (cause : Nat) (eval : Word) (applied : Option Bool) (hg : s.ctx.gang = false) :
    ∃ own : Nat → Option (Word × Option Park), own s.coreNo = some (eval, none)
      ∧ s.settleOwed cause [(s.coreNo, cause, eval, applied)]
        = (match applied, ((s.facingOf (s.paid cause)).allTrap cause own).bankOf s.coreNo s.ctx.taskh with
          | some a, some b => ((s.facingOf (s.paid cause)).allTrap cause own).inCtx s.coreNo b (fun u => u.setApplied a)
          | _, _ => (s.facingOf (s.paid cause)).allTrap cause own) := by
  have core : (s.paid cause).coreNo = s.coreNo := s.paid_cases (P := fun u => u.coreNo = s.coreNo) cause rfl rfl
  refine ⟨fun k => ([(s.coreNo, cause, eval, applied)].find? (fun x => x.1 == k)).map (fun x => (x.2.2.1, none)), by simp, ?_⟩
  unfold State.settleOwed
  rw [List.foldl_cons, List.foldl_nil, State.mates_alone hg, State.eachMate_self s (fun u => u.paid cause) core]

theorem State.facingOf_paid (s : State) (cause : Nat) : s.facingOf (s.paid cause) = s.paid cause :=
  s.paid_cases (P := fun u => s.facingOf u = u) cause rfl rfl

theorem State.paid_gang (s : State) (cause : Nat) : (s.paid cause).ctx.gang = s.ctx.gang :=
  s.paid_cases (P := fun u => u.ctx.gang = s.ctx.gang) cause rfl rfl

theorem State.paid_coreNo (s : State) (cause : Nat) : (s.paid cause).coreNo = s.coreNo :=
  s.paid_cases (P := fun u => u.coreNo = s.coreNo) cause rfl rfl

theorem State.bankOf_self {s : State} (h : s.ctx.holds = true) : s.bankOf s.coreNo s.ctx.taskh = some s.ctx.bank := by
  simp [State.bankOf, State.coreAt, h]

theorem Entered.setApplied {s t : State} {cause : Nat} {eval : Word} (h : Entered s t cause eval) (a : Bool) :
    Entered s (t.facingOf (t.setApplied a)) cause eval := by
  have bit5 (j : Nat) (hj : j ≠ 5) : (setBit t.ctx.estat 5 a).getLsbD j = t.ctx.estat.getLsbD j := by
    rw [getLsbD_setBit _ _ _ _ (by decide), if_neg hj]
  obtain ⟨epc, ecause, heval, pc, e0, e2, e1, e7, rest⟩ := h
  exact ⟨epc, ecause, heval, pc, (bit5 0 (by decide)).trans e0, (bit5 2 (by decide)).trans e2,
    (bit5 1 (by decide)).trans e1, (bit5 7 (by decide)).trans e7, rest⟩

theorem Ctx.ready_holds {c : Ctx} (h : c.ready = true) : c.holds = true := by
  simp only [Ctx.ready, Bool.and_eq_true] at h
  exact h.1.1.1.1

theorem trapEntry_of_owed {s : State} {cause : Nat} {eval : Word} {applied : Option Bool} (hs : Alone s)
    (ho : s.ctx.owed = some (cause, eval, applied)) :
    exec (.trapEntry cause eval) s = .next (s.settleOwed cause [(s.coreNo, cause, eval, applied)]) := by
  obtain ⟨hg, ready, thawed⟩ := hs
  show execTrapEntry cause eval s = _
  unfold execTrapEntry
  rw [State.owed_alone hg, ho, if_neg (by simp [ready, thawed]), State.takeOwed_alone hg ho]
  simp

theorem trapEntry_arith {s : State} {e : Word} (hs : Alone s) (hr : s.ctx.remoteError = none)
    (ht : s.ctx.sfuTrap = some e) :
    Yields (.trapEntry 0x09 e) s (fun t => Entered s t 0x09 e ∧ t.ctx.sfuTrap = none) := by
  refine ⟨_, trapEntry_of_owed hs (Ctx.owed_arith hr ht), ?_⟩
  obtain ⟨own, ho, heq⟩ := State.settleOwed_trap cArith e none hs.1
  have hg : (s.paid cArith).ctx.gang = false := (s.paid_gang _).trans hs.1
  have ho' : own (s.paid cArith).coreNo = some (e, none) := by rw [s.paid_coreNo]; exact ho
  have t : s.settleOwed cArith [(s.coreNo, cArith, e, none)] = (s.paid cArith).allTrap cArith own := by
    rw [heq, s.facingOf_paid]
  exact t ▸ ⟨State.paid_entered (State.allTrap_entered hg ho'), State.allTrap_sfuTrap hg ho'⟩

theorem trapEntry_remote {s : State} {tag : Nat} {e : Word} {applied : Bool} (hs : Alone s)
    (hr : s.ctx.remoteError = some (tag, e, applied)) :
    Yields (.trapEntry 0x0E e) s (fun t =>
      Entered s t 0x0E e ∧ t.ctx.estat.getLsbD 5 = applied ∧ t.ctx.remoteError = none) := by
  have owed : s.ctx.owed = some (cRemoteError, e, some applied) := Ctx.owed_remote hr
  obtain ⟨own, ho, heq⟩ := State.settleOwed_trap cRemoteError e (some applied) hs.1
  have hg : (s.paid cRemoteError).ctx.gang = false := (s.paid_gang _).trans hs.1
  have ho' : own (s.paid cRemoteError).coreNo = some (e, none) := by rw [s.paid_coreNo]; exact ho
  have entered := State.paid_entered (State.allTrap_entered (cause := cRemoteError) hg ho')
  have h := State.allTrap_handled (cause := cRemoteError) hg ho'
  rw [s.facingOf_paid] at heq
  generalize (s.paid cRemoteError).allTrap cRemoteError own = t at heq entered h
  have core : t.coreNo = s.coreNo := h.coreNo.trans (s.paid_coreNo _)
  have holds : t.ctx.holds = true :=
    (h.same (fun t => t.ctx.holds) (fun _ => rfl)).trans (Ctx.ready_holds hs.2.1)
  have task : t.ctx.taskh = s.ctx.taskh := h.same (fun t => t.ctx.taskh) (fun _ => rfl)
  have clear : t.ctx.remoteError = none := h.same (fun t => t.ctx.remoteError) (fun _ => rfl)
  have settled : s.settleOwed cRemoteError [(s.coreNo, cRemoteError, e, some applied)]
      = t.facingOf (t.setApplied applied) := by
    rw [heq, ← core, ← task, State.bankOf_self holds]
    exact State.inCtx_self t (fun u => u.setApplied applied) rfl
  refine ⟨_, (trapEntry_of_owed hs owed).trans (congrArg _ settled), Entered.setApplied entered applied, ?_, clear⟩
  show (setBit t.ctx.estat 5 applied).getLsbD 5 = applied
  rw [getLsbD_setBit _ _ _ _ (by decide), if_pos rfl]

/-! #### Decode checks (R56, R57) -/

theorem Elapsed.facing {s t : State} (h : Elapsed s t) : Elapsed s (s.facingOf t) := by
  have e : s.facingOf (s.elapsedFrom t) = s.elapsedFrom (s.facingOf t) := rfl
  exact (congrArg s.facingOf h).trans e

theorem State.decodeTrap_entered {s : State} (cause : Nat) (eval : Word) (hg : s.ctx.gang = false) :
    Entered s (s.decodeTrap cause eval) cause eval := by
  unfold State.decodeTrap
  rw [State.mates_alone hg]
  dsimp only
  generalize List.foldl _ _ _ = t
  rw [State.passTeam_self]
  have p := s.pass_elapsed (t - s.now)
  have c := (s.pass (t - s.now)).commitUpTo_elapsed t
  rw [State.mates_alone (p.gang.trans hg), State.eachMate_self _ (fun u => u.commitUpTo t) c.coreNo]
  generalize s.pass (t - s.now) = u at p c ⊢
  exact (p.trans c.facing).allTrap_entered hg (if_pos p.coreNo.symm)

theorem readAt_eq_littleAt (p : Pkg) (pa n : Nat) : p.readAt pa n = littleAt p pa n := by
  unfold Pkg.readAt littleAt
  induction n generalizing pa with
  | zero => rfl
  | succ n ih =>
    rw [Memory.readLE, ih (pa + 1), List.range_succ_eq_map]
    simp only [List.map_cons, List.map_map, List.sum_cons, Nat.pow_zero, Nat.mul_one, Nat.add_zero, ← List.sum_map_mul_left]
    congr 2
    refine List.map_congr_left fun i _ => ?_
    simp only [Function.comp, Nat.succ_eq_add_one, Nat.add_comm i 1, ← Nat.add_assoc]
    ring

/-- R56: the word, and its offset above bit 32. -/
theorem zeroExtend_or_offset (w : BitVec 32) (off : Nat) (h : off < 2 ^ 32) :
    (w.zeroExtend 64 ||| word (off * 2 ^ 32)) = word (w.toNat + off * 2 ^ 32) := by
  have hw := w.isLt
  have ho : off * 2 ^ 32 < 2 ^ 64 := by omega
  apply BitVec.eq_of_toNat_eq
  rw [BitVec.toNat_or, word, word, BitVec.toNat_ofNat, BitVec.toNat_ofNat, Nat.mod_eq_of_lt ho,
    Nat.mod_eq_of_lt (by omega), BitVec.zeroExtend, BitVec.toNat_setWidth, Nat.mod_eq_of_lt (by omega), Nat.or_comm,
    Nat.mul_comm, ← Nat.two_pow_add_eq_or_of_lt hw, Nat.add_comm]

theorem State.translate_frame {s u : State} {which : TlbKind} {va : Nat} {k : Acc} {tr : Trans}
    (h : s.translate which va k = .ok (tr, u)) : u.ctx = s.ctx := by
  unfold State.translate at h
  dsimp only at h
  split at h
  · cases h
  · split at h
    · split at h
      · cases h; rfl
      · cases h
    · split at h
      · split at h
        · cases h; rfl
        · cases h
      · split at h
        · cases h
        · cases h; rfl

theorem illegalOpcode_entered {s u : State} {w : BitVec 32} {off : Nat} {tr : Trans} (hs : Alone s) (h16 : off < 16)
    (h4 : off % 4 = 0) (ht : s.translate .l1 (s.ctx.pc + word off).toNat .fetch = .ok (tr, u))
    (hw : littleAt u.pkg tr.pa 4 = w.toNat) (hp : u.pkg.poisonedAt tr.pa 4 = false) :
    Yields (.illegalOpcode w off) s (fun t => Entered u t 0x01 (word (w.toNat + off * 2 ^ 32))) := by
  have hg : u.ctx.gang = false := by rw [State.translate_frame ht]; exact hs.1
  have trap : execIllegalOpcode w off s = .next (u.decodeTrap cIllegalOpcode (w.zeroExtend 64 ||| word (off * 2 ^ 32))) := by
    unfold execIllegalOpcode
    dsimp only
    rw [if_neg (by simp [hs.2.1, h4]; omega), ht]
    dsimp only
    rw [if_pos ⟨(readAt_eq_littleAt _ _ _).trans hw, hp⟩]
  refine ⟨_, trap, ?_⟩
  rw [zeroExtend_or_offset w off (by omega)]
  exact State.decodeTrap_entered _ _ hg

/-- The fetch of a word of the pair, by what its translation answers. -/
theorem execFetchFault_eq {s : State} {va : Word} (hs : Alone s) (h16 : (va - s.ctx.pc).toNat < 16)
    (h4 : (va - s.ctx.pc).toNat % 4 = 0) : execFetchFault va s = .next (
      match s.translate .l1 va.toNat .fetch with
      | .ok (t, s1) =>
        if t.tlb.mt == 2 || t.tlb.mt == 4 then s1.decodeTrap cPermission va
        else if s1.pkg.poisonedAt t.pa 4 then s1.decodeTrap cPoison va else s
      | .error .outOfRange => s.decodeTrap cTranslation va
      | .error (.missing l ea) => s.decodeTrap cTranslation va (some (parkOf va.toNat l ea false .fetch 0))
      | .error (.malformed l ea) => s.decodeTrap cTranslation va (some (parkOf va.toNat l ea true .fetch 0))
      | .error .denied => s.decodeTrap cPermission va
      | .error .wait => s) := by
  have hn : ¬ (s.ctx.ready = false ∨ 16 ≤ (va - s.ctx.pc).toNat ∨ (va - s.ctx.pc).toNat % 4 ≠ 0) := by
    rintro (h | h | h)
    · exact absurd (hs.2.1.symm.trans h) (by decide)
    · exact absurd h16 (Nat.not_lt.2 h)
    · exact h h4
  exact congrArg Host.Outcome.next (if_neg hn)

theorem translate_outOfRange {s : State} {which : TlbKind} {va : Nat} {k : Acc} (h : 2 ^ 56 ≤ va) :
    s.translate which va k = .error .outOfRange := if_pos h

theorem fetchFault_entered {s : State} {va : Word} (hs : Alone s) (h16 : (va - s.ctx.pc).toNat < 16)
    (h4 : (va - s.ctx.pc).toNat % 4 = 0) :
    (s.translate .l1 va.toNat .fetch = .error .denied → Yields (.fetchFault va) s (fun t => Entered s t 0x07 va))
    ∧ (2 ^ 56 ≤ va.toNat → Yields (.fetchFault va) s (fun t => Entered s t 0x06 va))
    ∧ (∀ (tr : Trans) (u : State), s.translate .l1 va.toNat .fetch = .ok (tr, u) →
        ((tr.tlb.mt = 2 ∨ tr.tlb.mt = 4) → Yields (.fetchFault va) s (fun t => Entered u t 0x07 va))
        ∧ (tr.tlb.mt ≠ 2 → tr.tlb.mt ≠ 4 → u.pkg.poisonedAt tr.pa 4 = true →
          Yields (.fetchFault va) s (fun t => Entered u t 0x08 va))) := by
  have eq := execFetchFault_eq hs h16 h4
  refine ⟨fun h => ?_, fun h => ?_, fun tr u h => ?_⟩
  · rw [h] at eq
    exact ⟨_, eq, State.decodeTrap_entered _ _ hs.1⟩
  · rw [translate_outOfRange h] at eq
    exact ⟨_, eq, State.decodeTrap_entered _ _ hs.1⟩
  · have hg : u.ctx.gang = false := by rw [State.translate_frame h]; exact hs.1
    rw [h] at eq
    refine ⟨fun hm => ⟨_, eq, ?_⟩, fun h2 h4 hp => ⟨_, eq, ?_⟩⟩
    · dsimp only
      rw [if_pos (by simpa using hm)]
      exact State.decodeTrap_entered _ _ hg
    · dsimp only
      rw [if_neg (by simp [h2, h4]), if_pos hp]
      exact State.decodeTrap_entered _ _ hg

/-! #### Interrupts (R46, R255) -/

theorem Freeze.extra_zero (f : Freeze) (cyc clock : Nat) : f.extra cyc clock 0 = 0 := by
  have none : (fun (e : Nat) (r : Nat × Nat) =>
      if clock < r.1 ∧ r.1 ≤ clock + 0 then Nat.max e (r.2 - (cyc + (r.1 - clock))) else e) = fun e _ => e := by
    funext e r
    exact if_neg (by omega)
  unfold Freeze.extra
  rw [none]
  exact List.foldl_fixed' (fun _ => rfl) _

theorem State.pass_zero_ctx (s : State) : (s.pass 0).ctx = s.ctx := by
  have cyc : (s.pass 0).pkg.cyc = s.pkg.cyc := by
    rw [State.pass_cyc, Freeze.extra_zero, ite_self, Nat.add_zero]
  show s.ctx.timerPast s.pkg.cyc (s.pass 0).pkg.cyc = s.ctx
  rw [cyc]
  unfold Ctx.timerPast
  split
  · next h => exact Ctx.timerAt_early h
  · rfl

theorem State.interrupted_holds {s : State} (hg : s.ctx.gang = false) (h : s.interrupted = true) : s.ctx.holds = true := by
  unfold State.interrupted at h
  rw [State.mateCtxs_alone hg] at h
  simp only [List.all_cons, Bool.and_eq_true] at h
  exact h.1.1.1.1.1.1.1

theorem takeInterrupt_entered {s : State} (hs : Alone s) (h : s.interrupted = true) (hb : s.ctx.board = []) :
    Yields .takeInterrupt s (fun t => Entered s t 0x00 (s.ctx.ipend &&& s.ctx.imask)) := by
  obtain ⟨hg, -, thawed⟩ := hs
  have closed : (s.inCtxWith s.coreNo s.ctx.bank (fun u => (u, u.ctx.closing u.now))).2 = s.now := by
    rw [State.inCtxWith_self s _ rfl]
    simp [Ctx.closing, hb, latest]
  have holds : (s.pass 0).ctx.holds = true := by
    rw [State.pass_zero_ctx]
    exact State.interrupted_holds hg h
  have p := s.pass_elapsed 0
  have own : (((s.pass 0).bankOf (s.pass 0).coreNo (s.pass 0).ctx.taskh).map
      (fun b => ((((s.pass 0).coreAt (s.pass 0).coreNo).bankCtx b).sources_, (none : Option Park)))
      |>.or (if (s.pass 0).coreNo = (s.pass 0).coreNo then some ((s.pass 0).ctx.sources_, none) else none))
      = some (s.ctx.ipend &&& s.ctx.imask, none) := by
    rw [State.bankOf_self holds, Option.map_some, State.bankCtx_coreAt_self, Option.some_or, State.pass_zero_ctx]
    rfl
  refine ⟨_, congrArg Host.Outcome.next (if_pos (by simp [h, thawed])), ?_⟩
  rw [State.mates_alone hg]
  have settled : [(s.coreNo, s.ctx.bank)].foldl
      (fun t k => Nat.max t (s.inCtxWith k.1 k.2 (fun u => (u, u.ctx.closing u.now))).2) s.now - s.now = 0 := by
    rw [List.foldl_cons, List.foldl_nil, closed]
    exact Nat.sub_eq_zero_of_le (Nat.max_le.2 ⟨le_rfl, le_rfl⟩)
  dsimp only
  rw [settled, State.passTeam_self]
  exact Entered.earlier p (State.allTrap_entered (p.gang.trans hg) own)

/-! #### The limit of a late reply (R250) -/

theorem State.pass_undo (s : State) (n : Nat) : (s.pass n).core.undo = s.core.undo := by
  unfold State.pass
  dsimp only
  split <;> rfl

theorem Ctx.timerPast_ready {c : Ctx} (old cyc : Nat) (h : c.ready = true) : (c.timerPast old cyc).ready = true := by
  have resumed (x : Word) : ({ c with ipend := x, eventFlag := true, halted := false } : Ctx).ready = true := by
    simp only [Ctx.ready, Bool.and_eq_true] at h ⊢
    exact ⟨h.1, rfl⟩
  unfold Ctx.timerPast Ctx.timerAt
  split
  · split
    · split
      · exact h
      · dsimp only
        split
        · exact resumed _
        · exact h
    · exact h
  · exact h

theorem State.pass_ready {s : State} (n : Nat) (h : s.ctx.ready = true) : (s.pass n).ctx.ready = true :=
  Ctx.timerPast_ready _ _ h

/-- Without its late reply, or its correction. -/
def Freeze.replied (f : Freeze) : Freeze := { f with late := none }
def Freeze.corrected (f : Freeze) : Freeze := { f with correctUntil := 0 }

theorem Elapsed.replied {s t : State} (h : Elapsed s t) : Elapsed (s.refrozen Freeze.replied) (t.refrozen Freeze.replied) :=
  congrArg (fun x : State => x.refrozen Freeze.replied) (show t = s.elapsedFrom t from h)

theorem Elapsed.corrected {s t : State} (h : Elapsed s t) :
    Elapsed (s.refrozen Freeze.corrected) (t.refrozen Freeze.corrected) :=
  congrArg (fun x : State => x.refrozen Freeze.corrected) (show t = s.elapsedFrom t from h)

/-- The state in which the limit of a late reply has passed and no freeze of the core's own is left. -/
def State.thawed (s : State) : State :=
  let t := (s.pass (s.core.freeze.lateSince + 65536 - s.pkg.cyc)).refrozen Freeze.replied
  (t.pass (t.core.freeze.correctUntil - t.pkg.cyc)).refrozen Freeze.corrected

theorem State.thawed_elapsed (s : State) :
    Elapsed ((s.refrozen Freeze.replied).refrozen Freeze.corrected) s.thawed :=
  ((s.pass_elapsed _).replied.trans (State.pass_elapsed _ _)).corrected

theorem State.thawed_undo (s : State) : s.thawed.core.undo = s.core.undo :=
  (State.pass_undo _ _).trans (State.pass_undo s _)

theorem State.thawed_ready {s : State} (h : s.ctx.ready = true) : s.thawed.ctx.ready = true :=
  State.pass_ready (s := (s.pass _).refrozen Freeze.replied) _ (State.pass_ready _ h)

/-- A freeze in force holds the clock; one that is not has no time left to wait for. -/
theorem State.pass_correction_clock (s : State) :
    (s.pass (s.core.freeze.correctUntil - s.pkg.cyc)).core.clock = s.core.clock := by
  by_cases h : s.core.freeze.correctUntil = 0
  · rw [h, Nat.zero_sub]
    unfold State.pass
    dsimp only
    split <;> rfl
  · exact State.pass_clock_frozen _ (State.frozen_of_correction h)

theorem State.thawed_clock {s : State} (h : s.frozen = true) : s.thawed.core.clock = s.core.clock :=
  (State.pass_correction_clock ((s.pass _).refrozen Freeze.replied)).trans (State.pass_clock_frozen _ h)

/-- A window of the running strand that is still open (R242). -/
def State.openWindow (s : State) (u : Undo) : Bool :=
  u.bank == s.ctx.bank && u.due.elim true (fun d => decide (s.now < d))

theorem execFreezeTimeout_eq {s : State} {va : Word} (hg : s.ctx.gang = false) (hl : s.core.freeze.late = some va) :
    execFreezeTimeout s = .next (match s.thawed.core.undo.filter s.thawed.openWindow with
      | some u => if s.thawed.ctx.ready && !s.thawed.ctx.gang then (s.thawed.undoTrap u cFreezeTimeout va).settleTrap
          else if s.thawed.ctx.ready then s.thawed.trapNow cFreezeTimeout va else s.thawed
      | none => if s.thawed.ctx.ready then s.thawed.trapNow cFreezeTimeout va else s.thawed) := by
  have replied := State.onFreeze_alone (s := s.pass (s.core.freeze.lateSince + 65536 - s.pkg.cyc))
    ((s.pass_elapsed _).gang.trans hg) (fun f => { f with late := none })
  have corrected (t : State) (ht : t.ctx.gang = false) := State.onFreeze_alone ht (fun f => { f with correctUntil := 0 })
  unfold execFreezeTimeout
  rw [hl]
  dsimp only
  rw [if_neg (by simp [hg]), replied, corrected]
  · rfl
  · exact (State.pass_elapsed _ _).gang.trans ((s.pass_elapsed _).gang.trans hg)

theorem State.thawed_entered {s t : State} {cause : Nat} {eval : Word} (h : Entered s.thawed t cause eval) :
    Entered s t cause eval := by
  have k : Entered ((s.refrozen Freeze.replied).refrozen Freeze.corrected) t cause eval :=
    Entered.earlier s.thawed_elapsed h
  exact k

/-- A trap of the pair whose window is open enters its handler at that pair. -/
theorem State.undoTrap_enters (s : State) (u : Undo) (cause : Nat) (eval : Word) :
    let t := (s.undoTrap u cause eval).settleTrap
    t.ctx.epc = u.pair ∧ t.ctx.ecause = word cause ∧ t.ctx.eval = eval ∧ t.ctx.pc = s.ctx.tvec + word (64 * cause)
    ∧ t.pkg.mem = s.pkg.mem ∧ t.core.freeze.late = s.core.freeze.late := by
  obtain ⟨epc, ecause, heval, npc, -⟩ := (s.undone u).takeTrap_enters cause eval true
  have h := (s.undone u).takeTrap_handled cause eval true
  have mem := h.same (fun t => t.pkg.mem) (fun _ => rfl)
  have late := h.same (fun t => t.core.freeze.late) (fun _ => rfl)
  have p := (s.undoTrap u cause eval).afterTrap.pass_elapsed (s.undoTrap u cause eval).entryTime
  refine ⟨?_, ?_, ?_, ?_, ?_, ?_⟩
  · exact (p.same (fun t => t.ctx.epc) (fun _ => rfl)).trans epc
  · exact (p.same (fun t => t.ctx.ecause) (fun _ => rfl)).trans ecause
  · exact (p.same (fun t => t.ctx.eval) (fun _ => rfl)).trans heval
  · exact (p.same (fun t => t.ctx.pc) (fun _ => rfl)).trans npc
  · exact p.mem.trans mem
  · exact (p.same (fun t => t.core.freeze.late) (fun _ => rfl)).trans late

theorem freezeTimeout_yields {s : State} {va : Word} (hg : s.ctx.gang = false) (hr : s.ctx.ready = true)
    (hl : s.core.freeze.late = some va) :
    (s.core.undo = none → Yields .freezeTimeout s (fun t => Entered s t 0x0C va ∧ t.core.freeze.late = none))
    ∧ (∀ u : Undo, s.core.undo = some u → u.bank = s.ctx.bank → (u.due = none ∨ ∃ d, u.due = some d ∧ s.core.clock < d) →
      Yields .freezeTimeout s (fun t => t.ctx.epc = u.pair ∧ t.ctx.ecause = 0x0C ∧ t.ctx.eval = va
        ∧ t.ctx.pc = s.ctx.tvec + 64 * 0x0C ∧ t.pkg.mem = s.pkg.mem ∧ t.core.freeze.late = none)) := by
  have eq := execFreezeTimeout_eq hg hl
  have p := s.thawed_elapsed
  have gang : s.thawed.ctx.gang = false := p.gang.trans hg
  have late : s.thawed.core.freeze.late = none := p.same (fun t => t.core.freeze.late) (fun _ => rfl)
  have bank : s.thawed.ctx.bank = s.ctx.bank := p.same (fun t => t.ctx.bank) (fun _ => rfl)
  have tvec : s.thawed.ctx.tvec = s.ctx.tvec := p.same (fun t => t.ctx.tvec) (fun _ => rfl)
  have mem : s.thawed.pkg.mem = s.pkg.mem := p.mem
  have clock := State.thawed_clock (State.frozen_of_late (s := s) (by rw [hl]; rfl))
  have back (t : State) := State.thawed_entered (s := s) (t := t) (cause := cFreezeTimeout) (eval := va)
  rw [s.thawed_undo, State.thawed_ready hr] at eq
  generalize s.thawed = x at eq gang late bank tvec mem clock back
  refine ⟨fun hu => ⟨_, eq, ?_⟩, fun u hu hb hd => ⟨_, eq, ?_⟩⟩
  · rw [hu]
    show Entered s (x.trapNow cFreezeTimeout va) cFreezeTimeout va ∧ (x.trapNow cFreezeTimeout va).core.freeze.late = none
    exact ⟨back _ ((Elapsed.refl x).trapNow_entered gang _ va),
      ((State.trapNow_handled gang _ va).same (fun t => t.core.freeze.late) (fun _ => rfl)).trans late⟩
  · have opened : x.openWindow u = true := by
      unfold State.openWindow State.now
      rw [bank, clock, hb]
      rcases hd with h | ⟨d, h, hlt⟩
      · simp [h]
      · simp [h, hlt]
    obtain ⟨epc, ecause, heval, pc, same, still⟩ := x.undoTrap_enters u cFreezeTimeout va
    rw [hu, Option.filter_some, if_pos opened, gang]
    exact ⟨epc, ecause, heval, pc.trans (by rw [tvec]; rfl), same.trans mem, still.trans late⟩

end Sys2Proof.Machine

section

open Sys2Proof.Machine Sys2Proof.Claims

/-- Settles O43: each event passes time to the cycle it waits for, and what lands by then commits. -/
theorem timePassesToTheEventsThatLand : Obligations.TimePassesToTheEventsThatLand := by
  intro s hg
  refine ⟨timer_yields hg, fun x hx => landing_yields (landingEvents_await x hx) hg, fun x hx => ?_, fun va h => ?_,
    fun h => ?_, lateReplyArrival_yields hg, fun n hn => ?_, ⟨s, rfl, rfl⟩, fun h => ?_, correctionFreezeEnd_yields hg⟩
  · obtain ⟨f, hf, he⟩ := commitEvents_await x hx
    exact commit_yields hf (he s) hg
  · exact ⟨_, congrArg Host.Outcome.next (if_neg (by simp [h])), State.onFreeze_alone hg _⟩
  · exact ⟨_, congrArg Host.Outcome.next (if_pos (by simp [h])), rfl⟩
  · exact ⟨_, congrArg Host.Outcome.next (if_neg (by omega)), State.onFreeze_alone hg _⟩
  · exact ⟨_, congrArg Host.Outcome.next (if_pos h), rfl⟩

/-- Settles O42: each event, where its trap is due, lets time pass and enters the handler at the pair of the strand. -/
theorem trapsWithoutAnInstructionEnterTheirHandler : Obligations.TrapsWithoutAnInstructionEnterTheirHandler := by
  refine ⟨fun s hs => ⟨fun q hst hr hq => ?_, fun r hst hr h1 h10 => ?_, fun e hr ht => trapEntry_arith hs hr ht,
      fun tag e a hr => trapEntry_remote hs hr, fun w off tr u h16 h4 ht hw hp => illegalOpcode_entered hs h16 h4 ht hw hp,
      fun va h16 h4 => fetchFault_entered hs h16 h4, fun h hb => takeInterrupt_entered hs h hb⟩,
    fun s va hg hr hl => freezeTimeout_yields hg hr hl, fun s => ⟨fun hg hst => ⟨fun q => ?_, fun r => ?_⟩,
      fun hr => ⟨fun c e => ?_, fun w off => ?_, fun va => ?_⟩, fun h => ?_, fun h => ?_⟩⟩
  · exact ⟨_, execQueueTimeout_eq q s, State.stallLimit_entered _ _ _ hs.1 hst (by simp [hr, hq]) rfl⟩
  · exact ⟨_, execWatchdog_eq r s, State.stallLimit_entered _ _ _ hs.1 hst (by simp [hr]) (by simp [h1, h10])⟩
  · exact ⟨_, execQueueTimeout_eq q s, State.stallLimit_idle _ _ _ _ hg hst⟩
  · exact ⟨_, execWatchdog_eq r s, State.stallLimit_idle _ _ _ _ hg hst⟩
  · exact ⟨_, congrArg Host.Outcome.next (if_pos (.inl hr)), rfl⟩
  · exact ⟨_, congrArg Host.Outcome.next (if_pos (.inl hr)), rfl⟩
  · exact ⟨_, congrArg Host.Outcome.next (if_pos (.inl hr)), rfl⟩
  · exact ⟨_, congrArg Host.Outcome.next (if_neg (by simp [h])), rfl⟩
  · refine ⟨s, ?_, rfl⟩
    show execFreezeTimeout s = _
    unfold execFreezeTimeout
    rw [h]

end

/-! SUPPORT. The elements of a lane entry, the loop over them where one faults, and the frames that the elementwise vector
forms share: VSTART at the end, tags that do not fit, and the fault of an element (R38, R130 to R133). -/

namespace Sys2Proof.Machine

open Sys2Proof.Safety Sys2Proof.Claims

/-! ### Elements of a lane entry -/

theorem elem_testBit (w : Nat) (d : Lanes) (i b : Nat) :
    (elem w d i).testBit b = (decide (b < w) && d.getLsbD (w * i + b)) := by
  unfold elem
  rw [BitVec.testBit_toNat, BitVec.getLsbD_extractLsb']

/-- Elements of one width do not overlap. -/
theorem elem_bit_inj {w i j b c : Nat} (hb : b < w) (hc : c < w) (h : w * i + b = w * j + c) : i = j := by
  have e : i = (w * i + b) / w := by rw [Nat.mul_add_div (by omega), Nat.div_eq_of_lt hb, Nat.add_zero]
  rw [e, h, Nat.mul_add_div (by omega), Nat.div_eq_of_lt hc, Nat.add_zero]

theorem elem_setElem {w i j : Nat} (d : Lanes) (x : Nat) (hj : j < 8192 / w) :
    elem w (setElem w d i x) j = if j = i then x % 2 ^ w else elem w d j := by
  have fits : (j + 1) * w ≤ 8192 := (Nat.le_div_iff_mul_le (Nat.pos_of_ne_zero (by rintro rfl; simp at hj))).mp hj
  apply Nat.eq_of_testBit_eq
  intro b
  by_cases hb : b < w
  · have inside : w * j + b < 8192 := by nlinarith
    rw [elem_testBit]
    unfold setElem
    by_cases h : j = i
    · subst h
      simp [hb, inside, show b < 8192 by omega, -BitVec.getLsbD_eq_getElem, BitVec.getLsbD_ofNat]
    · have apart : w * i ≤ w * j + b → ¬ (w * j + b - w * i < w) := fun hle hlt =>
        h (elem_bit_inj (c := w * j + b - w * i) hb hlt (by omega))
      rw [if_neg h, elem_testBit]
      by_cases hle : w * i ≤ w * j + b
      · simp [hb, inside, apart hle]
        exact fun _ ht => absurd (BitVec.lt_of_getLsbD ht) (apart hle)
      · simp [hb, inside, show w * j + b < w * i by omega]
  · rw [elem_testBit]
    split
    · simp [hb]
    · simp [elem_testBit, hb]

/-! ### The loop over elements, where one records an enabled flag -/

/-- R130 and R133: the run stops at the lowest selected element that records an enabled flag; the selected elements below
it are written, and no other. -/
theorem elemLoop_stop {w : Nat} {active : Nat → Bool} {op : Nat → Nat × Fx} {en : BitVec 6} {k : Nat}
    (hk : active k = true) (hen : (op k).2.flags &&& en ≠ 0) (fuel i : Nat) (d : Lanes) (fx : Fx) (hik : i ≤ k)
    (hki : k < i + fuel) (below : ∀ j, i ≤ j → j < k → active j = true → (op j).2.flags &&& en = 0) :
    (elemLoop w active op en fuel i d fx).stop = some (k, (op k).2.flags) ∧
      ∀ j, j < 8192 / w → elem w (elemLoop w active op en fuel i d fx).data j =
        if i ≤ j ∧ j < k ∧ active j = true then (op j).1 % 2 ^ w else elem w d j := by
  induction fuel generalizing i d fx with
  | zero => omega
  | succ fuel ih =>
    by_cases hi : i = k
    · subst hi
      unfold elemLoop
      simp only [hk, hen, if_true, ne_eq, not_false_eq_true, true_and]
      intro j _
      rw [if_neg (by omega)]
    · have later (d' : Lanes) (fx' : Fx) := ih (i + 1) d' fx' (by omega) (by omega) (fun j h => below j (by omega))
      unfold elemLoop
      by_cases ha : active i = true
      · have quiet := below i le_rfl (by omega) ha
        simp only [ha, if_true, quiet, ne_eq, not_true_eq_false, if_false]
        obtain ⟨stop, data⟩ := later (setElem w d i (op i).1) (fx.and (op i).2)
        refine ⟨stop, fun j hj => (data j hj).trans ?_⟩
        rw [elem_setElem d _ hj]
        by_cases hji : j = i
        · subst hji
          simp [ha, show j < k by omega]
        · simp only [hji, if_false]
          simp only [show i + 1 ≤ j ↔ i ≤ j by omega]
      · simp only [ha, if_false, Bool.false_eq_true]
        obtain ⟨stop, data⟩ := later d fx
        refine ⟨stop, fun j hj => (data j hj).trans ?_⟩
        by_cases hji : j = i
        · subst hji
          simp [ha]
        · simp only [show i + 1 ≤ j ↔ i ≤ j by omega]

/-! ### VSTART at or past the end (R38) -/

theorem State.idle_iff (s : State) : s.idle = true ↔ s.ctx.vl.toNat % 2 ^ 11 ≤ startOf s := by
  simp [State.idle, Ctx.vln, Ctx.vsn, bits, startOf]

theorem vbinary_idle {s : State} (d a b : BitVec 6) (pr : BitVec 3) (ok : BitVec 5 → Bool)
    (okb : BitVec 5 → BitVec 5 → Bool) (op : BitVec 5 → Nat → Nat → Nat × Fx) (h : s.idle = true) :
    vbinary d a b pr ok okb op s = .next (s.setVs 0) := by
  unfold vbinary
  rw [if_pos h]
  rfl

theorem vunary_idle {s : State} (d a : BitVec 6) (pr : BitVec 3) (ok : BitVec 5 → Bool)
    (op : BitVec 5 → Nat → Nat × Fx) (h : s.idle = true) : vunary d a pr ok op s = .next (s.setVs 0) := by
  unfold vunary
  rw [if_pos h]
  rfl

theorem vfused_idle {s : State} (negp : Bool) (d a b : BitVec 6) (pr : BitVec 3) (h : s.idle = true) :
    vfused negp d a b pr s = .next (s.setVs 0) := by
  unfold vfused
  rw [if_pos h]
  rfl

/-! ### The listed forms through the frames they share -/

theorem vintForms_exec : ∀ p ∈ vintForms, ∃ op, ∀ d a b pr s, exec (p.1 d a b pr) s = vint d a b pr op s := by
  simp only [vintForms, List.forall_mem_cons]
  exact ⟨⟨vintOp (fun x y => x + y), fun _ _ _ _ _ => rfl⟩, ⟨vintOp (fun x y => x - y), fun _ _ _ _ _ => rfl⟩,
    ⟨vintOp (fun x y => x * y), fun _ _ _ _ _ => rfl⟩,
    ⟨fun t x y => vintOp (fun p q => p * q / 2 ^ tagWidth t) t x y, fun _ _ _ _ _ => rfl⟩,
    ⟨vpick true false, fun _ _ _ _ _ => rfl⟩, ⟨vpick true true, fun _ _ _ _ _ => rfl⟩,
    ⟨vpick false false, fun _ _ _ _ _ => rfl⟩, ⟨vpick false true, fun _ _ _ _ _ => rfl⟩, nofun⟩

theorem vlogicForms_exec : ∀ p ∈ vlogicForms, ∃ f, ∀ d a b pr s, exec (p.1 d a b pr) s = vlogic d a b pr f s := by
  simp only [vlogicForms, List.forall_mem_cons]
  exact ⟨⟨fun x y => x &&& y, fun _ _ _ _ _ => rfl⟩, ⟨fun x y => x ||| y, fun _ _ _ _ _ => rfl⟩,
    ⟨fun x y => x ^^^ y, fun _ _ _ _ _ => rfl⟩, ⟨fun x y => x ^^^ (x &&& y), fun _ _ _ _ _ => rfl⟩, nofun⟩

theorem vshiftForms_exec : ∀ p ∈ vshiftForms, ∃ f, ∀ d a b pr s, exec (p.1 d a b pr) s = vshift d a b pr f s := by
  simp only [vshiftForms, List.forall_mem_cons]
  exact ⟨⟨fun w x k => x * 2 ^ k % 2 ^ w, fun _ _ _ _ _ => rfl⟩, ⟨fun _ x k => x / 2 ^ k, fun _ _ _ _ _ => rfl⟩,
    ⟨fun w x k => intCode w (intValue true w x / 2 ^ k), fun _ _ _ _ _ => rfl⟩,
    ⟨fun w x k => x * 2 ^ k % 2 ^ w + x / 2 ^ (w - k), fun _ _ _ _ _ => rfl⟩, nofun⟩

theorem vfloatForms_exec : ∀ p ∈ vfloatForms, ∀ d a b pr s,
    exec (p.1 d a b pr) s = vflt d a b pr (p.2 s.ctx.rm) s := by
  simp only [vfloatForms, List.forall_mem_cons]
  exact ⟨fun _ _ _ _ _ => rfl, fun _ _ _ _ _ => rfl, fun _ _ _ _ _ => rfl, fun _ _ _ _ _ => rfl,
    fun _ _ _ _ _ => rfl, fun _ _ _ _ _ => rfl, nofun⟩

theorem binaryForms_idle {d a b : BitVec 6} {pr : BitVec 3} {s : State} (h : s.idle = true) :
    ∀ f ∈ vintForms.map (fun p => p.1) ++ vlogicForms.map (fun p => p.1) ++ vshiftForms.map (fun p => p.1)
        ++ vfloatForms.map (fun p => p.1) ++ [Instr.vfmacc, .vfnmacc], exec (f d a b pr) s = .next (s.setVs 0) := by
  intro f hf
  simp only [List.mem_append, List.mem_map] at hf
  obtain (((⟨p, hp, rfl⟩ | ⟨p, hp, rfl⟩) | ⟨p, hp, rfl⟩) | ⟨p, hp, rfl⟩) | hf := hf
  · obtain ⟨op, hx⟩ := vintForms_exec p hp
    exact (hx d a b pr s).trans (vbinary_idle d a b pr _ _ _ h)
  · obtain ⟨op, hx⟩ := vlogicForms_exec p hp
    exact (hx d a b pr s).trans (vbinary_idle d a b pr _ _ _ h)
  · obtain ⟨op, hx⟩ := vshiftForms_exec p hp
    exact (hx d a b pr s).trans (vbinary_idle d a b pr _ _ _ h)
  · exact (vfloatForms_exec p hp d a b pr s).trans (vbinary_idle d a b pr _ _ _ h)
  · simp only [List.mem_cons, List.not_mem_nil, or_false] at hf
    obtain rfl | rfl := hf
    · exact vfused_idle false d a b pr h
    · exact vfused_idle true d a b pr h

theorem unaryForms_idle {d a : BitVec 6} {pr : BitVec 3} {s : State} (h : s.idle = true) :
    ∀ f ∈ vunaryIntForms.map (fun p => p.1) ++ [Instr.vfsqrt, .vfabs, .vfneg],
      exec (f d a pr) s = .next (s.setVs 0) := by
  simp only [vunaryIntForms, List.map_cons, List.map_nil, List.cons_append, List.nil_append, List.forall_mem_cons]
  exact ⟨(vunary_idle d a pr _ _ h : execVabs d a pr s = _),
    (vunary_idle d a pr _ _ h : execVneg d a pr s = _),
    (vunary_idle d a pr _ _ h : execVnot d a pr s = _),
    (vunary_idle d a pr _ _ h : execVclz d a pr s = _),
    (vunary_idle d a pr _ _ h : execVpopc d a pr s = _),
    (vunary_idle d a pr _ _ h : execVfsqrt d a pr s = _),
    (vunary_idle d a pr _ _ h : execVfabs d a pr s = _),
    (vunary_idle d a pr _ _ h : execVfneg d a pr s = _), nofun⟩

theorem vectorPastItsEndWritesNothing : VectorPastItsEndWritesNothing := by
  intro d a b pr s h
  have idle := (State.idle_iff s).mpr h
  exact ⟨fun f hf => ⟨_, binaryForms_idle idle f hf, rfl⟩, fun f hf => ⟨_, unaryForms_idle idle f hf, rfl⟩⟩

/-! ### Sources and tags (R131) -/

theorem State.count_eq (s : State) (w : Nat) : s.count w = countOf s w := by
  simp [State.count, countOf, Ctx.vln, bits, vlmax, vlmaxOf]

theorem State.not_idle {s : State} {w : Nat} (h : startOf s < countOf s w) : s.idle = false := by
  have below : startOf s < s.ctx.vl.toNat % 2 ^ 11 := h.trans_le (Nat.min_le_left _ _)
  exact Bool.eq_false_iff.mpr fun k => absurd ((State.idle_iff s).mp k) (Nat.not_le.mpr below)

theorem State.not_nothing {s : State} {w : Nat} (h : startOf s < countOf s w) : s.nothing w = false := by
  unfold State.nothing
  rw [State.count_eq]
  simpa [Ctx.vsn, bits, startOf] using h

/-- A binary form whose sources can be read and which has elements to process: its tags are checked, and the
elements run. -/
theorem vbinary_runs {s s1 u : State} {ea eb : Entry} {a b : BitVec 6} (d : BitVec 6) (pr : BitVec 3)
    (ok : BitVec 5 → Bool) (okb : BitVec 5 → BitVec 5 → Bool) (op : BitVec 5 → Nat → Nat → Nat × Fx)
    (ha : s.takeV a = .ok (ea, s1)) (hb : s1.takeV b = .ok (eb, u)) (h : startOf s < countOf s (tagWidth ea.tag)) :
    vbinary d a b pr ok okb op s = finish s (do
      needTag (ok ea.tag) 0 ea.tag
      needTag (okb ea.tag eb.tag) 1 eb.tag
      elementwise s u d pr ea.tag (tagWidth ea.tag) (fun i =>
        op ea.tag (elem (tagWidth ea.tag) ea.data i) (elem (tagWidth ea.tag) eb.data i))) := by
  have idle : ¬ s.idle = true := by simp [State.not_idle h]
  have some : ¬ s.nothing (tagWidth ea.tag) = true := by simp [State.not_nothing h]
  unfold vbinary
  rw [if_neg idle, ha]
  dsimp only [bind, Except.bind]
  rw [hb]
  dsimp only
  rw [if_neg some]

theorem isInt_eq (t : BitVec 5) : isInt t = intTagOk t := by
  unfold isInt intTagOk intTag
  split <;> simp_all
  omega


theorem floatTagOk_eq (s : State) (t : BitVec 5) : floatTagOk s t = s.floatTag t := rfl

/-! ### A trap where no shadow result is live -/

theorem State.commitUpTo_of_no_live {s : State} (h : s.ctx.live = []) (t : Nat) : s.commitUpTo t = s := by
  unfold State.commitUpTo
  rw [h]

theorem State.resumed_no_live {s : State} (hl : s.ctx.live = []) (hh : s.ctx.held = [] ∨ s.ctx.resume = false) :
    s.resumed.ctx.live = [] := by
  unfold State.resumed
  split
  · obtain hh | hh := hh
    · simp [hl, hh]
    · simp_all
  · exact hl

/-- What a trap leaves as it stands where no result can commit: the core, where its lanes lie, and the progress. -/
def SameLanes (s t : State) : Prop :=
  t.core = s.core ∧ t.ctx.alloc = s.ctx.alloc ∧ t.ctx.vstart = s.ctx.vstart

theorem State.resumed_sameLanes (s : State) : SameLanes s s.resumed := by
  unfold State.resumed
  split <;> exact ⟨rfl, rfl, rfl⟩

theorem State.capture_sameLanes {s : State} (h : s.resumed.ctx.live = []) : SameLanes s s.capture := by
  have k := s.resumed_sameLanes
  unfold State.capture
  rw [State.commitUpTo_of_no_live h]
  dsimp only
  split
  · rw [h]
    exact k
  · exact k

theorem State.takeTrap_sameLanes {s : State} (hl : s.ctx.live = []) (hh : s.ctx.held = [] ∨ s.ctx.resume = false)
    (cause : Nat) (eval : Word) (late : Bool) : SameLanes s (s.takeTrap cause eval late) := by
  have k := State.capture_sameLanes (State.resumed_no_live hl hh)
  unfold State.takeTrap
  dsimp only
  generalize s.capture = u at k ⊢
  split
  · exact k
  · exact k

theorem SameLanes.entry {s t : State} (h : SameLanes s t) (e : Nat) : t.entry e = s.entry e := by
  obtain ⟨core, alloc, -⟩ := h
  unfold State.entry Core.entry Ctx.lfBase
  rw [core, alloc]

/-! ### Tags that do not fit (R131) -/

theorem tagTrap_yields {i : Instr} {s : State} {pos : Nat} {t : BitVec 5}
    (h : exec i s = finish s (tagTrap pos t)) :
    Yields i s (fun u => Trapped s u 0x04 (word (0x100 * pos + t.toNat)) ∧
      (s.ctx.live = [] → s.ctx.resume = false → u.core = s.core)) :=
  ⟨_, h, State.takeTrap_trapped s cTagMismatch _ false (by decide),
    fun hl hr => (State.takeTrap_sameLanes hl (.inr hr) _ _ _).1⟩

theorem vectorTagMismatchTraps : VectorTagMismatchTraps := by
  intro p hp d a b pr s s1 u ea eb ha hb h
  obtain ⟨op, hx⟩ := vintForms_exec p hp
  have run := (hx d a b pr s).trans (vbinary_runs d pr isInt sameTag op ha hb h)
  rw [isInt_eq] at run
  refine ⟨fun bad => ?_, fun good ne => ?_⟩
  · rw [bad] at run
    simpa only [Nat.mul_zero, Nat.zero_add] using tagTrap_yields (pos := 0) (t := ea.tag) run
  · have differ : sameTag ea.tag eb.tag = false := by simpa [sameTag] using fun k => ne k.symm
    rw [good, differ] at run
    exact tagTrap_yields (pos := 1) run

/-! ### An element that faults (R133) -/

/-- A source read by name pops a queue at most. -/
theorem State.takeRef_frame {s t : State} {r : VRef} {v : Entry} (h : s.takeRef r = .ok (v, t)) :
    t = { s with core := { s.core with queues := t.core.queues } } := by
  unfold State.takeRef at h
  dsimp only [bind, Except.bind] at h
  split at h
  · cases h
  · split at h
    · split at h
      · cases h
      · cases h
        rfl
    · split at h
      · cases h
      · split at h
        · cases h
        · cases h
          rfl

theorem State.takeV_ctx {s t : State} {n : BitVec 6} {v : Entry} (h : s.takeV n = .ok (v, t)) : t.ctx = s.ctx := by
  rw [State.takeRef_frame h]

theorem State.takeV_entry {s t : State} {n : BitVec 6} {v : Entry} (h : s.takeV n = .ok (v, t)) (e : Nat) :
    t.entry e = s.entry e := by
  rw [State.takeRef_frame h]
  rfl

/-- R73: the flags of a record that are enabled, as the loop over elements tests them. -/
theorem enabledIn_iff (s : State) (fx : Fx) : enabledIn s fx ↔ fx.flags &&& s.ctx.enables ≠ 0 := by
  have e : s.ctx.enables = BitVec.ofNat 6 (s.ctx.acr.toNat / 2 ^ 16) := by
    apply BitVec.eq_of_toNat_eq
    simp [Ctx.enables, bits]
  rw [e]
  rfl

/-- R20, R67 and R130: the elements that the run visits and that its predicate selects. -/
theorem mem_processed {s : State} {w : Nat} {pr : BitVec 3} {i : Nat} (hw : vlmaxOf w ≤ 1024) :
    i ∈ processed s w pr ↔ i < s.ctx.upTo (countOf s w) ∧ startOf s ≤ i ∧ s.active pr i = true := by
  have hi : i < countOf s w → i < 1024 := fun h => (h.trans_le (Nat.min_le_right _ _)).trans_le hw
  have sel : (pr == 0 || (s.ctx.p[pr.toNat]).getLsbD i) = true ∧ i < 1024 ↔ s.active pr i = true ∧ i < 1024 := by
    unfold State.active State.pr
    by_cases h : pr = 0
    · rw [if_pos h, BitVec.getLsbD_allOnes]
      simp [h]
    · rw [if_neg h, beq_false_of_ne h, Bool.false_or]
  have cut (n : Nat) : i < s.ctx.upTo n ↔ i < n ∧ within s i = true := by
    unfold Ctx.upTo within
    cases s.ctx.cut with
    | none => simp
    | some c => exact lt_min_iff.trans (and_congr_right' decide_eq_true_iff.symm)
  unfold processed processedTo selectedTo
  simp only [List.mem_filter, List.mem_range, Bool.and_eq_true, decide_eq_true_eq, cut]
  tauto

/-- The element a run stops at stops the instruction with the elements below it in the entry (R133). -/
theorem writeRun_stop {s u : State} {e k : Nat} {tag : BitVec 5} {full : Bool} {run : ElemRun} {fl : BitVec 6}
    (h : run.stop = some (k, fl)) :
    ∃ v : Entry, v.data = run.data ∧ writeRun s u (.entry e) tag full run =
      .error (.late (((s.setEntry e v).record run.fx).setVs k) cArith (fl.zeroExtend 64)) := by
  unfold writeRun
  rw [h]
  exact ⟨_, rfl, rfl⟩

theorem State.setEntry_entry (s : State) {e : Nat} (v : Entry) (h : s.ctx.lfBase + e < 256) :
    (s.setEntry e v).entry e = v := by
  show ((s.core.lane.setIfInBounds (s.ctx.lfBase + e) v).getD (s.ctx.lfBase + e) Entry.zero) = v
  simp [Vector.getD, h]

/-- R130: an elementwise form into a lane entry whose checks pass is the run over its elements, written back. -/
theorem elementwise_entry {s u : State} {d : BitVec 6} {e : Nat} (pr : BitVec 3) (tag : BitVec 5) (w : Nat)
    (op : Nat → Nat × Fx) (hd : u.vref d = .entry e) (href : u.checkRef (u.vref d) = .ok ())
    (hroom : u.checkRoom (u.vref d) = .ok ()) :
    ∃ full, elementwise s u d pr tag w op = writeRun s u (.entry e) tag full
      (elemLoop w (u.active pr) op u.ctx.enables (u.ctx.upTo (u.count w) - u.ctx.vsn) u.ctx.vsn (u.entry e).data .none) := by
  unfold elementwise elementwiseOn elementwiseN elementwiseZ
  dsimp only
  rw [href, hroom, hd]
  exact ⟨_, rfl⟩

/-- R133: the state that an element fault leaves, and the trap on it. -/
theorem elementFault_yields {i : Instr} {s : State} {e k : Nat} {v : Entry} {fx : Fx} {fl : BitVec 6}
    (hl : s.ctx.live = []) (hh : s.ctx.held = []) (he : s.ctx.lfBase + e < 256)
    (h : exec i s = finish s (.error (.late (((s.setEntry e v).record fx).setVs k) cArith (fl.zeroExtend 64)))) :
    Yields i s (fun t => t.ctx.ecause = 0x09 ∧ t.ctx.eval = fl.zeroExtend 64 ∧ t.ctx.vstart = word k
      ∧ t.ctx.epc = s.pairAddr ∧ t.entry e = v) := by
  have same := State.takeTrap_sameLanes (s := ((s.setEntry e v).record fx).setVs k) hl (.inl hh) cArith
    (fl.zeroExtend 64) true
  have trapped := State.takeTrap_trapped (((s.setEntry e v).record fx).setVs k) cArith (fl.zeroExtend 64) true (by decide)
  obtain ⟨epc, ecause, eval, -⟩ := trapped
  have entry : (((s.setEntry e v).record fx).setVs k).entry e = (s.setEntry e v).entry e := rfl
  exact ⟨_, h, ecause, eval, same.2.2, epc, (same.entry e).trans (entry.trans (s.setEntry_entry v he))⟩

theorem vlmaxOf_floatTag {s : State} {t : BitVec 5} (h : s.floatTag t = true) :
    vlmaxOf (tagWidth t) ≤ 1024 := by
  have range : 11 ≤ t.toNat ∧ t.toNat ≤ 16 := by
    simp only [State.floatTag, isIeee, isSlash, Bool.or_eq_true, Bool.and_eq_true, decide_eq_true_eq] at h
    omega
  have all : ∀ t : BitVec 5, 11 ≤ t.toNat ∧ t.toNat ≤ 16 → vlmaxOf (tagWidth t) ≤ 1024 := by decide
  exact all t range

/-- R133: the lowest processed element that records an enabled flag stops an elementwise form into a lane entry. -/
theorem elementwise_fault {s u : State} {d : BitVec 6} {pr : BitVec 3} {tag : BitVec 5} {w e k : Nat}
    {op : Nat → Nat × Fx} (hctx : u.ctx = s.ctx) (hentry : u.entry e = s.entry e) (hd : u.vref d = .entry e)
    (href : u.checkRef (u.vref d) = .ok ()) (hroom : u.checkRoom (u.vref d) = .ok ()) (hw : vlmaxOf w ≤ 1024)
    (hk : k ∈ processed s w pr) (hen : enabledIn s (op k).2)
    (below : ∀ i ∈ processed s w pr, i < k → ¬ enabledIn s (op i).2) :
    ∃ (v : Entry) (fx : Fx), elementwise s u d pr tag w op =
        .error (.late (((s.setEntry e v).record fx).setVs k) cArith ((op k).2.flags.zeroExtend 64))
      ∧ ∀ i, i < 8192 / w → elem w v.data i =
          if i ∈ processed s w pr ∧ i < k then (op i).1 % 2 ^ w else elem w (s.entry e).data i := by
  have mem (i : Nat) := mem_processed (s := s) (pr := pr) (i := i) hw
  have active : u.active pr = s.active pr := by
    unfold State.active State.pr
    rw [hctx]
  have count : u.count w = countOf s w := by
    rw [State.count_eq, countOf, hctx, countOf]
  have start : s.ctx.vsn = startOf s := by simp [Ctx.vsn, bits, startOf]
  obtain ⟨full, run⟩ := elementwise_entry (s := s) pr tag w op hd href hroom
  rw [active, count, hctx, hentry, start] at run
  obtain ⟨kEnd, kStart, kActive⟩ := (mem k).mp hk
  obtain ⟨stop, data⟩ := elemLoop_stop (w := w) kActive ((enabledIn_iff s _).mp hen)
    (s.ctx.upTo (countOf s w) - startOf s) (startOf s) (s.entry e).data .none kStart (by omega)
    (fun j hj hjk ha => not_not.mp fun on =>
      below j ((mem j).mpr ⟨hjk.trans kEnd, hj, ha⟩) hjk ((enabledIn_iff s _).mpr on))
  obtain ⟨v, hv, written⟩ := writeRun_stop (s := s) (u := u) (e := e) (tag := tag) (full := full) stop
  refine ⟨v, _, run.trans written, fun i hi => ?_⟩
  rw [hv, data i hi]
  refine if_congr ?_ rfl rfl
  rw [mem i]
  exact ⟨fun ⟨hj, hjk, ha⟩ => ⟨⟨hjk.trans kEnd, hj, ha⟩, hjk⟩, fun ⟨⟨_, hj, ha⟩, hjk⟩ => ⟨hj, hjk, ha⟩⟩

theorem vectorElementFaultKeepsElementsBelow : VectorElementFaultKeepsElementsBelow := by
  rintro d a b pr s u ea eb e k ⟨⟨s1, ha, hb⟩, href, hroom⟩ hd he hl hh h ok same p hp w res hk hen below
  obtain ⟨v, fx, fault, data⟩ := elementwise_fault (tag := ea.tag) ((State.takeV_ctx hb).trans (State.takeV_ctx ha))
    ((State.takeV_entry hb e).trans (State.takeV_entry ha e)) hd href hroom (vlmaxOf_floatTag ok) hk hen below
  have run : exec (p.1 d a b pr) s = finish s (elementwise s u d pr ea.tag w res) := by
    rw [vfloatForms_exec p hp, vflt, vbinary_runs d pr s.floatTag sameTag _ ha hb h, ← floatTagOk_eq, ok, same, sameTag,
      beq_self_eq_true]
    rfl
  rw [fault] at run
  obtain ⟨t, ht, ecause, eval, vstart, epc, entry⟩ := elementFault_yields hl hh he run
  refine ⟨t, ht, ecause, eval, vstart, epc, ?_⟩
  rw [entry]
  exact data

end Sys2Proof.Machine

section

open Sys2Proof.Machine

/-- Settles O12: `elemLoop_stop` for the element that faults, and the shared frames of the forms for the other two. -/
theorem vectorFormsStopAtFaultsEndsAndTags : Obligations.VectorFormsStopAtFaultsEndsAndTags :=
  ⟨vectorElementFaultKeepsElementsBelow, vectorPastItsEndWritesNothing, vectorTagMismatchTraps⟩

end

/-! SUPPORT. The management controller: what the error log writes, each command by an equation where the controller takes
commands, package reset, WAKE, PWRCAP and the power windows (R46, R403 to R408, R413, R416). -/

namespace Sys2Proof.Machine

open Sys2Proof.Safety Sys2Proof.Claims

/-! ### What the error log writes (R408) -/

/-- `p` but for what a write at its home can change, taken from `q`. -/
def Pkg.storedFrom (p q : Pkg) : Pkg := { p with mem := q.mem, poisoned := q.poisoned, snap := q.snap, dies := q.dies }

/-- `q` is `p` after writes at their homes. -/
def Pkg.Stored (p q : Pkg) : Prop := q = p.storedFrom q

theorem Pkg.Stored.trans {p q r : Pkg} (h : p.Stored q) (k : q.Stored r) : p.Stored r := by
  have e : q.storedFrom r = (p.storedFrom q).storedFrom r := congrArg (fun x => x.storedFrom r) h
  exact Eq.trans k e

theorem Pkg.touchSram_stored (p : Pkg) (pa : Nat) : p.Stored (p.touchSram pa).1 := by
  have dies (v : Vector Die 10) : p.Stored { p with dies := v } := rfl
  unfold Pkg.touchSram
  dsimp only
  split
  · exact dies _
  · rfl

theorem Pkg.homeWrite_stored (p : Pkg) (bytes : List (Nat × Byte)) (poison : List Nat) (snap preCut : Bool) :
    p.Stored (p.homeWrite bytes poison snap preCut) := by
  have h := p.touchSram_stored ((bytes.headD (0, 0)).1)
  unfold Pkg.homeWrite
  dsimp only
  generalize (p.touchSram _).1 = q at h ⊢
  exact h.trans rfl

theorem Pkg.engineWrite_stored (p : Pkg) (pa n x : Nat) : p.Stored (p.engineWrite pa n x) :=
  p.homeWrite_stored _ _ _ _

theorem Pkg.Stored.engineWrite {p q : Pkg} (h : p.Stored q) (pa n x : Nat) : p.Stored (q.engineWrite pa n x) :=
  h.trans (q.engineWrite_stored pa n x)

theorem Pkg.Stored.mgmt {p q : Pkg} (h : p.Stored q) : q.mgmt = p.mgmt := by
  rw [h]
  rfl

theorem Pkg.Stored.io0 {p q : Pkg} (h : p.Stored q) : q.io0 = p.io0 := by
  rw [h]
  rfl

/-- ELOGHEAD moved to the next entry (R408). -/
def Mgmt.logged (m : Mgmt) : Mgmt := { m with eloghead := m.eloghead + 1 }

/-- An MSI-X vector noted at a port. -/
def IODie.raised (x : IODie) (v : Nat) : IODie := { x with msix := x.msix ++ [v] }

/-- R408: an entry of the error log moves ELOGHEAD and raises vector 1; but for memory nothing else is written. -/
theorem Pkg.log_frame (p : Pkg) (code die detail : Nat) :
    ∃ q : Pkg, p.Stored q ∧ p.log code die detail = { q with mgmt := p.mgmt.logged, io0 := p.io0.raised 1 } := by
  have entry : ∃ q : Pkg, p.Stored q ∧ p.log code die detail = Pkg.msi { q with mgmt := q.mgmt.logged } 0 1 := by
    refine ⟨_, ?_, rfl⟩
    exact (((p.engineWrite_stored _ 8 _).engineWrite _ 8 _).engineWrite _ 8 _).engineWrite _ 8 0
  obtain ⟨q, h, e⟩ := entry
  refine ⟨q, h, e.trans ?_⟩
  rw [← h.mgmt, ← h.io0]
  rfl

/-! ### Commands that end -/

@[simp] theorem State.setCoreAt_pkg (s : State) (k : Nat) (p : Peer) : (s.setCoreAt k p).pkg = s.pkg := by
  unfold State.setCoreAt
  split <;> rfl

theorem State.eachCore_pkg (s : State) (l : List Nat) (f : Peer → Peer) : (s.eachCore l f).pkg = s.pkg := by
  induction l generalizing s with
  | nil => rfl
  | cons k l ih => exact (ih _).trans (s.setCoreAt_pkg k _)

/-- R407: what the end of a command writes in the package; the cores in service take their interrupt. -/
theorem State.finishCommand_pkg (s : State) (code result : Nat) : (s.finishCommand code result).pkg =
    { s.pkg with
      mgmt := { s.pkg.mgmt with completed := s.pkg.mgmt.completed + 1, result := result, busy := false }
      io0 := { s.pkg.io0 with msix := s.pkg.io0.msix ++ [2] } } := by
  unfold State.finishCommand
  dsimp only
  split
  · exact State.eachCore_pkg _ _ _
  · rfl

/-- A command that ends on a package in which only fields of its own were written before. -/
theorem finishCommand_ended {s u : State} (code result : Nat) (hc : u.pkg.mgmt.completed = s.pkg.mgmt.completed)
    (hi : u.pkg.io0 = s.pkg.io0) (hm : u.pkg.mem = s.pkg.mem) : Ended s (u.finishCommand code result) result := by
  unfold Ended
  rw [State.finishCommand_pkg, ← hc, ← hi, ← hm]
  exact ⟨rfl, rfl, rfl, rfl, rfl⟩

theorem State.finishCommand_ended (s : State) (code result : Nat) : Ended s (s.finishCommand code result) result :=
  Machine.finishCommand_ended code result rfl rfl rfl

/-! ### Each command where the controller takes commands (R404, R407) -/

/-- The controller takes commands: above Level 0, none busy, its firmware verified. -/
def State.TakesCommands (s : State) : Prop :=
  0 < s.pkg.mgmt.level ∧ s.pkg.mgmt.busy = false ∧ s.pkg.mgmt.firmware = true

section Commands

variable {s : State} (h : s.TakesCommands)

include h

theorem State.command_level3 : s.command 1 0 =
    if s.pkg.mgmt.level ≠ 2 then s.finishCommand 1 1
    else s.onMgmt (fun m => { (m.change s.pkg.cyc m.wantHalf) with busy := true, thenLevel3 := true }) := by
  obtain ⟨level, busy, firmware⟩ := h
  simp [State.command, busy, firmware, Nat.ne_of_gt level]

theorem State.command_clock (half : Bool) : s.command 2 (if half then 1 else 0) =
    (s.onMgmt (fun m => { m with wantHalf := half }.settle s.pkg.cyc)).finishCommand 2 0 := by
  obtain ⟨level, busy, firmware⟩ := h
  cases half <;> simp [State.command, busy, firmware, Nat.ne_of_gt level]

theorem State.command_remove (die : Nat) : s.command 3 die =
    if die < 1 ∨ 8 < die then s.finishCommand 3 2
    else if s.pkg.mgmt.level < 2 ∨ s.pkg.removed die then s.finishCommand 3 1
    else (s.removeDie die).onMgmt (fun m => { m with busy := true, removing := some die, knotPhase := 1 }) := by
  obtain ⟨level, busy, firmware⟩ := h
  simp [State.command, busy, firmware, Nat.ne_of_gt level]

theorem State.command_reset : s.command 4 0 = s.packageReset := by
  obtain ⟨level, busy, firmware⟩ := h
  simp [State.command, busy, Nat.ne_of_gt level]

theorem State.command_fwload_refused {pa r : Nat} (hr : s.pkg.loadImage pa = (r, none)) (h0 : r ≠ 0) :
    s.command 5 pa = s.finishCommand 5 r := by
  obtain ⟨level, busy, firmware⟩ := h
  simp [State.command, busy, Nat.ne_of_gt level, hr, h0]

theorem State.command_snapshot (pa : Nat) : s.command 6 pa =
    if s.pkg.mgmt.level < 3 then s.finishCommand 6 1
    else if s.pkg.snap.isSome then s.finishCommand 6 4
    else if s.pkg.descLegal pa = false then s.finishCommand 6 2
    else ({ s with pkg := s.pkg.startSnapshot pa }).finishCommand 6 0 := by
  obtain ⟨level, busy, firmware⟩ := h
  simp [State.command, busy, firmware, Nat.ne_of_gt level]

theorem State.command_svnset (v : Nat) : s.command 7 v =
    if 2 ^ 32 ≤ v then s.finishCommand 7 2
    else (s.onMgmt (fun m => { m with svnmin := Nat.max m.svnmin v })).finishCommand 7 0 := by
  obtain ⟨level, busy, firmware⟩ := h
  simp [State.command, busy, firmware, Nat.ne_of_gt level]

end Commands

theorem State.command_level0 {s : State} (h : s.pkg.mgmt.level = 0) (code arg : Nat) : s.command code arg = s := by
  unfold State.command
  exact if_pos h

/-! ### REMOVE and the state of the clocks -/

theorem Pkg.removed_eq (p : Pkg) (r : Nat) : p.removed r = p.mgmt.dies.getLsbD (16 + r) :=
  (Nat.testBit_eq_decide_div_mod_eq).symm

/-- R405: where the die has neither a task nor the core in focus, and no other core has been started, nothing leaves. -/
theorem State.emptyDie_vacant {s : State} {r : Nat} (h0 : s.pkg.io0.tasks = []) (h9 : s.pkg.io9.tasks = [])
    (hp : s.peers = []) (hc : s.coreNo / 24 ≠ r) : s.emptyDie r = s := by
  unfold State.emptyDie
  simp [h0, h9, hp, hc]

/-- R315: the removal notice of die r to die e is among the packets. -/
def Notified (p : Pkg) (r e : Nat) : Prop := ∃ k ∈ p.net, k.src = r ∧ k.dst = e ∧ k.payload = .removal r

theorem State.removeDie_frame {s : State} {r : Nat} (hr : r ≤ 8) (h0 : s.pkg.io0.tasks = []) (h9 : s.pkg.io9.tasks = [])
    (hp : s.peers = []) (hc : s.coreNo / 24 ≠ r) :
    (s.removeDie r).ctx = s.ctx ∧ (s.removeDie r).pkg.removed r = true
      ∧ ∀ e, e < 10 → e ≠ r → Notified (s.removeDie r).pkg r e := by
  have noted : ∃ p : Pkg, s.removeDie r = State.emptyDie { s with pkg := p.log 8 r r } r ∧ p.io0 = s.pkg.io0
      ∧ p.io9 = s.pkg.io9 ∧ p.mgmt.dies = setBit s.pkg.mgmt.dies (16 + r) true ∧ ∀ e, e < 10 → e ≠ r → Notified p r e :=
    ⟨_, rfl, rfl, rfl, rfl, fun e he ne => ⟨_, List.mem_append_right _ (List.mem_map_of_mem (a := e) (by simp [he, ne])),
      rfl, rfl, rfl⟩⟩
  obtain ⟨p, remove, io0, io9, dies, notices⟩ := noted
  obtain ⟨q, stored, log⟩ := p.log_frame 8 r r
  have net : q.net = p.net := by rw [stored]; rfl
  have vacant : State.emptyDie { s with pkg := p.log 8 r r } r = { s with pkg := p.log 8 r r } := by
    refine State.emptyDie_vacant ?_ ?_ hp hc
    · rw [log]
      exact (congrArg IODie.tasks io0).trans h0
    · rw [log]
      show q.io9.tasks = []
      rw [stored]
      exact (congrArg IODie.tasks io9).trans h9
  rw [remove, vacant, log]
  refine ⟨rfl, ?_, fun e he ne => ?_⟩
  · rw [Pkg.removed_eq]
    show p.mgmt.dies.getLsbD (16 + r) = true
    rw [dies, getLsbD_setBit _ _ _ _ (by omega), if_pos rfl]
  · obtain ⟨k, hk, rest⟩ := notices e he ne
    exact ⟨k, net ▸ hk, rest⟩

/-- R416: what the controller settles on is a frequency change or none; any other field is as it was. -/
theorem Mgmt.settle_same (m : Mgmt) (cyc : Nat) {α : Type} (f : Mgmt → α)
    (hf : ∀ x y, f { m with switchTo := x, switchAt := y } = f m) : f (m.settle cyc) = f m := by
  unfold Mgmt.settle
  split
  · rfl
  · split
    · split
      · exact hf _ _
      · rfl
    · split
      · exact hf _ _
      · rfl

theorem clock_yields {s : State} (h : s.TakesCommands) (half : Bool) : Yields (.clock half) s (fun t =>
    Ended s t 0 ∧ t.pkg.mgmt.wantHalf = half ∧ t.pkg.mgmt.level = s.pkg.mgmt.level) := by
  have same {α : Type} (f : Mgmt → α) := Mgmt.settle_same { s.pkg.mgmt with wantHalf := half } s.pkg.cyc f
  refine ⟨_, congrArg Host.Outcome.next (State.command_clock h half), ?_⟩
  refine ⟨Machine.finishCommand_ended 2 0 (same Mgmt.completed fun _ _ => rfl) rfl rfl, ?_⟩
  rw [State.finishCommand_pkg]
  exact ⟨same Mgmt.wantHalf fun _ _ => rfl, same Mgmt.level fun _ _ => rfl⟩

/-! ### Package reset (R403) -/

theorem Sparse.get_cons {β : Type} (dflt : β) (k : Nat) (w : β) (r : List (Nat × β)) (a : Nat) :
    Sparse.get dflt ((k, w) :: r) a = if a < k then dflt else if a = k then w else Sparse.get dflt r a := rfl

/-- A store with the pairs of some keys alone reads the default at the others. -/
theorem Sparse.get_filter {β : Type} [DecidableEq β] {dflt : β} (f : Nat → Bool) (l : List (Nat × β)) {lo : Nat}
    (h : Sparse.wfFrom dflt lo l = true) (a : Nat) :
    Sparse.get dflt (l.filter (fun c => f c.1)) a = if f a then Sparse.get dflt l a else dflt := by
  induction l generalizing lo with
  | nil => simp [Sparse.get]
  | cons p r ih =>
    obtain ⟨k, w⟩ := p
    simp only [Sparse.wfFrom, Bool.and_eq_true, decide_eq_true_eq] at h
    obtain ⟨-, hr⟩ := h
    have rest := ih hr
    rw [List.filter_cons]
    by_cases hk : f k = true
    · rw [if_pos hk, Sparse.get_cons, Sparse.get_cons, rest]
      by_cases ha : f a = true
      · simp [ha]
      · have ne : a ≠ k := fun e => ha (e ▸ hk)
        simp [ha, ne]
    · rw [if_neg hk, rest, Sparse.get_cons]
      by_cases ha : f a = true
      · have ne : a ≠ k := fun e => hk (e ▸ ha)
        rw [if_pos ha, if_pos ha, if_neg ne]
        split
        · exact Sparse.get_below r hr (by omega)
        · rfl
      · rw [if_neg ha, if_neg ha]

theorem packageReset_read {s : State} (h : Inv s) (pa : Nat) : s.packageReset.pkg.mem.read pa =
    if isHostWindow pa = true ∨ isFleetWindow pa = true then s.pkg.mem.read pa else 0 := by
  have e := Sparse.get_filter (fun a => isHostWindow a || isFleetWindow a) s.pkg.mem h pa
  simp only [Bool.or_eq_true] at e
  exact e

/-! ### WAKE (R46, R413) -/

theorem State.coreAt_self (s : State) : s.coreAt s.coreNo = { ctx := s.ctx, other := s.other, core := s.core } :=
  if_pos rfl

theorem Ctx.raise_keeps (c : Ctx) (n : Nat) : (c.raise n).g = c.g ∧ (c.raise n).ipend = setBit c.ipend n true := by
  unfold Ctx.raise
  dsimp only
  split <;> exact ⟨rfl, rfl⟩

theorem Ctx.raise_eventFlag {c : Ctx} (n : Nat) (h : c.eventFlag = true) : (c.raise n).eventFlag = true := by
  unfold Ctx.raise
  dsimp only
  split
  · rfl
  · exact h

theorem State.wake_one {s : State} {v : Nat} (high : v / 2 ^ 12 = 0) (h5 : v / 2 ^ 5 % 2 = 0)
    (hd1 : 1 ≤ v / 2 ^ 8 % 2 ^ 4) (hd8 : v / 2 ^ 8 % 2 ^ 4 ≤ 8) (hc : v % 2 ^ 5 ≤ 23) (h7 : v / 2 ^ 7 % 2 = 0)
    (here : s.coreNo = 24 * (v / 2 ^ 8 % 2 ^ 4) + v % 2 ^ 5) :
    s.wake v = s.setCoreAt s.coreNo (let p := (s.coreAt s.coreNo).setFlags
      if v / 2 ^ 6 % 2 = 1 then p.raise 1 else p) := by
  have legal : ¬ (nbits v 63 12 ≠ 0 ∨ nbits v 5 5 ≠ 0 ∨ nbits v 11 8 < 1 ∨ 8 < nbits v 11 8 ∨ 23 < nbits v 4 0) := by
    simp only [nbits]
    omega
  have single : ¬ nbits v 7 7 = 1 := by
    simp only [nbits]
    omega
  have target : 24 * nbits v 11 8 + nbits v 4 0 = s.coreNo := by
    simp only [nbits]
    omega
  unfold State.wake
  dsimp only
  rw [if_neg legal, if_neg single, target]
  rfl

/-! ### Registers (R406) -/

theorem wordBytes_value (pa n x : Nat) :
    (wordBytes pa n x).foldr (fun b y => b.2.toNat + 256 * y) 0 = x % 256 ^ n := by
  induction n generalizing pa x with
  | zero => simp [wordBytes, Nat.mod_one]
  | succ n ih =>
    simp only [wordBytes, List.foldr_cons, ih, BitVec.toNat_ofNat]
    have e : (256 : Nat) ^ (n + 1) = 256 * 256 ^ n := by rw [Nat.pow_succ, Nat.mul_comm]
    rw [e, Nat.mod_mul]

theorem wordBytes_length (pa n x : Nat) : (wordBytes pa n x).length = n := by
  induction n generalizing pa x with
  | zero => rfl
  | succ n ih => simp [wordBytes, ih]

/-- R406: a doubleword written at an offset that holds no record is a write of the register. -/
theorem State.deviceWrite_register (s : State) {io pa : Nat} (v : Word) (hr : isRecord (pa - regionBase io) = false)
    (h8 : (pa - regionBase io) % 8 = 0) :
    s.deviceWrite io (wordBytes pa 8 v.toNat) [] = s.setRegister io (pa - regionBase io) v.toNat := by
  have length := wordBytes_length pa 8 v.toNat
  have value := wordBytes_value pa 8 v.toNat
  rw [Nat.mod_eq_of_lt (by have := v.isLt; omega)] at value
  have first : wordBytes pa 8 v.toNat = (pa, BitVec.ofNat 8 v.toNat) :: wordBytes (pa + 1) 7 (v.toNat / 256) := rfl
  rw [first] at length value ⊢
  unfold State.deviceWrite
  dsimp only
  rw [if_neg (by simp [hr]), if_pos ⟨length, h8⟩, value]

/-- R416: a doubleword written to PWRCAP. -/
theorem registerWrite_pwrcap (s : State) (v : Word) : exec (.registerWrite 0x020000030028 v) s = .next
    (if 1000 ≤ v.toNat ∧ v.toNat ≤ 2800 then s.onMgmt (fun m => { m with pwrcap := word v.toNat })
    else { s with pkg := s.pkg.ignored (regionBase 0 + 0x30028) }) := by
  have io : (s.pkg.homeOf 0x020000030028).getD 0 = 0 := by
    simp [Pkg.homeOf, isHbm, inSramWindow, isIoRegion]
  have ready : (isIoRegion 0x020000030028 && decide (0x020000030028 % 8 = 0) && s.pkg.deviceReady 0 0x020000030028) = true := by
    simp [isIoRegion, Pkg.deviceReady, regionBase]
  have run : execRegisterWrite 0x020000030028 v s = .next (s.deviceWrite 0 (wordBytes 0x020000030028 8 v.toNat) []) := by
    unfold execRegisterWrite
    dsimp only
    rw [io, if_pos ready]
  refine run.trans (congrArg Host.Outcome.next ?_)
  rw [State.deviceWrite_register s v (by decide) (by decide)]
  simp [State.setRegister, regionBase]

/-- R406: a write outside the I/O dies' regions is none of theirs. -/
theorem registerWrite_elsewhere {s : State} {pa : Nat} (v : Word) (h : isIoRegion pa = false) :
    exec (.registerWrite pa v) s = .next s := by
  show execRegisterWrite pa v s = _
  unfold execRegisterWrite
  simp [h]

/-! ### The commands that end with a result -/

theorem startSnapshot_units (p : Pkg) (pa : Nat) : ∃ sn, (p.startSnapshot pa).snap = some sn ∧ sn.desc = pa
    ∧ sn.number = p.snaps ∧ ∀ u ∈ sn.units, u.state = .pending ∧ u.streamed = false := by
  unfold Pkg.startSnapshot
  dsimp only
  generalize hall : List.flatten _ = all
  refine ⟨_, rfl, rfl, rfl, fun u hu => ?_⟩
  have mem := List.mem_of_mem_filter hu
  rw [← hall] at mem
  obtain ⟨l, hl, hul⟩ := List.mem_flatten.mp mem
  obtain ⟨i, -, rfl⟩ := List.mem_map.mp hl
  unfold Pkg.unitsOf at hul
  dsimp only at hul
  split at hul
  · obtain ⟨j, -, rfl⟩ := List.mem_map.mp hul
    exact ⟨rfl, rfl⟩
  · obtain rfl := List.mem_singleton.mp hul
    exact ⟨rfl, rfl⟩

section Commands

variable {s : State} (h : s.TakesCommands)

include h

theorem level3_yields : (s.pkg.mgmt.level ≠ 2 → Yields .level3 s (fun t => Ended s t 1))
    ∧ (s.pkg.mgmt.level = 2 → Yields .level3 s (fun t => OnlyMgmt s t { s.pkg.mgmt with
        busy := true, thenLevel3 := true, switchTo := some s.pkg.mgmt.wantHalf, switchAt := s.pkg.cyc + 4096 })) := by
  have run : exec .level3 s = .next (s.command 1 0) := rfl
  rw [State.command_level3 h] at run
  refine ⟨fun h2 => ⟨_, run, ?_⟩, fun h2 => ⟨_, run, ?_⟩⟩
  · rw [if_pos h2]
    exact s.finishCommand_ended 1 1
  · rw [if_neg (not_not.mpr h2)]
    rfl

theorem remove_yields (die : Nat) :
    ((die < 1 ∨ 8 < die) → Yields (.remove die) s (fun t => Ended s t 2))
    ∧ (1 ≤ die → die ≤ 8 → s.pkg.mgmt.level < 2 ∨ s.pkg.removed die = true → Yields (.remove die) s (fun t => Ended s t 1))
    ∧ (1 ≤ die → die ≤ 8 → 2 ≤ s.pkg.mgmt.level → s.pkg.removed die = false → s.coreNo / 24 ≠ die → s.peers = [] →
        s.pkg.io0.tasks = [] → s.pkg.io9.tasks = [] → Yields (.remove die) s (fun t => t.pkg.removed die = true
          ∧ t.pkg.mgmt.busy = true ∧ t.pkg.mgmt.removing = some die ∧ t.pkg.mgmt.knotPhase = 1 ∧ t.ctx = s.ctx
          ∧ ∀ e, e < 10 → e ≠ die → ∃ k ∈ t.pkg.net, k.src = die ∧ k.dst = e ∧ k.payload = .removal die)) := by
  have run : exec (.remove die) s = .next (s.command 3 die) := rfl
  rw [State.command_remove h] at run
  refine ⟨fun bad => ⟨_, run, ?_⟩, fun h1 h8 late => ⟨_, run, ?_⟩, fun h1 h8 h2 hr hc hp h0 h9 => ⟨_, run, ?_⟩⟩
  · rw [if_pos bad]
    exact s.finishCommand_ended 3 2
  · rw [if_neg (by omega), if_pos late]
    exact s.finishCommand_ended 3 1
  · obtain ⟨ctx, removed, notices⟩ := State.removeDie_frame h8 h0 h9 hp hc
    rw [if_neg (by omega), if_neg (by simp [hr]; omega)]
    exact ⟨removed, rfl, rfl, rfl, ctx, notices⟩

theorem fwload_refused {pa : Nat} (hp : backedSpan (pa % 2 ^ 56) 1024 = false) :
    Yields (.fwload pa) s (fun t => Ended s t 2) := by
  have refused : s.pkg.loadImage (pa % 2 ^ 56) = (2, none) := if_pos hp
  exact ⟨_, congrArg Host.Outcome.next (State.command_fwload_refused h refused (by decide)), s.finishCommand_ended 5 2⟩

theorem snapshot_yields (pa : Nat) :
    (s.pkg.mgmt.level < 3 → Yields (.snapshot pa) s (fun t => Ended s t 1))
    ∧ (3 ≤ s.pkg.mgmt.level → s.pkg.snap.isSome = true → Yields (.snapshot pa) s (fun t => Ended s t 4))
    ∧ (3 ≤ s.pkg.mgmt.level → s.pkg.snap = none → s.pkg.descLegal (pa % 2 ^ 56) = false →
        Yields (.snapshot pa) s (fun t => Ended s t 2))
    ∧ (3 ≤ s.pkg.mgmt.level → s.pkg.snap = none → s.pkg.descLegal (pa % 2 ^ 56) = true →
        Yields (.snapshot pa) s (fun t => Ended s t 0 ∧ ∃ sn, t.pkg.snap = some sn ∧ sn.desc = pa % 2 ^ 56
          ∧ sn.number = s.pkg.snaps ∧ ∀ u ∈ sn.units, u.state = .pending ∧ u.streamed = false)) := by
  have run : exec (.snapshot pa) s = .next (s.command 6 (pa % 2 ^ 56)) := rfl
  rw [State.command_snapshot h] at run
  refine ⟨fun h3 => ⟨_, run, ?_⟩, fun h3 hs => ⟨_, run, ?_⟩, fun h3 hs hd => ⟨_, run, ?_⟩, fun h3 hs hd => ⟨_, run, ?_⟩⟩
  · rw [if_pos h3]
    exact s.finishCommand_ended 6 1
  · rw [if_neg (by omega), if_pos hs]
    exact s.finishCommand_ended 6 4
  · rw [if_neg (by omega), if_neg (by simp [hs]), if_pos hd]
    exact s.finishCommand_ended 6 2
  · rw [if_neg (by omega), if_neg (by simp [hs]), if_neg (ne_false_of_eq_true hd)]
    refine ⟨Machine.finishCommand_ended 6 0 rfl rfl rfl, ?_⟩
    rw [State.finishCommand_pkg]
    exact startSnapshot_units s.pkg (pa % 2 ^ 56)

theorem svnset_yields (v : Nat) :
    (v % 2 ^ 56 < 2 ^ 32 → Yields (.svnset v) s (fun t => Ended s t 0
        ∧ t.pkg.mgmt.svnmin = Nat.max s.pkg.mgmt.svnmin (v % 2 ^ 56)))
    ∧ (2 ^ 32 ≤ v % 2 ^ 56 → Yields (.svnset v) s (fun t => Ended s t 2 ∧ t.pkg.mgmt.svnmin = s.pkg.mgmt.svnmin)) := by
  have run : exec (.svnset v) s = .next (s.command 7 (v % 2 ^ 56)) := rfl
  rw [State.command_svnset h] at run
  refine ⟨fun low => ⟨_, run, ?_⟩, fun high => ⟨_, run, ?_⟩⟩
  · rw [if_neg (Nat.not_le.mpr low)]
    refine ⟨Machine.finishCommand_ended 7 0 rfl rfl rfl, ?_⟩
    rw [State.finishCommand_pkg]
    rfl
  · rw [if_pos high]
    refine ⟨s.finishCommand_ended 7 2, ?_⟩
    rw [State.finishCommand_pkg]

theorem reset_exec : ∀ i ∈ [Instr.reset, .powerOn, .perstPackage], exec i s = .next s.packageReset := by
  simp only [List.forall_mem_cons]
  exact ⟨congrArg Host.Outcome.next (State.command_reset h), rfl, rfl, nofun⟩

end Commands

theorem command_level0_yields {s : State} (h : s.pkg.mgmt.level = 0) :
    ∀ i ∈ [Instr.level3, .clock true, .clock false, .remove 1, .reset, .fwload 0, .snapshot 0, .svnset 0],
      Yields i s (fun t => t = s) := by
  have idle (code arg : Nat) : Host.Outcome.next (s.command code arg) = (.next s : Out) :=
    congrArg Host.Outcome.next (State.command_level0 h code arg)
  simp only [List.forall_mem_cons]
  exact ⟨⟨s, idle 1 0, rfl⟩, ⟨s, idle 2 1, rfl⟩, ⟨s, idle 2 0, rfl⟩, ⟨s, idle 3 1, rfl⟩, ⟨s, idle 4 0, rfl⟩,
    ⟨s, idle 5 0, rfl⟩, ⟨s, idle 6 0, rfl⟩, ⟨s, idle 7 0, rfl⟩, nofun⟩

/-- The power of one window counted against PWRCAP (R416). -/
def Mgmt.measured (m : Mgmt) (w : Nat) : Mgmt :=
  { m with overCap := if m.pwrcap.toNat < w then m.overCap + 1 else 0
           underCap := if 10 * w < 9 * m.pwrcap.toNat then m.underCap + 1 else 0 }

theorem powerWindow_exec (w : Nat) (s : State) : exec (.powerWindow w) s = .next
    (if s.pkg.mgmt.level = 0 then s else s.onMgmt (fun m => (m.measured w).settle s.pkg.cyc)) := rfl

end Sys2Proof.Machine

section

open Sys2Proof.Machine Sys2Proof.Claims

/-- Settles O50: each command by its equation where the controller takes commands, then WAKE, PWRCAP and the power
windows. -/
theorem managementCommandsEndWithTheirResult : Obligations.ManagementCommandsEndWithTheirResult := by
  refine ⟨fun s h => command_level0_yields h, fun s level busy firmware => ?_, fun v s hp high h5 hd1 hd8 hc h7 here => ?_,
    fun v s => ⟨fun lo hi => ?_, fun bad => ?_, fun pa hpa => ⟨s, registerWrite_elsewhere v hpa, rfl⟩⟩,
    fun w s => ⟨fun h => ⟨_, powerWindow_exec w s, if_pos h⟩, fun h => ⟨_, powerWindow_exec w s, ?_⟩⟩⟩
  · have h : s.TakesCommands := ⟨level, busy, firmware⟩
    obtain ⟨level3, level3Starts⟩ := level3_yields h
    refine ⟨level3, level3Starts, clock_yields h, fun die => (remove_yields h die).1, fun die => (remove_yields h die).2.1,
      fun die => (remove_yields h die).2.2, fun pa => fwload_refused h, fun pa => (snapshot_yields h pa).1,
      fun pa => (snapshot_yields h pa).2.1, fun pa => (snapshot_yields h pa).2.2.1, fun pa => (snapshot_yields h pa).2.2.2,
      fun v => (svnset_yields h v).1, fun v => (svnset_yields h v).2, fun i hi => ⟨_, reset_exec h i hi, ?_⟩⟩
    exact ⟨rfl, rfl, rfl, rfl, rfl, rfl, rfl, rfl, packageReset_read⟩
  · refine ⟨_, congrArg Host.Outcome.next (State.wake_one high h5 hd1 hd8 hc h7 here), ?_⟩
    rw [State.coreAt_self, State.setCoreAt, if_pos rfl]
    dsimp only
    split
    · obtain ⟨g, ipend⟩ := Ctx.raise_keeps { s.ctx with eventFlag := true } 1
      exact ⟨Ctx.raise_eventFlag 1 rfl, Ctx.raise_eventFlag 1 rfl, g, rfl, ipend⟩
    · exact ⟨rfl, rfl, rfl, rfl, rfl⟩
  · refine ⟨_, (registerWrite_pwrcap s v).trans (congrArg Host.Outcome.next (if_pos ⟨lo, hi⟩)), ?_⟩
    rw [word, BitVec.ofNat_toNat, BitVec.setWidth_eq]
    rfl
  · refine ⟨_, (registerWrite_pwrcap s v).trans (congrArg Host.Outcome.next (if_neg (by omega))), ?_⟩
    obtain ⟨q, -, log⟩ := s.pkg.log_frame 6 ((s.pkg.homeOf (regionBase 0 + 0x30028)).getD 0) (regionBase 0 + 0x30028)
    rw [Pkg.ignored, log]
    exact ⟨rfl, rfl⟩
  · have same {α : Type} (f : Mgmt → α) := (s.pkg.mgmt.measured w).settle_same s.pkg.cyc f
    rw [if_neg (Nat.ne_of_gt h)]
    exact ⟨same Mgmt.overCap fun _ _ => rfl, same Mgmt.underCap fun _ _ => rfl, rfl, rfl⟩

end

/-! SUPPORT. The formats of the instruction words (R49 to R55): where each form's fixed bits, fields and immediate stand. The
encoder puts a word together from them and the decoders take it apart, so each direction is one comparison with the table
of formats. -/

namespace Sys2Proof

/-- The format of a word from its highest bit down: bits fixed by the form, fields, and last an immediate. -/
inductive Format where
  | done
  | imm {n : Nat} (v : Imm n)
  | fixed (n : Nat) (l : Format)
  | reg {n : Nat} (v : BitVec n) (l : Format)

namespace Format

/-- The fields of a format below bit hi with their places, as `put` takes them. -/
def places (hi : Nat) : Format → List (Nat × Nat)
  | done => []
  | imm v => [(v.field, 0)]
  | fixed n l => l.places (hi - n)
  | @reg n v l => (v.toNat, hi - n) :: l.places (hi - n)

/-- What a format's immediate needs before its word (R53). -/
def pre : Format → Option (BitVec 24)
  | done => none
  | imm v => v.pre
  | fixed _ l => l.pre
  | reg _ l => l.pre

/-- The format fills a word up to bit hi, and the form's bits below hi lie within the fixed ones. -/
def fits (hi base : Nat) : Format → Bool
  | done => hi == 0 && base == 0
  | @imm n _ => hi == n && base == 0
  | fixed n l => hi == (hi - n) + n && base / 2 ^ hi == 0 && fits (hi - n) (base % 2 ^ (hi - n)) l
  | @reg n _ l => hi == (hi - n) + n && base / 2 ^ (hi - n) == 0 && fits (hi - n) base l

/-- What a word, prefixed or not, holds below bit hi: the form's bits, the fields, and the immediate, which p completes. -/
def Holds (p : Option (BitVec 24)) (w hi base : Nat) : Format → Prop
  | done => p = none
  | @imm n v => immOf p (bv n w 0) = v
  | fixed n l => field w (hi - n) n = base / 2 ^ (hi - n) ∧ Holds p w (hi - n) (base % 2 ^ (hi - n)) l
  | @reg n v l => bv n w (hi - n) = v ∧ Holds p w (hi - n) base l

end Format

/-- The format of each instruction's word (R49 to R55); events have none. -/
noncomputable def formatOf : Instr → Format
  | .add d a b | .sub d a b | .and_ d a b | .or_ d a b | .xor_ d a b | .andn d a b | .orn d a b | .sll d a b
  | .srl d a b | .sra d a b | .rol d a b | .ror d a b | .slt d a b | .sltn d a b | .min d a b | .max d a b
  | .minn d a b | .maxn d a b | .mul d a b | .mulh d a b | .mulhn d a b | .div d a b | .divn d a b | .rem d a b
  | .remn d a b | .bext d a b | .bdep d a b | .sext d a b | .zext d a b | .pubwait d a b | .tspawn d a b =>
    .fixed 6 <| .reg d <| .reg a <| .reg b <| .fixed 6 <| .done
  | .clz d a | .ctz d a | .popc d a | .publish d a | .qlen d a | .qpeek d a | .trec d a =>
    .fixed 6 <| .reg d <| .reg a <| .fixed 6 <| .fixed 6 <| .done
  | .addi d a imm | .andi d a imm | .ori d a imm | .xori d a imm | .slti d a imm | .sltni d a imm
  | .beq d a imm | .bne d a imm | .blt d a imm | .bge d a imm | .bltn d a imm | .bgen d a imm | .jalr d a imm =>
    .fixed 6 <| .reg d <| .reg a <| .imm imm
  | .slli d a sh | .srli d a sh | .srai d a sh | .rori d a sh =>
    .fixed 6 <| .reg d <| .reg a <| .fixed 2 <| .fixed 4 <| .reg sh <| .done
  | .lui d imm | .pcadd d imm => .fixed 6 <| .reg d <| .fixed 6 <| .imm imm
  | .jal off => .fixed 6 <| .imm off
  | .loop len a stg rote => .fixed 6 <| .reg len <| .reg a <| .reg stg <| .reg rote <| .fixed 8 <| .done
  | .trap a | .qflush a | .tend a => .fixed 6 <| .fixed 6 <| .reg a <| .fixed 6 <| .fixed 6 <| .done
  | .eret | .wfe | .yield | .halt | .brk | .nop | .ifence | .tyield | .tbank | .gjoin | .gleave =>
    .fixed 6 <| .fixed 18 <| .fixed 6 <| .done
  | .kread d k | .kwrite d k | .kset d k | .kclr d k => .fixed 6 <| .reg d <| .fixed 2 <| .fixed 4 <| .reg k <| .done
  | .ldb d a off | .ldh d a off | .ldw d a off | .ldd d a off | .ldbn d a off | .ldhn d a off | .ldwn d a off
  | .stb d a off | .sth d a off | .stw d a off | .std d a off => .fixed 6 <| .reg d <| .reg a <| .fixed 3 <| .imm off
  | .ldacqb d a scope | .ldacqh d a scope | .ldacqw d a scope | .ldacqd d a scope | .strelb d a scope
  | .strelh d a scope | .strelw d a scope | .streld d a scope =>
    .fixed 6 <| .reg d <| .reg a <| .fixed 3 <| .reg scope <| .fixed 6 <| .done
  | .amoswap d a b scope | .amoadd d a b scope | .amoand d a b scope | .amoor d a b scope | .amoxor d a b scope
  | .amomax d a b scope | .amomin d a b scope | .amomaxn d a b scope | .amorswap d a b scope
  | .amoradd d a b scope | .amorand d a b scope | .amoror d a b scope | .amorxor d a b scope
  | .amormax d a b scope | .amormin d a b scope | .amormaxn d a b scope | .cas d a b scope | .vadd d a b scope
  | .vsub d a b scope | .vmul d a b scope | .vmulh d a b scope | .vmin d a b scope | .vmax d a b scope
  | .vminn d a b scope | .vmaxn d a b scope | .vand d a b scope | .vor d a b scope | .vxor d a b scope
  | .vandn d a b scope | .vsll d a b scope | .vsrl d a b scope | .vsra d a b scope | .vrol d a b scope
  | .vfadd d a b scope | .vfsub d a b scope | .vfmul d a b scope | .vfmin d a b scope | .vfmax d a b scope
  | .vfmacc d a b scope | .vfnmacc d a b scope | .vfdiv d a b scope | .vgather d a b scope
  | .vslideup d a b scope | .vslidedn d a b scope | .vzip d a b scope | .vbcast d a b scope
  | .vpack d a b scope | .vunpack d a b scope | .vdeq d a b scope | .vqnt d a b scope | .vdot4s d a b scope
  | .vdot2f d a b scope | .vsladd d a b scope | .vslsub d a b scope | .vslmul d a b scope | .vsldiv d a b scope
  | .vslmed d a b scope | .vslcvt d a b scope | .vslcmp d a b scope =>
    .fixed 6 <| .reg d <| .reg a <| .reg b <| .reg scope <| .fixed 3 <| .done
  | .fenceAcq scope | .fenceRel scope | .fenceAcqrel scope =>
    .fixed 6 <| .fixed 18 <| .reg scope <| .fixed 1 <| .fixed 2 <| .done
  | .binit a n | .bbind a n => .fixed 6 <| .fixed 6 <| .reg a <| .fixed 3 <| .reg n <| .done
  | .barrive d n | .bsync d n | .bxch d n | .btest d n =>
    .fixed 6 <| .reg d <| .fixed 6 <| .fixed 3 <| .reg n <| .done
  | .bwait d a n => .fixed 6 <| .reg d <| .reg a <| .fixed 3 <| .reg n <| .done
  | .fadd d a b z | .fsub d a b z | .fmul d a b z | .fdiv d a b z | .fmadd d a b z | .fmin d a b z
  | .fmax d a b z | .fsgnj d a b z =>
    .fixed 6 <| .fixed 1 <| .reg d <| .fixed 1 <| .reg a <| .fixed 1 <| .reg b <| .fixed 1 <| .reg z <| .fixed 4 <| .done
  | .fsqrt d a z => .fixed 6 <| .fixed 1 <| .reg d <| .fixed 1 <| .reg a <| .fixed 7 <| .reg z <| .fixed 4 <| .done
  | .feq d a b z | .flt d a b z | .fle d a b z =>
    .fixed 6 <| .reg d <| .fixed 1 <| .reg a <| .fixed 1 <| .reg b <| .fixed 1 <| .reg z <| .fixed 4 <| .done
  | .fcvt d a code z => .fixed 6 <| .reg d <| .reg a <| .reg code <| .fixed 1 <| .reg z <| .fixed 4 <| .done
  | .fmvg d a z | .fclass d a z => .fixed 6 <| .reg d <| .fixed 1 <| .reg a <| .fixed 7 <| .reg z <| .fixed 4 <| .done
  | .fmvf d a z => .fixed 6 <| .fixed 1 <| .reg d <| .reg a <| .fixed 7 <| .reg z <| .fixed 4 <| .done
  | .vfsqrt d a pr | .vfabs d a pr | .vfneg d a pr | .vabs d a pr | .vneg d a pr | .vnot d a pr | .vclz d a pr
  | .vpopc d a pr | .vexp2 d a pr | .vrcp d a pr | .vrsq d a pr | .vlog2 d a pr | .vtanh d a pr | .vsin d a pr
  | .vcos d a pr | .verf d a pr | .vrsum d a pr | .vrfsum d a pr | .vrmax d a pr | .vrmin d a pr
  | .vramax d a pr | .vrand d a pr | .vror d a pr | .vrxor d a pr | .vcompress d a pr | .vexpand d a pr
  | .vunzip d a pr | .vrevb d a pr | .vbswap d a pr | .vround d a pr | .vslcanon d a pr | .vmv d a pr
  | .vsplat d a pr | .tmstep d a pr => .fixed 6 <| .reg d <| .reg a <| .fixed 6 <| .reg pr <| .fixed 3 <| .done
  | .vceq d a b pr | .vcne d a b pr | .vclt d a b pr | .vcle d a b pr | .vcltn d a b pr | .vclen d a b pr
  | .vcflt d a b pr | .vcfle d a b pr =>
    .fixed 6 <| .fixed 3 <| .reg d <| .reg a <| .reg b <| .reg pr <| .fixed 3 <| .done
  | .vshlw d a b | .vshrw d a b | .vfunl d a b | .vfunr d a b | .vextg d a b | .vinsg d a b | .vsetvl d a b
  | .vcoll d a b | .cpy d a b | .cpyt d a b | .cpymc d a b | .cpyh d a b =>
    .fixed 6 <| .reg d <| .reg a <| .reg b <| .fixed 3 <| .fixed 3 <| .done
  | .vclzw d a | .vpopw d a | .cpycancel d a => .fixed 6 <| .reg d <| .reg a <| .fixed 9 <| .fixed 3 <| .done
  | .vcvt d a q tag pr | .vcvts d a q tag pr | .vbamax d a q tag pr | .vbscale d a q tag pr
  | .vbqnt d a q tag pr => .fixed 6 <| .reg d <| .reg a <| .reg q <| .reg tag <| .reg pr <| .fixed 3 <| .done
  | .vretag d a tag => .fixed 6 <| .reg d <| .reg a <| .fixed 1 <| .reg tag <| .fixed 3 <| .fixed 3 <| .done
  | .vid d pr | .tmwalk d pr => .fixed 6 <| .reg d <| .fixed 12 <| .reg pr <| .fixed 3 <| .done
  | .vmovxRead d b => .fixed 6 <| .reg d <| .fixed 6 <| .reg b <| .fixed 3 <| .fixed 3 <| .done
  | .vmovxWrite a b => .fixed 6 <| .fixed 6 <| .reg a <| .reg b <| .fixed 3 <| .fixed 3 <| .done
  | .vmskv d a => .fixed 6 <| .reg d <| .fixed 3 <| .reg a <| .fixed 9 <| .fixed 3 <| .done
  | .vmvp d a => .fixed 6 <| .fixed 3 <| .reg d <| .reg a <| .fixed 9 <| .fixed 3 <| .done
  | .vldu d a mk mfc =>
    .fixed 6 <| .reg d <| .reg a <| .fixed 6 <| .reg mk <| .reg mfc <| .fixed 1 <| .fixed 2 <| .done
  | .vlds d a b mk mfc | .vldx d a b mk mfc | .vldtr d a b mk mfc | .vldwin d a b mk mfc =>
    .fixed 6 <| .reg d <| .reg a <| .reg b <| .reg mk <| .reg mfc <| .fixed 1 <| .fixed 2 <| .done
  | .vstu d a mk mfc uo =>
    .fixed 6 <| .reg d <| .reg a <| .fixed 6 <| .reg mk <| .reg mfc <| .reg uo <| .fixed 2 <| .done
  | .vsts d a b mk mfc uo | .vstx d a b mk mfc uo =>
    .fixed 6 <| .reg d <| .reg a <| .reg b <| .reg mk <| .reg mfc <| .reg uo <| .fixed 2 <| .done
  | .vldz d a b mfc => .fixed 6 <| .reg d <| .reg a <| .reg b <| .fixed 1 <| .reg mfc <| .fixed 1 <| .fixed 2 <| .done
  | .tmset a n => .fixed 6 <| .fixed 6 <| .reg a <| .fixed 6 <| .reg n <| .fixed 3 <| .done
  | .hrank sel a b | .hranks sel a b | .hrankx sel a b | .hrankg sel a b | .hsave sel a b | .hrest sel a b =>
    .fixed 6 <| .reg sel <| .reg a <| .reg b <| .fixed 3 <| .done
  | .hget sel a | .hput sel a | .hacc sel a | .hbiasc sel a | .hbiasr sel a | .hscalc sel a | .hclamp sel a
  | .hsumsq sel a | .hnorm sel a | .hdmap sel a => .fixed 6 <| .reg sel <| .reg a <| .fixed 6 <| .fixed 3 <| .done
  | .hzero sel tag => .fixed 6 <| .reg sel <| .fixed 7 <| .reg tag <| .fixed 3 <| .done
  | .hrelu sel | .hexp2 sel | .hrcp sel | .htanh sel | .hrsq sel =>
    .fixed 6 <| .reg sel <| .fixed 12 <| .fixed 3 <| .done
  | .hrq sel a tag => .fixed 6 <| .reg sel <| .reg a <| .fixed 1 <| .reg tag <| .fixed 3 <| .done
  | .vsave a b | .vrest a b => .fixed 6 <| .fixed 9 <| .reg a <| .reg b <| .fixed 3 <| .done
  | _ => .done

/-! ### A format's word -/

theorem put_add (x y : Nat) (l : List (Nat × Nat)) : put (x + y) l = x + put y l := by
  unfold put
  induction l generalizing y with
  | nil => rfl
  | cons f l ih => rw [List.foldl_cons, List.foldl_cons, Nat.add_assoc, ih]

theorem put_cons (base v p : Nat) (l : List (Nat × Nat)) : put base ((v, p) :: l) = v * 2 ^ p + put base l := by
  rw [← put_add, Nat.add_comm]
  rfl

theorem Format.put_lt {hi base : Nat} {l : Format} (h : l.fits hi base = true) : put base (l.places hi) < 2 ^ hi := by
  have top {v n k r : Nat} (hv : v < 2 ^ n) (hr : r < 2 ^ k) : v * 2 ^ k + r < 2 ^ (k + n) := by
    rw [Nat.add_comm, pow_add, Nat.mul_comm (2 ^ k)]
    calc r + v * 2 ^ k < 2 ^ k + v * 2 ^ k := Nat.add_lt_add_right hr _
      _ = (v + 1) * 2 ^ k := by ring
      _ ≤ 2 ^ n * 2 ^ k := Nat.mul_le_mul_right _ hv
  induction l generalizing hi base with
  | done =>
    simp only [fits, Bool.and_eq_true, beq_iff_eq] at h
    rw [h.2]
    exact Nat.two_pow_pos hi
  | imm v =>
    simp only [fits, Bool.and_eq_true, beq_iff_eq] at h
    obtain ⟨rfl, rfl⟩ := h
    simpa [places, put] using Laws.Wf.imm_field_lt v
  | fixed n l ih =>
    simp only [fits, Bool.and_eq_true, beq_iff_eq] at h
    obtain ⟨⟨hn, hb⟩, hl⟩ := h
    rw [places, ← Nat.div_add_mod' base (2 ^ (hi - n)), put_add]
    refine (top (n := n) ?_ (ih hl)).trans_eq (congrArg _ hn.symm)
    rw [Nat.div_lt_iff_lt_mul (Nat.two_pow_pos _), ← pow_add, Nat.add_comm, ← hn]
    exact (Nat.div_eq_zero_iff_lt (Nat.two_pow_pos hi)).1 hb
  | reg v l ih =>
    simp only [fits, Bool.and_eq_true, beq_iff_eq] at h
    obtain ⟨⟨hn, -⟩, hl⟩ := h
    exact (put_cons _ _ _ _).trans_lt ((top v.isLt (ih hl)).trans_eq (congrArg _ hn.symm))

/-- A word is known by its highest field and the rest. -/
theorem top_field_iff {w lo n v r : Nat} (hr : r < 2 ^ lo) :
    v * 2 ^ lo + r = w % 2 ^ (lo + n) ↔ field w lo n = v ∧ r = w % 2 ^ lo := by
  have split : w % 2 ^ (lo + n) = field w lo n * 2 ^ lo + w % 2 ^ lo := by
    rw [Nat.pow_add, Nat.mod_mul, Nat.add_comm, Nat.mul_comm]
    rfl
  rw [split]
  constructor
  · intro h
    have hd := congrArg (· / 2 ^ lo) h
    have hm := congrArg (· % 2 ^ lo) h
    simp only [Nat.mul_add_mod', Nat.mod_mod, Nat.mod_eq_of_lt hr] at hm
    simp only [Nat.mul_comm _ (2 ^ lo), Nat.mul_add_div (Nat.two_pow_pos lo), Nat.div_eq_of_lt hr,
      Nat.div_eq_of_lt (Nat.mod_lt w (Nat.two_pow_pos lo)), Nat.add_zero] at hd
    exact ⟨hd.symm, hm⟩
  · rintro ⟨rfl, rfl⟩
    rfl

theorem field_eq_toNat_iff {w lo n : Nat} {v : BitVec n} : field w lo n = v.toNat ↔ bv n w lo = v := by
  rw [← BitVec.toNat_inj, bv, BitVec.toNat_ofNat]
  rfl

theorem toNat_append_eq {m n : Nat} (p : BitVec m) (v : BitVec n) : (p ++ v).toNat = p.toNat * 2 ^ n + v.toNat := by
  rw [BitVec.toNat_append, ← Nat.shiftLeft_add_eq_or_of_lt v.isLt, Nat.shiftLeft_eq]

theorem immOf_pre {n : Nat} (pre : Option (BitVec 24)) (v : BitVec n) : (immOf pre v).pre = pre := by
  cases pre with
  | none => rfl
  | some p =>
    refine congrArg some (BitVec.eq_of_toNat_eq ?_)
    rw [toNat_append_eq, Nat.mul_comm, Nat.mul_add_div (Nat.two_pow_pos n), Nat.div_eq_of_lt v.isLt, Nat.add_zero,
      BitVec.ofNat_toNat, BitVec.setWidth_eq]

theorem immOf_field {n : Nat} (pre : Option (BitVec 24)) (v : BitVec n) : (immOf pre v).field = v.toNat := by
  cases pre with
  | none => rfl
  | some p =>
    show (p ++ v).toNat % 2 ^ n = v.toNat
    rw [toNat_append_eq, Nat.mul_add_mod', Nat.mod_eq_of_lt v.isLt]

theorem immOf_of_field {n : Nat} {x : Imm n} {v : BitVec n} (h : x.field = v.toNat) : immOf x.pre v = x := by
  cases x with
  | short u => exact congrArg Imm.short (BitVec.eq_of_toNat_eq h.symm)
  | long u =>
    refine congrArg Imm.long (BitVec.eq_of_toNat_eq ?_)
    have hu : u.toNat / 2 ^ n < 2 ^ 24 := by
      rw [Nat.div_lt_iff_lt_mul (Nat.two_pow_pos n), ← pow_add]
      exact u.isLt
    rw [toNat_append_eq, ← h, BitVec.toNat_ofNat, Nat.mod_eq_of_lt hu]
    exact Nat.div_add_mod' _ _

theorem imm_eq_iff {p : Option (BitVec 24)} {n : Nat} {x : Imm n} {v : BitVec n} :
    immOf p v = x ↔ x.pre = p ∧ x.field = v.toNat := by
  constructor
  · rintro rfl
    exact ⟨immOf_pre p v, immOf_field p v⟩
  · rintro ⟨rfl, h⟩
    exact immOf_of_field h

/-- The word that is put together from a format is the one that holds what the format says, and no other. -/
theorem Format.put_eq_iff {p : Option (BitVec 24)} {w hi base : Nat} {l : Format} (h : l.fits hi base = true) :
    l.pre = p ∧ put base (l.places hi) = w % 2 ^ hi ↔ l.Holds p w hi base := by
  induction l generalizing hi base with
  | done =>
    simp only [fits, Bool.and_eq_true, beq_iff_eq] at h
    obtain ⟨rfl, rfl⟩ := h
    simp [Holds, put, places, pre, Nat.mod_one, eq_comm]
  | imm v =>
    simp only [fits, Bool.and_eq_true, beq_iff_eq] at h
    obtain ⟨rfl, rfl⟩ := h
    simp [Holds, imm_eq_iff, put, places, pre, bv]
  | fixed n l ih =>
    simp only [fits, Bool.and_eq_true, beq_iff_eq] at h
    obtain ⟨⟨hn, -⟩, hl⟩ := h
    rw [Holds, ← ih hl, and_left_comm, ← top_field_iff (put_lt hl), ← put_add, Nat.div_add_mod', ← hn]
    rfl
  | @reg n v l ih =>
    simp only [fits, Bool.and_eq_true, beq_iff_eq] at h
    obtain ⟨⟨hn, -⟩, hl⟩ := h
    rw [Holds, ← ih hl, and_left_comm, ← field_eq_toNat_iff, ← top_field_iff (put_lt hl), ← put_cons, ← hn]
    rfl

/-! ### Instructions and their words

The format of an instruction is compared with its encoding by computation: each of the lemmas below is used with `rfl` for
its three premises about the format, of which the first says which format it is. -/

/-- An instruction's word is known by its major opcode and what its format says of the bits below. -/
theorem encodeBase_iff {i : Instr} {l : Format} {p : Option (BitVec 24)} {w base : Nat} (_hl : formatOf i = .fixed 6 l)
    (he : encodeBase i = some (l.pre, put base (l.places 24))) (hf : (Format.fixed 6 l).fits 30 base = true) :
    encodeBase i = some (p, w % 2 ^ 30) ↔ field w 24 6 = base / 2 ^ 24 ∧ l.Holds p w 24 (base % 2 ^ 24) := by
  rw [he, Option.some.injEq, Prod.mk.injEq]
  exact Format.put_eq_iff hf

theorem reads_of_encodeBase {i : Instr} {l : Format} {p : Option (BitVec 24)} {w base : Nat}
    (h : encodeBase i = some (p, w % 2 ^ 30)) (hl : formatOf i = .fixed 6 l)
    (he : encodeBase i = some (l.pre, put base (l.places 24))) (hf : (Format.fixed 6 l).fits 30 base = true) :
    field w 24 6 = base / 2 ^ 24 ∧ l.Holds p w 24 (base % 2 ^ 24) := (encodeBase_iff hl he hf).1 h

theorem encodeBase_of_reads {i : Instr} {l : Format} {p : Option (BitVec 24)} {w base : Nat} (hl : formatOf i = .fixed 6 l)
    (he : encodeBase i = some (l.pre, put base (l.places 24))) (hf : (Format.fixed 6 l).fits 30 base = true)
    (h : field w 24 6 = base / 2 ^ 24 ∧ l.Holds p w 24 (base % 2 ^ 24)) : encodeBase i = some (p, w % 2 ^ 30) :=
  (encodeBase_iff hl he hf).2 h

/-! ### What decodes is encoded by the word -/

/-- Whatever a decoder answers for a word is encoded by that word. -/
def Faithful (p : Option (BitVec 24)) (w : Nat) (r : Except DecodeError Instr) : Prop :=
  ∀ i, r = .ok i → encodeBase i = some (p, w % 2 ^ 30)

theorem faithful_error {p : Option (BitVec 24)} {w : Nat} (e : DecodeError) : Faithful p w (.error e) := nofun

theorem faithful_ok {p : Option (BitVec 24)} {w : Nat} {i : Instr} :
    Faithful p w (.ok i) ↔ encodeBase i = some (p, w % 2 ^ 30) :=
  ⟨fun h => h i rfl, fun h _ hj => Except.ok.inj hj ▸ h⟩

theorem faithful_fixed {p : Option (BitVec 24)} {w : Nat} {i : Instr} {c : Prop} [Decidable c] :
    Faithful p w (fixed c i) ↔ (c → encodeBase i = some (p, w % 2 ^ 30)) := by
  unfold fixed
  split
  · next hc => rw [faithful_ok, forall_prop_of_true hc]
  · next hc => exact iff_of_true (faithful_error _) (fun h => absurd h hc)

/-- Down every path of the decoders the tests passed are the bits that the answer's format fixes. -/
theorem faithful_decodeMajor {p : Option (BitVec 24)} {w : Nat} (hp : takesPrefix (field w 24 6) = false → p = none) :
    Faithful p w (decodeMajor p w) := by
  unfold decodeMajor decodeAlu decodeAddi decodeAndi decodeOri decodeXori decodeShi decodeSlti decodeSltni decodeLui
    decodePcadd decodeBeq decodeBne decodeBlt decodeBge decodeBltn decodeBgen decodeJal decodeJalr decodeLoop decodeSys
    decodeKreg decodeLd decodeSt decodeScoped decodeAmo decodeAmor decodeCas decodeFence decodeBar decodeHost decodeFpu
    decodeVinta decodeVintb decodeVflta decodeVunary decodeVcmp decodeVsfu decodeVred decodeVperm decodeVbits decodeVconv
    decodeVquant decodeVslash decodeVmov decodeVset decodeVld decodeVst decodeVldx decodeCpy decodeTmap decodeQop
    decodeHrank decodeHslice decodeHepi decodeHsfu decodeHctx decodeTask
  repeat' split
  all_goals simp only [faithful_ok, faithful_fixed, faithful_error]
  all_goals
    intros
    refine encodeBase_of_reads rfl rfl rfl ?_
    simp only [*, Format.Holds, Nat.reduceSub, Nat.reducePow, Nat.reduceDiv, Nat.reduceMod, pow_zero, Nat.div_one, and_self,
      takesPrefix, Nat.reduceLeDiff, and_true, and_false, or_self, Nat.reduceEqDiff, decide_false]

/-! ### What is encoded decodes -/

/-- The word's major opcode and its form's bits lead the decoders to the instruction. -/
theorem decodeMajor_of_encodeBase {i : Instr} {p : Option (BitVec 24)} {w : Nat} (h : encodeBase i = some (p, w % 2 ^ 30)) :
    decodeMajor p w = .ok i := by
  unfold decodeMajor
  cases i
  any_goals exact absurd h.symm (Option.some_ne_none _) -- an event has no word
  all_goals
    obtain ⟨hm, h⟩ := reads_of_encodeBase h rfl rfl rfl
    simp only [Format.Holds, Nat.reduceSub, Nat.reducePow, Nat.reduceDiv, Nat.reduceMod, pow_zero, Nat.div_one] at h
    rewrite [hm]
  -- the majors of one form: their decoders only test the fixed bits
  case lui | pcadd =>
    obtain ⟨rfl, hz, rfl⟩ := h
    exact if_pos hz
  case loop | cas =>
    obtain ⟨rfl, rfl, rfl, rfl, hz, -⟩ := h
    exact if_pos hz
  all_goals
    conv_lhs => whnf -- the match on the major, computed
    simp only [h, fixed, and_self, if_true]

/-- With rfl for its premises, as above. -/
theorem exists_word {i : Instr} {l : Format} {base : Nat} (_hl : formatOf i = .fixed 6 l)
    (he : encodeBase i = some (l.pre, put base (l.places 24))) (hf : (Format.fixed 6 l).fits 30 base = true) :
    ∃ p n, encodeBase i = some (p, n) ∧ n < 2 ^ 30 := ⟨_, _, he, Format.put_lt hf⟩

theorem exists_word_of_wf {i : Instr} (h : i.wf = true) : ∃ p n, encodeBase i = some (p, n) ∧ n < 2 ^ 30 := by
  cases i
  any_goals exact Bool.noConfusion h
  all_goals exact exists_word rfl rfl rfl

/-! ### The majors that can be prefixed (R52, R54) -/

theorem decodeMajor_of_takesNoPrefix {w : Nat} (p : Option (BitVec 24)) (h : takesPrefix (field w 24 6) = false) :
    decodeMajor p w = decodeMajor none w := by
  unfold decodeMajor
  generalize field w 24 6 = m at h ⊢
  split
  any_goals rfl
  all_goals exact absurd h (by decide)

/-- A prefixed word stands in a major that can be prefixed: else its decoder would answer the same without p, and the
instruction would have two words. -/
theorem takesPrefix_of_encodeBase {i : Instr} {p : BitVec 24} {w : Nat}
    (h : encodeBase i = some (some p, w % 2 ^ 30)) : takesPrefix (field w 24 6) = true := by
  by_contra hp
  rw [Bool.not_eq_true] at hp
  have hi := decodeMajor_of_encodeBase h
  rw [decodeMajor_of_takesNoPrefix _ hp] at hi
  have := faithful_decodeMajor (fun _ => rfl) i hi
  rw [h, Option.some.injEq, Prod.mk.injEq] at this
  exact Option.some_ne_none p this.1

theorem decodeMajor_of_reservedMajor {w : Nat} (p : Option (BitVec 24)) (h : reservedMajor (field w 24 6) = true) :
    decodeMajor p w = .error .reservedMajor := by
  unfold decodeMajor
  generalize field w 24 6 = m at h ⊢
  split
  any_goals rfl
  all_goals exact absurd h (by decide)

theorem decodeMajor_of_prefix {w : Nat} (p : Option (BitVec 24)) (h : field w 24 6 = 0x3F) :
    decodeMajor p w = .error .badPrefix := by
  unfold decodeMajor
  rewrite [h]
  rfl

/-! ### Slots and lists of words (R48, R52) -/

theorem decodeSlot_ok_iff {p : Option (BitVec 24)} {w : BitVec 32} {x : Slot} : decodeSlot p w = .ok x ↔
    x.instr.wf = true ∧ encodeBase x.instr = some (p, w.toNat % 2 ^ 30) ∧ w.getLsbD 31 = x.p ∧ w.getLsbD 30 = x.c := by
  unfold decodeSlot
  constructor
  · split
    · nofun
    · next hp =>
      split
      · nofun
      · next i hi =>
        split
        · next wf =>
          rintro ⟨⟩
          refine ⟨wf, faithful_decodeMajor (fun h => ?_) i hi, rfl, rfl⟩
          cases hr : reservedMajor (field w.toNat 24 6) with
          | true => exact absurd (hi.symm.trans (decodeMajor_of_reservedMajor p hr)) nofun
          | false => simpa [h, hr] using hp
        · nofun
  · rintro ⟨wf, hi, hp, hc⟩
    rw [if_neg, decodeMajor_of_encodeBase hi]
    · dsimp only
      rw [if_pos wf, hp, hc]
    · cases p with
      | none => exact Bool.false_ne_true
      | some p => simp [takesPrefix_of_encodeBase hi]

theorem getLsbD_eq_iff {w : BitVec 32} {i : Nat} {b : Bool} : w.getLsbD i = b ↔ w.toNat / 2 ^ i % 2 = b.toNat := by
  rw [← Nat.toNat_testBit, ← BitVec.getLsbD]
  cases w.getLsbD i <;> cases b <;> decide

/-- A word is known by its low 30 bits, P and C. -/
theorem eq_word_iff {w : BitVec 32} {n : Nat} {p c : Bool} (hn : n < 2 ^ 30) :
    w = BitVec.ofNat 32 (n + p.toNat * 2 ^ 31 + c.toNat * 2 ^ 30) ↔
      w.toNat % 2 ^ 30 = n ∧ w.getLsbD 31 = p ∧ w.getLsbD 30 = c := by
  have hw := w.isLt
  have hp := p.toNat_lt
  have hc := c.toNat_lt
  rw [← BitVec.toNat_inj, BitVec.toNat_ofNat, getLsbD_eq_iff, getLsbD_eq_iff]
  omega

/-- The word that prefixes another, where there is one. -/
def prefixWords : Option (BitVec 24) → List (BitVec 32)
  | none => []
  | some imm => [BitVec.ofNat 32 (0x3F000000 + imm.toNat)]

/-- Only one word prefixes with an immediate: P and C are clear in it. -/
theorem prefix_iff {w : BitVec 32} {imm : BitVec 24} :
    isPrefix w = true ∧ prefixImm w = .ok imm ↔ w = BitVec.ofNat 32 (0x3F000000 + imm.toNat) := by
  have hw := w.isLt
  have hi := imm.isLt
  have low : bv 24 w.toNat 0 = imm ↔ w.toNat % 2 ^ 24 = imm.toNat := by
    rw [← field_eq_toNat_iff, field, pow_zero, Nat.div_one]
  have bits : (w.getLsbD 31 || w.getLsbD 30) = true ↔ ¬ w.toNat < 2 ^ 30 := by
    rw [Bool.or_eq_true, getLsbD_eq_iff, getLsbD_eq_iff, Bool.toNat_true]
    omega
  rw [← BitVec.toNat_inj, BitVec.toNat_ofNat, isPrefix, decide_eq_true_iff, prefixImm, field]
  split
  · next h =>
    have := bits.1 h
    simp only [reduceCtorEq, and_false, false_iff]
    omega
  · next h =>
    have := not_not.1 (mt bits.2 h)
    rw [Except.ok.injEq, low]
    omega

theorem encode_of_encodeBase {x : Slot} {p : Option (BitVec 24)} {w : BitVec 32}
    (h : encodeBase x.instr = some (p, w.toNat % 2 ^ 30)) (hp : w.getLsbD 31 = x.p) (hc : w.getLsbD 30 = x.c) :
    encode x = some (prefixWords p ++ [w]) := by
  have hw := (eq_word_iff (Nat.mod_lt _ (Nat.two_pow_pos 30))).2 ⟨rfl, hp, hc⟩
  unfold encode
  rw [h]
  dsimp only
  rw [← hw]
  cases p <;> rfl

theorem not_isPrefix_of_decodeSlot {p : Option (BitVec 24)} {w : BitVec 32} {x : Slot} (h : decodeSlot p w = .ok x) :
    isPrefix w = false := by
  obtain ⟨-, hi, -, -⟩ := decodeSlot_ok_iff.1 h
  refine decide_eq_false fun hm => ?_
  exact absurd ((decodeMajor_of_encodeBase hi).symm.trans (decodeMajor_of_prefix p hm)) nofun

theorem decodeWords_of_decodeSlot {p : Option (BitVec 24)} {w : BitVec 32} {x : Slot} (rest : List (BitVec 32))
    (h : decodeSlot p w = .ok x) :
    decodeWords (prefixWords p ++ [w] ++ rest) = .ok (x, (prefixWords p ++ [w]).length) := by
  cases p with
  | none =>
    simp only [prefixWords, List.nil_append, List.singleton_append, decodeWords, not_isPrefix_of_decodeSlot h, h]
    rfl
  | some imm =>
    obtain ⟨hp, hi⟩ := prefix_iff.2 (Eq.refl (BitVec.ofNat 32 (0x3F000000 + imm.toNat)))
    simp only [prefixWords, List.cons_append, List.nil_append, decodeWords, if_true, hp, hi, h]
    rfl

theorem decodeSlot_of_decodeWords {ws : List (BitVec 32)} {x : Slot} {n : Nat} (h : decodeWords ws = .ok (x, n)) :
    ∃ p w, decodeSlot p w = .ok x ∧ ws.take n = prefixWords p ++ [w] := by
  unfold decodeWords at h
  split at h
  · nomatch h
  · next w rest =>
    split at h
    · next hp =>
      split at h
      · nomatch h
      · next imm hi =>
        split at h
        · nomatch h
        · next v _ =>
          cases hs : decodeSlot (some imm) v with
          | error e => rw [hs] at h; nomatch h
          | ok y =>
            rw [hs] at h
            cases h
            exact ⟨some imm, v, hs, congrArg (fun u => [u, v]) (prefix_iff.1 ⟨hp, hi⟩)⟩
    · cases hs : decodeSlot none w with
      | error e => rw [hs] at h; nomatch h
      | ok y =>
        rw [hs] at h
        cases h
        exact ⟨none, w, hs, rfl⟩

end Sys2Proof

section

open Sys2Proof Sys2Proof.Machine Sys2Proof.Claims

/-- Settles O56: the encoding puts the fields of the instruction's format where the decoders read them, behind the word
that prefixes them where the immediate is long. -/
theorem decodeOfEncodeIsTheInstruction : Obligations.DecodeOfEncodeIsTheInstruction := by
  intro x rest wf
  obtain ⟨p, n, hi, hn⟩ := exists_word_of_wf wf
  obtain ⟨hw, hp, hc⟩ := (eq_word_iff hn).1 (Eq.refl (BitVec.ofNat 32 (n + x.p.toNat * 2 ^ 31 + x.c.toNat * 2 ^ 30)))
  rw [← hw] at hi
  exact ⟨_, encode_of_encodeBase hi hp hc, decodeWords_of_decodeSlot rest (decodeSlot_ok_iff.2 ⟨wf, hi, hp, hc⟩)⟩

/-- Settles O57: the decoders test every bit that the format of their answer fixes, so the encoding puts the word together
again. -/
theorem encodeOfDecodeIsTheWord : Obligations.EncodeOfDecodeIsTheWord := by
  intro ws x n h
  obtain ⟨p, w, hs, taken⟩ := decodeSlot_of_decodeWords h
  obtain ⟨wf, hi, hp, hc⟩ := decodeSlot_ok_iff.1 hs
  exact ⟨wf, taken ▸ encode_of_encodeBase hi hp hc⟩

/-- Settles O60: each word is read from its bits. -/
theorem writtenWordsDecodeToTheirInstructions : Obligations.WrittenWordsDecodeToTheirInstructions := by
  unfold Obligations.WrittenWordsDecodeToTheirInstructions
  decide

end

/-! SUPPORT. The way from a step to what its pair executes: the strand that issues next, the fetch and decode of the pair
at its program counter, the checks and waits before issue, and the instructions one by one. -/

namespace Sys2Proof.Machine

open Sys2Proof.Claims

/-! ### The pair that a strand issues next -/

theorem step_of_issuesNext {s : State} (h : IssuesNext s) : step s = s.nextPair := by
  obtain ⟨agenda, overdue, frozen, ready, back, stopping, interrupted, gang, follower, answered, owed⟩ := h
  have alone : s.broadcasting = false := by rw [State.broadcasting, gang]; rfl
  unfold step State.advance
  rw [agenda]
  simp only [overdue, frozen, ready, back, stopping, interrupted, alone, gang, follower, answered, Bool.not_true,
    Bool.false_and, Option.isSome_none, Bool.false_eq_true, if_false]
  cases owed with
  | inl leftOpen => rw [leftOpen, if_pos rfl]
  | inr owed => rw [owed, List.head?_nil, ite_self]

theorem State.orHold_closed {s : State} (o : Out) (h : s.ctx.leftOpen = false) : s.orHold o = o :=
  if_neg (Bool.eq_false_iff.1 h)

theorem decodePair_one {a : Raw} {x : Issue} (ha : a.decode = .ok x) : decodePair [a] = .ok [x] := by
  simp only [decodePair, ha, Except.map]

theorem decodePair_two {a c : Raw} {x y : Issue} (ha : a.decode = .ok x) (hc : c.decode = .ok y) :
    decodePair [a, c] = .ok [x, y] := by
  simp only [decodePair, ha, hc, Except.map]

section Fetched

variable {s s1 : State} {l : List Raw}

theorem State.nextPair_illegalOpcode {w : BitVec 32} {addr : Word} (hf : s.fetchPair s.ctx.pc = .ok (l, s1))
    (hd : decodePair l = .error (w, addr)) (closed : s.ctx.leftOpen = false) :
    s.nextPair = exec (.illegalOpcode w (addr - s.ctx.pc).toNat) s := by
  unfold State.nextPair
  simp only [hf, hd]
  exact State.orHold_closed _ closed

theorem State.nextPair_illegalPair {x y : Issue} {k : Nat} (hf : s.fetchPair s.ctx.pc = .ok (l, s1))
    (hd : decodePair l = .ok [x, y]) (hr : s1.pairReason x.word y.word = some k) (closed : s1.ctx.leftOpen = false) :
    s.nextPair = .next (s1.decodeTrap cIllegalPair (word k)) := by
  unfold State.nextPair
  simp only [hf, hd, hr]
  exact State.orHold_closed _ closed

theorem State.nextPair_one {a : Raw} {x : Issue} (hf : s.fetchPair s.ctx.pc = .ok ([a], s1)) (ha : a.decode = .ok x) :
    s.nextPair = s1.checkedPair [x] a.next := by
  unfold State.nextPair
  simp only [hf, decodePair_one ha]
  rfl

theorem State.nextPair_two {a c : Raw} {x y : Issue} (hf : s.fetchPair s.ctx.pc = .ok ([a, c], s1))
    (ha : a.decode = .ok x) (hc : c.decode = .ok y) (hr : s1.pairReason x.word y.word = none) :
    s.nextPair = s1.checkedPair [x, y] c.next := by
  unfold State.nextPair
  simp only [hf, decodePair_two ha hc, hr]
  rfl

end Fetched

/-! ### Illegal pairs (R58, R60) -/

theorem rowsApart_eq_false_iff {a b : List Nat} : rowsApart a b = false ↔ ∃ r, r ∈ a ∧ r ∈ b := by
  simp [rowsApart]

/-- The tests of `pairReason` come in the order of the reason codes. -/
theorem State.pairReason_of_breaksPair {s : State} {w1 w2 : BitVec 32} {k : Nat} (h : breaksPair s w1 w2 k)
    (lowest : ∀ j, j < k → ¬ breaksPair s w1 w2 j) : s.pairReason w1 w2 = some k := by
  have rows : ((classOf w1 == .he && classOf w2 == .he || classOf w1 == .hr && classOf w2 == .he
      || classOf w1 == .he && classOf w2 == .hr) && !rowsApart (s.rowSet w1) (s.rowSet w2)) = true
      ↔ breaksPair s w1 w2 2 := by
    simp only [breaksPair, Bool.and_eq_true, Bool.or_eq_true, beq_iff_eq, Bool.not_eq_true', rowsApart_eq_false_iff,
      or_assoc]
  match k with
  | 1 => exact if_pos h
  | 2 => exact (if_neg (lowest 1 (by decide))).trans <| if_pos (rows.2 h)
  | 3 =>
    exact (if_neg (lowest 1 (by decide))).trans <| (if_neg (mt rows.1 (lowest 2 (by decide)))).trans <| if_pos h
  | 4 =>
    exact (if_neg (lowest 1 (by decide))).trans <| (if_neg (mt rows.1 (lowest 2 (by decide)))).trans <|
      (if_neg (lowest 3 (by decide))).trans <| if_pos h
  | 5 =>
    exact (if_neg (lowest 1 (by decide))).trans <| (if_neg (mt rows.1 (lowest 2 (by decide)))).trans <|
      (if_neg (lowest 3 (by decide))).trans <| (if_neg (lowest 4 (by decide))).trans <|
      if_pos h
  | 6 =>
    exact (if_neg (lowest 1 (by decide))).trans <| (if_neg (mt rows.1 (lowest 2 (by decide)))).trans <|
      (if_neg (lowest 3 (by decide))).trans <| (if_neg (lowest 4 (by decide))).trans <|
      (if_neg (lowest 5 (by decide))).trans <| if_pos h
  | 0 | n + 7 => exact h.elim

/-! ### The waits before issue (R64, R241) -/

theorem State.checkedPair_of_waitsEnd {s : State} {l : List Issue} (next : Word) (hm : MayIssue s l) (hw : WaitsEnd s l) :
    s.checkedPair l next = (waitedFor s l).issuePair l next := by
  obtain ⟨gang, convoy, privileged, copies, left⟩ := hm
  obtain ⟨inTime, -, resume, sfuTrap, interrupted⟩ := hw
  have early : decide (s.ctx.stallFrom s.now 1 - 1 + 2 ^ 24 ≤ s.issueCycle l) = false := decide_eq_false (by omega)
  unfold waitedFor at *
  unfold State.checkedPair
  simp only [convoy, privileged, copies, left, gang, early, resume, sfuTrap, interrupted, Option.none_or,
    Bool.false_eq_true, Bool.and_false, Bool.false_and, if_false]

theorem waitedFor_gang {s : State} {l : List Issue} (h : WaitsEnd s l) : (waitedFor s l).ctx.gang = false := by
  obtain ⟨-, gang, -⟩ := h
  exact gang

/-! ### The instructions of the pair -/

section Runs

variable {ex : Instr → State → Out} {s t u : State} {x y : Issue}

theorem runOne_of_executed {second : Bool} (h : Executed ex s x second u) : runOne ex s x second = .done u := by
  obtain ⟨t, ht, trap, stalled, rfl⟩ := h
  unfold runOne
  simp only [ht, trap, stalled]
  rfl

theorem runOne_of_trap {r : TrapRec} {second : Bool} (h : ex x.slot.instr (s.facing x second) = .next t)
    (hr : t.trap = some r) : runOne ex s x second = .trapped t r := by
  unfold runOne
  simp only [h, hr]

theorem shortened_of_not_vstore {l ahead : List Issue} (i : Instr) (h : isVstore u.curWord = false) :
    shortened ex s l ahead i u = ex i u := if_neg (Bool.eq_false_iff.1 h)

theorem shortened_of_no_fault {l ahead : List Issue} (h : chainFault ex s s [] (l ++ ahead) = none) :
    shortened ex s l ahead = ex := by
  funext i u
  unfold shortened
  rw [h]
  exact ite_self _

theorem runPair_one {ahead : List Issue} (skip1 : s.ctx.skip1 = false)
    (h : Executed (shortened ex s [x] ahead) s x false u) : runPair ex s [x] ahead = .done u := by
  unfold runPair
  simp only [skip1, Bool.false_eq_true, if_false, runAlone, runOne_of_executed h]

theorem runPair_one_of_trap {ahead : List Issue} {r : TrapRec} (skip1 : s.ctx.skip1 = false)
    (h : shortened ex s [x] ahead x.slot.instr (s.facing x false) = .next t) (hr : t.trap = some r)
    (early : r.late = false) : runPair ex s [x] ahead = .trap t := by
  unfold runPair
  simp only [skip1, Bool.false_eq_true, if_false, runAlone, runOne_of_trap h hr, early]

theorem runPair_two {ahead : List Issue} (skip1 : s.ctx.skip1 = false) (skip2 : s.ctx.skip2 = false)
    (h : Executed (shortened ex s [x, y] ahead) s x false t) (h' : Executed (shortened ex s [x, y] ahead) t y true u) :
    runPair ex s [x, y] ahead = .done u := by
  unfold runPair
  simp only [skip1, skip2, Bool.false_eq_true, false_and, if_false, runBoth, runOne_of_executed h, runSecond,
    runOne_of_executed h']

end Runs

/-! ### The issue of the pair -/

/-- The pair's start, with the convoy's where it opens one. -/
def State.opened (s : State) (next : Word) : State :=
  let u := s.startPair next
  if u.ctx.convoy.isEmpty then { u with ctx := { u.ctx with convoyStart := u.ctx.pc } } else u

theorem State.opened_gang (s : State) (next : Word) : (s.opened next).ctx.gang = s.ctx.gang := by
  unfold State.opened
  dsimp only
  split <;> rfl

/-- What the step makes of the pair's execution from b on; `old` is the context before the held results went live. -/
noncomputable def State.afterRun (b : State) (old : Ctx) (l : List Issue) : PairOut → Out
  | .done t => .next ((b.withUndo exec t l).completePair l)
  | .trap t => b.orHold (.next t.settleTrap)
  | .stall t =>
    State.stallOn (if old.resume then
      { t with ctx := { t.ctx with live := old.live, held := old.held, resume := true } } else t)
  | .stop o => o

section Issued

variable {s t : State} {l : List Issue} {next : Word}

/-- In no gang the pair executes in the state in which it begins. -/
theorem State.issuePair_alone (gang : (waitedFor s l).ctx.gang = false) : (waitedFor s l).issuePair l next =
    (began s l next).afterRun ((waitedFor s l).opened next).ctx l
      (runPair exec (began s l next) l ((began s l next).aheadOfPair l next)) :=
  if_neg (Bool.eq_false_iff.1 ((State.opened_gang _ next).trans gang))

theorem State.issuePair_done (gang : (waitedFor s l).ctx.gang = false)
    (h : runPair exec (began s l next) l ((began s l next).aheadOfPair l next) = .done t) :
    (waitedFor s l).issuePair l next = .next (((began s l next).withUndo exec t l).completePair l) := by
  rw [State.issuePair_alone gang, h]
  rfl

theorem State.issuePair_trap (gang : (waitedFor s l).ctx.gang = false) (closed : (began s l next).ctx.leftOpen = false)
    (h : runPair exec (began s l next) l ((began s l next).aheadOfPair l next) = .trap t) :
    (waitedFor s l).issuePair l next = .next t.settleTrap := by
  rw [State.issuePair_alone gang, h]
  exact State.orHold_closed _ closed

end Issued

end Sys2Proof.Machine

section

open Sys2Proof Sys2Proof.Machine Sys2Proof.Claims

/-- Settles O59: `pairReason` answers the lowest reason, for which the pair traps before anything of it runs. -/
theorem illegalPairsTrapWithTheirLowestReason : Obligations.IllegalPairsTrapWithTheirLowestReason := by
  intro s s1 l x y k issues fetched decoded gang closed breaks lowest
  have reason := State.pairReason_of_breaksPair breaks lowest
  exact ⟨_, (step_of_issuesNext issues).trans (State.nextPair_illegalPair fetched decoded reason closed),
    State.decodeTrap_entered _ _ gang⟩

/-- Settles O58: the step reaches the pair's issue by the lemmas above, and each claim is one way through `runPair`. -/
theorem stepRunsTheDecodedInstruction : Obligations.StepRunsTheDecodedInstruction := by
  intro s s1 issues
  refine ⟨fun a x fetched decoded may waits => ?_, fun a c x y fetched ha hc legal may waits => ?_,
    fun l w addr fetched refused closed => ?_⟩
  · have gang := waitedFor_gang waits
    have issue := (step_of_issuesNext issues).trans <| (State.nextPair_one fetched decoded).trans <|
      State.checkedPair_of_waitsEnd a.next may waits
    refine ⟨fun plain u cur => shortened_of_not_vstore _ (cur ▸ plain), shortened_of_no_fault,
      fun skip1 => ⟨fun u ran => ?_, fun t k ran trap early closed => ?_⟩⟩
    · exact issue.trans (State.issuePair_done gang (runPair_one skip1 ran))
    · exact issue.trans (State.issuePair_trap gang closed (runPair_one_of_trap skip1 ran trap early))
  · have issue := (step_of_issuesNext issues).trans <| (State.nextPair_two fetched ha hc legal).trans <|
      State.checkedPair_of_waitsEnd c.next may waits
    exact fun skip1 skip2 u v first second =>
      issue.trans (State.issuePair_done (waitedFor_gang waits) (runPair_two skip1 skip2 first second))
  · exact (step_of_issuesNext issues).trans (State.nextPair_illegalOpcode fetched refused closed)

end

/-! SUPPORT. An elementwise form that no enabled flag stops, with the zero codes of a fresh queue entry, and the exact
values of the dot products: a sum of products of finite values, rounded or saturated once (R93, R94, R130, R230). -/

namespace Sys2Proof.Machine

open Sys2Proof.Safety Sys2Proof.Claims

/-! ### The zero codes of a fresh queue entry (R95) -/

theorem elem_zero (w i : Nat) : elem w 0 i = 0 :=
  Nat.eq_of_testBit_eq fun b => by simp [elem_testBit]

/-- The bits of the first n elements, each set to one code. -/
theorem splat_bits {w x : Nat} (n j b : Nat) (hb : b < w) (fits : w * j + b < 8192) :
    ((List.range n).foldl (fun d i => d ||| ((BitVec.ofNat w x).zeroExtend 8192 <<< (w * i))) (0 : Lanes)).getLsbD
      (w * j + b) = (decide (j < n) && x.testBit b) := by
  induction n with
  | zero => simp
  | succ n ih =>
    rw [List.range_succ, List.foldl_append, List.foldl_cons, List.foldl_nil, BitVec.getLsbD_or, ih,
      BitVec.getLsbD_shiftLeft, BitVec.getLsbD_setWidth, BitVec.getLsbD_ofNat]
    obtain below | rfl | above := lt_trichotomy j n
    · have : w * j + b < w * n := by nlinarith
      simp [this, below, below.trans n.lt_succ_self]
    · simp [hb, fits, show b < 8192 by omega]
    · have past : ¬ (w * j + b - w * n < w) := by
        have : w * (n + 1) ≤ w * j := Nat.mul_le_mul_left w above
        rw [Nat.mul_succ] at this
        omega
      simp [past, show ¬ j < n by omega, show ¬ j < n + 1 by omega]

theorem elem_splat {w x i : Nat} (hx : x < 2 ^ w) (hi : i < 8192 / w) : elem w (splat w x) i = x := by
  have fits : (i + 1) * w ≤ 8192 := (Nat.le_div_iff_mul_le (Nat.pos_of_ne_zero (by rintro rfl; simp at hi))).mp hi
  apply Nat.eq_of_testBit_eq
  intro b
  rw [elem_testBit]
  by_cases hb : b < w
  · rw [splat, splat_bits _ _ _ hb (by nlinarith)]
    simp [hb, hi]
  · have : x < 2 ^ b := hx.trans_le (Nat.pow_le_pow_right two_pos (not_lt.mp hb))
    simp [hb, Nat.testBit_lt_two_pow this]

theorem zeroCode_lt : ∀ (t : BitVec 5) (picot : Bool), zeroCode t picot < 2 ^ tagWidth t := by
  decide

theorem elem_zeroData {t : BitVec 5} {i : Nat} (hi : i < 8192 / tagWidth t) : elem (tagWidth t) (zeroData t) i = zeroOf t := by
  unfold zeroData filled
  split
  next h => rw [elem_zero, h]
  · exact elem_splat (zeroCode_lt t _) hi

/-! ### An elementwise form that no enabled flag stops (R130) -/

/-- The elements that a run of `fuel` elements from i on selects. -/
def selectedFrom (active : Nat → Bool) (fuel i : Nat) : List Nat := (List.range' i fuel).filter active

theorem selectedFrom_succ (active : Nat → Bool) (fuel i : Nat) : selectedFrom active (fuel + 1) i =
    if active i then i :: selectedFrom active fuel (i + 1) else selectedFrom active fuel (i + 1) := by
  rw [selectedFrom, List.range'_succ, List.filter_cons]
  rfl

/-- A run none of whose selected elements records an enabled flag writes them all, and records what they record. -/
theorem elemLoop_quiet {w : Nat} {active : Nat → Bool} {op : Nat → Nat × Fx} {en : BitVec 6} (fuel i : Nat) (d : Lanes)
    (fx : Fx) (still : ∀ j ∈ selectedFrom active fuel i, (op j).2.flags &&& en = 0) :
    (elemLoop w active op en fuel i d fx).stop = none
    ∧ (elemLoop w active op en fuel i d fx).fx = (selectedFrom active fuel i).foldl (fun f j => f.and (op j).2) fx
    ∧ ∀ j, j < 8192 / w → elem w (elemLoop w active op en fuel i d fx).data j =
        if j ∈ selectedFrom active fuel i then (op j).1 % 2 ^ w else elem w d j := by
  induction fuel generalizing i d fx with
  | zero => exact ⟨rfl, rfl, fun j _ => rfl⟩
  | succ fuel ih =>
    rw [selectedFrom_succ] at still ⊢
    unfold elemLoop
    by_cases ha : active i = true
    · simp only [ha, if_true, List.forall_mem_cons] at still ⊢
      obtain ⟨here, later⟩ := still
      simp only [here, ne_eq, not_true_eq_false, if_false, List.foldl_cons]
      obtain ⟨stop, flags, data⟩ := ih (i + 1) (setElem w d i (op i).1) (fx.and (op i).2) later
      refine ⟨stop, flags, fun j hj => (data j hj).trans ?_⟩
      rw [elem_setElem d _ hj]
      by_cases hji : j = i
      · subst hji
        simp
      · simp [hji]
    · simp only [ha, if_false, Bool.false_eq_true] at still ⊢
      exact ih (i + 1) d fx still

/-- R130: a run from VSTART up to the element count visits the processed elements in ascending order. -/
theorem processed_eq_selectedFrom {w : Nat} (s : State) (pr : BitVec 3) (hw : vlmaxOf w ≤ 1024) : processed s w pr =
    selectedFrom (s.active pr) (s.ctx.upTo (countOf s w) - startOf s) (startOf s) := by
  have left : (processed s w pr).Pairwise (· < ·) := (List.pairwise_lt_range.filter _).filter _
  have right : (selectedFrom (s.active pr) (s.ctx.upTo (countOf s w) - startOf s) (startOf s)).Pairwise (· < ·) :=
    (List.pairwise_lt_range' 1).filter _
  refine left.eq_of_mem_iff right fun i => ?_
  rw [mem_processed hw, selectedFrom, List.mem_filter, List.mem_range'_1, ← and_assoc]
  exact and_congr_left' (by omega)

theorem countUp_eq (x : Word) (n : Nat) : countUp x n = counted x n := by
  have hx := x.isLt
  apply BitVec.eq_of_toNat_eq
  unfold countUp counted word
  split
  next past =>
    rw [show (x.toNat + n).min (2 ^ 64 - 1) = 2 ^ 64 - 1 from Nat.min_eq_right (by omega)]
    decide
  next fits =>
    rw [show (x.toNat + n).min (2 ^ 64 - 1) = x.toNat + n from Nat.min_eq_left (by omega)]
    simp

theorem Ctx.record_eq (c : Ctx) (fx : Fx) : c.record fx = recorded c fx := by
  rw [Ctx.record, recorded, countUp_eq, countUp_eq]

/-- The name v[d] can be accessed where it has been read as a source. -/
theorem State.checkRef_of_takeV {s t : State} {n : BitVec 6} {v : Entry} (h : s.takeV n = .ok (v, t)) :
    t.checkRef (t.vref n) = .ok () := by
  have before : s.checkRef (s.vref n) = .ok () := by
    unfold State.takeV State.takeRef at h
    cases r : s.checkRef (s.vref n) with
    | ok => rfl
    | error e =>
      rw [r] at h
      cases h
  unfold State.vref State.checkRef at *
  rwa [State.takeV_ctx h]

/-- R130 and R95: an elementwise form whose destination can be written is the run over its elements, from the entry's own
bits or from a fresh queue entry. -/
theorem elementwise_runs {s u : State} {d : BitVec 6} (pr : BitVec 3) (tag : BitVec 5) (op : Nat → Nat × Fx)
    (hctx : u.ctx = s.ctx) (href : u.checkRef (u.vref d) = .ok ()) (hroom : u.checkRoom (u.vref d) = .ok ()) :
    ∃ full start, (∀ i, i < 8192 / tagWidth tag → elem (tagWidth tag) start i = restOf (zeroOf tag) u d tag i) ∧
      elementwise s u d pr tag (tagWidth tag) op = writeRun s u (u.vref d) tag full
        (elemLoop (tagWidth tag) (s.active pr) op s.ctx.enables
          (s.ctx.upTo (countOf s (tagWidth tag)) - startOf s) (startOf s) start .none) := by
  have active : u.active pr = s.active pr := by
    unfold State.active State.pr
    rw [hctx]
  have count : u.count (tagWidth tag) = countOf s (tagWidth tag) := by
    rw [State.count_eq, countOf, hctx, countOf]
  have start : s.ctx.vsn = startOf s := by simp [Ctx.vsn, bits, startOf]
  unfold elementwise elementwiseOn elementwiseN elementwiseZ restOf
  dsimp only
  rw [href, hroom, active, count, hctx, start]
  cases u.vref d with
  | entry e => exact ⟨_, _, fun _ _ => rfl, rfl⟩
  | queue q => exact ⟨_, _, fun _ hi => elem_zeroData hi, rfl⟩

/-- A run that no element stops is written to its destination, with no poison where the entry held none. -/
theorem writeRun_done {s u : State} {r : VRef} {tag : BitVec 5} {full : Bool} {run : ElemRun} (h : run.stop = none) :
    ∃ v : Entry, v.tag = tag ∧ v.data = run.data
      ∧ ((∀ e, r = .entry e → (u.entry e).poison = false) → v.poison = false)
      ∧ writeRun s u r tag full run = .ok (((u.putRef r v).record run.fx).setVs 0) := by
  unfold writeRun
  rw [h]
  refine ⟨_, rfl, rfl, fun clean => ?_, rfl⟩
  cases r with
  | entry e => simp [clean e rfl]
  | queue q => rfl

/-- R130: an elementwise form whose destination can be written and whose processed elements record no enabled flag
writes each element's result and records the flags of all. -/
theorem elementwise_writes {s u : State} {d : BitVec 6} {pr : BitVec 3} {tag : BitVec 5} {op : Nat → Nat × Fx}
    (hctx : u.ctx = s.ctx) (href : u.checkRef (u.vref d) = .ok ()) (hroom : u.checkRoom (u.vref d) = .ok ())
    (hw : vlmaxOf (tagWidth tag) ≤ 1024) (still : quiet s op (processed s (tagWidth tag) pr)) :
    ∃ t, elementwise s u d pr tag (tagWidth tag) op = .ok t ∧ WroteV s u t d pr tag op := by
  have visited := processed_eq_selectedFrom s pr hw
  obtain ⟨full, start, rest, run⟩ := elementwise_runs pr tag op hctx href hroom
  obtain ⟨stop, flags, data⟩ := elemLoop_quiet (w := tagWidth tag) (op := op) _ _ start .none
    (fun j hj => not_not.mp fun on => still j (visited ▸ hj) ((enabledIn_iff s _).mpr on))
  obtain ⟨v, htag, hdata, clean, written⟩ := writeRun_done (s := s) (u := u) (r := u.vref d) (tag := tag) (full := full) stop
  rw [← visited] at flags data
  refine ⟨_, run.trans written, v, htag, fun i hi => ?_, clean, ?_⟩
  · rw [hdata, data i hi, rest i hi]
  · rw [flags, State.record, Ctx.record_eq]
    rfl

theorem quiet_of_untrapped {s : State} (h : untrapped s) (res : Nat → Nat × Fx) (l : List Nat) : quiet s res l := by
  intro i _ on
  refine on ?_
  have none : BitVec.ofNat 6 (s.ctx.acr.toNat / 2 ^ 16) = 0 := BitVec.eq_of_toNat_eq (by simpa [untrapped] using h)
  rw [none]
  exact BitVec.and_zero

/-! ### The frame that the dot forms share (R230) -/

/-- A dot form whose sources can be read, carry tags that fit and have elements to process is its elementwise form. -/
theorem vdot_runs {s s1 u v : State} {ea eb ed : Entry} {d a b : BitVec 6} {ok : BitVec 5 → Bool} {dt : BitVec 5}
    (op : BitVec 5 → BitVec 5 → Nat → Entry → Entry → Nat → Nat × Fx) (pr : BitVec 3) (ha : s.takeV a = .ok (ea, s1))
    (hb : s1.takeV b = .ok (eb, u)) (hd : u.takeV d = .ok (ed, v)) (h : startOf s < countOf s 32)
    (oka : ok ea.tag = true) (okb : ok eb.tag = true) (okd : ed.tag = dt) :
    vdot ok dt op d a b pr s =
      finish s (elementwise s v d pr dt 32 (fun i => op ea.tag eb.tag i ea eb (elem 32 ed.data i))) := by
  have idle : ¬ s.idle = true := by simp [State.not_idle h]
  have some : ¬ s.nothing 32 = true := by simp [State.not_nothing h]
  unfold vdot
  rw [if_neg idle, ha]
  dsimp only [bind, Except.bind]
  rw [hb]
  dsimp only
  rw [hd]
  dsimp only
  rw [if_neg some, oka, okb, okd, beq_self_eq_true]
  rfl

/-- R230: such a form of which no element records an enabled flag completes, each element of vd its result. -/
theorem vdot_yields {i : Instr} {s s1 u v : State} {ea eb ed : Entry} {d a b : BitVec 6} {pr : BitVec 3}
    {ok : BitVec 5 → Bool} {dt : BitVec 5} {op : BitVec 5 → BitVec 5 → Nat → Entry → Entry → Nat → Nat × Fx}
    {res : Nat → Nat × Fx} (run : exec i s = vdot ok dt op d a b pr s) (ha : s.takeV a = .ok (ea, s1))
    (hb : s1.takeV b = .ok (eb, u)) (hd : u.takeV d = .ok (ed, v)) (hroom : v.checkRoom (v.vref d) = .ok ())
    (h : startOf s < countOf s 32) (oka : ok ea.tag = true) (okb : ok eb.tag = true) (okd : ed.tag = dt)
    (wide : tagWidth dt = 32) (hres : ∀ i, op ea.tag eb.tag i ea eb (elem 32 ed.data i) = res i)
    (still : quiet s res (processed s 32 pr)) : Yields i s (fun t => WroteV s v t d pr dt res) := by
  have ctx : v.ctx = s.ctx := (State.takeV_ctx hd).trans ((State.takeV_ctx hb).trans (State.takeV_ctx ha))
  obtain ⟨t, done, wrote⟩ := elementwise_writes (op := res) ctx (State.checkRef_of_takeV hd) hroom
    (by rw [wide]; decide) (wide.symm ▸ still)
  rw [wide] at done
  refine ⟨t, ?_, wrote⟩
  rw [run, vdot_runs op pr ha hb hd h oka okb okd, funext hres, done]
  rfl

/-! ### The integer products: one exact total, saturated once (R74, R94) -/

theorem intValue_elem (signed : Bool) (w : Nat) (d : Lanes) (i : Nat) :
    intValue signed w (elem w d i) = readInt signed w (elem w d i) := by
  have small : elem w d i % 2 ^ w = elem w d i := Nat.mod_eq_of_lt (BitVec.isLt _)
  simp [intValue, readInt, small]

theorem intMin_le_intMax (signed : Bool) (w : Nat) : intMin signed w ≤ intMax signed w := by
  cases signed with
  | false => simpa [intMin, intMax] using Int.add_one_le_iff.mpr (Int.pow_pos two_pos)
  | true =>
    have : (0 : Int) < 2 ^ (w - 1) := by positivity
    simp only [intMin, intMax, if_true]
    omega

/-- R74: saturating a value to the type of an integer tag clamps it, and raises SAT where that changes it. -/
theorem intSat_eq_clampTo (t : BitVec 5) (x : Int) : intSat (signedTag t) (tagWidth t) x =
    (clampTo t x, if clampTo t x = x then Fx.none else Fx.satF) := by
  have order := intMin_le_intMax (signedTag t) (tagWidth t)
  have clamp : clampTo t x = max (intMin (signedTag t) (tagWidth t)) (min (intMax (signedTag t) (tagWidth t)) x) := rfl
  rw [clamp]
  unfold intSat
  generalize intMin (signedTag t) (tagWidth t) = lo at order ⊢
  generalize intMax (signedTag t) (tagWidth t) = hi at order ⊢
  split
  · rw [min_eq_left (by omega), max_eq_right order, if_neg (by omega)]
  · rw [min_eq_right (by omega)]
    split
    · rw [max_eq_left (by omega), if_neg (by omega)]
    · rw [max_eq_right (by omega), if_pos rfl]

theorem foldl_add_products (l : List (Int × Int)) (c : Int) :
    l.foldl (fun a p => a + p.1 * p.2) c = c + (l.map (fun p => p.1 * p.2)).sum := by
  induction l generalizing c with
  | nil => simp
  | cons p l ih => simp [ih, add_assoc]

/-- R93 and R94: an integer step saturates its exact total. -/
theorem hoopStepI_eq (w : Nat) (c : Int) (prods : List (Int × Int)) :
    hoopStepI w c prods = intSat true w (c + (prods.map (fun p => p.1 * p.2)).sum) := by
  rw [hoopStepI, foldl_add_products]

/-! ### The floating products: one exact sum, rounded once (R93) -/

theorem finite_iff {v : Val} : finite v = true ↔ ∃ neg n d, v = .fin neg n d := by
  cases v <;> simp [finite]

theorem ratOf_eq_num_div_den (v : Val) : ratOf v = v.num / v.den := by
  cases v with
  | fin neg n d => cases neg <;> simp [ratOf, Val.num, Val.den]
  | _ => simp [ratOf, Val.num, Val.den]

theorem Fmt.finite_den_pos (f : Fmt) (neg : Bool) (mag : Nat) : 0 < (f.finite neg mag).den := by
  unfold Fmt.finite
  extract_lets ex m sig e
  split
  · exact Nat.one_pos
  · split
    · exact Nat.one_pos
    · exact Nat.two_pow_pos _

theorem Fmt.ieeeValue_den_pos (f : Fmt) (code : Nat) : 0 < (f.ieeeValue code).den := by
  unfold Fmt.ieeeValue
  dsimp only
  split
  · exact Nat.one_pos
  · split
    · exact Nat.one_pos
    · exact f.finite_den_pos _ _

theorem finite_ofFrac (n : Int) (d : Nat) (z : Bool) : finite (Val.ofFrac n d z) = true := by
  unfold Val.ofFrac
  split <;> rfl

theorem den_ofFrac_pos {d : Nat} (n : Int) (z : Bool) (h : 0 < d) : 0 < (Val.ofFrac n d z).den := by
  unfold Val.ofFrac
  split
  · exact Nat.one_pos
  · exact h

theorem ratOf_ofFrac (n : Int) (d : Nat) (z : Bool) : ratOf (Val.ofFrac n d z) = n / d := by
  unfold Val.ofFrac
  split
  next h => simp [h, ratOf]
  next h =>
    rw [ratOf_eq_num_div_den]
    have num : (Val.fin (decide (n < 0)) n.natAbs d).num = n := by
      by_cases neg : n < 0
      · simp [Val.num, neg, abs_of_neg neg]
      · simp [Val.num, neg, abs_of_nonneg (not_lt.mp neg)]
    rw [num]
    rfl

theorem fracAdd_den_pos {x y : Int × Nat} (hx : 0 < x.2) (hy : 0 < y.2) : 0 < (fracAdd x y).2 := by
  unfold fracAdd
  dsimp only
  split_ifs
  · exact hx
  · exact hx
  · exact hy
  · exact Nat.mul_pos (Nat.div_pos (Nat.gcd_le_left _ hx) (Nat.gcd_pos_of_pos_left _ hx)) hy

theorem fracAdd_value {x y : Int × Nat} (hx : 0 < x.2) (hy : 0 < y.2) :
    ((fracAdd x y).1 : Rat) / (fracAdd x y).2 = x.1 / x.2 + y.1 / y.2 := by
  obtain ⟨n, d⟩ := x
  obtain ⟨m, e⟩ := y
  dsimp only at hx hy ⊢
  have hd : (d : Rat) ≠ 0 := by positivity
  have he : (e : Rat) ≠ 0 := by positivity
  unfold fracAdd
  dsimp only
  split_ifs with same left right
  · subst same
    push_cast
    ring
  · rw [Int.cast_add, Int.cast_mul, Int.cast_natCast, Nat.cast_div (Nat.dvd_of_mod_eq_zero left) he]
    field_simp
  · rw [Int.cast_add, Int.cast_mul, Int.cast_natCast, Nat.cast_div (Nat.dvd_of_mod_eq_zero right) hd]
    field_simp
  · have hg : ((Nat.gcd d e : Nat) : Rat) ≠ 0 := by exact_mod_cast (Nat.gcd_pos_of_pos_left e hx).ne'
    rw [Int.cast_add, Int.cast_mul, Int.cast_mul, Int.cast_natCast, Int.cast_natCast, Nat.cast_mul,
      Nat.cast_div (Nat.gcd_dvd_left d e) hg, Nat.cast_div (Nat.gcd_dvd_right d e) hg]
    field_simp

/-- Adding the values of a list to a fraction, one after the other, gives their exact sum. -/
theorem foldl_fracAdd (l : List Val) (a : Int × Nat) (ha : 0 < a.2) (dens : ∀ v ∈ l, 0 < v.den) :
    ((l.foldl (fun a v => fracAdd a (v.num, v.den)) a).1 : Rat) / (l.foldl (fun a v => fracAdd a (v.num, v.den)) a).2 =
      a.1 / a.2 + (l.map ratOf).sum := by
  induction l generalizing a with
  | nil => simp
  | cons v l ih =>
    obtain ⟨hv, hl⟩ := List.forall_mem_cons.mp dens
    rw [List.foldl_cons, ih _ (fracAdd_den_pos ha hv) hl, fracAdd_value ha hv, List.map_cons, List.sum_cons,
      ratOf_eq_num_div_den v, add_assoc]

/-- R93: the sum of finite values is finite, exact and raises nothing. -/
theorem sumVals_of_finite (slash : Bool) {l : List Val} (zneg : Bool) (fin : ∀ v ∈ l, finite v = true)
    (dens : ∀ v ∈ l, 0 < v.den) :
    finite (sumVals slash l zneg).1 = true ∧ ratOf (sumVals slash l zneg).1 = (l.map ratOf).sum
      ∧ (sumVals slash l zneg).2 = .none := by
  have noNan : l.any Val.isNan = false := List.any_eq_false.mpr fun v hv => by
    obtain ⟨neg, n, d, rfl⟩ := finite_iff.mp (fin v hv)
    exact Bool.false_ne_true
  have noInf : ∀ s, l.any (fun v => v == .inf s) = false := fun s => List.any_eq_false.mpr fun v hv => by
    obtain ⟨neg, n, d, rfl⟩ := finite_iff.mp (fin v hv)
    simp
  have noFind : l.find? Val.isInf = none := List.find?_eq_none.mpr fun v hv => by
    obtain ⟨neg, n, d, rfl⟩ := finite_iff.mp (fin v hv)
    exact Bool.false_ne_true
  have total := foldl_fracAdd l (0, 1) Nat.one_pos dens
  unfold sumVals
  simp only [noNan, noInf, noFind, Bool.false_eq_true, if_false, Bool.and_false]
  exact ⟨finite_ofFrac _ _ _, by rw [ratOf_ofFrac, total]; simp, trivial⟩

/-- R93: the product of two finite values is their exact product. -/
theorem stepProduct_of_finite {x y : Val} (hx : finite x = true) (hy : finite y = true) :
    stepProduct (x, y) = (x.mulFin y, .none) := by
  obtain ⟨_, _, _, rfl⟩ := finite_iff.mp hx
  obtain ⟨_, _, _, rfl⟩ := finite_iff.mp hy
  rfl

theorem ratOf_mulFin (x y : Val) : ratOf (x.mulFin y) = ratOf x * ratOf y := by
  rw [Val.mulFin, ratOf_ofFrac, ratOf_eq_num_div_den x, ratOf_eq_num_div_den y, Int.cast_mul, Nat.cast_mul, div_mul_div_comm]

theorem Fx.none_and (fx : Fx) : Fx.none.and fx = fx := by
  simp [Fx.and, Fx.none]

theorem isInt_of_isIeee {t : BitVec 5} (h : isIeee t = true) : isInt t = false := by
  revert t
  decide

theorem valueOf_of_isIeee {t : BitVec 5} (h : isIeee t = true) (picot : Bool) (code : Nat) :
    valueOf t picot code = ((tagFmt t).ieeeValue code, .none) := by
  rw [valueOf, isInt_of_isIeee h, h]
  rfl

theorem roundTo_of_isIeee {t : BitVec 5} (h : isIeee t = true) (picot satinf : Bool) (v : Val) (mode : RMode) :
    roundTo t picot v mode satinf = roundIeee (tagFmt t) v mode := by
  have other : ∀ t : BitVec 5, isIeee t = true →
      intTag t.toNat = none ∧ isFp8 t = false ∧ t ≠ tNarrow ∧ isSlash t = false := by decide
  obtain ⟨int, fp8, narrow, slash⟩ := other t h
  unfold roundTo
  rw [int]
  simp [fp8, narrow, slash]

/-- R93: a step on a finite floating cell with finite products rounds the exact sum once. -/
theorem hoopStepF_of_finite {t : BitVec 5} {c : Nat} {prods : List (Val × Val)} (mode : RMode) (ht : isIeee t = true)
    (hc : finite ((tagFmt t).ieeeValue c) = true)
    (hp : ∀ p ∈ prods, (finite p.1 = true ∧ 0 < p.1.den) ∧ finite p.2 = true ∧ 0 < p.2.den) :
    ∃ y : Val, finite y = true
      ∧ ratOf y = ratOf ((tagFmt t).ieeeValue c) + (prods.map (fun p => ratOf p.1 * ratOf p.2)).sum
      ∧ hoopStepF t c prods mode = roundIeee (tagFmt t) y mode := by
  have products : prods.map stepProduct = prods.map (fun p => (p.1.mulFin p.2, Fx.none)) :=
    List.map_congr_left fun p h => stepProduct_of_finite (hp p h).1.1 (hp p h).2.1
  have fin : ∀ v ∈ (tagFmt t).ieeeValue c :: prods.map (fun p => p.1.mulFin p.2), finite v = true := by
    simp only [List.forall_mem_cons, List.forall_mem_map]
    exact ⟨hc, fun p _ => finite_ofFrac _ _ _⟩
  have dens : ∀ v ∈ (tagFmt t).ieeeValue c :: prods.map (fun p => p.1.mulFin p.2), 0 < v.den := by
    simp only [List.forall_mem_cons, List.forall_mem_map]
    exact ⟨Fmt.ieeeValue_den_pos _ _, fun p h => den_ofFrac_pos _ _ (Nat.mul_pos (hp p h).1.2 (hp p h).2.2)⟩
  obtain ⟨hy, total, still⟩ := sumVals_of_finite false (decide (mode = .rd)) fin dens
  refine ⟨_, hy, ?_, ?_⟩
  · simpa [Function.comp_def, ratOf_mulFin] using total
  · unfold hoopStepF
    rw [products, valueOf_of_isIeee ht]
    have silent : (Fx.none.flags != 0#6) = false := rfl
    simp only [List.map_map, Function.comp_def, roundTo_of_isIeee ht, List.any_map]
    rw [still]
    simp [silent, Fx.none_and, Fx.when]

/-! ### The elements of the two forms (R230) -/

/-- An element of `vdot4s`: i, of the entries of va and vb, whose tags come first, with the element of vd. -/
def dot4sElement (ta tb : BitVec 5) (i : Nat) (ea eb : Entry) (c : Nat) : Nat × Fx :=
  let (x, f) := hoopStepI 32 (intValue true 32 c) ((List.range 4).map (fun k =>
    (intValue (tagSigned ta) 8 (elem 8 ea.data (4 * i + k)), intValue (tagSigned tb) 8 (elem 8 eb.data (4 * i + k)))))
  (intCode 32 x, f)

/-- The same of `vdot2f`, under a rounding mode. -/
def dot2fElement (mode : RMode) (ta tb : BitVec 5) (i : Nat) (ea eb : Entry) (c : Nat) : Nat × Fx :=
  hoopStepF tF32 c ((List.range 2).map (fun k =>
    ((valueOf ta false (elem 16 ea.data (2 * i + k))).1, (valueOf tb false (elem 16 eb.data (2 * i + k))).1))) mode

theorem exec_vdot4s (d a b : BitVec 6) (pr : BitVec 3) (s : State) : exec (.vdot4s d a b pr) s =
    vdot (fun t => t.toNat == 1 || t.toNat == 2) tI32 dot4sElement d a b pr s := rfl

theorem exec_vdot2f (d a b : BitVec 6) (pr : BitVec 3) (s : State) : exec (.vdot2f d a b pr) s =
    vdot (fun t => t == tBF16 || t == tF16) tF32 (dot2fElement s.ctx.rm) d a b pr s := rfl

theorem tagSigned_of_byte {t : BitVec 5} (h : t.toNat = 1 ∨ t.toNat = 2) : tagSigned t = signedTag t := by
  obtain h | h := h <;> simp [tagSigned, signedTag, h, intTag]

theorem isIeee_of_half {t : BitVec 5} (h : t = tBF16 ∨ t = tF16) : isIeee t = true := by
  obtain rfl | rfl := h <;> rfl

/-- R94: an element of `vdot4s` is its own value and four products of bytes, saturated once. -/
theorem dot4sElement_eq {ta tb : BitVec 5} (ha : ta.toNat = 1 ∨ ta.toNat = 2) (hb : tb.toNat = 1 ∨ tb.toNat = 2)
    (ea eb : Entry) (dd : Lanes) (i : Nat) : dot4sElement ta tb i ea eb (elem 32 dd i) =
    (let x := readInt true 32 (elem 32 dd i) + ((List.range 4).map (fun k =>
       readInt (signedTag ta) 8 (elem 8 ea.data (4 * i + k)) * readInt (signedTag tb) 8 (elem 8 eb.data (4 * i + k)))).sum
     (wrapTo 32 (clampTo tI32 x), if clampTo tI32 x = x then Fx.none else Fx.satF)) := by
  have once (x : Int) : intSat true 32 x = (clampTo tI32 x, if clampTo tI32 x = x then Fx.none else Fx.satF) :=
    intSat_eq_clampTo tI32 x
  rw [dot4sElement, hoopStepI_eq, tagSigned_of_byte ha, tagSigned_of_byte hb, once]
  simp only [intValue_elem, List.map_map, Function.comp_def]
  rfl

/-- R93: an element of `vdot2f` is its own value and two products of halves, rounded once, where all are finite. -/
theorem dot2fElement_of_finite {ta tb : BitVec 5} {ea eb : Entry} {c i : Nat} (mode : RMode) (ha : isIeee ta = true)
    (hb : isIeee tb = true) (hc : finite (fmtF32.ieeeValue c) = true)
    (hp : ∀ k, k < 2 → finite ((tagFmt ta).ieeeValue (elem 16 ea.data (2 * i + k))) = true
      ∧ finite ((tagFmt tb).ieeeValue (elem 16 eb.data (2 * i + k))) = true) :
    ∃ y : Val, finite y = true
      ∧ ratOf y = ratOf (fmtF32.ieeeValue c)
          + ratOf ((tagFmt ta).ieeeValue (elem 16 ea.data (2 * i))) * ratOf ((tagFmt tb).ieeeValue (elem 16 eb.data (2 * i)))
          + ratOf ((tagFmt ta).ieeeValue (elem 16 ea.data (2 * i + 1))) * ratOf ((tagFmt tb).ieeeValue (elem 16 eb.data (2 * i + 1)))
      ∧ dot2fElement mode ta tb i ea eb c = roundIeee fmtF32 y mode := by
  rw [dot2fElement]
  simp only [valueOf_of_isIeee ha, valueOf_of_isIeee hb]
  obtain ⟨y, hy, total, step⟩ := hoopStepF_of_finite (t := tF32) (prods := (List.range 2).map (fun k =>
      ((tagFmt ta).ieeeValue (elem 16 ea.data (2 * i + k)), (tagFmt tb).ieeeValue (elem 16 eb.data (2 * i + k))))) mode rfl hc
    (List.forall_mem_map.mpr fun k hk => have h := hp k (List.mem_range.mp hk)
      ⟨⟨h.1, Fmt.ieeeValue_den_pos _ _⟩, h.2, Fmt.ieeeValue_den_pos _ _⟩)
  refine ⟨y, hy, total.trans ?_, step⟩
  simp only [List.range_succ, List.range_zero, List.nil_append, List.cons_append, List.map_cons, List.map_nil, List.sum_cons,
    List.sum_nil, add_zero, ← add_assoc]
  rfl

end Sys2Proof.Machine

section

open Sys2Proof Sys2Proof.Machine Sys2Proof.Safety Sys2Proof.Claims

/-- Settles O20: `vdot_yields` for the frame of both forms, with the exact total of an element of each. -/
theorem packedDotProductsRoundOnce : Obligations.PackedDotProductsRoundOnce := by
  intro d a b pr s s1 u v ea eb ed ha hb hd hroom h
  have halves {t : BitVec 5} (ht : t = tBF16 ∨ t = tF16) : (t == tBF16 || t == tF16) = true := by simpa using ht
  have bytes {t : BitVec 5} (ht : t.toNat = 1 ∨ t.toNat = 2) : (t.toNat == 1 || t.toNat == 2) = true := by simpa using ht
  refine ⟨fun ia ib acc still => ?_, fun fa fb acc fin => ?_, fun fa fb acc off => ?_⟩
  · exact vdot_yields (exec_vdot4s d a b pr s) ha hb hd hroom h (bytes ia) (bytes ib) acc rfl
      (fun i => dot4sElement_eq ia ib ea eb ed.data i) still
  · refine ⟨fun i => dot2fElement s.ctx.rm ea.tag eb.tag i ea eb (elem 32 ed.data i), fun i hi => ?_, fun still => ?_⟩
    · obtain ⟨hc, hp⟩ := fin i hi
      exact dot2fElement_of_finite s.ctx.rm (isIeee_of_half fa) (isIeee_of_half fb) hc hp
    · exact vdot_yields (exec_vdot2f d a b pr s) ha hb hd hroom h (halves fa) (halves fb) acc rfl (fun _ => rfl) still
  · obtain ⟨t, done, wrote⟩ := vdot_yields (exec_vdot2f d a b pr s) ha hb hd hroom h (halves fa) (halves fb) acc rfl
      (fun _ => rfl) (quiet_of_untrapped off _ _)
    exact ⟨t, done, _, wrote⟩

end

/-! SUPPORT. The integer forms (R98 to R102): each operation of the ALU in the terms of the manual's table. -/

namespace Sys2Proof.Machine

open Sys2Proof.Safety Sys2Proof.Claims

/-! ### Results as words (R98 to R100) -/

/-- The form is an ALU form of two registers that writes this value. -/
def WritesOfTwo (p : (BitVec 6 → BitVec 6 → BitVec 6 → Instr) × (Word → Word → Word)) : Prop :=
  ∃ f, (∀ d a b s, exec (p.1 d a b) s = alu2 f d a b s) ∧ ∀ x y, f x y = p.2 x y

/-- The form is an ALU form of one register that writes this value. -/
def WritesOfOne (p : (BitVec 6 → BitVec 6 → Instr) × (Word → Word)) : Prop :=
  ∃ f, (∀ d a s, exec (p.1 d a) s = alu1 f d a s) ∧ ∀ x, f x = p.2 x

/-- The form is one of a register and a number in the word that writes this value. -/
def WritesOfAmount (p : (BitVec 6 → BitVec 6 → BitVec 6 → Instr) × (Word → Nat → Word)) : Prop :=
  ∃ f : BitVec 6 → Word → Word, (∀ d a n s, exec (p.1 d a n) s = alu1 (f n) d a s) ∧ ∀ n x, f n x = p.2 x n.toNat

/-- The form is an immediate form that writes this value. -/
def WritesOfImm (p : (BitVec 6 → BitVec 6 → Imm 12 → Instr) × (Word → Word → Word)) : Prop :=
  ∃ f, (∀ d a i s, exec (p.1 d a i) s = aluImm f d a i s) ∧ ∀ x y, f x y = p.2 x y

theorem immWord_eq {w : Nat} (i : Imm w) : immWord i = imm64 i := by
  cases i <;> rfl

theorem wordI_toInt (x : Word) : wordI x.toInt = x := BitVec.ofInt_toInt

theorem word_toNat (x : Word) : word x.toNat = x := BitVec.ofNat_toNat 64 x |>.trans (BitVec.setWidth_eq x)

theorem toInt_wordI (x : Int) : (wordI x).toInt = x.bmod (2 ^ 64) := BitVec.toInt_ofInt x

theorem toNat_word (n : Nat) : (word n).toNat = n % 2 ^ 64 := BitVec.toNat_ofNat n 64

theorem eq_wordI {x : Word} {n : Int} (h : x.toInt = n.bmod (2 ^ 64)) : x = wordI n :=
  BitVec.eq_of_toInt_eq (h.trans (toInt_wordI n).symm)

theorem eq_word {x : Word} {n : Nat} (h : x.toNat = n % 2 ^ 64) : x = word n :=
  BitVec.eq_of_toNat_eq (h.trans (toNat_word n).symm)

theorem shamt_eq (y : Word) : shamt y = y.toNat % 64 := by
  simp [shamt, bits]

theorem sub_eq_wordI (x y : Word) : x - y = wordI (x.toInt - y.toInt) :=
  eq_wordI (BitVec.toInt_sub)

theorem shiftLeft_eq_word (x : Word) (n : Nat) : x <<< n = word (x.toNat * 2 ^ n) :=
  eq_word (by rw [BitVec.toNat_shiftLeft, Nat.shiftLeft_eq])

theorem ushiftRight_eq_word (x : Word) (n : Nat) : x >>> n = word (x.toNat / 2 ^ n) := by
  refine eq_word ?_
  rw [BitVec.toNat_ushiftRight, Nat.shiftRight_eq_div_pow, Nat.mod_eq_of_lt]
  exact (Nat.div_le_self _ _).trans_lt x.isLt

theorem sshiftRight_eq_wordI (x : Word) (n : Nat) : x.sshiftRight n = wordI (x.toInt / 2 ^ n) := by
  have h : x.toInt / 2 ^ n = (x.sshiftRight n).toInt := by
    rw [BitVec.toInt_sshiftRight, Int.shiftRight_eq_div_pow]
    norm_cast
  rw [h, wordI_toInt]

/-- The two parts of a rotation by m lie beside each other. -/
theorem rotate_parts {x m : Nat} (hx : x < 2 ^ 64) (hm : m ≤ 64) :
    x * 2 ^ m % 2 ^ 64 ||| x / 2 ^ (64 - m) = (x * 2 ^ m + x / 2 ^ (64 - m)) % 2 ^ 64 := by
  have e : (2 : Nat) ^ 64 = 2 ^ (64 - m) * 2 ^ m := by rw [← Nat.pow_add, Nat.sub_add_cancel hm]
  have low : x / 2 ^ (64 - m) < 2 ^ m := by
    rwa [Nat.div_lt_iff_lt_mul (Nat.two_pow_pos _), Nat.mul_comm, ← e]
  have high : x * 2 ^ m % 2 ^ 64 = x % 2 ^ (64 - m) * 2 ^ m := by rw [e, Nat.mul_mod_mul_right]
  have fits : x % 2 ^ (64 - m) * 2 ^ m + x / 2 ^ (64 - m) < 2 ^ 64 :=
    calc _ < x % 2 ^ (64 - m) * 2 ^ m + 2 ^ m := Nat.add_lt_add_left low _
      _ = (x % 2 ^ (64 - m) + 1) * 2 ^ m := by ring
      _ ≤ 2 ^ (64 - m) * 2 ^ m := Nat.mul_le_mul_right _ (Nat.mod_lt _ (Nat.two_pow_pos _))
      _ = 2 ^ 64 := e.symm
  rw [← Nat.mod_add_mod, high, Nat.mod_eq_of_lt fits, ← Nat.shiftLeft_eq, Nat.shiftLeft_add_eq_or_of_lt low]

theorem rotateLeft_eq_word (x : Word) {n : Nat} (hn : n < 64) :
    x.rotateLeft n = word (x.toNat * 2 ^ n + x.toNat / 2 ^ (64 - n)) := by
  refine eq_word ?_
  rw [← rotate_parts x.isLt hn.le, BitVec.toNat_rotateLeft, Nat.mod_eq_of_lt hn, Nat.shiftLeft_eq, Nat.shiftRight_eq_div_pow]

theorem rotateRight_eq_word (x : Word) {n : Nat} (hn : n < 64) :
    x.rotateRight n = word (x.toNat / 2 ^ n + x.toNat * 2 ^ (64 - n)) := by
  refine eq_word ?_
  have parts := rotate_parts x.isLt (Nat.sub_le 64 n)
  rw [Nat.sub_sub_self hn.le] at parts
  rw [Nat.add_comm, ← parts, BitVec.toNat_rotateRight, Nat.mod_eq_of_lt hn, Nat.shiftLeft_eq, Nat.shiftRight_eq_div_pow,
    Nat.or_comm]

theorem flagWord_slt (x y : Word) : flagWord (x.slt y) = oneIf (decide (x.toInt < y.toInt)) := by
  rw [BitVec.slt_eq_decide]
  rfl

theorem flagWord_ult (x y : Word) : flagWord (x.ult y) = oneIf (decide (x.toNat < y.toNat)) := rfl

theorem minSigned_eq (x y : Word) : (if x.slt y then x else y) = wordI (Min.min x.toInt y.toInt) := by
  rw [min_def_lt, apply_ite wordI, wordI_toInt, wordI_toInt, BitVec.slt_eq_decide]
  simp only [decide_eq_true_eq]

theorem maxSigned_eq (x y : Word) : (if x.slt y then y else x) = wordI (Max.max x.toInt y.toInt) := by
  rw [max_def_lt, apply_ite wordI, wordI_toInt, wordI_toInt, BitVec.slt_eq_decide]
  simp only [decide_eq_true_eq]

theorem minUnsigned_eq (x y : Word) : (if x.ult y then x else y) = word (Nat.min x.toNat y.toNat) := by
  have m : Nat.min x.toNat y.toNat = _ := min_def_lt x.toNat y.toNat
  rw [m, apply_ite word, word_toNat, word_toNat]
  simp only [BitVec.ult, decide_eq_true_eq]

theorem maxUnsigned_eq (x y : Word) : (if x.ult y then y else x) = word (Nat.max x.toNat y.toNat) := by
  have m : Nat.max x.toNat y.toNat = _ := max_def_lt x.toNat y.toNat
  rw [m, apply_ite word, word_toNat, word_toNat]
  simp only [BitVec.ult, decide_eq_true_eq]

theorem divSigned_eq (x y : Word) : divSigned x y = if y = 0 then wordI (-1) else wordI (x.toInt.tdiv y.toInt) := by
  unfold divSigned
  split
  · rfl
  · split
    · next h =>
      rw [h.1, h.2]
      exact BitVec.eq_of_toInt_eq h.1
    · rfl

theorem remSigned_eq (x y : Word) :
    remSigned x y = if y = 0 then x else wordI (x.toInt - y.toInt * x.toInt.tdiv y.toInt) := by
  unfold remSigned
  split
  · rfl
  · rw [← Int.tmod_def]
    split
    · next h => rw [h.1, h.2]; rfl
    · rfl

/-! ### Bits of a word (R98) -/

/-- The places below `fuel` where m has a set bit, in ascending order. -/
def bitsAt (fuel m : Nat) : List Nat := (List.range fuel).filter m.testBit

theorem positions_eq (x : Word) : positions x = bitsAt 64 x.toNat := rfl

theorem bitsAt_succ (fuel m : Nat) :
    bitsAt (fuel + 1) m = if m % 2 = 1 then 0 :: (bitsAt fuel (m / 2)).map Nat.succ else (bitsAt fuel (m / 2)).map Nat.succ := by
  have tail : ((List.range fuel).map Nat.succ).filter m.testBit = (bitsAt fuel (m / 2)).map Nat.succ := by
    rw [List.filter_map]
    congr 2
    funext i
    exact Nat.testBit_succ m i
  rw [bitsAt, List.range_succ_eq_map, List.filter_cons, Nat.testBit_zero, tail]
  simp

theorem popAux_eq (fuel x : Nat) : popAux fuel x = (bitsAt fuel x).length := by
  induction fuel generalizing x with
  | zero => rfl
  | succ fuel ih =>
    rw [popAux, ih, bitsAt_succ]
    split <;> simp <;> omega

theorem ctzAux_eq (fuel x : Nat) : ctzAux fuel x = ((List.range fuel).takeWhile (fun i => !x.testBit i)).length := by
  induction fuel generalizing x with
  | zero => rfl
  | succ fuel ih =>
    rw [ctzAux, ih, List.range_succ_eq_map, List.takeWhile_cons, Nat.testBit_zero]
    split
    · simp [*]
    · simp [*, List.takeWhile_map, Function.comp_def, Nat.testBit_succ, Nat.add_comm]

theorem toNat_testBit_zero (a : Nat) : (a.testBit 0).toNat = a % 2 := by
  rw [Nat.toNat_testBit, Nat.pow_zero, Nat.div_one]

theorem bextAux_eq (fuel a m : Nat) :
    bextAux fuel a m = ((bitsAt fuel m).zipIdx.map (fun p => (a.testBit p.1).toNat * 2 ^ p.2)).sum := by
  induction fuel generalizing a m with
  | zero => rfl
  | succ fuel ih =>
    rw [bextAux, bitsAt_succ, ih]
    split
    · rw [List.zipIdx_cons, List.map_cons, List.sum_cons, toNat_testBit_zero, ← List.sum_map_mul_left, List.zipIdx_map,
        List.zipIdx_succ]
      simp only [List.map_map, Function.comp_def, Prod.map, Nat.testBit_succ, id, pow_zero, mul_one, pow_succ, mul_left_comm 2,
        mul_comm _ 2]
    · simp only [List.zipIdx_map, List.map_map, Function.comp_def, Prod.map, Nat.testBit_succ, id]

theorem bdepAux_eq (fuel a m : Nat) :
    bdepAux fuel a m = ((bitsAt fuel m).zipIdx.map (fun p => (a.testBit p.2).toNat * 2 ^ p.1)).sum := by
  induction fuel generalizing a m with
  | zero => rfl
  | succ fuel ih =>
    rw [bdepAux, bitsAt_succ, ih, ih]
    split
    · rw [List.zipIdx_cons, List.map_cons, List.sum_cons, toNat_testBit_zero, ← List.sum_map_mul_left, List.zipIdx_map,
        List.zipIdx_succ]
      simp only [List.map_map, Function.comp_def, Prod.map, Nat.testBit_succ, id, pow_zero, mul_one, pow_succ, mul_left_comm 2,
        mul_comm _ 2]
    · rw [← List.sum_map_mul_left]
      simp only [List.zipIdx_map, List.map_map, Function.comp_def, Prod.map, id, pow_succ, mul_left_comm 2, mul_comm _ 2]

/-- The places of a range before the first that fails p. -/
theorem takeWhile_range_length {n k : Nat} {p : Nat → Bool} (hk : k < n) (below : ∀ i < k, p i = true)
    (stop : p k = false) : ((List.range n).takeWhile p).length = k := by
  obtain ⟨r, rfl⟩ := Nat.exists_eq_add_of_lt hk
  rw [Nat.add_assoc, List.range_add, List.takeWhile_append_of_pos (fun i hi => below i (List.mem_range.mp hi)), List.range_succ_eq_map]
  simp [stop]

theorem clzNat_eq {w x : Nat} (hx : x < 2 ^ w) :
    clzNat w x = ((List.range w).takeWhile (fun i => !x.testBit (w - 1 - i))).length := by
  unfold clzNat
  split
  · next h => simp [h, List.takeWhile_eq_self_iff.mpr]
  · next h =>
    have top : x.log2 < w := (Nat.log2_lt h).mpr hx
    refine (takeWhile_range_length (by omega) (fun i hi => ?_) ?_).symm
    · rw [Nat.testBit_eq_false_of_lt, Bool.not_false]
      exact (Nat.log2_lt h).mp (by omega)
    · rw [Nat.sub_sub_self (by omega), Nat.testBit_log2 h, Bool.not_true]

theorem word_bextAux (x y : Word) : word (bextAux 64 x.toNat y.toNat)
    = word (((positions y).zipIdx.map (fun p => (x.getLsbD p.1).toNat * 2 ^ p.2)).sum) :=
  congrArg word (bextAux_eq 64 x.toNat y.toNat)

theorem word_bdepAux (x y : Word) : word (bdepAux 64 x.toNat y.toNat)
    = word (((positions y).zipIdx.map (fun p => (x.getLsbD p.2).toNat * 2 ^ p.1)).sum) :=
  congrArg word (bdepAux_eq 64 x.toNat y.toNat)

theorem word_clzNat (x : Word) :
    word (clzNat 64 x.toNat) = word ((List.range 64).takeWhile (fun i => !x.getLsbD (63 - i))).length :=
  congrArg word (clzNat_eq x.isLt)

theorem word_ctzAux (x : Word) :
    word (ctzAux 64 x.toNat) = word ((List.range 64).takeWhile (fun i => !x.getLsbD i)).length :=
  congrArg word (ctzAux_eq 64 x.toNat)

theorem word_popAux (x : Word) : word (popAux 64 x.toNat) = word (positions x).length :=
  congrArg word (popAux_eq 64 x.toNat)

/-! ### Extension (R98) -/

theorem intValue_signed (n x : Nat) : intValue true (n + 1) x = Int.bmod x (2 ^ (n + 1)) := by
  have half : (((2 ^ (n + 1) : Nat) : Int) + 1) / 2 = (2 ^ n : Nat) := by push_cast; omega
  have cast : (2 : Int) ^ (n + 1) = ((2 ^ (n + 1) : Nat) : Int) := by push_cast; rfl
  rw [intValue, Int.bmod, half, cast, ← Int.natCast_emod, Nat.add_sub_cancel]
  simp only [true_and, Nat.cast_lt, ← not_lt, ite_not]

/-! ### The tables of R98 and R100 -/

theorem aluForms_writesOfTwo : ∀ p ∈ aluForms, WritesOfTwo p := by
  have low (y : Word) : shamt y < 64 := shamt_eq y ▸ Nat.mod_lt _ (by decide)
  simp only [aluForms, List.forall_mem_cons, ← shamt_eq]
  exact ⟨⟨_, fun _ _ _ _ => rfl, fun _ _ => eq_word (BitVec.toNat_add _ _)⟩,
    ⟨_, fun _ _ _ _ => rfl, sub_eq_wordI⟩,
    ⟨_, fun _ _ _ _ => rfl, fun _ _ => rfl⟩,
    ⟨_, fun _ _ _ _ => rfl, fun _ _ => rfl⟩,
    ⟨_, fun _ _ _ _ => rfl, fun _ _ => rfl⟩,
    ⟨_, fun _ _ _ _ => rfl, fun _ _ => rfl⟩,
    ⟨_, fun _ _ _ _ => rfl, fun _ _ => rfl⟩,
    ⟨_, fun _ _ _ _ => rfl, fun _ _ => shiftLeft_eq_word _ _⟩,
    ⟨_, fun _ _ _ _ => rfl, fun _ _ => ushiftRight_eq_word _ _⟩,
    ⟨_, fun _ _ _ _ => rfl, fun _ _ => sshiftRight_eq_wordI _ _⟩,
    ⟨_, fun _ _ _ _ => rfl, fun _ y => rotateLeft_eq_word _ (low y)⟩,
    ⟨_, fun _ _ _ _ => rfl, fun _ y => rotateRight_eq_word _ (low y)⟩,
    ⟨_, fun _ _ _ _ => rfl, flagWord_slt⟩,
    ⟨_, fun _ _ _ _ => rfl, flagWord_ult⟩,
    ⟨_, fun _ _ _ _ => rfl, minSigned_eq⟩,
    ⟨_, fun _ _ _ _ => rfl, maxSigned_eq⟩,
    ⟨_, fun _ _ _ _ => rfl, minUnsigned_eq⟩,
    ⟨_, fun _ _ _ _ => rfl, maxUnsigned_eq⟩,
    ⟨_, fun _ _ _ _ => rfl, fun _ _ => eq_wordI (BitVec.toInt_mul _ _)⟩,
    ⟨_, fun _ _ _ _ => rfl, fun _ _ => rfl⟩,
    ⟨_, fun _ _ _ _ => rfl, fun _ _ => rfl⟩,
    ⟨_, fun _ _ _ _ => rfl, divSigned_eq⟩,
    ⟨_, fun _ _ _ _ => rfl, fun _ _ => rfl⟩,
    ⟨_, fun _ _ _ _ => rfl, remSigned_eq⟩,
    ⟨_, fun _ _ _ _ => rfl, fun _ _ => rfl⟩,
    ⟨_, fun _ _ _ _ => rfl, word_bextAux⟩,
    ⟨_, fun _ _ _ _ => rfl, word_bdepAux⟩, nofun⟩

theorem bitForms_writesOfOne : ∀ p ∈ bitForms, WritesOfOne p := by
  simp only [bitForms, List.forall_mem_cons]
  exact ⟨⟨_, fun _ _ _ => rfl, word_clzNat⟩,
    ⟨_, fun _ _ _ => rfl, word_ctzAux⟩,
    ⟨fun x => word (popAux 64 x.toNat),
      fun _ _ _ => rfl,
      word_popAux⟩, nofun⟩

theorem amountForms_writesOfAmount : ∀ p ∈ amountForms, WritesOfAmount p := by
  simp only [amountForms, List.forall_mem_cons]
  exact ⟨⟨_, fun _ _ _ _ => rfl, fun n x => congrArg wordI (intValue_signed n.toNat x.toNat)⟩,
    ⟨fun n x => extZero x n, fun _ _ _ _ => rfl, fun _ _ => rfl⟩,
    ⟨_, fun _ _ _ _ => rfl, fun _ _ => shiftLeft_eq_word _ _⟩,
    ⟨_, fun _ _ _ _ => rfl, fun _ _ => ushiftRight_eq_word _ _⟩,
    ⟨_, fun _ _ _ _ => rfl, fun _ _ => sshiftRight_eq_wordI _ _⟩,
    ⟨_, fun _ _ _ _ => rfl, fun n _ => rotateRight_eq_word _ n.isLt⟩, nofun⟩

theorem immForms_writesOfImm : ∀ p ∈ immForms, WritesOfImm p := by
  simp only [immForms, List.forall_mem_cons]
  exact ⟨⟨_, fun _ _ _ _ => rfl, fun _ _ => eq_word (BitVec.toNat_add _ _)⟩,
    ⟨_, fun _ _ _ _ => rfl, fun _ _ => rfl⟩,
    ⟨_, fun _ _ _ _ => rfl, fun _ _ => rfl⟩,
    ⟨_, fun _ _ _ _ => rfl, fun _ _ => rfl⟩,
    ⟨_, fun _ _ _ _ => rfl, flagWord_slt⟩,
    ⟨_, fun _ _ _ _ => rfl, flagWord_ult⟩, nofun⟩

theorem aluFormsWriteTheirResult : AluFormsWriteTheirResult := by
  intro p hp d a b s
  obtain ⟨f, run, value⟩ := aluForms_writesOfTwo p hp
  exact ⟨_, run d a b s, value _ _ ▸ State.setGr_wroteG s d _⟩

theorem immediateAndBitFormsWriteTheirResult : ImmediateAndBitFormsWriteTheirResult := by
  refine ⟨fun p hp d a s => ?_, fun p hp d a n s => ?_, fun p hp d a i s => ?_, fun d i s => ?_, fun d i s => ?_⟩
  · obtain ⟨f, run, value⟩ := bitForms_writesOfOne p hp
    exact ⟨_, run d a s, value _ ▸ State.setGr_wroteG s d _⟩
  · obtain ⟨f, run, value⟩ := amountForms_writesOfAmount p hp
    exact ⟨_, run d a n s, value _ _ ▸ State.setGr_wroteG s d _⟩
  · obtain ⟨f, run, value⟩ := immForms_writesOfImm p hp
    exact ⟨_, run d a i s, value _ _ ▸ immWord_eq i ▸ State.setGr_wroteG s d _⟩
  · rw [← shiftLeft_eq_word, ← immWord_eq]
    exact ⟨_, rfl, State.setGr_wroteG s d _⟩
  · rw [← immWord_eq]
    exact ⟨_, rfl, State.setGr_wroteG s d _⟩

end Sys2Proof.Machine

section

open Sys2Proof Sys2Proof.Machine Sys2Proof.Safety Sys2Proof.Claims

/-- Settles O1: each operation of the ALU in the terms of the table of R98, in the frame of its form. -/
theorem integerFormsWriteTheirResult : Obligations.IntegerFormsWriteTheirResult :=
  ⟨aluFormsWriteTheirResult, immediateAndBitFormsWriteTheirResult⟩

end

/-! SUPPORT. Control transfer (R103, R104), the counted loop (R105 to R108), and what enters and leaves a handler
(R110, R111). -/

namespace Sys2Proof.Machine

open Sys2Proof.Safety Sys2Proof.Claims

/-! ### Transfers (R51, R103, R104, R108) -/

theorem setBit_false (x : Word) (k : Nat) : setBit x k false = x &&& ~~~(1#64 <<< k) := rfl

theorem State.target_eq {w : Nat} (s : State) (off : Imm w) : s.target off = targetOf s off := by
  have mul (x : Int) : wordI (4 * x) = 4 * wordI x := BitVec.ofInt_mul 4 x
  rw [State.target, targetOf, mul, ← immWord_eq]
  rfl

theorem State.transfer_jumped (s : State) (to_ : Word) : Jumped s (s.transfer to_) to_ := by
  have off : (s.ctx.lcOn && !s.ctx.inBody to_) = true ↔
      s.ctx.lc.getLsbD 42 = true ∧ 4 * (s.ctx.lc.toNat / 2 ^ 32 % 64) ≤ (to_ - s.ctx.first).toNat := by
    rw [Ctx.inBody, Bool.and_eq_true, Bool.not_eq_true', decide_eq_false_iff_not, not_lt]
    rfl
  unfold State.transfer Jumped
  simp only [off]
  split
  · exact ⟨rfl, rfl⟩
  · exact ⟨rfl, rfl⟩

theorem not_slt_eq_decide (x y : Word) : (!x.slt y) = decide (y.toInt ≤ x.toInt) := by
  rw [BitVec.slt_eq_decide, ← decide_not]
  simp only [not_lt]

theorem not_ult_eq_decide (x y : Word) : (!x.ult y) = decide (y.toNat ≤ x.toNat) := by
  rw [BitVec.ult, ← decide_not]
  simp only [not_lt]

/-- The form is a branch on this condition. -/
def BranchesOn (p : (BitVec 6 → BitVec 6 → Imm 12 → Instr) × (Word → Word → Bool)) : Prop :=
  ∃ c, (∀ a b off s, exec (p.1 a b off) s = branch c a b off s) ∧ ∀ x y, c x y = p.2 x y

theorem branchForms_branchesOn : ∀ p ∈ branchForms, BranchesOn p := by
  simp only [branchForms, List.forall_mem_cons]
  exact ⟨⟨_, fun _ _ _ _ => rfl, fun x y => beq_eq_decide x y⟩,
    ⟨_, fun _ _ _ _ => rfl, fun x y => (decide_not (p := x = y)).symm⟩,
    ⟨_, fun _ _ _ _ => rfl, fun _ _ => BitVec.slt_eq_decide⟩,
    ⟨fun x y => !x.slt y, fun _ _ _ _ => rfl, not_slt_eq_decide⟩,
    ⟨_, fun _ _ _ _ => rfl, fun _ _ => rfl⟩,
    ⟨fun x y => !x.ult y, fun _ _ _ _ => rfl, not_ult_eq_decide⟩, nofun⟩

theorem branchesTransferOnTheirCondition : BranchesTransferOnTheirCondition := by
  intro p hp a b off s
  obtain ⟨c, run, cond⟩ := branchForms_branchesOn p hp
  refine ⟨_, run a b off s, ?_⟩
  rw [cond]
  split
  · exact State.target_eq s off ▸ State.transfer_jumped s _
  · rfl

theorem jumpsLinkAndTransfer : JumpsLinkAndTransfer := by
  have low (x : Word) : bits x 1 0 = x.toNat % 4 := by simp [bits]
  refine ⟨fun off s => ?_, fun d a i s aligned => ?_, fun d a i s odd => ?_⟩
  · exact ⟨_, rfl, _, State.setGr_wroteG s 1 _, State.target_eq s off ▸ State.transfer_jumped _ _⟩
  · refine ⟨_, if_neg ?_, _, State.setGr_wroteG s d _, immWord_eq i ▸ State.transfer_jumped _ _⟩
    rw [low, immWord_eq, aligned]
    exact fun h => h rfl
  · refine immWord_eq i ▸ trapOut_yields (if_pos ?_) (by decide)
    rwa [low, immWord_eq]

/-! ### The counted loop (R105 to R107) -/

theorem bits_lc_count (x : Word) : bits x 31 0 = x.toNat % 2 ^ 32 := by simp [bits]

/-- COUNT above zero falls by one. -/
theorem setBits_count_down {x : Word} (h : 0 < x.toNat % 2 ^ 32) : setBits x 31 0 (x.toNat % 2 ^ 32 - 1) = x - 1 := by
  apply BitVec.eq_of_toNat_eq
  have one : (1 : Word).toNat = 1 := rfl
  have := x.isLt
  rw [setBits_toNat _ _ _ _ (by decide) (by decide), bits_lc_count, BitVec.toNat_sub_of_le (by rw [BitVec.le_def, one]; omega), one]
  omega

theorem getElem_ite_set {α : Type} {n : Nat} (c : Prop) [Decidable c] (v : Vector α n) (k j : Nat) (x : α) (hk : k < n)
    (hj : j < n) : (if c then v.set k x hk else v)[j] = if c ∧ k = j then x else v[j] := by
  by_cases h : c
  · simp only [h, if_true, true_and, Vector.getElem_set]
  · simp only [h, if_false, false_and]

/-- The stage predicates move up by one below stage n, and the first takes x. -/
theorem shifted_stage (p : Vector Pred 8) (n : Nat) (x : Pred) (i : Fin 8) :
    (if 1 ≤ n ∧ 4 = i.val then x else if 2 ≤ n ∧ 5 = i.val then p[4] else if 3 ≤ n ∧ 6 = i.val then p[5]
      else if 4 ≤ n ∧ 7 = i.val then p[6] else p[i.val])
    = if i.val < 4 ∨ n ≤ i.val - 4 then p[i.val] else if i.val = 4 then x else p[i.val - 1] := by
  fin_cases i <;> grind

/-- R107: start_iteration, in the terms of the claims. -/
theorem Ctx.startIteration_started (s : State) (c : Ctx) :
    StartedIteration c.p c.lc { s with ctx := c.startIteration } := by
  have count : c.lcCount = c.lc.toNat % 2 ^ 32 := bits_lc_count c.lc
  refine ⟨fun i => ?_, ?_⟩
  · simp only [Ctx.startIteration, count, getElem_ite_set]
    exact shifted_stage c.p c.lcStg _ i
  · simp only [Ctx.startIteration, count]
    split
    · next h => exact setBits_count_down h
    · rfl

theorem foldl_clear_getElem (v : Vector Pred 8) (n j : Nat) (hj : j < 8) :
    ((List.range n).foldl (fun p i => p.setIfInBounds (4 + i) 0) v)[j] = if 4 ≤ j ∧ j < 4 + n then 0 else v[j] := by
  induction n with
  | zero => rw [if_neg (by omega)]; rfl
  | succ n ih =>
    rw [List.range_succ, List.foldl_append, List.foldl_cons, List.foldl_nil, Vector.getElem_setIfInBounds, ih]
    grind

/-- R106: LC of a new loop. -/
def newLc (len : BitVec 6) (stg : BitVec 3) (rote : BitVec 1) (n : Nat) : Nat :=
  2 ^ 42 + rote.toNat * 2 ^ 41 + stg.toNat * 2 ^ 38 + len.toNat * 2 ^ 32 + n

theorem word_newLc (len : BitVec 6) (stg : BitVec 3) (rote : BitVec 1) {n : Nat} (hn : n < 2 ^ 32) :
    (word (newLc len stg rote n)).toNat = newLc len stg rote n ∧ newLc len stg rote n % 2 ^ 32 = n
      ∧ newLc len stg rote n / 2 ^ 38 % 8 = stg.toNat := by
  have := len.isLt
  have := stg.isLt
  have := rote.isLt
  unfold newLc
  refine ⟨(BitVec.toNat_ofNat _ _).trans (Nat.mod_eq_of_lt (by omega)), by omega, by omega⟩

theorem execLoop_zero {len a : BitVec 6} {stg : BitVec 3} {rote : BitVec 1} {s : State}
    (h : (s.gr a).toNat % 2 ^ 32 = 0) : execLoop len a stg rote s = .next { s with
      npc := s.wordAddr + 4 + 4 * BitVec.ofNat 64 len.toNat, taken := true
      ctx := { s.ctx with lc := s.ctx.lc &&& ~~~(1#64 <<< 42) } } := by
  have mul : word (4 * len.toNat) = 4 * BitVec.ofNat 64 len.toNat := BitVec.ofNat_mul 4 len.toNat
  unfold execLoop
  rw [bits_lc_count, if_pos h, mul]
  rfl

theorem execLoop_starts {len a : BitVec 6} {stg : BitVec 3} {rote : BitVec 1} {s : State} {n : Nat}
    (hn : (s.gr a).toNat % 2 ^ 32 = n) (h : n ≠ 0) : execLoop len a stg rote s = .next { s with
      ctx := Ctx.startIteration { s.ctx with
        lc := word (newLc len stg rote n), first := s.wordAddr + 4
        p := (List.range stg.toNat).foldl (fun p i => p.setIfInBounds (4 + i) 0) s.ctx.p } } := by
  subst hn
  unfold execLoop
  simp only [bits_lc_count]
  rw [if_neg h]
  rfl

theorem loopStartsOrSkips : LoopStartsOrSkips := by
  intro len a stg rote s wf
  by_cases h : (s.gr a).toNat % 2 ^ 32 = 0
  · exact ⟨_, execLoop_zero h, (if_pos h).mpr rfl⟩
  · have low : (s.gr a).toNat % 2 ^ 32 < 2 ^ 32 := Nat.mod_lt _ (by decide)
    obtain ⟨value, count, stages⟩ := word_newLc len stg rote low
    obtain ⟨preds, lc⟩ := Ctx.startIteration_started s { s.ctx with
        lc := word (newLc len stg rote ((s.gr a).toNat % 2 ^ 32)), first := s.wordAddr + 4
        p := (List.range stg.toNat).foldl (fun p i => p.setIfInBounds (4 + i) 0) s.ctx.p }
    simp only [value, count, stages, if_pos (Nat.pos_of_ne_zero h)] at preds lc
    refine ⟨_, execLoop_starts rfl h, (if_neg h).mpr ⟨rfl, ?_, fun i => ?_⟩⟩
    · have down : 1 ≤ newLc len stg rote ((s.gr a).toNat % 2 ^ 32) := by unfold newLc; omega
      rw [lc, BitVec.toNat_sub_of_le (by rw [BitVec.le_def, value]; exact down), value]
      exact Nat.add_sub_assoc (Nat.pos_of_ne_zero h) _
    · refine (preds i).trans ?_
      have bound := i.isLt
      simp only [foldl_clear_getElem]
      grind

/-- VRB after the end of an iteration: the ring turns by one place where ROTE is set. -/
def Ctx.turnedVrb (c : Ctx) : Word := if bit c.lc 41 then setBits c.vrb 11 8 ((bits c.vrb 11 8 + 11) % 12) else c.vrb

theorem Ctx.turnedVrb_fields (c : Ctx) :
    c.turnedVrb.toNat % 2 ^ 8 = c.vrb.toNat % 2 ^ 8 ∧ c.turnedVrb.toNat / 2 ^ 12 = c.vrb.toNat / 2 ^ 12
    ∧ c.turnedVrb.toNat / 2 ^ 8 % 16
      = (if c.lc.getLsbD 41 = true then (c.vrb.toNat / 2 ^ 8 % 16 + 11) % 12 else c.vrb.toNat / 2 ^ 8 % 16) := by
  unfold Ctx.turnedVrb bit
  split
  · rw [setBits_toNat _ _ _ _ (by decide) (by decide)]
    unfold bits
    omega
  · exact ⟨rfl, rfl, rfl⟩

theorem Ctx.with_turnedVrb (c : Ctx) :
    (if bit c.lc 41 then { c with vrb := setBits c.vrb 11 8 ((bits c.vrb 11 8 + 11) % 12) } else c)
      = { c with vrb := c.turnedVrb } := by
  unfold Ctx.turnedVrb
  split
  · rfl
  · rfl

/-- What makes the body run again, as `endIteration` asks it. -/
theorem runsAgain_iff (s : State) : runsAgain s ↔ 0 < s.ctx.lcCount ∨
    ((decide (2 ≤ s.ctx.lcStg) && s.ctx.p[4] != 0) || (decide (3 ≤ s.ctx.lcStg) && s.ctx.p[5] != 0)
      || (decide (4 ≤ s.ctx.lcStg) && s.ctx.p[6] != 0)) = true := by
  have stages : s.ctx.lcStg = s.ctx.lc.toNat / 2 ^ 38 % 8 := rfl
  rw [runsAgain, ← stages, Ctx.lcCount, bits_lc_count, Fin.exists_fin_succ]
  simp [Fin.exists_fin_succ, or_assoc]

theorem State.endIteration_again {s : State} (h : runsAgain s) : s.endIteration = { s with
    ctx := Ctx.startIteration { s.ctx with vrb := s.ctx.turnedVrb }, npc := s.ctx.first, taken := true } := by
  rw [runsAgain_iff] at h
  simp only [State.endIteration, Ctx.with_turnedVrb]
  exact if_pos h

theorem State.endIteration_leaves {s : State} (h : ¬ runsAgain s) : s.endIteration = { s with
    ctx := { s.ctx with lc := s.ctx.lc &&& ~~~(1#64 <<< 42), vrb := s.ctx.turnedVrb }
    npc := s.ctx.first + BitVec.ofNat 64 (4 * (s.ctx.lc.toNat / 2 ^ 32 % 64)), taken := true } := by
  rw [runsAgain_iff] at h
  simp only [State.endIteration, Ctx.with_turnedVrb]
  exact if_neg h

theorem loopEndRunsAgainOrLeaves : LoopEndRunsAgainOrLeaves := by
  intro s
  obtain ⟨low, high, turned⟩ := s.ctx.turnedVrb_fields
  by_cases on : s.ctx.lc.getLsbD 42 = true
  · refine ⟨_, if_pos on, (if_neg (by simp [on])).mpr ?_⟩
    by_cases h : runsAgain s
    · rw [State.endIteration_again h]
      refine ⟨rfl, low, high, turned, fun _ => ⟨rfl, ?_⟩, fun n => absurd h n⟩
      exact Ctx.startIteration_started s { s.ctx with vrb := s.ctx.turnedVrb }
    · rw [State.endIteration_leaves h]
      exact ⟨rfl, low, high, turned, fun n => absurd n h, fun _ => ⟨rfl, rfl, rfl⟩⟩
  · exact ⟨s, if_neg on, (if_pos (Bool.eq_false_iff.2 on)).mpr rfl⟩

/-! ### Traps of the program (R44, R110) -/

/-- An instruction that always traps ends its pair in a trap on the state before the pair, at whatever the other
instruction has left. -/
theorem runPair_second_trap {s u : State} {x y : Issue} {ahead : List Issue} {cause : Nat} {eval : Word}
    (skip1 : s.ctx.skip1 = false) (skip2 : s.ctx.skip2 = false) (first : runOne exec s x false = .done u)
    (second : ∀ b, exec y.slot.instr (u.facing y b) = trapOut (u.facing y b) cause eval) (hc : cause ≠ 0x06) :
    ∃ t, runPair exec s [x, y] ahead = .trap t ∧ Trapped s t cause eval := by
  have traps (b : Bool) : runOne exec u y b = .trapped ((u.facing y b).takeTrap cause eval)
      { cause := cause, eval := eval, late := false, park := none } := runOne_of_trap (second b) rfl
  have whole : chainFault exec s s [] ([x, y] ++ ahead) = none := by
    simp only [List.cons_append, chainFault, first, traps]
    rfl
  refine ⟨s.takeTrap cause eval, ?_, State.takeTrap_trapped s cause eval false hc⟩
  unfold runPair
  simp only [shortened_of_no_fault whole, skip1, skip2, runBoth, first, runSecond, traps]
  rfl

theorem trapAndBreakEnterTheHandler : TrapAndBreakEnterTheHandler := by
  refine ⟨fun a s => trapOut_yields rfl (by decide), fun s => trapOut_yields rfl (by decide),
    fun s u x y ahead skip1 skip2 first => ⟨fun a hy => ?_, fun hy => ?_⟩⟩
  · exact runPair_second_trap skip1 skip2 first (fun b => by rw [hy]; rfl) (by decide)
  · exact runPair_second_trap skip1 skip2 first (fun b => by rw [hy]; rfl) (by decide)

/-! ### The return from a handler (R111) -/

/-- ESTAT after the return from a handler: SH and the SKIP bits are clear, PL and IE are PPL and PIE. -/
theorem State.returnFrom_estat (s : State) (j : Nat) : s.returnFrom.ctx.estat.getLsbD j =
    if j = 9 ∨ j = 8 ∨ j = 3 then false else if j = 1 then s.ctx.estat.getLsbD 2
      else if j = 7 then s.ctx.estat.getLsbD 0 else s.ctx.estat.getLsbD j := by
  have b (x : Word) (n : Nat) (v : Bool) (hn : n < 64) := getLsbD_setBit x n v j hn
  have level : (setBit (setBit s.ctx.estat 7 (bit s.ctx.estat 0)) 1 (bit s.ctx.estat 2)).getLsbD j =
      if j = 1 then s.ctx.estat.getLsbD 2 else if j = 7 then s.ctx.estat.getLsbD 0 else s.ctx.estat.getLsbD j := by
    rw [b _ 1 _ (by decide), b _ 7 _ (by decide)]
    rfl
  simp only [State.returnFrom]
  rw [b _ 9 _ (by decide), b _ 8 _ (by decide)]
  by_cases sh : bit s.ctx.estat 3 = true
  · rw [if_pos sh, b _ 3 _ (by decide), level]
    grind
  · rw [if_neg sh, level]
    unfold bit at sh
    grind

theorem eretReturnsFromTheHandler : EretReturnsFromTheHandler := by
  intro s h
  refine ⟨s.returnFrom, systemOnly_system h, ?_⟩
  simp only [State.returnFrom_estat]
  exact ⟨rfl, rfl, rfl, rfl, rfl, rfl, rfl, rfl, rfl, rfl, rfl, rfl, rfl, rfl, rfl, rfl, rfl, rfl⟩

end Sys2Proof.Machine

section

open Sys2Proof.Machine Sys2Proof.Claims

/-- Settles O2: the branch of a condition, the jump after its link, and the two ends of an iteration. -/
theorem branchesJumpsAndLoopsTransferControl : Obligations.BranchesJumpsAndLoopsTransferControl :=
  ⟨branchesTransferOnTheirCondition, jumpsLinkAndTransfer, loopStartsOrSkips, loopEndRunsAgainOrLeaves⟩

/-- Settles O3: a pair whose second instruction traps is taken back whole, and ESTAT of a return is read bit by bit. -/
theorem trapsEnterTheHandlerAndEretReturns : Obligations.TrapsEnterTheHandlerAndEretReturns :=
  ⟨trapAndBreakEnterTheHandler, eretReturnsFromTheHandler⟩

end

/-! SUPPORT. The FPU (R116 to R121): how a scalar operation ends, the exact results of finite operands, the order of
finite values, and the frame of each form. -/

namespace Sys2Proof.Machine

open Sys2Proof.Safety Sys2Proof.Claims

/-! ### The end of a scalar operation (R73, R121) -/

theorem recorded_none (c : Ctx) : recorded c Fx.none = c := by
  have same (x : Word) : counted x 0 = x := by
    rw [← countUp_eq, countUp, if_neg (by have := x.isLt; omega)]
    exact BitVec.add_zero x
  have flags : c.acr ||| (Fx.none.flags.zeroExtend 64 <<< 8) = c.acr := by
    simp [Fx.none]
  simp only [recorded, Fx.none, same] at flags ⊢
  rw [flags]

theorem not_enabledIn_none (s : State) : ¬ enabledIn s Fx.none := fun h => h BitVec.zero_and

theorem not_enabledIn_of_untrapped {s : State} (h : untrapped s) (fx : Fx) : ¬ enabledIn s fx := by
  have clear : BitVec.ofNat 6 (s.ctx.acr.toNat / 2 ^ 16) = 0 := BitVec.eq_of_toNat_eq (by simpa [untrapped] using h)
  rw [enabledIn, clear, not_not]
  exact BitVec.and_zero

theorem scalarDone_completesOrTraps {i : Instr} {s done : State} {fx : Fx} {P : State → Prop}
    (hi : exec i s = scalarDone s done fx) (hp : P (done.record fx)) : CompletesOrTraps i s fx P := by
  have on : s.ctx.enabled fx = true ↔ enabledIn s fx := by
    rw [enabledIn_iff, Ctx.enabled, bne_iff_ne]
  refine ⟨fun off => ⟨_, hi.trans (if_neg (mt on.1 off)), hp⟩, fun h => ⟨_, hi.trans (if_pos (on.2 h)), ?_⟩⟩
  exact State.takeTrap_trapped s _ _ true (by decide)

theorem yields_of_untrapped {i : Instr} {s : State} {fx : Fx} {P : State → Prop}
    (h : CompletesOrTraps i s fx P) (off : untrapped s) : Yields i s P := h.1 (not_enabledIn_of_untrapped off fx)

theorem yields_of_none {i : Instr} {s : State} {P : State → Prop}
    (h : CompletesOrTraps i s Fx.none P) : Yields i s P := h.1 (not_enabledIn_none s)

theorem yields_mono {i : Instr} {s : State} {P Q : State → Prop} (h : Yields i s P) (hpq : ∀ t, P t → Q t) : Yields i s Q :=
  h.imp fun t ht => ⟨ht.1, hpq t ht.2⟩

theorem State.setFr_wroteF (s : State) (d : BitVec 5) (v : Word) (fx : Fx) : WroteF s ((s.setFr d v).record fx) d v fx := by
  refine ⟨?_, ?_, fun r hr => ?_⟩
  · rw [State.record, Ctx.record_eq]
    rfl
  · exact (State.fr_setFr s d d v).trans (if_pos rfl)
  · exact (State.fr_setFr s d r v).trans (if_neg hr)

theorem State.setFr_wroteF_none (s : State) (d : BitVec 5) (v : Word) : WroteF s (s.setFr d v) d v Fx.none := by
  have same : (s.setFr d v).record Fx.none = s.setFr d v := by
    rw [State.record, Ctx.record_eq, recorded_none]
  exact same ▸ State.setFr_wroteF s d v Fx.none

theorem State.setGr_wroteGFlags (s : State) (d : BitVec 6) (v : Word) (fx : Fx) :
    WroteGFlags s ((s.setGr d v).record fx) d v fx := by
  obtain ⟨frame, value, others⟩ := State.setGr_wroteG s d v
  refine ⟨?_, value, others⟩
  rw [State.record, Ctx.record_eq, frame]
  rfl

theorem wroteG_of_wroteGFlags {s t : State} {d : BitVec 6} {v : Word} (h : WroteGFlags s t d v Fx.none) : WroteG s t d v := by
  obtain ⟨frame, value, others⟩ := h
  exact ⟨by rwa [recorded_none] at frame, value, others⟩

theorem fpDone_form {i : Instr} {s : State} {d : BitVec 5} {r : Nat × Fx} (hi : exec i s = fpDone s d r) :
    CompletesOrTraps i s r.2 (fun t => WroteF s t d (word r.1) r.2) :=
  scalarDone_completesOrTraps hi (State.setFr_wroteF s d _ _)

theorem gDone_form {i : Instr} {s : State} {d : BitVec 6} {v : Word} {fx : Fx} (hi : exec i s = scalarDone s (s.setGr d v) fx) :
    CompletesOrTraps i s fx (fun t => WroteGFlags s t d v fx) :=
  scalarDone_completesOrTraps hi (State.setGr_wroteGFlags s d v fx)

/-! ### Tags and operands (R17, R116) -/

theorem ftag_of_ieee {s : State} (h : s.ctx.acr.getLsbD 3 = false) (z : BitVec 1) : s.ftag z = fpTag false z :=
  congrArg (fpTag · z) h

theorem ftag_of_slash {s : State} (h : s.ctx.acr.getLsbD 3 = true) (z : BitVec 1) : s.ftag z = fpTag true z :=
  congrArg (fpTag · z) h

theorem isIeee_fpTag (z : BitVec 1) : isIeee (fpTag false z) = true := by
  revert z
  decide

theorem isSlash_of_isIeee {t : BitVec 5} (h : isIeee t = true) : isSlash t = false := by
  revert t
  decide

theorem tagFmt_fpTag (z : BitVec 1) : tagFmt (fpTag false z) = fpFormat z := by
  revert z
  decide

theorem State.fsrc_eq (s : State) (z : BitVec 1) (r : BitVec 5) : s.fsrc z r = fpOperand s z r := rfl

theorem valueOf_fpTag (s : State) (z : BitVec 1) (r : BitVec 5) :
    (tagFmt (fpTag false z)).ieeeValue (s.fsrc z r) = fpValue s z r := by
  rw [tagFmt_fpTag]
  rfl

/-! ### Exact results of finite values (R89, R117) -/

/-- The rational function of an arithmetic form. -/
def FpOp.rat : FpOp → Rat → Rat → Rat
  | .add, x, y => x + y
  | .sub, x, y => x - y
  | .mul, x, y => x * y
  | .div, x, y => x / y

theorem ratOf_neg (x : Val) : ratOf x.neg = - ratOf x := by
  cases x with
  | fin neg n d => cases neg <;> simp [Val.neg, ratOf, neg_div]
  | _ => simp [Val.neg, ratOf]

theorem den_neg (x : Val) : x.neg.den = x.den := by
  cases x <;> rfl

theorem ratOf_addFin {x y : Val} (mode : RMode) (hx : 0 < x.den) (hy : 0 < y.den) :
    ratOf (x.addFin y mode) = ratOf x + ratOf y := by
  have dx : (x.den : Rat) ≠ 0 := by positivity
  have dy : (y.den : Rat) ≠ 0 := by positivity
  rw [Val.addFin, ratOf_ofFrac, ratOf_eq_num_div_den x, ratOf_eq_num_div_den y]
  push_cast
  field_simp

theorem ratOf_eq_zero_iff {neg : Bool} {n d : Nat} (hd : 0 < (Val.fin neg n d).den) : ratOf (.fin neg n d) = 0 ↔ n = 0 := by
  have : (d : Rat) ≠ 0 := Nat.cast_ne_zero.mpr hd.ne'
  cases neg <;> simp [ratOf, this]

/-- R117 and R89: the quotient of two finite values, as the model forms it. -/
theorem ratOf_quotient (x : Val) (neg z : Bool) (n d : Nat) :
    ratOf (Val.ofFrac ((if neg then -1 else 1) * x.num * (Val.fin neg n d).den) (x.den * (Val.fin neg n d).num.natAbs) z)
      = ratOf x / ratOf (.fin neg n d) := by
  have abs : (Val.fin neg n d).num.natAbs = n := by cases neg <;> simp [Val.num]
  rw [ratOf_ofFrac, abs, ratOf_eq_num_div_den x]
  cases neg
  · simp [ratOf, Val.den]
    field_simp
  · simp [ratOf, Val.den]
    field_simp

theorem finite_addFin (a b : Val) (mode : RMode) : finite (a.addFin b mode) = true := finite_ofFrac _ _ _

theorem finite_mulFin (a b : Val) : finite (a.mulFin b) = true := finite_ofFrac _ _ _

theorem ieeeAdd_of_finite {a b : Val} (mode : RMode) (ha : finite a = true) (hb : finite b = true) :
    ieeeAdd a b mode = (a.addFin b mode, .none) := by
  obtain ⟨_, _, _, rfl⟩ := finite_iff.mp ha
  obtain ⟨_, _, _, rfl⟩ := finite_iff.mp hb
  rfl

theorem ieeeMul_of_finite {a b : Val} (ha : finite a = true) (hb : finite b = true) :
    ieeeMul a b = (a.mulFin b, .none) := by
  obtain ⟨_, _, _, rfl⟩ := finite_iff.mp ha
  obtain ⟨_, _, _, rfl⟩ := finite_iff.mp hb
  rfl

theorem finite_neg {a : Val} (h : finite a = true) : finite a.neg = true := by
  obtain ⟨_, _, _, rfl⟩ := finite_iff.mp h
  rfl

/-- R117: the exact result of an arithmetic form on two IEEE values, with the flag it raises. -/
def FpOp.ieee : FpOp → Val → Val → RMode → Val × Fx
  | .add, a, b, mode => ieeeAdd a b mode
  | .sub, a, b, mode => ieeeAdd a b.neg mode
  | .mul, a, b, _ => ieeeMul a b
  | .div, a, b, _ => ieeeDiv a b

/-- R117: the exact result of finite operands is finite, and no flag is raised in forming it. -/
theorem FpOp.ieee_of_finite (op : FpOp) {a b : Val} (mode : RMode) (ha : finite a = true) (hb : finite b = true)
    (da : 0 < a.den) (db : 0 < b.den) (hdiv : op = .div → ratOf b ≠ 0) :
    ∃ v, finite v = true ∧ ratOf v = op.rat (ratOf a) (ratOf b) ∧ op.ieee a b mode = (v, .none) := by
  cases op with
  | add => exact ⟨_, finite_addFin a b mode, ratOf_addFin mode da db, ieeeAdd_of_finite mode ha hb⟩
  | sub =>
    refine ⟨_, finite_addFin a b.neg mode, ?_, ieeeAdd_of_finite mode ha (finite_neg hb)⟩
    rw [ratOf_addFin mode da ((den_neg b).symm ▸ db), ratOf_neg]
    exact (sub_eq_add_neg _ _).symm
  | mul => exact ⟨_, finite_mulFin a b, ratOf_mulFin a b, ieeeMul_of_finite ha hb⟩
  | div =>
    obtain ⟨sa, na, ka, rfl⟩ := finite_iff.mp ha
    obtain ⟨sb, nb, kb, rfl⟩ := finite_iff.mp hb
    have nonzero : nb ≠ 0 := mt (ratOf_eq_zero_iff db).mpr (hdiv rfl)
    exact ⟨_, finite_ofFrac _ _ _, ratOf_quotient (.fin sa na ka) sb (sa != sb) nb kb,
      if_neg (by simpa [Val.isZero] using nonzero)⟩

theorem isNan_of_finite {v : Val} (h : finite v = true) : v.isNan = false := by
  obtain ⟨_, _, _, rfl⟩ := finite_iff.mp h
  rfl

theorem isSig_of_finite {v : Val} (h : finite v = true) : v.isSig = false := by
  obtain ⟨_, _, _, rfl⟩ := finite_iff.mp h
  rfl

theorem nanCase_of_no_nan {l : List Val} (h : ∀ v ∈ l, v.isNan = false) : nanCase l = none :=
  if_neg (by simpa [List.any_eq_true] using h)

/-- R117: an arithmetic form on two IEEE values neither of which is a NaN. -/
theorem fpArith_of_no_nan (op : FpOp) {t : BitVec 5} {x y : Nat} (mode : RMode) (ht : isIeee t = true)
    (hx : ((tagFmt t).ieeeValue x).isNan = false) (hy : ((tagFmt t).ieeeValue y).isNan = false) :
    fpArith op t x y mode =
      (let r := op.ieee ((tagFmt t).ieeeValue x) ((tagFmt t).ieeeValue y) mode
       let q := roundIeee (tagFmt t) r.1 mode
       (q.1, r.2.and q.2)) := by
  have noNan := nanCase_of_no_nan (l := [(tagFmt t).ieeeValue x, (tagFmt t).ieeeValue y]) (by simp [hx, hy])
  simp only [fpArith, valueOf_of_isIeee ht, isSlash_of_isIeee ht, roundTo_of_isIeee ht, noNan, Bool.false_eq_true, if_false]
  cases op <;> rfl

/-- R117: an arithmetic form on finite operands rounds their exact result once. -/
theorem fpArith_of_finite (op : FpOp) {t : BitVec 5} {x y : Nat} (mode : RMode) (ht : isIeee t = true)
    (hx : finite ((tagFmt t).ieeeValue x) = true) (hy : finite ((tagFmt t).ieeeValue y) = true)
    (hdiv : op = .div → ratOf ((tagFmt t).ieeeValue y) ≠ 0) :
    ∃ v, finite v = true ∧ ratOf v = op.rat (ratOf ((tagFmt t).ieeeValue x)) (ratOf ((tagFmt t).ieeeValue y))
      ∧ fpArith op t x y mode = roundIeee (tagFmt t) v mode := by
  obtain ⟨v, fin, value, exact⟩ := op.ieee_of_finite mode hx hy (Fmt.ieeeValue_den_pos _ _) (Fmt.ieeeValue_den_pos _ _) hdiv
  refine ⟨v, fin, value, ?_⟩
  rw [fpArith_of_no_nan op mode ht (isNan_of_finite hx) (isNan_of_finite hy), exact]
  simp only [Fx.none_and]

/-- R117: a fused form on finite operands rounds the exact product and sum once. -/
theorem fpFused_of_finite {t : BitVec 5} {x y z : Nat} (mode : RMode) (ht : isIeee t = true)
    (hx : finite ((tagFmt t).ieeeValue x) = true) (hy : finite ((tagFmt t).ieeeValue y) = true)
    (hz : finite ((tagFmt t).ieeeValue z) = true) :
    ∃ v, finite v = true ∧ ratOf v = ratOf ((tagFmt t).ieeeValue x) * ratOf ((tagFmt t).ieeeValue y)
        + ratOf ((tagFmt t).ieeeValue z)
      ∧ fpFused false t x y z mode = roundIeee (tagFmt t) v mode := by
  have dx := Fmt.ieeeValue_den_pos (tagFmt t) x
  have dy := Fmt.ieeeValue_den_pos (tagFmt t) y
  have dz := Fmt.ieeeValue_den_pos (tagFmt t) z
  have noNan := nanCase_of_no_nan (l := [(tagFmt t).ieeeValue x, (tagFmt t).ieeeValue y, (tagFmt t).ieeeValue z])
    (by simp [isNan_of_finite, hx, hy, hz])
  simp only [fpFused, valueOf_of_isIeee ht, isSlash_of_isIeee ht, roundTo_of_isIeee ht, noNan]
  generalize (tagFmt t).ieeeValue x = a at *
  generalize (tagFmt t).ieeeValue y = b at *
  generalize (tagFmt t).ieeeValue z = c at *
  have fin := finite_mulFin a b
  have pos : 0 < (a.mulFin b).den := den_ofFrac_pos _ _ (Nat.mul_pos dx dy)
  refine ⟨_, finite_addFin _ c mode, (ratOf_addFin mode pos dz).trans (by rw [ratOf_mulFin]), ?_⟩
  simp [ieeeMul_of_finite hx hy, ieeeAdd_of_finite mode fin hz, isNan_of_finite fin, Fx.none_and]

/-- R117: the division of a finite number that is not zero by zero. -/
theorem fpArith_div_by_zero {t : BitVec 5} {x y : Nat} (mode : RMode) (ht : isIeee t = true)
    (hx : finite ((tagFmt t).ieeeValue x) = true) (hy : finite ((tagFmt t).ieeeValue y) = true)
    (nonzero : ratOf ((tagFmt t).ieeeValue x) ≠ 0) (zero : ratOf ((tagFmt t).ieeeValue y) = 0) :
    fpArith .div t x y mode = ((tagFmt t).signed (((tagFmt t).ieeeValue x).sign != ((tagFmt t).ieeeValue y).sign)
      (tagFmt t).infCode, Fx.dz) := by
  have dx := Fmt.ieeeValue_den_pos (tagFmt t) x
  have dy := Fmt.ieeeValue_den_pos (tagFmt t) y
  rw [fpArith_of_no_nan .div mode ht (isNan_of_finite hx) (isNan_of_finite hy)]
  generalize (tagFmt t).ieeeValue x = a at *
  generalize (tagFmt t).ieeeValue y = b at *
  obtain ⟨sa, na, ka, rfl⟩ := finite_iff.mp hx
  obtain ⟨sb, nb, kb, rfl⟩ := finite_iff.mp hy
  have za : na ≠ 0 := mt (ratOf_eq_zero_iff dx).mpr nonzero
  have zb : nb = 0 := (ratOf_eq_zero_iff dy).mp zero
  have inf : FpOp.div.ieee (.fin sa na ka) (.fin sb nb kb) mode = (.inf (sa != sb), .dz) := by
    simp [FpOp.ieee, ieeeDiv, Val.isZero, za, zb, Val.sign]
  rw [inf]
  simp [roundIeee, Fx.and, Fx.none, Fx.dz, Val.sign]

/-! ### The order of finite values (R118) -/

theorem Val.lt_of_finite {a b : Val} (ha : finite a = true) (hb : finite b = true) (da : 0 < a.den) (db : 0 < b.den) :
    a.lt b = decide (ratOf a < ratOf b) := by
  obtain ⟨sa, na, ka, rfl⟩ := finite_iff.mp ha
  obtain ⟨sb, nb, kb, rfl⟩ := finite_iff.mp hb
  have pa : (0 : Rat) < ka := Nat.cast_pos.mpr da
  have pb : (0 : Rat) < kb := Nat.cast_pos.mpr db
  rw [Val.lt, decide_eq_decide, ratOf, ratOf, div_lt_div_iff₀ pa pb]
  cases sa <;> cases sb <;> simp <;> norm_cast

theorem Val.eqv_of_finite {a b : Val} (ha : finite a = true) (hb : finite b = true) (da : 0 < a.den) (db : 0 < b.den) :
    a.eqv b = decide (ratOf a = ratOf b) := by
  obtain ⟨sa, na, ka, rfl⟩ := finite_iff.mp ha
  obtain ⟨sb, nb, kb, rfl⟩ := finite_iff.mp hb
  have pa : (ka : Rat) ≠ 0 := (Nat.cast_pos.mpr da).ne'
  have pb : (kb : Rat) ≠ 0 := (Nat.cast_pos.mpr db).ne'
  rw [Val.eqv, decide_eq_decide, ratOf, ratOf, div_eq_div_iff pa pb]
  cases sa <;> cases sb <;> simp <;> norm_cast

theorem isZero_of_finite {a : Val} (ha : finite a = true) (da : 0 < a.den) : a.isZero = decide (ratOf a = 0) := by
  obtain ⟨sa, na, ka, rfl⟩ := finite_iff.mp ha
  rw [Bool.eq_iff_iff, decide_eq_true_iff, ratOf_eq_zero_iff da, Val.isZero, beq_iff_eq]

/-- The order of `fmin` and `fmax` on finite values: below, or −0 against +0. -/
def finLess (a b : Val) : Prop := ratOf a < ratOf b ∨ (ratOf a = 0 ∧ ratOf b = 0 ∧ a.sign = true ∧ b.sign = false)

/-- What `fmin` and `fmax` promise of the operand they return: its value and, of two zeros, its sign. -/
def Extremum (max : Bool) (a b r : Val) : Prop :=
  ratOf r = cond max (Max.max (ratOf a) (ratOf b)) (Min.min (ratOf a) (ratOf b))
  ∧ (ratOf a = 0 → ratOf b = 0 → r.sign = cond max (a.sign && b.sign) (a.sign || b.sign))

theorem extremum_of_finLess {a b : Val} (h : finLess a b) (max : Bool) : Extremum max a b (if max then b else a) := by
  obtain below | ⟨za, zb, sa, sb⟩ := h
  · have apart : ratOf a = 0 → ratOf b ≠ 0 := fun za zb => by simp [za, zb] at below
    cases max
    · exact ⟨(min_eq_left below.le).symm, fun za zb => absurd zb (apart za)⟩
    · exact ⟨(max_eq_right below.le).symm, fun za zb => absurd zb (apart za)⟩
  · cases max <;> simp [Extremum, za, zb, sa, sb]

theorem extremum_of_not_finLess {a b : Val} (h : ¬ finLess a b) (max : Bool) : Extremum max a b (if max then a else b) := by
  rw [finLess, not_or, not_lt] at h
  obtain ⟨above, signs⟩ := h
  have ordered (za : ratOf a = 0) (zb : ratOf b = 0) (sa : a.sign = true) : b.sign = true := by
    simpa [za, zb, sa] using signs
  cases max
  · refine ⟨(min_eq_right above).symm, fun za zb => ?_⟩
    cases sa : a.sign
    · rfl
    · exact ordered za zb sa
  · refine ⟨(max_eq_left above).symm, fun za zb => ?_⟩
    cases sa : a.sign
    · exact sa
    · exact sa.trans (ordered za zb sa).symm

/-- R118: `fmin` and `fmax` of finite operands answer one of the two codes, by `finLess`. -/
theorem fpMinMax_of_finite (max : Bool) {t : BitVec 5} {x y : Nat} (ht : isIeee t = true)
    (hx : finite ((tagFmt t).ieeeValue x) = true) (hy : finite ((tagFmt t).ieeeValue y) = true) :
    (finLess ((tagFmt t).ieeeValue x) ((tagFmt t).ieeeValue y) → fpMinMax max t x y = (if max then y else x, .none))
    ∧ (¬ finLess ((tagFmt t).ieeeValue x) ((tagFmt t).ieeeValue y) → fpMinMax max t x y = (if max then x else y, .none)) := by
  have dx := Fmt.ieeeValue_den_pos (tagFmt t) x
  have dy := Fmt.ieeeValue_den_pos (tagFmt t) y
  simp only [fpMinMax, valueOf_of_isIeee ht, isSlash_of_isIeee ht]
  generalize (tagFmt t).ieeeValue x = a at *
  generalize (tagFmt t).ieeeValue y = b at *
  have less : (a.lt b || (a.isZero && b.isZero && a.sign && !b.sign)) = true ↔ finLess a b := by
    rw [Val.lt_of_finite hx hy dx dy, isZero_of_finite hx dx, isZero_of_finite hy dy, finLess]
    simp [and_assoc]
  simp only [isNan_of_finite hx, isNan_of_finite hy, isSig_of_finite hx, isSig_of_finite hy]
  refine ⟨fun h => ?_, fun h => ?_⟩
  · rw [less.mpr h]
    cases max <;> rfl
  · rw [Bool.eq_false_iff.mpr (mt less.mp h)]
    cases max <;> rfl

/-! ### Square roots (R117) -/

theorem fpSqrt_of_negative {t : BitVec 5} {x : Nat} (mode : RMode) (ht : isIeee t = true)
    (hx : finite ((tagFmt t).ieeeValue x) = true) (neg : ratOf ((tagFmt t).ieeeValue x) < 0) :
    fpSqrt t x mode = (nanOf t, .nv) := by
  have dx := Fmt.ieeeValue_den_pos (tagFmt t) x
  simp only [fpSqrt, valueOf_of_isIeee ht, isSlash_of_isIeee ht]
  generalize (tagFmt t).ieeeValue x = a at *
  obtain ⟨sa, na, ka, rfl⟩ := finite_iff.mp hx
  have nonzero : na ≠ 0 := mt (ratOf_eq_zero_iff dx).mpr neg.ne
  have sign : sa = true := by
    by_contra h
    rw [Bool.not_eq_true] at h
    subst h
    exact absurd neg (not_lt.mpr (by simp only [ratOf, Bool.false_eq_true, if_false]; positivity))
  simp [nonzero, sign]

theorem nanOf_fpTag (z : BitVec 1) : nanOf (fpTag false z) = (fpFormat z).nanCode := by
  revert z
  decide

/-! ### The forms (R117 to R119) -/

/-- The form is the arithmetic of `op`. -/
def IsArith (p : (BitVec 5 → BitVec 5 → BitVec 5 → BitVec 1 → Instr) × (Rat → Rat → Rat)) (op : FpOp) : Prop :=
  (∀ d a b z s, exec (p.1 d a b z) s = fpBin op d a b z s) ∧ (∀ x y, op.rat x y = p.2 x y)
    ∧ (op = .div → p.1 0 0 0 0 = .fdiv 0 0 0 0)

theorem fpForms_isArith : ∀ p ∈ fpForms, ∃ op, IsArith p op := by
  simp only [fpForms, List.forall_mem_cons]
  exact ⟨⟨.add, fun _ _ _ _ _ => rfl, fun _ _ => rfl, nofun⟩, ⟨.sub, fun _ _ _ _ _ => rfl, fun _ _ => rfl, nofun⟩,
    ⟨.mul, fun _ _ _ _ _ => rfl, fun _ _ => rfl, nofun⟩, ⟨.div, fun _ _ _ _ _ => rfl, fun _ _ => rfl, fun _ => rfl⟩, nofun⟩

theorem fpArithmeticRoundsTheExactResult : FpArithmeticRoundsTheExactResult := by
  refine ⟨fun p hp d a b z s rat ha hb hdiv => ?_, fun d a b z s rat ha hb hd => ?_⟩
  · obtain ⟨op, run, value, isDiv⟩ := fpForms_isArith p hp
    rw [← valueOf_fpTag] at ha hb hdiv
    obtain ⟨x, fin, exact, round⟩ := fpArith_of_finite op s.ctx.rm (isIeee_fpTag z) ha hb (fun h => hdiv (isDiv h))
    rw [valueOf_fpTag, valueOf_fpTag, value] at exact
    have form := fpDone_form (run d a b z s)
    rw [ftag_of_ieee rat, round, tagFmt_fpTag] at form
    exact ⟨x, fin, exact, form⟩
  · rw [← valueOf_fpTag] at ha hb hd
    obtain ⟨x, fin, exact, round⟩ := fpFused_of_finite s.ctx.rm (isIeee_fpTag z) ha hb hd
    rw [valueOf_fpTag, valueOf_fpTag, valueOf_fpTag] at exact
    have form := fpDone_form (i := .fmadd d a b z) (s := s) rfl
    rw [ftag_of_ieee rat, round, tagFmt_fpTag] at form
    exact ⟨x, fin, exact, form⟩

/-- R118: a minimum or maximum of finite operands. -/
theorem minMax_yields {i : Instr} {s : State} {d a b : BitVec 5} {z : BitVec 1} (max : Bool)
    (hi : exec i s = fpDone s d (fpMinMax max (s.ftag z) (s.fsrc z a) (s.fsrc z b))) (rat : s.ctx.acr.getLsbD 3 = false)
    (ha : finite (fpValue s z a) = true) (hb : finite (fpValue s z b) = true) :
    Yields i s (fun t => ∃ r ∈ [a, b], WroteF s t d (word (fpOperand s z r)) Fx.none
      ∧ Extremum max (fpValue s z a) (fpValue s z b) (fpValue s z r)) := by
  have form := fpDone_form hi
  simp only [← valueOf_fpTag] at ha hb ⊢
  obtain ⟨below, above⟩ := fpMinMax_of_finite max (isIeee_fpTag z) ha hb
  rw [ftag_of_ieee rat] at form
  by_cases less : finLess ((tagFmt (fpTag false z)).ieeeValue (s.fsrc z a)) ((tagFmt (fpTag false z)).ieeeValue (s.fsrc z b))
  · rw [below less] at form
    refine yields_mono (yields_of_none form) fun t wrote => ⟨if max then b else a, ?_, ?_, ?_⟩
    · cases max <;> simp
    · cases max <;> exact wrote
    · have picked := extremum_of_finLess less max
      cases max <;> exact picked
  · rw [above less] at form
    refine yields_mono (yields_of_none form) fun t wrote => ⟨if max then a else b, ?_, ?_, ?_⟩
    · cases max <;> simp
    · cases max <;> exact wrote
    · have picked := extremum_of_not_finLess less max
      cases max <;> exact picked

theorem fpRootsQuotientsAndMinimaFollowIeee : FpRootsQuotientsAndMinimaFollowIeee := by
  intro d a b z s rat ha
  have isIeee := isIeee_fpTag z
  refine ⟨fun neg => ?_, fun _ => ⟨_, _, fpDone_form rfl⟩, fun nonzero hb zero => ?_, fun hb => ⟨?_, ?_⟩⟩
  · rw [← valueOf_fpTag] at ha neg
    have form := fpDone_form (i := .fsqrt d a z) (s := s) rfl
    rwa [ftag_of_ieee rat, fpSqrt_of_negative _ isIeee ha neg, nanOf_fpTag] at form
  · simp only [← valueOf_fpTag] at ha hb nonzero zero ⊢
    have form := fpDone_form (i := .fdiv d a b z) (s := s) rfl
    rw [ftag_of_ieee rat, fpArith_div_by_zero _ isIeee ha hb nonzero zero] at form
    exact tagFmt_fpTag z ▸ form
  · exact minMax_yields false rfl rat ha hb
  · exact minMax_yields true rfl rat ha hb

theorem fpDone_yields {i : Instr} {s : State} {d : BitVec 5} {r : Nat × Fx} (off : untrapped s)
    (hi : exec i s = fpDone s d r) : Yields i s (fun t => ∃ v fx, WroteF s t d v fx) :=
  yields_mono (yields_of_untrapped (fpDone_form hi) off) fun _ h => ⟨_, _, h⟩

theorem gDone_yields {i : Instr} {s : State} {d : BitVec 6} {v : Word} {fx : Fx} (off : untrapped s)
    (hi : exec i s = scalarDone s (s.setGr d v) fx) : Yields i s (fun t => ∃ v fx, WroteGFlags s t d v fx) :=
  yields_mono (yields_of_untrapped (gDone_form hi) off) fun _ h => ⟨_, _, h⟩

/-- R119: conversions 3 to 5 write a g register, the others an f register. -/
theorem fcvt_yields {s : State} (off : untrapped s) (d a code : BitVec 6) (z : BitVec 1) (h : code.toNat < 8) :
    Yields (.fcvt d a code z) s (fun t => ∃ v fx,
      if 3 ≤ code.toNat ∧ code.toNat ≤ 5 then WroteGFlags s t d v fx else WroteF s t (d.truncate 5) v fx) := by
  have codes : ∀ c : BitVec 6, c.toNat < 8 → c = 0 ∨ c = 1 ∨ c = 2 ∨ c = 3 ∨ c = 4 ∨ c = 5 ∨ c = 6 ∨ c = 7 := by decide
  obtain rfl | rfl | rfl | rfl | rfl | rfl | rfl | rfl := codes code h
  · exact fpDone_yields off rfl
  · exact fpDone_yields off rfl
  · exact fpDone_yields off rfl
  · exact gDone_yields off rfl
  · exact gDone_yields off rfl
  · exact gDone_yields off rfl
  · exact fpDone_yields off rfl
  · exact fpDone_yields off rfl

theorem fpFormsCompleteWithNoTrapEnabled : FpFormsCompleteWithNoTrapEnabled := by
  intro s off
  simp only [List.forall_mem_cons]
  refine ⟨⟨?_, ?_, ?_, ?_, ?_, ?_, ?_, nofun⟩, fun _ _ _ => fpDone_yields off rfl, ⟨?_, ?_, ?_, nofun⟩, fun _ _ _ => gDone_yields off rfl,
    fun d a b z => ⟨_, rfl, _, State.setFr_wroteF_none s d _⟩, fun d a code z h => ?_⟩
  · exact fun _ _ _ _ => fpDone_yields off rfl
  · exact fun _ _ _ _ => fpDone_yields off rfl
  · exact fun _ _ _ _ => fpDone_yields off rfl
  · exact fun _ _ _ _ => fpDone_yields off rfl
  · exact fun _ _ _ _ => fpDone_yields off rfl
  · exact fun _ _ _ _ => fpDone_yields off rfl
  · exact fun _ _ _ _ => fpDone_yields off rfl
  · exact fun _ _ _ _ => gDone_yields off rfl
  · exact fun _ _ _ _ => gDone_yields off rfl
  · exact fun _ _ _ _ => gDone_yields off rfl
  · exact fcvt_yields off d a code z h

end Sys2Proof.Machine

section

open Sys2Proof.Machine Sys2Proof.Claims

/-- Settles O7: one rounding of the exact result, the cases of roots, quotients and minima, and the frame of each form. -/
theorem fpArithmeticRootsAndMinimaFollowIeee : Obligations.FpArithmeticRootsAndMinimaFollowIeee :=
  ⟨fpArithmeticRoundsTheExactResult, fpRootsQuotientsAndMinimaFollowIeee, fpFormsCompleteWithNoTrapEnabled⟩

end

/-! SUPPORT. Comparisons, classes, signs and moves (R118), conversions (R119), and rational mode (R120). -/

namespace Sys2Proof.Machine

open Sys2Proof.Safety Sys2Proof.Claims

/-! ### Comparisons (R118) -/

/-- The comparison of rational numbers that a form makes. -/
def FpCmp.rat : FpCmp → Rat → Rat → Bool
  | .eq, x, y => decide (x = y)
  | .lt, x, y => decide (x < y)
  | .le, x, y => decide (x ≤ y)

theorem fpCompare_of_finite (op : FpCmp) {t : BitVec 5} {x y : Nat} (ht : isIeee t = true)
    (hx : finite ((tagFmt t).ieeeValue x) = true) (hy : finite ((tagFmt t).ieeeValue y) = true) :
    fpCompare op t x y = (op.rat (ratOf ((tagFmt t).ieeeValue x)) (ratOf ((tagFmt t).ieeeValue y)), .none) := by
  have dx := Fmt.ieeeValue_den_pos (tagFmt t) x
  have dy := Fmt.ieeeValue_den_pos (tagFmt t) y
  simp only [fpCompare, valueOf_of_isIeee ht, isNan_of_finite hx, isNan_of_finite hy, isSig_of_finite hx, isSig_of_finite hy,
    Val.lt_of_finite hx hy dx dy, Val.eqv_of_finite hx hy dx dy]
  cases op with
  | eq => rfl
  | lt => rfl
  | le =>
    refine Prod.ext ?_ rfl
    simp [FpCmp.rat, le_iff_lt_or_eq]

/-- An ordering comparison of a NaN is false and invalid. -/
theorem fpCompare_of_nan {op : FpCmp} (order : op ≠ .eq) {t : BitVec 5} {x y : Nat} (ht : isIeee t = true)
    (nan : ((tagFmt t).ieeeValue x).isNan = true ∨ ((tagFmt t).ieeeValue y).isNan = true) :
    fpCompare op t x y = (false, .nv) := by
  have any : (((tagFmt t).ieeeValue x).isNan || ((tagFmt t).ieeeValue y).isNan) = true := Bool.or_eq_true_iff.mpr nan
  simp only [fpCompare, valueOf_of_isIeee ht, any]
  cases op with
  | eq => exact absurd rfl order
  | lt => rfl
  | le => rfl

/-- The form is the comparison `op`. -/
def IsCompare (p : (BitVec 6 → BitVec 5 → BitVec 5 → BitVec 1 → Instr) × (Rat → Rat → Bool)) (op : FpCmp) : Prop :=
  (∀ d a b z s, exec (p.1 d a b z) s = fpCmpG op d a b z s) ∧ ∀ x y, op.rat x y = p.2 x y

theorem fpCompares_isCompare : ∀ p ∈ fpCompares, ∃ op, IsCompare p op := by
  simp only [fpCompares, List.forall_mem_cons]
  exact ⟨⟨.eq, fun _ _ _ _ _ => rfl, fun _ _ => rfl⟩, ⟨.lt, fun _ _ _ _ _ => rfl, fun _ _ => rfl⟩,
    ⟨.le, fun _ _ _ _ _ => rfl, fun _ _ => rfl⟩, nofun⟩

theorem fpCmpG_form {i : Instr} {s : State} {op : FpCmp} {d : BitVec 6} {a b : BitVec 5} {z : BitVec 1}
    (hi : exec i s = fpCmpG op d a b z s) (rat : s.ctx.acr.getLsbD 3 = false) :
    CompletesOrTraps i s (fpCompare op (fpTag false z) (s.fsrc z a) (s.fsrc z b)).2 (fun t => WroteGFlags s t d
      (oneIf (fpCompare op (fpTag false z) (s.fsrc z a) (s.fsrc z b)).1)
      (fpCompare op (fpTag false z) (s.fsrc z a) (s.fsrc z b)).2) := by
  rw [← ftag_of_ieee rat]
  exact gDone_form hi

theorem unordered_compare {i : Instr} {s : State} {op : FpCmp} {d : BitVec 6} {a b : BitVec 5} {z : BitVec 1}
    (hi : exec i s = fpCmpG op d a b z s) (order : op ≠ .eq) (rat : s.ctx.acr.getLsbD 3 = false)
    (nan : (fpValue s z a).isNan = true ∨ (fpValue s z b).isNan = true) :
    CompletesOrTraps i s Fx.nv (fun t => WroteGFlags s t d 0 Fx.nv) := by
  have form := fpCmpG_form hi rat
  rw [← valueOf_fpTag, ← valueOf_fpTag] at nan
  rwa [fpCompare_of_nan order (isIeee_fpTag z) nan] at form

/-! ### Classes (R118) -/

/-- The formats of R76: the largest finite code is that below the one of infinity, whose fraction is zero. -/
structure Fmt.Ieee (f : Fmt) : Prop where
  infCode : f.infCode = (2 ^ (f.signBit - f.frac) - 1) * 2 ^ f.frac
  frac_pos : 0 < f.frac
  frac_lt : f.frac < f.signBit

theorem fpFormat_ieee (z : BitVec 1) : (fpFormat z).Ieee := by
  have : z = 0 ∨ z = 1 := by revert z; decide
  obtain rfl | rfl := this
  · exact ⟨by decide, by decide, by decide⟩
  · exact ⟨by decide, by decide, by decide⟩

/-- The value of a finite code is zero where its magnitude is. -/
theorem Fmt.finite_eq (f : Fmt) (neg : Bool) (mag : Nat) :
    ∃ n d, f.finite neg mag = .fin neg n d ∧ (n = 0 ↔ mag = 0) := by
  unfold Fmt.finite
  extract_lets ex m sig e
  have zero : sig = 0 ↔ mag = 0 := by
    have parts := Nat.div_add_mod mag (2 ^ f.frac)
    have pos := Nat.two_pow_pos f.frac
    by_cases h : ex = 0
    · have small : sig = m := if_pos h
      rw [small, ← parts, show mag / 2 ^ f.frac = 0 from h, Nat.mul_zero, Nat.zero_add]
    · have large : sig = m + 2 ^ f.frac := if_neg h
      have : mag ≠ 0 := fun h0 => h (by simp [ex, h0])
      omega
  split
  · next h => exact ⟨0, 1, rfl, by simp [← zero, h]⟩
  · next h =>
    split
    · exact ⟨_, _, rfl, by simp [← zero, h]⟩
    · exact ⟨_, _, rfl, zero⟩

/-- The sign, the exponent field and the fraction of a code. -/
def Fmt.neg (f : Fmt) (code : Nat) : Bool := decide (code / 2 ^ f.signBit % 2 = 1)
def Fmt.exp (f : Fmt) (code : Nat) : Nat := code % 2 ^ f.signBit / 2 ^ f.frac
def Fmt.fraction (f : Fmt) (code : Nat) : Nat := code % 2 ^ f.frac

section Fields

variable {f : Fmt} (hf : f.Ieee) (x : Nat)

include hf

/-- The magnitude of a code by its fields. -/
theorem Fmt.magnitude_eq : x % 2 ^ f.signBit = f.exp x * 2 ^ f.frac + f.fraction x := by
  have low : x % 2 ^ f.signBit % 2 ^ f.frac = f.fraction x := Nat.mod_mod_of_dvd x (pow_dvd_pow 2 hf.frac_lt.le)
  rw [← low, Nat.mul_comm]
  exact (Nat.div_add_mod _ _).symm

omit hf in
theorem Fmt.fraction_lt : f.fraction x < 2 ^ f.frac := Nat.mod_lt _ (Nat.two_pow_pos _)

theorem Fmt.exp_le : f.exp x ≤ 2 ^ (f.signBit - f.frac) - 1 := by
  refine Nat.le_sub_one_of_lt ((Nat.div_lt_iff_lt_mul (Nat.two_pow_pos _)).mpr ?_)
  rw [← Nat.pow_add, Nat.sub_add_cancel hf.frac_lt.le]
  exact Nat.mod_lt _ (Nat.two_pow_pos _)

/-- Where the magnitude stands against the code of infinity. -/
theorem Fmt.infCode_cases : (f.exp x ≠ 2 ^ (f.signBit - f.frac) - 1 → x % 2 ^ f.signBit < f.infCode)
    ∧ (f.exp x = 2 ^ (f.signBit - f.frac) - 1 → x % 2 ^ f.signBit = f.infCode + f.fraction x) := by
  rw [hf.infCode, Fmt.magnitude_eq hf x]
  refine ⟨fun below => ?_, fun top => by rw [top]⟩
  calc f.exp x * 2 ^ f.frac + f.fraction x < f.exp x * 2 ^ f.frac + 2 ^ f.frac := Nat.add_lt_add_left (f.fraction_lt x) _
    _ = (f.exp x + 1) * 2 ^ f.frac := by ring
    _ ≤ _ := Nat.mul_le_mul_right _ (Nat.lt_of_le_of_ne (Fmt.exp_le hf x) below)

/-- The first bit of the fraction of a code. -/
theorem Fmt.first_fraction_bit : x % 2 ^ f.signBit / 2 ^ (f.frac - 1) % 2 = f.fraction x / 2 ^ (f.frac - 1) := by
  have half : 2 ^ f.frac = 2 ^ (f.frac - 1) * 2 := by
    rw [← Nat.pow_succ, Nat.succ_eq_add_one, Nat.sub_add_cancel hf.frac_pos]
  have digit : f.fraction x / 2 ^ (f.frac - 1) < 2 :=
    (Nat.div_lt_iff_lt_mul (Nat.two_pow_pos _)).mpr (Nat.mul_comm _ 2 ▸ half ▸ f.fraction_lt x)
  have apart : f.exp x * 2 ^ f.frac = 2 ^ (f.frac - 1) * (2 * f.exp x) := by rw [half]; ring
  rw [Fmt.magnitude_eq hf x, apart, Nat.mul_add_div (Nat.two_pow_pos _), Nat.mul_add_mod, Nat.mod_eq_of_lt digit]

/-- The value of a code by its fields: infinite or a NaN under the highest exponent, else finite. -/
theorem Fmt.ieeeValue_eq : f.ieeeValue x =
    if f.exp x = 2 ^ (f.signBit - f.frac) - 1 then
      (if f.fraction x = 0 then .inf (f.neg x) else .nan (decide (f.fraction x / 2 ^ (f.frac - 1) = 0)))
    else f.finite (f.neg x) (x % 2 ^ f.signBit) := by
  obtain ⟨below, top⟩ := Fmt.infCode_cases hf x
  unfold Fmt.ieeeValue
  dsimp only
  rw [Fmt.first_fraction_bit hf x]
  by_cases h : f.exp x = 2 ^ (f.signBit - f.frac) - 1
  · rw [if_pos h, top h]
    by_cases zero : f.fraction x = 0
    · rw [if_pos zero, if_pos (by omega)]
      rfl
    · rw [if_neg zero, if_neg (by omega), if_pos (by omega)]
  · rw [if_neg h, if_neg (below h).ne, if_neg (below h).asymm]
    rfl

omit hf in
theorem Fmt.magnitude_lt_iff : x % 2 ^ f.signBit < 2 ^ f.frac ↔ f.exp x = 0 := by
  rw [Fmt.exp, Nat.div_eq_zero_iff_lt (Nat.two_pow_pos _)]

theorem Fmt.magnitude_eq_zero_iff : x % 2 ^ f.signBit = 0 ↔ f.exp x = 0 ∧ f.fraction x = 0 := by
  rw [Fmt.magnitude_eq hf x, Nat.add_eq_zero_iff, Nat.mul_eq_zero]
  simp

end Fields

theorem fpClass_eq {t : BitVec 5} (ht : isIeee t = true) (hf : (tagFmt t).Ieee) (x : Nat) :
    fpClass t x = 2 ^ classBit (tagFmt t) x := by
  obtain ⟨n, d, value, zero⟩ := (tagFmt t).finite_eq ((tagFmt t).neg x) (x % 2 ^ (tagFmt t).signBit)
  rw [Fmt.magnitude_eq_zero_iff hf x] at zero
  have bit : classBit (tagFmt t) x =
      if (tagFmt t).exp x = 2 ^ ((tagFmt t).signBit - (tagFmt t).frac) - 1 then
        (if (tagFmt t).fraction x = 0 then (if (tagFmt t).neg x then 0 else 7)
          else if (tagFmt t).fraction x / 2 ^ ((tagFmt t).frac - 1) = 0 then 8 else 9)
      else if (tagFmt t).exp x = 0 then (if (tagFmt t).fraction x = 0 then (if (tagFmt t).neg x then 3 else 4)
        else if (tagFmt t).neg x then 2 else 5)
      else if (tagFmt t).neg x then 1 else 6 := rfl
  rw [fpClass, isSlash_of_isIeee ht, bit]
  simp only [Fmt.ieeeValue_eq hf x, Fmt.magnitude_lt_iff x]
  generalize (tagFmt t).exp x = e at *
  generalize (tagFmt t).fraction x = m at *
  generalize (tagFmt t).neg x = neg at *
  by_cases top : e = 2 ^ ((tagFmt t).signBit - (tagFmt t).frac) - 1
  · simp only [if_pos top]
    by_cases inf : m = 0
    · cases neg <;> simp [inf]
    · by_cases sig : m / 2 ^ ((tagFmt t).frac - 1) = 0
      · simp [inf, sig]
      · simp [inf, sig]
  · simp only [if_neg top, value, zero]
    by_cases subnormal : e = 0
    · by_cases m0 : m = 0
      · cases neg <;> simp [subnormal, m0]
      · cases neg <;> simp [subnormal, m0]
    · cases neg <;> simp [subnormal]

/-! ### Signs and moves (R118) -/

theorem fsrc_lt (s : State) (z : BitVec 1) (r : BitVec 5) : s.fsrc z r < 2 ^ ((fpFormat z).signBit + 1) := by
  have : z = 0 ∨ z = 1 := by revert z; decide
  obtain rfl | rfl := this
  · exact Nat.mod_lt _ (by decide)
  · exact (s.fr r).isLt

theorem fpSgnj_eq {t : BitVec 5} (ht : isIeee t = true) (x : Nat) {y : Nat} (hy : y < 2 ^ ((tagFmt t).signBit + 1)) :
    fpSgnj t x y = x % 2 ^ (tagFmt t).signBit + y / 2 ^ (tagFmt t).signBit * 2 ^ (tagFmt t).signBit := by
  have small : y / 2 ^ (tagFmt t).signBit % 2 = y / 2 ^ (tagFmt t).signBit :=
    Nat.mod_eq_of_lt ((Nat.div_lt_iff_lt_mul (Nat.two_pow_pos _)).mpr (by rwa [← Nat.pow_succ']))
  rw [fpSgnj, isSlash_of_isIeee ht]
  simp only [small]
  rfl

end Sys2Proof.Machine

section

open Sys2Proof Sys2Proof.Machine Sys2Proof.Claims

/-- Settles O8: the order of finite values, the class of a code by its fields, and the raw copies. -/
theorem fpComparesMovesAndClassesFollowTheirTable : Obligations.FpComparesMovesAndClassesFollowTheirTable := by
  refine ⟨fun p hp d a b z s rat ha hb => ?_, ?_, fun d a z s rat => ?_, fun d a b z s rat => ?_, fun d a z s => ?_, fun d a z s => ?_⟩
  · obtain ⟨op, run, value⟩ := fpCompares_isCompare p hp
    have form := fpCmpG_form (run d a b z s) rat
    rw [← valueOf_fpTag] at ha hb
    rw [fpCompare_of_finite op (isIeee_fpTag z) ha hb, value] at form
    rw [← valueOf_fpTag, ← valueOf_fpTag]
    exact yields_mono (yields_of_none form) fun _ h => wroteG_of_wroteGFlags h
  · simp only [List.forall_mem_cons]
    exact ⟨fun d a b z s => unordered_compare (op := .lt) rfl nofun, fun d a b z s => unordered_compare (op := .le) rfl nofun, nofun⟩
  · have form := gDone_form (i := .fclass d a z) (s := s) rfl
    have isIeee := isIeee_fpTag z
    rw [ftag_of_ieee rat, valueOf_of_isIeee isIeee, fpClass_eq isIeee (tagFmt_fpTag z ▸ fpFormat_ieee z), tagFmt_fpTag] at form
    exact yields_mono (yields_of_none form) fun _ h => wroteG_of_wroteGFlags h
  · have sign := fpSgnj_eq (isIeee_fpTag z) (s.fsrc z a) (tagFmt_fpTag z ▸ fsrc_lt s z b)
    rw [tagFmt_fpTag, ← ftag_of_ieee rat] at sign
    exact ⟨_, rfl, sign ▸ State.setFr_wroteF_none s d _⟩
  · exact ⟨_, rfl, State.setGr_wroteG s d _⟩
  · exact ⟨_, rfl, State.setFr_wroteF_none s d _⟩

end

/-! SUPPORT. Conversions (R119) and rational mode (R120). -/

namespace Sys2Proof.Machine

open Sys2Proof.Safety Sys2Proof.Claims

/-! ### Conversions (R119) -/

/-- R119: an integer of a g register is rounded once to the format of its size. -/
theorem fcvtFrom_form {i : Instr} {s : State} {x : Int} {d : BitVec 6} {z : BitVec 1} (hi : exec i s = fcvtFrom x d z s)
    (rat : s.ctx.acr.getLsbD 3 = false) :
    CompletesOrTraps i s (roundIeee (fpFormat z) (Val.ofInt x) s.ctx.rm).2 (fun t => WroteF s t (d.truncate 5)
      (word (roundIeee (fpFormat z) (Val.ofInt x) s.ctx.rm).1) (roundIeee (fpFormat z) (Val.ofInt x) s.ctx.rm).2) := by
  have form := fpDone_form hi
  rwa [ftag_of_ieee rat, roundTo_of_isIeee (isIeee_fpTag z), tagFmt_fpTag] at form

/-- R75: a finite real whose integer part fits a signed word is truncated to it. -/
theorem intRound_truncates {neg : Bool} {n k : Nat} (fits : n / k < 2 ^ 63) : intRound true 64 (.fin neg n k) .rz =
    (if neg then -((n / k : Nat) : Int) else ((n / k : Nat) : Int), if k ∣ n then Fx.none else Fx.nx) := by
  have truncated : roundFrac (RMode.plain .rz) neg n k = (n / k, decide (k ∣ n)) := by
    simp [roundFrac, RMode.plain, Nat.dvd_iff_mod_eq_zero]
  generalize n / k = q at *
  have inside : ¬ (intMax true 64 < (if neg then -(q : Int) else (q : Int)) ∨ (if neg then -(q : Int) else (q : Int)) < intMin true 64) := by
    simp only [intMax, intMin, if_true]
    split <;> omega
  simp only [intRound, truncated]
  rw [if_neg inside]
  by_cases h : k ∣ n <;> simp [h, Fx.when]

theorem fcvtInt_form {i : Instr} {s : State} {sg : Bool} {mode : RMode} {d a : BitVec 6} {z : BitVec 1} {x : Int} {fx : Fx}
    (hi : exec i s = fcvtInt sg mode d a z s) (rat : s.ctx.acr.getLsbD 3 = false)
    (round : intRound sg 64 (fpValue s z (a.truncate 5)) mode = (x, fx)) :
    CompletesOrTraps i s fx (fun t => WroteGFlags s t d (wordI x) fx) := by
  refine gDone_form (hi.trans ?_)
  have value : (tagFmt (fpTag false z)).ieeeValue (s.fsrc z (freg a)) = fpValue s z (a.truncate 5) := valueOf_fpTag s z _
  simp only [fcvtInt, ftag_of_ieee rat, valueOf_of_isIeee (isIeee_fpTag z), value, round, Fx.none_and]

/-! ### Rational mode (R89, R120) -/

theorem slashDecode_den_pos (wide : Bool) (code : Nat) : 0 < (slashDecode wide code).1.den := by
  unfold slashDecode
  dsimp only
  split_ifs with h1 h2 h3 h4
  · exact Nat.one_pos
  · exact Nat.one_pos
  · exact Nat.one_pos
  · exact Nat.one_pos
  · exact Nat.pos_of_ne_zero h3

theorem isSlash_fpTag (z : BitVec 1) : isSlash (fpTag true z) = true := by
  revert z
  decide

theorem isWide_fpTag (z : BitVec 1) : decide (fpTag true z = tSL64) = decide (z = 1) := by
  revert z
  decide

theorem valueOf_of_isSlash {t : BitVec 5} (h : isSlash t = true) (picot : Bool) (code : Nat) :
    valueOf t picot code = slashDecode (decide (t = tSL64)) code := by
  have other : ∀ t : BitVec 5, isSlash t = true → isInt t = false ∧ isIeee t = false ∧ isFp8 t = false ∧ t ≠ tNarrow := by decide
  obtain ⟨int, ieee, fp8, narrow⟩ := other t h
  simp [valueOf, int, ieee, fp8, narrow, h]

theorem roundTo_of_isSlash {t : BitVec 5} (h : isSlash t = true) (picot satinf : Bool) (v : Val) (mode : RMode) :
    roundTo t picot v mode satinf = ((slashRound (decide (t = tSL64)) v mode).1, (slashRound (decide (t = tSL64)) v mode).2.1) := by
  have other : ∀ t : BitVec 5, isSlash t = true → intTag t.toNat = none ∧ isFp8 t = false ∧ t ≠ tNarrow := by decide
  obtain ⟨int, fp8, narrow⟩ := other t h
  unfold roundTo
  rw [int]
  simp [fp8, narrow, h]

/-- R89: the exact result of finite slash operands is finite, and no flag is raised in forming it. -/
theorem slashExact_of_finite (op : FpOp) {a b : Val} (ha : finite a = true) (hb : finite b = true)
    (da : 0 < a.den) (db : 0 < b.den) (hdiv : op = .div → ratOf b ≠ 0) :
    ∃ v, finite v = true ∧ ratOf v = op.rat (ratOf a) (ratOf b) ∧ slashExact op.slash a b = (v, .none) := by
  have sum {x y : Val} (dx : 0 < x.den) (dy : 0 < y.den) :
      ratOf (Val.ofFrac (x.num * y.den + y.num * x.den) (x.den * y.den) false) = ratOf x + ratOf y := by
    have := ratOf_addFin .rne dx dy
    rw [Val.addFin, ratOf_ofFrac] at this
    rw [ratOf_ofFrac, this]
  have product (x y : Val) : ratOf (Val.ofFrac (x.num * y.num) (x.den * y.den) false) = ratOf x * ratOf y := by
    have := ratOf_mulFin x y
    rw [Val.mulFin, ratOf_ofFrac] at this
    rw [ratOf_ofFrac, this]
  obtain ⟨sa, na, ka, rfl⟩ := finite_iff.mp ha
  obtain ⟨sb, nb, kb, rfl⟩ := finite_iff.mp hb
  cases op with
  | add => exact ⟨_, finite_ofFrac _ _ _, sum da db, rfl⟩
  | sub =>
    refine ⟨_, finite_ofFrac _ _ _, (sum da ((den_neg _).symm ▸ db)).trans ?_, rfl⟩
    rw [ratOf_neg]
    exact (sub_eq_add_neg _ _).symm
  | mul => exact ⟨_, finite_ofFrac _ _ _, product _ _, rfl⟩
  | div =>
    have nonzero : nb ≠ 0 := mt (ratOf_eq_zero_iff db).mpr (hdiv rfl)
    exact ⟨_, finite_ofFrac _ _ _, ratOf_quotient (.fin sa na ka) sb false nb kb,
      if_neg (by simpa [Val.isZero] using nonzero)⟩

/-- R120: an arithmetic form on finite slash operands that raise nothing rounds their exact result to a slash word. -/
theorem fpArith_of_slash (op : FpOp) {t : BitVec 5} {x y : Nat} (mode : RMode) (ht : isSlash t = true)
    (hx : finite (slashDecode (decide (t = tSL64)) x).1 = true) (hy : finite (slashDecode (decide (t = tSL64)) y).1 = true)
    (fx : (slashDecode (decide (t = tSL64)) x).2 = .none) (fy : (slashDecode (decide (t = tSL64)) y).2 = .none)
    (hdiv : op = .div → ratOf (slashDecode (decide (t = tSL64)) y).1 ≠ 0) :
    ∃ v, finite v = true
      ∧ ratOf v = op.rat (ratOf (slashDecode (decide (t = tSL64)) x).1) (ratOf (slashDecode (decide (t = tSL64)) y).1)
      ∧ fpArith op t x y mode = ((slashRound (decide (t = tSL64)) v mode).1, (slashRound (decide (t = tSL64)) v mode).2.1) := by
  obtain ⟨v, fin, value, exact⟩ := slashExact_of_finite op hx hy (slashDecode_den_pos _ _) (slashDecode_den_pos _ _) hdiv
  refine ⟨v, fin, value, ?_⟩
  simp only [fpArith, valueOf_of_isSlash ht, roundTo_of_isSlash ht, ht, fx, fy, exact, Fx.none_and, if_true]

theorem slashOperand_eq (s : State) (z : BitVec 1) (r : BitVec 5) :
    slashDecode (decide (fpTag true z = tSL64)) (s.fsrc z r) = slashOperand s z r := by
  rw [isWide_fpTag]
  rfl

end Sys2Proof.Machine

section

open Sys2Proof Sys2Proof.Machine Sys2Proof.Claims

/-- Settles O9: a conversion rounds or truncates its one operand, and rational mode rounds the exact result of two. -/
theorem conversionsAndRationalModeRoundTheExactResult : Obligations.ConversionsAndRationalModeRoundTheExactResult := by
  refine ⟨fun d a z s rat => ⟨?_, ?_⟩, fun d a z s neg n k rat value _ fits => ?_, fun p hp d a b z s rat ha hb fa fb hdiv => ?_⟩
  · exact fcvtFrom_form rfl rat
  · exact fcvtFrom_form rfl rat
  · exact fcvtInt_form (sg := true) (mode := .rz) rfl rat (by rw [value, intRound_truncates fits])
  · obtain ⟨op, run, value, isDiv⟩ := fpForms_isArith p hp
    simp only [← slashOperand_eq] at ha hb fa fb hdiv ⊢
    obtain ⟨x, fin, exact, round⟩ := fpArith_of_slash op s.ctx.rm (isSlash_fpTag z) ha hb fa fb (fun h => hdiv (isDiv h))
    rw [value] at exact
    have form := fpDone_form (run d a b z s)
    rw [ftag_of_slash rat, round, isWide_fpTag] at form
    exact ⟨x, fin, exact, form⟩

end

/-! SUPPORT. The work of an I/O die on tasks: spawn records, the pricking table, placement, the start of a strand and
aliases (R123, R368 to R379). -/

namespace Sys2Proof.Machine

open Sys2Proof.Safety Sys2Proof.Claims

/-! ### The tasks of an I/O die -/

theorem Pkg.io_setIo (p : Pkg) (io : Nat) (x : IODie) : (p.setIo io x).io io = x := by
  unfold Pkg.setIo Pkg.io
  split <;> rfl

@[simp] theorem Pkg.setIo_mem (p : Pkg) (io : Nat) (x : IODie) : (p.setIo io x).mem = p.mem := by
  unfold Pkg.setIo
  split <;> rfl

@[simp] theorem Pkg.setTask_mem (p : Pkg) (h : Word) (f : Task → Task) : (p.setTask h f).mem = p.mem :=
  p.setIo_mem _ _

theorem Pkg.task_handle {p : Pkg} {h : Word} {t : Task} (e : p.task h = some t) : t.handle = h := by
  simpa using List.find?_some e

/-- The task of a handle after a change that leaves its handle. -/
theorem Pkg.task_setTask (p : Pkg) (h : Word) (f : Task → Task) (hf : ∀ t, (f t).handle = t.handle) :
    (p.setTask h f).task h = (p.task h).map f := by
  have keeps : ((fun t : Task => t.handle == h) ∘ fun t => if t.handle == h then f t else t) = fun t => t.handle == h := by
    funext t
    dsimp only [Function.comp]
    split
    · exact congrArg (· == h) (hf t)
    · rfl
  unfold Pkg.task Pkg.setTask
  rw [Pkg.io_setIo]
  dsimp only
  rw [List.find?_map, keeps]
  cases e : List.find? (fun t : Task => t.handle == h) (p.io (handleIo h)).tasks with
  | none => rfl
  | some t => exact congrArg some (if_pos (List.find?_some e))

theorem Pkg.task_setTask_some {p : Pkg} {h : Word} {k : Task} (f : Task → Task) (e : p.task h = some k)
    (hf : ∀ t, (f t).handle = t.handle) : (p.setTask h f).task h = some (f k) := by
  rw [Pkg.task_setTask p h f hf, e]
  rfl

/-- The number that an event gives its I/O die. -/
theorem ioOf_eq {io : Nat} (h : io = 0 ∨ io = 9) : (if io = 9 then 9 else 0) = io := by
  rcases h with rfl | rfl <;> rfl

/-! ### What an I/O die's own writes leave of its tables (R123, R364) -/

/-- Between `p` and `q` the I/O dies differ in their resident slots and in the vectors they raised alone. -/
def Pkg.TablesKept (p q : Pkg) : Prop :=
  ∀ io, q.io io = { p.io io with slots := (q.io io).slots, msix := (q.io io).msix }

theorem Pkg.TablesKept.trans {p q r : Pkg} (h : p.TablesKept q) (k : q.TablesKept r) : p.TablesKept r := fun io =>
  Eq.trans (k io) (congrArg (fun x : IODie => { x with slots := (r.io io).slots, msix := (r.io io).msix }) (h io))

theorem Pkg.TablesKept.spawns {p q : Pkg} (h : p.TablesKept q) (io : Nat) : (q.io io).spawns = (p.io io).spawns := by
  rw [h io]

theorem Pkg.TablesKept.task {p q : Pkg} (h : p.TablesKept q) (k : Word) : q.task k = p.task k := by
  unfold Pkg.task
  rw [h (handleIo k)]

/-- A package in which the I/O dies are as they were. -/
theorem Pkg.TablesKept.of_io {p q : Pkg} (h0 : q.io0 = p.io0) (h9 : q.io9 = p.io9) : p.TablesKept q := by
  intro io
  unfold Pkg.io
  rw [h0, h9]

theorem Pkg.Stored.tablesKept {p q : Pkg} (h : p.Stored q) : p.TablesKept q := by
  rw [h]
  exact .of_io rfl rfl

theorem Pkg.setSlot_tablesKept (p : Pkg) (q : Nat) (f : QSlot → QSlot) : p.TablesKept (p.setSlot q f) := by
  intro io
  by_cases hi : io = 9 <;> by_cases hq : queueIo q = 9 <;> simp [Pkg.setSlot, Pkg.setIo, Pkg.io, hi, hq]

theorem Pkg.hop_dies (p : Pkg) (d e : Nat) (kn : Option Knot) : p.hop d e kn = { p with dies := (p.hop d e kn).dies } := by
  unfold Pkg.hop Pkg.raiseV
  dsimp only
  split
  · rfl
  · split <;> rfl

theorem Pkg.trip_dies (p : Pkg) (d e : Nat) (kn : Knot) : p.trip d e kn = { p with dies := (p.trip d e kn).dies } :=
  ((p.hop d e (some kn)).hop_dies e d none).trans
    (congrArg (fun q : Pkg => { q with dies := (p.trip d e kn).dies }) (p.hop_dies d e (some kn)))

theorem Pkg.trip_stored (p : Pkg) (d e : Nat) (kn : Knot) : p.Stored (p.trip d e kn) := by
  rw [p.trip_dies]
  rfl

theorem Pkg.homeWrite_unless_stored (p : Pkg) (c : Prop) [Decidable c] (bytes : List (Nat × Byte)) (poison : List Nat)
    (preCut : Bool) : p.Stored (if c then p else p.homeWrite bytes poison false preCut) := by
  split
  · rfl
  · exact p.homeWrite_stored ..

/-- What a guarded result was, where it is a value. -/
theorem of_guard {ε α : Type} {c : Prop} [Decidable c] {x : ε} {e : Except ε α} {r : α}
    (h : (if c then .error x else e) = .ok r) : e = .ok r := by
  split at h
  · cases h
  · exact h

theorem Pkg.walkFrom_stored {p : Pkg} {asn va : Nat} {k : Acc} {ok : Nat → Bool} {die : Nat} {kn : Knot} {n lvl t : Nat}
    {r : Trans × Pkg} (h : p.walkFrom asn va k ok die kn n lvl t = .ok r) : p.Stored r.2 := by
  induction n generalizing p lvl t with
  | zero => cases h
  | succ n ih =>
    have tripped (ea : Nat) : p.Stored (if ok ea then p.trip die ((p.homeOf ea).getD die) kn else p) := by
      split
      · exact p.trip_stored ..
      · rfl
    simp only [Pkg.walkFrom] at h
    generalize hp1 : (if ok _ then p.trip die _ kn else p) = p1 at h
    have h1 : p.Stored p1 := hp1 ▸ tripped _
    replace h := of_guard (of_guard h)
    split at h
    · exact h1.trans (ih (of_guard h))
    · obtain rfl := Except.ok.inj (of_guard (of_guard (of_guard h)))
      exact h1.trans (p1.homeWrite_unless_stored _ _ _ _)

theorem Pkg.walk_stored {p : Pkg} {root asn va : Nat} {k : Acc} {ok : Nat → Bool} {die : Nat} {kn : Knot}
    {r : Trans × Pkg} (h : p.walk root asn va k ok die kn = .ok r) : p.Stored r.2 := by
  unfold Pkg.walk at h
  split at h
  · cases h
  · exact Pkg.walkFrom_stored h

theorem Pkg.qwalk_stored {p : Pkg} {q va : Nat} {k : Acc} {r : Nat × Pkg} (h : p.qwalk q va k = .ok r) : p.Stored r.2 := by
  unfold Pkg.qwalk at h
  split at h
  · cases h
  · next t p1 e =>
    obtain rfl := Except.ok.inj (of_guard h)
    exact Pkg.walk_stored e

theorem Pkg.log_tablesKept (p : Pkg) (code die detail : Nat) : p.TablesKept (p.log code die detail) := by
  obtain ⟨q, h, e⟩ := p.log_frame code die detail
  rw [e]
  exact h.tablesKept.trans fun io => by
    unfold Pkg.io
    split
    · rfl
    · rw [h.io0]
      rfl

theorem Pkg.qset_stored (p : Pkg) (q off n x : Nat) : p.Stored (p.qset q off n x) := p.engineWrite_stored _ _ _

theorem Pkg.qFlag_stored (p : Pkg) (q b : Nat) (on : Bool) : p.Stored (p.qFlag q b on) := p.qset_stored _ _ _ _

theorem Pkg.queueFault_tablesKept (p : Pkg) (q : Nat) : p.TablesKept (p.queueFault q) :=
  ((p.qFlag_stored q 63 false).trans (Pkg.qFlag_stored _ q 61 true)).tablesKept.trans (Pkg.log_tablesKept _ _ _ _)

theorem Pkg.send_tablesKept (p : Pkg) (d e owner bank : Nat) (handle : Word) (kn : Knot) (plain : Bool) (payload : Payload)
    (snap ack : Bool) (tag : Nat) : p.TablesKept (p.send d e owner bank handle kn plain payload snap ack tag) := by
  unfold Pkg.send
  dsimp only
  split
  · split <;> exact .of_io rfl rfl
  · exact .of_io rfl rfl

theorem Pkg.dieWrite_tablesKept (p : Pkg) (io : Nat) (bytes : List (Nat × Byte)) (poison : List Nat) :
    p.TablesKept (p.dieWrite io bytes poison) := by
  unfold Pkg.dieWrite
  split
  · exact .of_io rfl rfl
  · dsimp only
    split
    · exact (p.homeWrite_stored ..).tablesKept
    · exact p.send_tablesKept _ _ _ _ _ _ _ _ _ _ _

theorem Pkg.qwrite_tablesKept (p : Pkg) (q va n x : Nat) : p.TablesKept (p.qwrite q va n x) := by
  unfold Pkg.qwrite
  split
  · exact p.queueFault_tablesKept q
  · next pa p1 e => exact (Pkg.qwalk_stored e).tablesKept.trans (p1.dieWrite_tablesKept _ _ _)

theorem Pkg.qwriteWords_tablesKept (p : Pkg) (q va : Nat) (l : List Nat) : p.TablesKept (p.qwriteWords q va l) := by
  induction l generalizing p va with
  | nil => exact .of_io rfl rfl
  | cons x l ih => exact (p.qwrite_tablesKept q va 8 x).trans (ih _ _)

theorem Pkg.newTail_tablesKept (p : Pkg) (q tail : Nat) : p.TablesKept (p.newTail q tail) := by
  have flagged : p.TablesKept ((p.qset q 60 4 tail).qFlag q 61 true) :=
    ((p.qset_stored q 60 4 tail).trans (Pkg.qFlag_stored _ q 61 true)).tablesKept
  unfold Pkg.newTail
  split
  · split
    · exact p.setSlot_tablesKept _ _
    · exact flagged.trans (Pkg.setSlot_tablesKept _ _ _)
  · exact flagged

theorem Pkg.acceptSpawn_tablesKept (p : Pkg) (r : SpawnReq) : p.TablesKept (p.acceptSpawn r).2 := by
  have same : p.TablesKept p := .of_io rfl rfl
  unfold Pkg.acceptSpawn
  dsimp only
  split
  · exact same
  · split
    · exact same
    · split
      · exact same
      · have written := p.qwriteWords_tablesKept r.queue
          ((p.qRing r.queue 0).1 + 64 * (p.qTail r.queue % 2 ^ (p.qRing r.queue 0).2)) (r.words.map BitVec.toNat)
        split
        · exact written
        · exact written.trans (Pkg.newTail_tablesKept _ _ _)

/-! ### The answer to a spawn record (R123, R368) -/

/-- `p` with other spawn records waiting at an I/O die. -/
def Pkg.withSpawns (p : Pkg) (io : Nat) (l : List SpawnReq) : Pkg := p.setIo io { p.io io with spawns := l }

theorem Pkg.withSpawns_slot (p : Pkg) (io : Nat) (l : List SpawnReq) (q : Nat) : (p.withSpawns io l).slot q = p.slot q := by
  have slots (j : Nat) : ((p.withSpawns io l).io j).slots = (p.io j).slots := by
    by_cases hj : j = 9 <;> by_cases hi : io = 9 <;> simp [Pkg.withSpawns, Pkg.setIo, Pkg.io, hj, hi]
  unfold Pkg.slot
  rw [slots]

theorem Pkg.withSpawns_qget (p : Pkg) (io : Nat) (l : List SpawnReq) (q off n : Nat) :
    (p.withSpawns io l).qget q off n = p.qget q off n :=
  congrArg (fun m : Memory => m.readLE (qrec q + off) n) (p.setIo_mem io _)

theorem Pkg.withSpawns_qIndex (p : Pkg) (io : Nat) (l : List SpawnReq) (q : Nat) (sel : QSlot → Nat) (off : Nat) :
    (p.withSpawns io l).qIndex q sel off = p.qIndex q sel off := by
  simp only [Pkg.qIndex, Pkg.withSpawns_slot, Pkg.withSpawns_qget]

/-- The answers of R123 and R368 to the record `r`, as the queue stands in `p`. -/
def Pkg.Answers (p : Pkg) (r : SpawnReq) (v : Word) : Prop :=
  (65536 ≤ r.queue → v = wordI (-3))
  ∧ (r.queue < 65536 →
    ((p.qEn r.queue = false ∨ (p.qGroup r.queue ≠ r.group ∧ p.qOpen r.queue = false)) → v = wordI (-2))
    ∧ (p.qEn r.queue = true → (p.qGroup r.queue = r.group ∨ p.qOpen r.queue = true) →
      (diff32 (p.qTail r.queue) (p.qHead r.queue) = 2 ^ (p.qRing r.queue 0).2 → v = wordI (-1))
      ∧ (diff32 (p.qTail r.queue) (p.qHead r.queue) ≠ 2 ^ (p.qRing r.queue 0).2 →
        v = word (2 ^ 62 + r.queue * 2 ^ 32 + p.qTail r.queue) ∨ v = wordI (-2))))

theorem Pkg.withSpawns_answers (p : Pkg) (io : Nat) (l : List SpawnReq) (r : SpawnReq) (v : Word) :
    (p.withSpawns io l).Answers r v ↔ p.Answers r v := by
  simp only [Pkg.Answers, Pkg.qEn, Pkg.qGroup, Pkg.qOpen, Pkg.qTail, Pkg.qHead, Pkg.qRing, Pkg.withSpawns_qget,
    Pkg.withSpawns_qIndex]

theorem Pkg.acceptSpawn_answers (p : Pkg) (r : SpawnReq) : p.Answers r (p.acceptSpawn r).1 := by
  unfold Pkg.acceptSpawn Pkg.Answers
  dsimp only
  split
  · next big => exact ⟨fun _ => rfl, fun h => absurd big (by omega)⟩
  · next small =>
    refine ⟨fun h => absurd h small, fun _ => ?_⟩
    split
    · next closed =>
      refine ⟨fun _ => rfl, fun en mine => ?_⟩
      rcases closed with c | ⟨g, o⟩
      · exact absurd en (by simp [c])
      · exact absurd mine (by simp [g, o])
    · next takes =>
      refine ⟨fun closed => absurd closed takes, fun _ _ => ?_⟩
      split
      · next full => exact ⟨fun _ => rfl, fun h => absurd full h⟩
      · next room =>
        refine ⟨fun h => absurd h room, fun _ => ?_⟩
        split
        · exact .inr rfl
        · exact .inl rfl

/-! ### The spawn record at the head of an I/O die's list -/

/-- The context of the core in focus replaced through its core and bank. -/
theorem State.setCoreAt_self (s : State) (c : Ctx) :
    s.setCoreAt s.coreNo ((s.coreAt s.coreNo).setBankCtx s.ctx.bank c) = { s with ctx := c } := by
  rw [State.coreAt_self]
  simp only [Peer.setBankCtx, State.setCoreAt, if_true]

/-- The same with the shared part of the core replaced as well. -/
theorem State.setCoreAt_self_core (s : State) (c : Ctx) (k : Core) :
    s.setCoreAt s.coreNo ({ s.coreAt s.coreNo with core := k }.setBankCtx s.ctx.bank c) = { s with ctx := c, core := k } := by
  rw [State.coreAt_self]
  simp only [Peer.setBankCtx, State.setCoreAt, if_true]

theorem Ctx.gAt_setG_ne (c : Ctx) {n k : Nat} (h : k ≠ n) (v : Word) : (c.setG n v).gAt k = c.gAt k := by
  have ne : n ≠ k := Ne.symm h
  unfold Ctx.gAt Ctx.setG
  split
  · rfl
  · by_cases hn : n = 0
    · simp only [hn, if_true]
    · simp [hn, Vector.getD, ne]

theorem Ctx.gAt_setG_same (c : Ctx) {n : Nat} (hn : n < 64) (v : Word) : (c.setG n v).gAt n = if n = 0 then 0 else v := by
  unfold Ctx.gAt Ctx.setG
  split
  · rfl
  · simp [hn, Vector.getD]

/-- What the answer `v` to a record does with the strand that sent it. -/
def State.giveAnswer (s : State) (r : SpawnReq) (v : Word) : State :=
  let k := s.coreAt r.core
  let c := k.bankCtx r.bank
  let mine (q : Pending) : Bool := q.kind == .spawn && q.tag == r.tag
  if c.holds && c.taskh == r.handle && c.pending.any mine then
    s.setCoreAt r.core (k.setBankCtx r.bank { c.setG r.dest v with pending := c.pending.filter (fun q => !mine q) })
  else s

theorem exec_spawnRecordAccept {io : Nat} {s : State} {r : SpawnReq} {rest : List SpawnReq} (hio : io = 0 ∨ io = 9)
    (hx : (s.pkg.io io).spawns = r :: rest) (hr : s.pkg.homeReady (r.core / 24) io (s.coreAt r.core).core.knotv = true) :
    exec (.spawnRecordAccept io) s = .next (State.giveAnswer
      { s with pkg := ((s.pkg.withSpawns io rest).acceptSpawn r).2 } r ((s.pkg.withSpawns io rest).acceptSpawn r).1) := by
  have e : exec (.spawnRecordAccept io) s = execSpawnRecordAccept io s := rfl
  rw [e, execSpawnRecordAccept, ioOf_eq hio]
  dsimp only
  rw [hx]
  dsimp only
  rw [hr]
  rfl

/-- A `tspawn` of the running context that waits takes the answer. -/
theorem State.giveAnswer_here {s : State} {r : SpawnReq} (v : Word) (hc : r.core = s.coreNo) (hb : r.bank = s.ctx.bank)
    (hh : s.ctx.holds = true) (ht : s.ctx.taskh = r.handle) (hp : ∃ q ∈ s.ctx.pending, q.kind = .spawn ∧ q.tag = r.tag) :
    s.giveAnswer r v = { s with ctx := { s.ctx.setG r.dest v with
      pending := s.ctx.pending.filter (fun q => !(q.kind == .spawn && q.tag == r.tag)) } } := by
  have mine : s.ctx.pending.any (fun q => q.kind == .spawn && q.tag == r.tag) = true := by
    obtain ⟨q, hq, kind, tag⟩ := hp
    exact List.any_eq_true.mpr ⟨q, hq, by simp [kind, tag]⟩
  have given : (s.ctx.holds && s.ctx.taskh == r.handle
      && s.ctx.pending.any (fun q => q.kind == .spawn && q.tag == r.tag)) = true := by simp [hh, ht, mine]
  unfold State.giveAnswer
  dsimp only
  rw [hc, hb, s.bankCtx_coreAt_self, if_pos given, s.setCoreAt_self]

theorem spawnRecord_answered {io : Nat} {s : State} {r : SpawnReq} {rest : List SpawnReq} (hio : io = 0 ∨ io = 9)
    (hx : (s.pkg.io io).spawns = r :: rest) (hc : r.core = s.coreNo) (hb : r.bank = s.ctx.bank)
    (hr : s.pkg.homeReady (r.core / 24) io s.core.knotv = true) (hh : s.ctx.holds = true) (ht : s.ctx.taskh = r.handle)
    (hd : r.dest < 64) (hp : ∃ q ∈ s.ctx.pending, q.kind = .spawn ∧ q.tag = r.tag) :
    Yields (.spawnRecordAccept io) s (fun t => ∃ v : Word,
      t.ctx.gAt r.dest = (if r.dest = 0 then 0 else v) ∧ (∀ k, k ≠ r.dest → t.ctx.gAt k = s.ctx.gAt k)
      ∧ t.ctx.pending = s.ctx.pending.filter (fun q => !(q.kind == .spawn && q.tag == r.tag))
      ∧ (t.pkg.io io).spawns = rest ∧ s.pkg.Answers r v) := by
  have home : s.pkg.homeReady (r.core / 24) io (s.coreAt r.core).core.knotv = true := by
    rw [hc, s.coreAt_self, ← hc]
    exact hr
  refine ⟨_, exec_spawnRecordAccept hio hx home, ((s.pkg.withSpawns io rest).acceptSpawn r).1, ?_⟩
  rw [State.giveAnswer_here (s := { s with pkg := ((s.pkg.withSpawns io rest).acceptSpawn r).2 }) _ hc hb hh ht hp]
  refine ⟨?_, fun k hk => ?_, rfl, ?_, (Pkg.withSpawns_answers _ _ _ _ _).mp (Pkg.acceptSpawn_answers _ _)⟩
  · exact Ctx.gAt_setG_same _ hd _
  · exact Ctx.gAt_setG_ne _ hk _
  · exact ((Pkg.acceptSpawn_tablesKept _ _).spawns io).trans (congrArg IODie.spawns (s.pkg.io_setIo io _))

/-! ### The pricking table (R373 to R377) -/

/-- A task once TAKEN tasks that nothing holds back are READY (R377). -/
def Task.woken (t : Task) (cyc seq : Nat) : Task :=
  if t.state = .taken ∧ t.after.isEmpty ∧ t.afterAlias.isEmpty then { t with state := .ready, since := cyc, seq := seq }
  else t

/-- One task of the list that `Pkg.wakeTasks` goes through. -/
def wakeOne (cyc : Nat) (a : List Task × Nat) (t : Task) : List Task × Nat :=
  if t.state = .taken ∧ t.after.isEmpty ∧ t.afterAlias.isEmpty then
    (a.1 ++ [{ t with state := .ready, since := cyc, seq := a.2 }], a.2 + 1)
  else (a.1 ++ [t], a.2)

theorem wakeOne_fst (cyc : Nat) (a : List Task × Nat) (t : Task) : (wakeOne cyc a t).1 = a.1 ++ [t.woken cyc a.2] := by
  unfold wakeOne Task.woken
  split <;> rfl

theorem Pkg.wakeTasks_io (p : Pkg) (io : Nat) : (p.wakeTasks io).io io =
    { p.io io with tasks := ((p.io io).tasks.foldl (wakeOne p.cyc) ([], p.nextSeq)).1 } := p.io_setIo io _

theorem woken_mem_foldl (cyc : Nat) {t : Task} {l : List Task} (a : List Task × Nat) (h : t ∈ l) :
    ∃ n, t.woken cyc n ∈ (l.foldl (wakeOne cyc) a).1 := by
  have kept (l : List Task) (a : List Task × Nat) {x : Task} (hx : x ∈ a.1) : x ∈ (l.foldl (wakeOne cyc) a).1 := by
    induction l generalizing a with
    | nil => exact hx
    | cons u l ih => exact ih _ (by rw [wakeOne_fst]; exact List.mem_append_left _ hx)
  induction l generalizing a with
  | nil => cases h
  | cons u l ih =>
    rcases List.mem_cons.mp h with rfl | h
    · exact ⟨a.2, kept l _ (by rw [wakeOne_fst]; simp)⟩
    · exact ih _ h

theorem Pkg.wakeTasks_mem {p : Pkg} {io : Nat} {t : Task} (h : t ∈ (p.io io).tasks) :
    ∃ n, t.woken p.cyc n ∈ ((p.wakeTasks io).io io).tasks := by
  obtain ⟨n, hn⟩ := woken_mem_foldl p.cyc ([], p.nextSeq) h
  refine ⟨n, ?_⟩
  rw [p.wakeTasks_io]
  exact hn

theorem Pkg.wakeTasks_aliases (p : Pkg) (io : Nat) : ((p.wakeTasks io).io io).aliases = (p.io io).aliases := by
  rw [p.wakeTasks_io]

theorem Pkg.wakeTasks_mem_same (p : Pkg) (io : Nat) : (p.wakeTasks io).mem = p.mem := p.setIo_mem io _

/-- A task newly entered, READY exactly where nothing holds it back. -/
theorem Task.woken_ready {t : Task} (h : t.state = .taken) (cyc n : Nat) :
    (t.woken cyc n).state = .ready ↔ (t.woken cyc n).after = [] ∧ (t.woken cyc n).afterAlias = [] := by
  unfold Task.woken
  split
  · next free => exact ⟨fun _ => ⟨List.isEmpty_iff.mp free.2.1, List.isEmpty_iff.mp free.2.2⟩, fun _ => rfl⟩
  · next held =>
    refine ⟨fun e => absurd (h.symm.trans e) (by decide), fun ⟨a, b⟩ => absurd ⟨h, ?_, ?_⟩ held⟩
    · exact List.isEmpty_iff.mpr a
    · exact List.isEmpty_iff.mpr b

theorem Task.woken_record (t : Task) (cyc n : Nat) :
    (t.woken cyc n).handle = t.handle ∧ (t.woken cyc n).words = t.words ∧ (t.woken cyc n).header = t.header := by
  unfold Task.woken
  split <;> exact ⟨rfl, rfl, rfl⟩

/-- R373: a record taken stands in the table with its handle, words and header, READY where nothing holds it back. -/
theorem Pkg.enterTask_entered (p : Pkg) (io q i : Nat) (h : Word) (k : Taken) :
    ∃ x ∈ ((p.enterTask io q i h k).io io).tasks, x.handle = h ∧ x.words = k.words.map word ∧ x.header = k.header
      ∧ (x.state = .ready ↔ x.after = [] ∧ x.afterAlias = []) := by
  have entered : ∃ (x : IODie) (n : Nat) (t : Task), p.enterTask io q i h k = Pkg.wakeTasks { p.setIo io x with nextSeq := n } io
      ∧ x.tasks = (p.io io).tasks ++ [t] ∧ t.state = .taken ∧ t.handle = h ∧ t.words = k.words.map word
      ∧ t.header = k.header := ⟨_, _, _, rfl, rfl, rfl, rfl, rfl, rfl⟩
  obtain ⟨x, n, t, e, tasks, state, handle, words, header⟩ := entered
  have ht : t ∈ (Pkg.io { p.setIo io x with nextSeq := n } io).tasks := by
    have mem : t ∈ x.tasks := by simp [tasks]
    rwa [← p.io_setIo io x] at mem
  obtain ⟨n, hn⟩ := Pkg.wakeTasks_mem ht
  obtain ⟨kh, kw, kd⟩ := t.woken_record (p.setIo io x).cyc n
  rw [e]
  exact ⟨_, hn, kh.trans handle, kw.trans words, kd.trans header, Task.woken_ready state _ _⟩

theorem takeRecord_entered {io q : Nat} {s : State} {sl : QSlot} {w : List Nat} {k : Taken} {p1 p2 : Pkg}
    (hio : io = 0 ∨ io = 9) (hs : s.pkg.slot q = some sl) (hm : sl.state = .mapped) (hr : sl.ready ≤ s.pkg.cyc)
    (hq : queueIo q = io) (hen : s.pkg.qEn q = true) (hne : sl.head ≠ sl.tail)
    (room : ((s.pkg.io io).tasks.filter (fun t => !t.darning)).length < 16384)
    (hw : s.pkg.qwords q ((s.pkg.qRing q 0).1 + 64 * (sl.head % 2 ^ (s.pkg.qRing q 0).2)) true 8 = .ok (w, p1))
    (hk : p1.readRecord q w = .ok (k, p2)) :
    Yields (.takeRecord io q) s (fun t => t.ctx = s.ctx ∧ ∃ x ∈ (t.pkg.io io).tasks,
      x.handle = word (2 ^ 62 + q * 2 ^ 32 + sl.head) ∧ x.words = k.words.map word ∧ x.header = k.header
      ∧ (x.state = .ready ↔ x.after = [] ∧ x.afterAlias = [])) := by
  have go : ¬ (sl.state ≠ .mapped ∨ s.pkg.cyc < sl.ready ∨ queueIo q ≠ io ∨ s.pkg.qEn q = false ∨ sl.head = sl.tail
      ∨ 16384 ≤ ((s.pkg.io io).tasks.filter (fun t => !t.darning)).length) := by
    simp only [hm, hq, hen, hne, not_or, not_lt, not_le, ne_eq, not_true_eq_false, not_false_eq_true, true_and]
    exact ⟨hr, Bool.noConfusion, room⟩
  have e : exec (.takeRecord io q) s = .next { s with
      pkg := (p2.advanceHead q).enterTask io q sl.head (word (2 ^ 62 + q * 2 ^ 32 + sl.head)) k } := by
    change execTakeRecord io q s = _
    rw [execTakeRecord, ioOf_eq hio]
    dsimp only
    rw [hs]
    dsimp only
    rw [if_neg go, hw]
    dsimp only
    rw [hk]
  exact ⟨_, e, rfl, Pkg.enterTask_entered _ _ _ _ _ _⟩

/-! ### Placement and promotion (R377 to R379) -/

theorem State.setCoreAt_foldl_pkg (s : State) (l : List Nat) (core : Nat → Nat) (f : State → Nat → Peer) :
    (l.foldl (fun u m => u.setCoreAt (core m) (f u m)) s).pkg = s.pkg := by
  induction l generalizing s with
  | nil => rfl
  | cons m l ih => exact (ih _).trans (s.setCoreAt_pkg _ _)


/-- A task as the scheduler places it (R378). -/
def Task.put (t : Task) (cores : List Nat) (bank : Nat) (alloc : Word) (seq : Nat) : Task :=
  { t with state := .placed, cores := cores, bank := bank, allocWord := alloc, started := [], ended := []
           yielded := [], joined := [], cls := t.ctlClass, seq := seq }

/-- The package once the READY task `k` is placed: its queue is the one its class served last. -/
def Pkg.placing (p : Pkg) (k : Task) (cores : List Nat) (bank : Nat) (alloc : Word) : Pkg :=
  let q := p.setTask k.handle (fun u => u.put cores bank alloc p.nextSeq)
  let x := q.io (handleIo k.handle)
  let q := q.setIo (handleIo k.handle) { x with served := assocSet k.cls k.queue x.served }
  { q with nextSeq := q.nextSeq + 1 }

theorem Pkg.placing_mem (p : Pkg) (k : Task) (cores : List Nat) (bank : Nat) (alloc : Word) :
    (p.placing k cores bank alloc).mem = p.mem :=
  (Pkg.setIo_mem _ _ _).trans (p.setTask_mem _ _)

theorem Pkg.placing_task {p : Pkg} {k : Task} (h : p.task k.handle = some k) (cores : List Nat) (bank : Nat) (alloc : Word) :
    (p.placing k cores bank alloc).task k.handle = some (k.put cores bank alloc p.nextSeq) := by
  have placed := Pkg.task_setTask_some (fun u => u.put cores bank alloc p.nextSeq) h fun _ => rfl
  exact (congrArg (fun x : IODie => x.tasks.find? _) (Pkg.io_setIo _ (handleIo k.handle) _)).trans placed

theorem taskPlace_placed {handle bank lfBase hBase : Nat} {cores : List Nat} {s : State} {k : Task}
    (hk : s.pkg.task (word handle) = some k) (hr : k.state = .ready) (hc : s.canPlace k cores bank lfBase hBase = true)
    (hn : s.taskCopies k.handle k.cores = [])
    (hf : (s.pkg.io (handleIo k.handle)).tasks.any
      (fun u => (s.pkg.io (handleIo k.handle)).goesBefore u k && s.canPlace u cores bank lfBase hBase) = false) :
    Yields (.taskPlace handle cores bank lfBase hBase) s (fun t => t.pkg.mem = s.pkg.mem ∧ ∃ x,
      t.pkg.task (word handle) = some x ∧ x.state = .placed ∧ x.cores = cores ∧ x.bank = bank ∧ x.started = []
      ∧ x.allocWord = k.alloc lfBase hBase) := by
  have go : ¬ (k.state ≠ .ready ∨ s.canPlace k cores bank lfBase hBase = false
      ∨ (s.taskCopies k.handle k.cores).any (fun c => cores.getD c.member 0 != c.owner || c.bank != bank) = true
      ∨ (s.pkg.io (handleIo k.handle)).tasks.any
        (fun u => (s.pkg.io (handleIo k.handle)).goesBefore u k && s.canPlace u cores bank lfBase hBase) = true) := by
    simp [hr, hc, hn, hf]
  have placed : ∃ t, exec (.taskPlace handle cores bank lfBase hBase) s = .next t
      ∧ t.pkg = s.pkg.placing k cores bank (k.alloc lfBase hBase) := by
    refine ⟨(List.range cores.length).foldl (fun u m => u.setCoreAt (cores.getD m 0)
      ((u.coreAt (cores.getD m 0)).setBankCtx bank (((u.coreAt (cores.getD m 0)).bankCtx bank).placedFor (cores.getD m 0) bank k m
        (k.alloc lfBase hBase)))) { s with pkg := s.pkg.placing k cores bank (k.alloc lfBase hBase) }, ?_, ?_⟩
    · change execTaskPlace handle cores bank lfBase hBase s = _
      rw [execTaskPlace, hk]
      dsimp only
      rw [if_neg go]
      rfl
    · exact State.setCoreAt_foldl_pkg _ _ _ _
  obtain ⟨t, e, et⟩ := placed
  have handle_eq : k.handle = word handle := Pkg.task_handle hk
  refine ⟨t, e, ?_, k.put cores bank (k.alloc lfBase hBase) s.pkg.nextSeq, ?_, rfl, rfl, rfl, rfl, rfl⟩
  · rw [et, Pkg.placing_mem]
  · rw [et, ← handle_eq]
    exact Pkg.placing_task (handle_eq ▸ hk) _ _ _

theorem taskPromote_promoted {handle : Nat} {s : State} {k : Task} (hk : s.pkg.task (word handle) = some k)
    (hr : k.state = .ready) (hc : 0 < k.cls) (ht : k.since + 2 ^ 20 ≤ s.pkg.cyc) :
    Yields (.taskPromote handle) s (fun t =>
      t.pkg.task (word handle) = some { k with cls := k.cls - 1, since := k.since + 2 ^ 20 } ∧ t.ctx = s.ctx) := by
  refine ⟨_, rfl, ?_, rfl⟩
  refine (Pkg.task_setTask_some _ hk fun t => ?_).trans (congrArg some (if_pos ⟨hr, hc, ht⟩))
  split <;> rfl

/-! ### The start of a strand (R376) -/

/-- `t` has the running context, the lane file, memory and the I/O dies of `s`. -/
def State.ReadAlike (s t : State) : Prop :=
  t.ctx = s.ctx ∧ t.core.lane = s.core.lane ∧ t.coreNo = s.coreNo ∧ t.pkg.mem = s.pkg.mem ∧ t.pkg.io0 = s.pkg.io0
    ∧ t.pkg.io9 = s.pkg.io9

theorem State.startAcquire_alike (s : State) (h : Word) : s.ReadAlike (s.startAcquire h) := by
  have observed : s.ReadAlike s.dropCache.observeBuffer := ⟨rfl, rfl, rfl, rfl, rfl, rfl⟩
  have raised (t : State) (k : Knot) (h : s.ReadAlike t) : s.ReadAlike (t.setKnotv k) := h
  unfold State.startAcquire State.acquire
  dsimp only
  split
  · exact ⟨rfl, rfl, rfl, rfl, rfl, rfl⟩
  · split
    · exact observed
    · exact raised _ _ observed

/-- Entries written one after another from `base` on. -/
theorem foldl_setIfInBounds_getD {α : Type} {n : Nat} (base : Nat) (z : α) (v : Vector α n) (count i : Nat) (hi : i < count) :
    ((List.range count).foldl (fun v i => v.setIfInBounds (base + i) z) v).getD (base + i) z = z := by
  induction count with
  | zero => omega
  | succ count ih =>
    rw [List.range_succ, List.foldl_append, List.foldl_cons, List.foldl_nil]
    generalize List.foldl _ v (List.range count) = u at ih ⊢
    by_cases e : i = count
    · subst e
      by_cases b : base + i < n <;> simp [Vector.getD, b]
    · have ne : base + count ≠ base + i := by omega
      simpa [Vector.getD, Array.getElem?_setIfInBounds_ne ne] using ih (by omega)

/-- The bases of a task's ranges go to g[8] and above. -/
theorem startBases_gAt (c : Ctx) (l : List Range) {n : Nat} (hn : n < 8) : (startBases c l).gAt n = c.gAt n := by
  have one (c : Ctx) (r : Range) : Ctx.gAt (if r.reg = 0 then c else c.setG (7 + r.reg) (word r.resolved)) n = c.gAt n := by
    split
    · rfl
    · next h => exact Ctx.gAt_setG_ne c (by omega) _
  unfold startBases
  induction l generalizing c with
  | nil => rfl
  | cons r l ih => exact (ih _).trans (one c r)

/-- `d` is `c` but for its general registers. -/
def Ctx.OnlyG (c d : Ctx) : Prop := d = { c with g := d.g }

theorem Ctx.OnlyG.trans {c d e : Ctx} (h : c.OnlyG d) (k : d.OnlyG e) : c.OnlyG e :=
  Eq.trans k (congrArg (fun x : Ctx => { x with g := e.g }) h)

theorem Ctx.setG_onlyG (c : Ctx) (n : Nat) (v : Word) : c.OnlyG (c.setG n v) := by
  unfold Ctx.setG
  split <;> rfl

theorem startBases_onlyG (c : Ctx) (l : List Range) : c.OnlyG (startBases c l) := by
  unfold startBases
  induction l generalizing c with
  | nil => rfl
  | cons r l ih =>
    refine Ctx.OnlyG.trans ?_ (ih _)
    dsimp only
    split
    · rfl
    · exact c.setG_onlyG _ _

/-- The context a strand starts with, its registers written in order. -/
theorem Task.startCtx_eq (t : Task) (p : Pkg) (k m : Nat) : ∃ (c : Ctx) (stack : Word),
    t.startCtx p k m = (((startBases ((((((c.setG 3 (word m)).setG 4 (word t.size)).setG 5 t.handle).setG 8
        (word (t.recWord 2))).setG 9 (word (t.recWord 3))).setG 10 (word (t.recWord 4))) (t.reads ++ t.writes)).setG 2
        stack).setG 6 (word (t.recWord 1))).setG 7 (word (p.recordOf t.handle))
      ∧ c.pc = word (t.recWord 0) ∧ c.estat = 2 ∧ c.taskh = t.handle ∧ c.holds = true ∧ c.tvec = word (p.qget t.queue 80 8)
      ∧ c.root = p.qRoot t.queue ∧ c.asn = p.qAsn t.queue ∧ c.alloc = t.allocWord ∧ c.bank = t.bank :=
  ⟨_, _, rfl, rfl, rfl, rfl, rfl, rfl, rfl, rfl, rfl, rfl⟩

theorem Task.startCtx_regs (t : Task) (p : Pkg) (k m : Nat) :
    (t.startCtx p k m).gAt 3 = word m ∧ (t.startCtx p k m).gAt 4 = word t.size ∧ (t.startCtx p k m).gAt 5 = t.handle
      ∧ (t.startCtx p k m).gAt 6 = word (t.recWord 1) := by
  obtain ⟨c, stack, e, -⟩ := t.startCtx_eq p k m
  rw [e]
  refine ⟨?_, ?_, ?_, ?_⟩ <;> simp [Ctx.gAt_setG_ne, Ctx.gAt_setG_same, startBases_gAt]

theorem Task.startCtx_fields (t : Task) (p : Pkg) (k m : Nat) :
    (t.startCtx p k m).pc = word (t.recWord 0) ∧ (t.startCtx p k m).estat = 2 ∧ (t.startCtx p k m).taskh = t.handle
      ∧ (t.startCtx p k m).holds = true ∧ (t.startCtx p k m).tvec = word (p.qget t.queue 80 8)
      ∧ (t.startCtx p k m).root = p.qRoot t.queue ∧ (t.startCtx p k m).asn = p.qAsn t.queue
      ∧ (t.startCtx p k m).alloc = t.allocWord ∧ (t.startCtx p k m).bank = t.bank := by
  obtain ⟨c, stack, e, fields⟩ := t.startCtx_eq p k m
  have only : c.OnlyG (t.startCtx p k m) := by
    rw [e]
    exact (((((((((c.setG_onlyG 3 _).trans (Ctx.setG_onlyG _ 4 _)).trans (Ctx.setG_onlyG _ 5 _)).trans
      (Ctx.setG_onlyG _ 8 _)).trans (Ctx.setG_onlyG _ 9 _)).trans (Ctx.setG_onlyG _ 10 _)).trans
      (startBases_onlyG _ _)).trans (Ctx.setG_onlyG _ 2 _)).trans (Ctx.setG_onlyG _ 6 _)).trans (Ctx.setG_onlyG _ 7 _)
  rw [only]
  exact fields

/-- The state in which member `m` of `k` has started on the core in focus, before the task notes it. -/
def State.started (s : State) (k : Task) (m : Nat) : State :=
  let p := s.coreAt s.coreNo
  let c := { k.startCtx s.pkg s.coreNo m with eventFlag := false }
  (s.setCoreAt s.coreNo ({ p with core := p.core.clearAlloc k.allocWord }.setBankCtx k.bank c)).inCtx s.coreNo k.bank
    (fun s => s.startAcquire k.handle)

theorem State.started_here (s : State) (k : Task) (m : Nat) (hb : k.bank = s.ctx.bank) :
    (s.started k m).ctx = { k.startCtx s.pkg s.coreNo m with eventFlag := false }
      ∧ (s.started k m).core.lane = (s.core.clearAlloc k.allocWord).lane
      ∧ (s.started k m).pkg.mem = s.pkg.mem ∧ ∀ h, (s.started k m).pkg.task h = s.pkg.task h := by
  obtain ⟨-, -, -, -, -, -, -, -, bank⟩ := k.startCtx_fields s.pkg s.coreNo m
  have own : (s.coreAt s.coreNo).core = s.core := congrArg Peer.core s.coreAt_self
  unfold State.started
  dsimp only
  rw [hb, State.setCoreAt_self_core, own]
  generalize hu : ({ s with ctx := { k.startCtx s.pkg s.coreNo m with eventFlag := false }, core := s.core.clearAlloc k.allocWord } : State) = u
  obtain ⟨ctx, lane, core, mem, io0, io9⟩ := u.startAcquire_alike k.handle
  have here : u.inCtx s.coreNo s.ctx.bank (fun s => s.startAcquire k.handle) = u.facingOf (u.startAcquire k.handle) := by
    have cn : s.coreNo = u.coreNo := hu ▸ rfl
    have bn : s.ctx.bank = u.ctx.bank := hu ▸ (bank.trans hb).symm
    rw [cn, bn]
    exact u.inCtx_self _ core
  rw [here]
  subst hu
  refine ⟨ctx, lane, mem, fun h => ?_⟩
  unfold Pkg.task Pkg.io
  rw [← io0, ← io9]
  rfl

/-- R24 and R47: in an allocation just cleared every entry is zero. -/
theorem Core.entry_cleared {k core : Core} {c : Ctx} (hl : k.lane = (core.clearAlloc c.alloc).lane) {e : Nat}
    (he : e < c.lfSize) : k.entry c e = Entry.zero := by
  unfold Core.entry
  rw [hl]
  exact foldl_setIfInBounds_getD _ _ _ _ _ he

theorem strandStart_started {handle m : Nat} {s : State} {k : Task} (hk : s.pkg.task (word handle) = some k)
    (hp : k.state = .placed) (hm : k.started.contains m = false) (hs : m < k.size) (hv : k.saves = [])
    (hq : k.cores.all (fun c => (s.coreAt c).core.clearOf k.allocWord) = true) (hc : k.cores.getD m 0 = s.coreNo)
    (hb : k.bank = s.ctx.bank) :
    Yields (.strandStart handle m) s (fun t =>
      t.ctx.pc = word (k.recWord 0) ∧ t.ctx.estat = 2 ∧ t.ctx.taskh = word handle ∧ t.ctx.holds = true
      ∧ t.ctx.gAt 3 = word m ∧ t.ctx.gAt 4 = word k.size ∧ t.ctx.gAt 5 = word handle ∧ t.ctx.gAt 6 = word (k.recWord 1)
      ∧ t.ctx.tvec = word (s.pkg.qget k.queue 80 8) ∧ t.ctx.root = s.pkg.qRoot k.queue ∧ t.ctx.asn = s.pkg.qAsn k.queue
      ∧ t.pkg.mem = s.pkg.mem ∧ (∀ e, e < t.ctx.lfSize → t.entry e = Entry.zero)
      ∧ t.pkg.task (word handle) = some (k.noteStart m)) := by
  have go : ¬ (k.state ≠ .placed ∨ k.started.contains m = true ∨ k.size ≤ m ∨ k.saves.isEmpty = false
      ∨ k.cores.all (fun c => (s.coreAt c).core.clearOf k.allocWord) = false) := by
    have lt : ¬ k.size ≤ m := not_le.mpr hs
    simp only [hp, hm, hv, hq, lt]
    simp
  have handle_eq : k.handle = word handle := Pkg.task_handle hk
  have e : exec (.strandStart handle m) s = .next { s.started k m with
      pkg := (s.started k m).pkg.setTask k.handle (fun t => t.noteStart m) } := by
    change execStrandStart handle m s = _
    rw [execStrandStart, hk]
    dsimp only
    rw [if_neg go, hc]
    rfl
  obtain ⟨ctx, lane, mem, task⟩ := s.started_here k m hb
  obtain ⟨pc, estat, taskh, holds, tvec, root, asn, alloc, bank⟩ := k.startCtx_fields s.pkg s.coreNo m
  obtain ⟨g3, g4, g5, g6⟩ := k.startCtx_regs s.pkg s.coreNo m
  refine ⟨_, e, ?_⟩
  have noted : (s.started k m).pkg.task (word handle) = some k := (task _).trans hk
  generalize k.startCtx s.pkg s.coreNo m = c at ctx pc estat taskh holds g3 g4 g5 g6 tvec root asn alloc
  dsimp only
  rw [ctx]
  refine ⟨pc, estat, taskh.trans handle_eq, holds, g3, g4, g5.trans handle_eq, g6, tvec, root, asn, ?_, fun e he => ?_, ?_⟩
  · rw [Pkg.setTask_mem, mem]
  · exact Core.entry_cleared (core := s.core) (lane.trans (by rw [← alloc])) he
  · rw [handle_eq]
    exact Pkg.task_setTask_some _ noted fun t => rfl

/-! ### Aliases (R375) -/

/-- The table without an alias, which no task waits for any longer. -/
def IODie.without (x : IODie) (a : Alias) : IODie :=
  { x with aliases := x.aliases.filter (fun b => b.id != a.id)
           tasks := x.tasks.map (fun t => { t with afterAlias := t.afterAlias.filter (fun i => i != a.id) }) }

theorem aliasRetire_superseded {io index : Nat} {s : State} {x : Alias} (hio : io = 0 ∨ io = 9)
    (hx : (s.pkg.io io).aliases[index]? = some x) (hs : x.superseded = true) (hd : (s.pkg.io io).aliasDone x = true) :
    Yields (.aliasRetire io index) s (fun t =>
      (t.pkg.io io).aliases = (s.pkg.io io).aliases.filter (fun y => y.id != x.id) ∧ t.pkg.mem = s.pkg.mem) := by
  have go : ¬ ((s.pkg.io io).aliasDone x = false ∨ (!x.superseded && !s.pkg.canAdvance io) = true) := by simp [hs, hd]
  have e : exec (.aliasRetire io index) s =
      .next { s with pkg := (s.pkg.setIo io ((s.pkg.io io).without x)).wakeTasks io } := by
    change execAliasRetire io index s = _
    rw [execAliasRetire, ioOf_eq hio]
    dsimp only
    rw [hx]
    dsimp only
    rw [if_neg go, if_pos hs]
    rfl
  refine ⟨_, e, ?_, ?_⟩
  · rw [Pkg.wakeTasks_aliases, Pkg.io_setIo]
    rfl
  · rw [Pkg.wakeTasks_mem_same, Pkg.setIo_mem]

/-! ### Events that find nothing to do -/

theorem exec_spawnRecordAccept_none {io : Nat} {s : State} (h : (s.pkg.io io).spawns = []) (hio : io = 0 ∨ io = 9) :
    exec (.spawnRecordAccept io) s = .next s := by
  change execSpawnRecordAccept io s = _
  rw [execSpawnRecordAccept, ioOf_eq hio]
  dsimp only
  rw [h]

theorem exec_takeRecord_none {io q : Nat} {s : State} (h : s.pkg.slot q = none) : exec (.takeRecord io q) s = .next s := by
  change execTakeRecord io q s = _
  rw [execTakeRecord]
  dsimp only
  rw [h]

theorem exec_taskPlace_of_not_ready {handle bank lfBase hBase : Nat} {cores : List Nat} {s : State} {k : Task}
    (hk : s.pkg.task (word handle) = some k) (h : k.state ≠ .ready) :
    exec (.taskPlace handle cores bank lfBase hBase) s = .next s := by
  change execTaskPlace handle cores bank lfBase hBase s = _
  rw [execTaskPlace, hk]
  exact congrArg _ (if_pos (.inl h))

theorem exec_strandStart_of_not_placed {handle m : Nat} {s : State} {k : Task}
    (hk : s.pkg.task (word handle) = some k) (h : k.state ≠ .placed) : exec (.strandStart handle m) s = .next s := by
  change execStrandStart handle m s = _
  rw [execStrandStart, hk]
  exact congrArg _ (if_pos (.inl h))

theorem exec_aliasRetire_none {io index : Nat} {s : State} (hio : io = 0 ∨ io = 9)
    (h : (s.pkg.io io).aliases[index]? = none) : exec (.aliasRetire io index) s = .next s := by
  change execAliasRetire io index s = _
  rw [execAliasRetire, ioOf_eq hio]
  dsimp only
  rw [h]

end Sys2Proof.Machine

section

open Sys2Proof.Machine

/-- Settles O41: each event by its own lemma, `spawnRecord_answered`, `takeRecord_entered`, `taskPlace_placed`,
`taskPromote_promoted`, `strandStart_started` and `aliasRetire_superseded`. -/
theorem ioDiesTakePlaceAndStartTasks : Obligations.IoDiesTakePlaceAndStartTasks := by
  unfold Obligations.IoDiesTakePlaceAndStartTasks
  refine ⟨?_, fun io s h hio => ⟨s, exec_spawnRecordAccept_none h hio, rfl⟩, fun io q s hio => ⟨?_, ?_⟩,
    fun handle bank lfBase hBase cores s k hk => ⟨?_, ?_, ?_⟩, fun handle m s k hk => ⟨?_, ?_⟩,
    fun io index s hio => ⟨?_, ?_⟩⟩
  · exact fun io s r rest hio hx hc hb hr hh ht hd hp => spawnRecord_answered hio hx hc hb hr hh ht hd hp
  · exact fun h => ⟨s, exec_takeRecord_none h, rfl⟩
  · exact fun sl w k p1 p2 hs hm hr hq hen hne room hw hk => takeRecord_entered hio hs hm hr hq hen hne room hw hk
  · exact fun h => ⟨s, exec_taskPlace_of_not_ready hk h, rfl⟩
  · exact taskPlace_placed hk
  · exact taskPromote_promoted hk
  · exact fun h => ⟨s, exec_strandStart_of_not_placed hk h, rfl⟩
  · exact strandStart_started hk
  · exact fun h => ⟨s, exec_aliasRetire_none hio h, rfl⟩
  · exact fun x => aliasRetire_superseded hio

end

/-! SUPPORT. The TASK instructions (R122 to R128) and the rendezvous of their teams (R107, R125, R127, R377). -/

namespace Sys2Proof.Machine

open Sys2Proof.Safety Sys2Proof.Claims

/-! ### What an access and a release leave of a strand (R279, R294, R335) -/

/-- `s` but for what an access or a release can change, taken from `t`: the package, what the core keeps of memory, and
the strand's own releasing fences. -/
def State.movedFrom (s t : State) : State :=
  { s with ctx := { s.ctx with fences := t.ctx.fences }
           core := { t.core with die := s.core.die, idx := s.core.idx }
           pkg := t.pkg }

def Moved (s t : State) : Prop := t = s.movedFrom t

theorem Moved.refl (s : State) : Moved s s := rfl

theorem Moved.trans {s t u : State} (h : Moved s t) (k : Moved t u) : Moved s u := by
  have e : t.movedFrom u = (s.movedFrom t).movedFrom u := congrArg (fun x => x.movedFrom u) h
  exact Eq.trans k e

theorem Moved.same {s t : State} (h : Moved s t) {α : Type} (f : State → α) (hf : ∀ x, f (s.movedFrom x) = f s) :
    f t = f s := by
  rw [h]
  exact hf t

theorem Moved.coreNo {s t : State} (h : Moved s t) : t.coreNo = s.coreNo := h.same State.coreNo (fun _ => rfl)

theorem Moved.die {s t : State} (h : Moved s t) : t.core.die = s.core.die := h.same (fun t => t.core.die) (fun _ => rfl)

theorem Moved.vacated {s t : State} (h : Moved s t) : t.ctx.vacated = s.ctx.vacated :=
  h.same (fun t => t.ctx.vacated) (fun _ => rfl)

theorem Moved.facing {s t : State} (h : Moved s t) : s.facingOf t = t := by
  rw [h]
  rfl

theorem State.translate_moved {s u : State} {which : TlbKind} {va : Nat} {k : Acc} {tr : Trans}
    (h : s.translate which va k = .ok (tr, u)) : Moved s u := by
  have filled (t : Tlb) (p : Pkg) : Moved s { s with pkg := p, core := s.core.fill t which } := by
    cases which <;> rfl
  unfold State.translate at h
  dsimp only at h
  split at h
  · cases h
  · split at h
    · split at h
      · cases h; exact Moved.refl s
      · cases h
    · split at h
      · split at h
        · cases h; exact filled _ s.pkg
        · cases h
      · split at h
        · cases h
        · cases h; exact filled _ _

theorem State.releaseGo_moved (s : State) (m : Nat) : Moved s (s.releaseGo m).1 := by
  unfold State.releaseGo
  dsimp only
  split
  · rfl
  · split
    · rfl
    · split <;> rfl

theorem State.fenceDone_moved (s : State) : Moved s s.fenceDone := rfl

theorem State.fenceGo_moved (s : State) (n : Nat) : Moved s (s.fenceGo n) := by
  induction n generalizing s with
  | zero => exact Moved.refl s
  | succ n ih =>
    unfold State.fenceGo
    split
    · exact Moved.refl s
    · next m _ _ =>
      have gone := s.releaseGo_moved m
      split
      · next t e =>
        rw [e] at gone
        exact (gone.trans t.fenceDone_moved).trans (ih _)
      · next t e =>
        rw [e] at gone
        exact gone

theorem State.fenced_moved {s t : State} (h : s.fenced = .ok t) : Moved s t := by
  unfold State.fenced at h
  dsimp only at h
  split at h
  · cases h
    exact s.fenceGo_moved _
  · cases h

theorem State.release_moved {s r : State} {scope : Nat} (h : s.release scope = .ok r) : Moved s r := by
  unfold State.release at h
  cases hf : s.fenced with
  | error e =>
    rw [hf] at h
    cases h
  | ok u =>
    rw [hf] at h
    change (match u.releaseGo (u.mechanism scope) with
      | (t, true) => Except.ok t
      | (t, false) => Except.error (Stop.waitIn t 1)) = Except.ok r at h
    have gone := u.releaseGo_moved (u.mechanism scope)
    split at h
    · next t e =>
      cases h
      rw [e] at gone
      exact (State.fenced_moved hf).trans gone
    · cases h

theorem State.trip_moved (s : State) (home : Nat) : Moved s (s.trip home) := by
  unfold State.trip
  split <;> rfl

/-! ### The record of a spawn, read as one load (R123) -/

/-- A fold that leaves the empty list alone exactly for the elements that keep `P`. -/
theorem foldl_eq_nil_iff {α γ : Type} {f : List α → γ → List α} {P : γ → Prop}
    (hf : ∀ o c, f o c = [] ↔ o = [] ∧ P c) (l : List γ) (o : List α) : l.foldl f o = [] ↔ o = [] ∧ ∀ c ∈ l, P c := by
  induction l generalizing o with
  | nil => simp
  | cons c l ih => rw [List.foldl_cons, ih, hf, List.forall_mem_cons, and_assoc]

theorem assocSet_ne_nil {β : Type} (a : Nat) (v : β) (l : List (Nat × β)) : assocSet a v l ≠ [] := by
  cases l with
  | nil => exact List.cons_ne_nil _ _
  | cons k l =>
    unfold assocSet
    split <;> exact List.cons_ne_nil _ _

/-- No buffered write holds one of n bytes from pa on. -/
def Pkg.Unbuffered (p : Pkg) (cl pa n : Nat) : Prop :=
  ∀ e ∈ p.buffer cl, ∀ b ∈ e.bytes, ¬ (pa ≤ b.1 ∧ b.1 < pa + n)

theorem Pkg.overlay_eq_nil_iff (p : Pkg) (cl pa n : Nat) : p.overlay cl pa n = [] ↔ p.Unbuffered cl pa n := by
  have byte (e : FwdEntry) (o : List (Nat × Byte × Byte)) (b : Nat × Byte) :
      (if pa ≤ b.1 ∧ b.1 < pa + n then laidOver e.masks o b else o) = [] ↔ o = [] ∧ ¬ (pa ≤ b.1 ∧ b.1 < pa + n) := by
    split
    · next h => exact ⟨fun k => absurd k (assocSet_ne_nil _ _ _), fun k => absurd h k.2⟩
    · next h => exact ⟨fun k => ⟨k, h⟩, And.left⟩
  unfold Pkg.overlay
  rw [foldl_eq_nil_iff (fun o e => foldl_eq_nil_iff (byte e) e.bytes o)]
  exact ⟨And.right, fun h => ⟨rfl, h⟩⟩

theorem overlaid_nil (m : Memory) (pa n : Nat) : overlaid m [] pa n = m.readLE pa n := by
  induction n generalizing pa with
  | zero => rfl
  | succ n ih => exact congrArg (fun x => (m.read pa).toNat + 256 * x) (ih (pa + 1))

/-- `t` is `s` after reads that touched SRAM banks (R252). -/
def Touched (s t : State) : Prop :=
  t = { s with pkg := { s.pkg with dies := t.pkg.dies }, core := { s.core with freeze := t.core.freeze } }

theorem Touched.trans {s t u : State} (h : Touched s t) (k : Touched t u) : Touched s u := by
  have e : ({ t with pkg := { t.pkg with dies := u.pkg.dies }, core := { t.core with freeze := u.core.freeze } } : State) =
      { s with pkg := { s.pkg with dies := u.pkg.dies }, core := { s.core with freeze := u.core.freeze } } :=
    congrArg (fun x : State => { x with pkg := { x.pkg with dies := u.pkg.dies }
                                        core := { x.core with freeze := u.core.freeze } }) h
  exact Eq.trans k e

theorem Touched.same {s t : State} (h : Touched s t) {α : Type} (f : State → α)
    (hf : ∀ (d : Vector Die 10) (z : Freeze),
      f { s with pkg := { s.pkg with dies := d }, core := { s.core with freeze := z } } = f s) : f t = f s := by
  rw [h]
  exact hf _ _

theorem State.touchSram_touched (s : State) (pa lag : Nat) : Touched s (s.touchSram pa lag) := by
  have die : (s.pkg.touchSram pa).1 = { s.pkg with dies := (s.pkg.touchSram pa).1.dies } := by
    unfold Pkg.touchSram
    dsimp only
    split <;> rfl
  unfold State.touchSram
  dsimp only
  rw [die]
  split <;> rfl

theorem State.trip_touched (s : State) (home : Nat) : Touched s (s.trip home) := by
  unfold State.trip
  split
  · rfl
  · rw [s.pkg.trip_dies]
    rfl

theorem State.readDirect_clear {s : State} {pa n : Nat} (hb : s.pkg.Unbuffered (clusterOf s.coreNo) pa n)
    (hp : s.pkg.poisonIn pa n = []) : ∃ t, s.readDirect pa n = (littleAt s.pkg pa n, false, t) ∧ Touched s t := by
  have none : s.pkg.overlay (clusterOf s.coreNo) pa n = [] := (s.pkg.overlay_eq_nil_iff _ _ _).mpr hb
  refine ⟨_, ?_, s.touchSram_touched pa 20⟩
  unfold State.readDirect Pkg.readPoison
  dsimp only
  rw [none, overlaid_nil, hp, ← readAt_eq_littleAt]
  rfl

/-- One doubleword of a spawn record. -/
def spawnStep (pa : Nat) (acc : Option (List Word × State)) (i : Nat) : Option (List Word × State) :=
  match acc with
  | none => none
  | some (l, s) =>
    let (x, bad, s1) := s.readDirect (pa + 8 * i) 8
    if bad then none else some (l ++ [word x], s1)

theorem State.spawnWords_clear {s : State} {pa : Nat} (hb : s.pkg.Unbuffered (clusterOf s.coreNo) pa 64)
    (hp : s.pkg.poisonIn pa 64 = []) :
    ∃ t, s.spawnWords pa = some ((List.range 8).map (fun i => word (littleAt s.pkg (pa + 8 * i) 8)), t) ∧ Touched s t := by
  have upTo (n : Nat) (hn : n ≤ 8) : ∃ t, (List.range n).foldl (spawnStep pa) (some ([], s)) =
      some ((List.range n).map (fun i => word (littleAt s.pkg (pa + 8 * i) 8)), t) ∧ Touched s t := by
    induction n with
    | zero => exact ⟨s, rfl, rfl⟩
    | succ n ih =>
      obtain ⟨t, e, h⟩ := ih (by omega)
      have bytes : t.pkg.Unbuffered (clusterOf t.coreNo) (pa + 8 * n) 8 := by
        rw [h]
        intro e he b hb' hr
        exact hb e he b hb' (by omega)
      have clean : t.pkg.poisonIn (pa + 8 * n) 8 = [] := by
        rw [h]
        unfold Pkg.poisonIn at hp ⊢
        rw [List.filter_eq_nil_iff] at hp ⊢
        intro w hw hr
        refine hp w hw ?_
        simp only [decide_eq_true_eq] at hr ⊢
        omega
      obtain ⟨u, eu, hu⟩ := State.readDirect_clear bytes clean
      refine ⟨u, ?_, h.trans hu⟩
      have same : littleAt t.pkg (pa + 8 * n) 8 = littleAt s.pkg (pa + 8 * n) 8 :=
        h.same (fun t => littleAt t.pkg (pa + 8 * n) 8) (fun _ _ => rfl)
      rw [List.range_succ, List.foldl_append, e, List.map_append]
      simp only [List.foldl_cons, List.foldl_nil, List.map_cons, List.map_nil, spawnStep, eu, same]
      rfl
  exact upTo 8 (le_refl 8)

/-! ### tspawn (R123) -/

theorem tspawn_released {d a b : BitVec 6} {s u r : State} {tr : Trans} {h : Nat} (ha : (s.gr a).toNat % 64 = 0)
    (ht : s.translate .l1 (s.gr a).toNat .read = .ok (tr, u)) (hm : tr.tlb.mt ≠ 4)
    (hi : s.interlocked (s.gr a).toNat 64 false = false) (hh : u.pkg.homeOf tr.pa = some h)
    (hg : u.pkg.homeGone tr.pa = false) (hu : s.underWay .released = none) (hr : u.release 5 = .ok r) :
    exec (.tspawn d a b) s = finish s (if r.pkg.homeReady s.core.die h r.core.knotv
      then (r.trip h).sendSpawn d b (s.gr a) tr.pa
      else .error (.waitIn (r.markReleased (s.gr a).toNat tr.pa 64) 1)) := by
  have die : r.core.die = s.core.die := ((State.translate_moved ht).trans (State.release_moved hr)).die
  have way : u.underWay .released = none := by
    unfold State.underWay
    rw [State.translate_frame ht]
    exact hu
  have reached : s.reachScalar (s.gr a) .read = .ok (tr, h, u) := by
    unfold State.reachScalar
    rw [ht]
    dsimp only
    rw [hh]
    rfl
  have allowed : mtAllows (tr.tlb.mt != 4) (s.gr a) = .ok () := by simp [mtAllows, hm]
  have locked : s.interlock (s.gr a).toNat 64 false = .ok () := by simp [State.interlock, hi]
  rw [← die]
  change execTspawn d a b s = _
  unfold execTspawn
  dsimp only
  rw [finish_bind_ok (m := aligned (s.gr a) 64) (if_pos ha), finish_bind_ok reached]
  dsimp only
  rw [finish_bind_ok allowed, finish_bind_ok locked]
  rw [hg, way]
  exact finish_bind_ok hr

/-- The request that carries a spawn record's words to its queue's I/O die. -/
def State.spawnReq (s : State) (d b : BitVec 6) (l : List Word) : SpawnReq :=
  { core := s.coreNo, bank := s.ctx.bank, dest := d.toNat, queue := (s.gr b).toNat
    group := if s.ctx.taskh = 0 then 0 else s.pkg.qGroup (bits s.ctx.taskh 47 32), words := l
    handle := s.ctx.taskh, tag := s.nextTag }

/-- What the strand keeps of it until its answer comes. -/
def State.spawnPending (s : State) (d : BitVec 6) (va : Word) (pa : Nat) : Pending :=
  { kind := .spawn, tag := s.nextTag, va := va.toNat, pa := pa, size := 64, overlay := [], fill := none
    since := s.pkg.cyc, answer := none, dest := d.toNat, issued := true }

theorem State.sendSpawn_eq {s s1 : State} {d b : BitVec 6} {va : Word} {pa : Nat} {l : List Word}
    (h : s.spawnWords pa = some (l, s1)) : ∃ t, s.sendSpawn d b va pa = .ok t ∧ t.stalled = s1.stalled ∧ t.ctx.g = s1.ctx.g
      ∧ t.pkg.mem = s1.pkg.mem ∧ t.ctx.pending = s1.ctx.pending ++ [s.spawnPending d va pa]
      ∧ (t.pkg.io (queueIo (s.gr b).toNat)).spawns = (s1.pkg.io (queueIo (s.gr b).toNat)).spawns ++ [s.spawnReq d b l] := by
  unfold State.sendSpawn
  rw [h]
  exact ⟨_, rfl, rfl, rfl, Pkg.setIo_mem _ _ _, rfl, congrArg IODie.spawns (Pkg.io_setIo _ _ _)⟩

/-- R123: the record sent to the queue's I/O die, and the destination left pending. -/
theorem State.sendSpawn_clear {s : State} (d b : BitVec 6) (va : Word) {pa : Nat}
    (hb : s.pkg.Unbuffered (clusterOf s.coreNo) pa 64) (hp : s.pkg.poisonIn pa 64 = []) :
    ∃ t, s.sendSpawn d b va pa = .ok t ∧ t.stalled = s.stalled ∧ t.ctx.g = s.ctx.g
      ∧ t.pkg.mem = s.pkg.mem ∧ t.ctx.pending = s.ctx.pending ++ [s.spawnPending d va pa]
      ∧ (t.pkg.io (queueIo (s.gr b).toNat)).spawns = (s.pkg.io (queueIo (s.gr b).toNat)).spawns
        ++ [s.spawnReq d b ((List.range 8).map (fun i => word (littleAt s.pkg (pa + 8 * i) 8)))] := by
  obtain ⟨s1, words, h⟩ := State.spawnWords_clear hb hp
  obtain ⟨t, e, stalled, g, mem, pending, spawns⟩ := State.sendSpawn_eq (d := d) (b := b) (va := va) words
  refine ⟨t, e, stalled.trans (h.same State.stalled fun _ _ => rfl), g.trans (h.same (fun t => t.ctx.g) fun _ _ => rfl),
    mem.trans (h.same (fun t => t.pkg.mem) fun _ _ => rfl), ?_, ?_⟩
  · rw [pending, h.same (fun t => t.ctx.pending) fun _ _ => rfl]
  · rw [spawns, h.same (fun t => (t.pkg.io (queueIo (s.gr b).toNat)).spawns) fun _ _ => rfl]

theorem tspawn_misaligned {d a b : BitVec 6} {s : State} (h : (s.gr a).toNat % 64 ≠ 0) :
    Yields (.tspawn d a b) s (fun t => Trapped s t 0x05 (s.gr a)) := by
  refine trapOut_yields ?_ (by decide)
  change execTspawn d a b s = _
  unfold execTspawn
  dsimp only
  rw [finish_bind_error (m := aligned (s.gr a) 64) (if_neg h)]
  rfl

theorem tspawn_waits {d a b : BitVec 6} {s u r : State} {tr : Trans} {h : Nat} (ha : (s.gr a).toNat % 64 = 0)
    (ht : s.translate .l1 (s.gr a).toNat .read = .ok (tr, u)) (hm : tr.tlb.mt ≠ 4)
    (hi : s.interlocked (s.gr a).toNat 64 false = false) (hh : u.pkg.homeOf tr.pa = some h)
    (hg : u.pkg.homeGone tr.pa = false) (hu : s.underWay .released = none) (hr : u.release 5 = .ok r)
    (way : r.pkg.homeReady s.core.die h r.core.knotv = false) :
    Yields (.tspawn d a b) s (fun t => t.stalled = true ∧ t.ctx.stallReason = 1 ∧ t.ctx.g = s.ctx.g ∧ t.pkg = r.pkg
      ∧ ∃ q ∈ t.ctx.pending, q.kind = .released) := by
  have moved : Moved s r := (State.translate_moved ht).trans (State.release_moved hr)
  have e := tspawn_released (d := d) (b := b) ha ht hm hi hh hg hu hr
  rw [way] at e
  exact ⟨_, e, rfl, rfl, moved.same (fun t => t.ctx.g) (fun _ => rfl), rfl, _,
    List.mem_append_right _ (List.mem_singleton_self _), rfl⟩

theorem tspawn_sends {d a b : BitVec 6} {s u r : State} {tr : Trans} {h : Nat} (ha : (s.gr a).toNat % 64 = 0)
    (ht : s.translate .l1 (s.gr a).toNat .read = .ok (tr, u)) (hm : tr.tlb.mt ≠ 4)
    (hi : s.interlocked (s.gr a).toNat 64 false = false) (hh : u.pkg.homeOf tr.pa = some h)
    (hg : u.pkg.homeGone tr.pa = false) (hu : s.underWay .released = none) (hr : u.release 5 = .ok r)
    (way : r.pkg.homeReady s.core.die h r.core.knotv = true) (hb : r.pkg.overlay (clusterOf s.coreNo) tr.pa 64 = [])
    (hp : r.pkg.poisonIn tr.pa 64 = []) :
    Yields (.tspawn d a b) s (fun t =>
      t.stalled = s.stalled ∧ t.ctx.g = s.ctx.g ∧ t.pkg.mem = r.pkg.mem ∧ ∃ (q : Pending) (x : SpawnReq),
      t.ctx.pending = r.ctx.pending ++ [q] ∧ q.kind = .spawn ∧ q.issued = true ∧ q.answer = none ∧ q.dest = d.toNat
      ∧ (t.pkg.io (queueIo (s.gr b).toNat)).spawns = (r.pkg.io (queueIo (s.gr b).toNat)).spawns ++ [x]
      ∧ x.queue = (s.gr b).toNat ∧ x.dest = d.toNat ∧ x.core = s.coreNo ∧ x.bank = s.ctx.bank ∧ x.tag = q.tag
      ∧ x.handle = s.ctx.taskh
      ∧ x.words = (List.range 8).map (fun i => word (littleAt r.pkg (tr.pa + 8 * i) 8))) := by
  have moved : Moved s (r.trip h) := ((State.translate_moved ht).trans (State.release_moved hr)).trans (r.trip_moved h)
  have tripped : Touched r (r.trip h) := r.trip_touched h
  have e := tspawn_released (d := d) (b := b) ha ht hm hi hh hg hu hr
  rw [way, if_pos rfl] at e
  have buffered : (r.trip h).pkg.Unbuffered (clusterOf (r.trip h).coreNo) tr.pa 64 := by
    rw [moved.coreNo, tripped]
    exact (r.pkg.overlay_eq_nil_iff _ _ _).mp hb
  have clean : (r.trip h).pkg.poisonIn tr.pa 64 = [] := by
    rw [tripped]
    exact hp
  obtain ⟨t, et, stalled, g, mem, pending, spawns⟩ := State.sendSpawn_clear d b (s.gr a) buffered clean
  rw [et] at e
  have gr : (r.trip h).gr b = s.gr b := moved.same (fun t => t.gr b) (fun _ => rfl)
  rw [gr] at spawns
  refine ⟨t, e, stalled.trans (moved.same State.stalled fun _ => rfl), g.trans (moved.same (fun t => t.ctx.g) fun _ => rfl),
    mem.trans (tripped.same (fun t => t.pkg.mem) fun _ _ => rfl), _, _,
    pending.trans (congrArg (· ++ _) (tripped.same (fun t => t.ctx.pending) fun _ _ => rfl)), rfl, rfl, rfl, rfl,
    spawns.trans (congrArg (· ++ _) (tripped.same (fun t => (t.pkg.io (queueIo (s.gr b).toNat)).spawns) fun _ _ => rfl)),
    congrArg BitVec.toNat gr, rfl, moved.coreNo, moved.same (fun t => t.ctx.bank) fun _ => rfl, rfl,
    moved.same (fun t => t.ctx.taskh) fun _ => rfl, ?_⟩
  exact tripped.same (fun t => (List.range 8).map (fun i => word (littleAt t.pkg (tr.pa + 8 * i) 8))) fun _ _ => rfl

/-! ### The end of a strand (R124, R377, R384, R385) -/

theorem State.inCtxWith_self_snd {α : Type} (s : State) (f : State → State × α) :
    (s.inCtxWith s.coreNo s.ctx.bank f).2 = (f s).2 := by
  unfold State.inCtxWith
  simp only [State.focusOn_self, if_true]

theorem State.releaseAll_moved {s u : State} (h : s.releaseAll [(s.coreNo, s.ctx.bank)] = (u, true)) : Moved s u := by
  have done := congrArg Prod.snd h
  have state := congrArg Prod.fst h
  unfold State.releaseAll at done state
  simp only [List.foldl_cons, List.foldl_nil, Bool.true_and, State.inCtxWith_self_snd] at done state
  cases hr : s.release 5 with
  | error e =>
    rw [hr] at done
    cases e <;> cases done
  | ok t =>
    have moved := State.release_moved hr
    rw [State.inCtxWith_self _ _ (by rw [hr]; exact moved.coreNo), hr] at state
    rw [← state]
    exact moved.facing.symm ▸ moved

/-- A change of the shared part of a core leaves the running context. -/
theorem State.setCoreAt_core_ctx (s : State) (k : Nat) (c : Core) :
    (s.setCoreAt k { s.coreAt k with core := c }).ctx = s.ctx := by
  unfold State.setCoreAt State.coreAt
  split <;> rfl

theorem State.endTask_ctx (s : State) (h : Word) (outcome cause member : Nat) :
    (s.endTask h outcome cause member).ctx = s.ctx := by
  have cores (l : List Nat) (s : State) : (l.foldl (fun s k => let x := s.coreAt k
      s.setCoreAt k { x with core := x.core.clearBars h }) s).ctx = s.ctx := by
    induction l generalizing s with
    | nil => rfl
    | cons k l ih => exact (ih _).trans (s.setCoreAt_core_ctx k _)
  unfold State.endTask
  split
  · rfl
  · exact cores _ _

theorem State.finishStopping_ctx (s : State) (h : Word) : (s.finishStopping h).ctx = s.ctx := by
  unfold State.finishStopping
  dsimp only
  split
  · rfl
  · split
    · exact State.endTask_ctx _ _ _ _ _
    · rfl

theorem State.memberEnded_ctx (s : State) (h : Word) (m : Nat) : (s.memberEnded h m).ctx = s.ctx := by
  unfold State.memberEnded
  dsimp only
  split
  · rfl
  · split
    · exact State.finishStopping_ctx _ _
    · split
      · exact State.endTask_ctx _ _ _ _ _
      · rfl

/-- R377: a member that ends while others are left, and while its task is not being stopped, is noted alone. -/
theorem State.memberEnded_task {s : State} {h : Word} {m : Nat} {k : Task} (hk : s.pkg.task h = some k)
    (hs : k.state ≠ .stopping) (hl : (insertNat m k.ended).length ≠ k.size) :
    (s.memberEnded h m).pkg.task h = some { k with ended := insertNat m k.ended } := by
  have noted := Pkg.task_setTask_some (fun t => { t with ended := insertNat m t.ended }) hk fun _ => rfl
  have size : Task.size { k with ended := insertNat m k.ended } = k.size := rfl
  unfold State.memberEnded
  dsimp only
  rw [noted]
  dsimp only
  rw [if_neg hs, if_neg (size ▸ hl)]
  exact noted

theorem State.onCopies_here (s : State) (f : List Copy → List Copy) :
    (s.onCopies s.coreNo f).ctx = s.ctx ∧ (s.onCopies s.coreNo f).coreNo = s.coreNo
      ∧ ∀ h, (s.onCopies s.coreNo f).pkg.task h = s.pkg.task h := by
  unfold State.onCopies
  dsimp only
  rw [State.coreAt_self]
  unfold State.setCoreAt
  rw [if_pos rfl]
  refine ⟨rfl, rfl, fun h => ?_⟩
  unfold Pkg.task Pkg.io
  split <;> rfl

theorem State.endStrand_here (s : State) :
    (s.endStrand s.coreNo s.ctx.bank).ctx = s.ctx.vacated
      ∧ ∀ h, (s.endStrand s.coreNo s.ctx.bank).pkg.task h = s.pkg.task h := by
  unfold State.endStrand
  dsimp only
  rw [State.bankCtx_coreAt_self]
  generalize hu : s.onCopies s.coreNo _ = u
  obtain ⟨ctx, core, task⟩ := hu ▸ s.onCopies_here _
  have bank : s.ctx.bank = u.ctx.bank := congrArg Ctx.bank ctx.symm
  rw [← core, bank, State.setCoreAt_self_core]
  split
  · exact ⟨rfl, task⟩
  · exact ⟨rfl, task⟩

theorem State.endStrands_here (s : State) : s.endStrands [(s.coreNo, s.ctx.bank)] =
    (s.endStrand s.coreNo s.ctx.bank).memberEnded s.ctx.taskh s.ctx.member := by
  unfold State.endStrands
  simp only [List.map_cons, List.map_nil, List.foldl_cons, List.foldl_nil, State.bankCtx_coreAt_self]

theorem State.endStrands_ctx (s : State) : (s.endStrands [(s.coreNo, s.ctx.bank)]).ctx = s.ctx.vacated := by
  rw [s.endStrands_here, State.memberEnded_ctx]
  exact s.endStrand_here.1

theorem State.endStrands_task {s : State} {k : Task} (hk : s.pkg.task s.ctx.taskh = some k) (hs : k.state ≠ .stopping)
    (hl : (insertNat s.ctx.member k.ended).length ≠ k.size) :
    (s.endStrands [(s.coreNo, s.ctx.bank)]).pkg.task s.ctx.taskh = some { k with ended := insertNat s.ctx.member k.ended } := by
  obtain ⟨-, task⟩ := s.endStrand_here
  rw [s.endStrands_here]
  exact State.memberEnded_task ((task _).trans hk) hs hl

/-! ### tend (R124, R382) -/

theorem State.endingStrands_alone {s : State} (h : s.ctx.gang = false) : s.endingStrands = [(s.coreNo, s.ctx.bank)] := by
  unfold State.endingStrands
  rw [h]
  rfl

/-- The package with the exit word of the running member written. -/
def State.exitPkg (s : State) (v : Word) : Pkg :=
  let p := match s.myTask with
    | some t =>
      if t.darning then s.pkg.qwrite t.queue (s.pkg.recordOf t.handle + 56) 8 v.toNat
      else s.pkg.qwrite t.queue (s.pkg.recordOf t.handle + 56 + 8 * s.ctx.member) 8 v.toNat
    | none => s.pkg
  p.setTask s.ctx.taskh (fun t => { t with exits := t.exits.set s.ctx.member v })

theorem State.exitPkg_task {s : State} {k : Task} (h : s.myTask = some k) (v : Word) :
    (s.exitPkg v).task s.ctx.taskh = some { k with exits := k.exits.set s.ctx.member v } := by
  have written (p : Pkg) (hp : s.pkg.TablesKept p) :
      (p.setTask s.ctx.taskh (fun t => { t with exits := t.exits.set s.ctx.member v })).task s.ctx.taskh =
        some { k with exits := k.exits.set s.ctx.member v } :=
    Pkg.task_setTask_some (fun t => { t with exits := t.exits.set s.ctx.member v }) ((hp.task _).trans h) fun _ => rfl
  unfold State.exitPkg
  rw [h]
  dsimp only
  split
  · exact written _ (Pkg.qwrite_tablesKept _ _ _ _ _)
  · exact written _ (Pkg.qwrite_tablesKept _ _ _ _ _)

/-- What `tend` leaves once its release has arrived, for the strands `who`. -/
def State.tendDone (s : State) (a : BitVec 6) (who : List (Nat × Nat)) : State :=
  if s.ctx.system then s.passByHandler else { s with pkg := s.exitPkg (s.gr a) }.endStrands who

theorem State.tendDone_ctx {s : State} (a : BitVec 6) (h : s.ctx.gang = false) :
    (s.tendDone a [(s.coreNo, s.ctx.bank)]).ctx = s.ctx.vacated := by
  unfold State.tendDone
  split
  · unfold State.passByHandler
    dsimp only
    rw [State.endingStrands_alone (s := s.passFault _ _ _ _ _ _) h]
    exact State.endStrands_ctx _
  · exact State.endStrands_ctx { s with pkg := s.exitPkg (s.gr a) }

theorem State.tendDone_task {s : State} {a : BitVec 6} {k : Task} (hu : s.ctx.system = false) (h : s.myTask = some k)
    (hs : k.state ≠ .stopping) (hl : (insertNat s.ctx.member k.ended).length ≠ k.size) :
    (s.tendDone a [(s.coreNo, s.ctx.bank)]).pkg.task s.ctx.taskh =
      some { k with exits := k.exits.set s.ctx.member (s.gr a), ended := insertNat s.ctx.member k.ended } := by
  unfold State.tendDone
  rw [hu]
  exact State.endStrands_task (s := { s with pkg := s.exitPkg (s.gr a) }) (s.exitPkg_task h _) hs hl

/-- The release of a `tend` has reached its queue's I/O die. -/
def State.tendArrived (s : State) : Bool := s.pkg.homeReady s.core.die (handleIo s.ctx.taskh) s.core.knotv

theorem tend_busy {a : BitVec 6} {s : State} (hs : s.ctx.system = false) (hb : s.trailerBusy = true) :
    exec (.tend a) s = stallOut s 1 := by
  change execTend a s = _
  unfold execTend
  dsimp only
  rw [if_pos ⟨hs, hb⟩]
  rfl

theorem tend_free {s : State} (hb : s.ctx.system = true ∨ s.trailerBusy = false) :
    ¬ (s.ctx.system = false ∧ s.trailerBusy = true) := by
  rintro ⟨user, busy⟩
  rcases hb with h | h
  · exact absurd (h.symm.trans user) (by decide)
  · exact absurd (h.symm.trans busy) (by decide)

theorem tend_released {a : BitVec 6} {s u : State} (hg : s.ctx.gang = false) (hw : s.underWay .released = none)
    (hr : s.releaseAll [(s.coreNo, s.ctx.bank)] = (u, true)) (hb : s.ctx.system = true ∨ s.trailerBusy = false) :
    exec (.tend a) s = (if u.tendArrived then .next (u.tendDone a [(s.coreNo, s.ctx.bank)])
      else stallOut (u.markReleased 0 0 0) 1) := by
  change execTend a s = _
  unfold execTend
  dsimp only
  rw [if_neg (tend_free hb), hw, State.endingStrands_alone hg, hr]
  dsimp only
  rw [if_neg (by decide)]
  unfold State.tendArrived
  split
  · rfl
  · rfl

theorem tend_arrived {a : BitVec 6} {s : State} {q : Pending} (hg : s.ctx.gang = false)
    (hw : s.underWay .released = some q) (ha : s.tendArrived = true) (hb : s.ctx.system = true ∨ s.trailerBusy = false) :
    exec (.tend a) s = .next ((s.settle q).tendDone a [(s.coreNo, s.ctx.bank)]) := by
  change execTend a s = _
  unfold execTend
  dsimp only
  rw [if_neg (tend_free hb), hw, State.endingStrands_alone hg]
  dsimp only
  unfold State.tendArrived at ha
  rw [if_pos ha]
  rfl

theorem tend_waits {a : BitVec 6} {s u : State} (hg : s.ctx.gang = false) (hw : s.underWay .released = none)
    (hr : s.releaseAll [(s.coreNo, s.ctx.bank)] = (u, true)) (hb : s.ctx.system = true ∨ s.trailerBusy = false)
    (ha : u.tendArrived = false) : Yields (.tend a) s (fun t => t.stalled = true ∧ t.ctx.stallReason = 1 ∧ t.ctx.g = u.ctx.g
      ∧ t.pkg = u.pkg ∧ ∃ q ∈ t.ctx.pending, q.kind = .released) := by
  have e := tend_released (a := a) hg hw hr hb
  rw [ha] at e
  exact ⟨_, e, rfl, rfl, rfl, rfl, _, List.mem_append_right _ (List.mem_singleton_self _), rfl⟩

theorem tend_ends {a : BitVec 6} {s u : State} (hg : s.ctx.gang = false) (hw : s.underWay .released = none)
    (hr : s.releaseAll [(s.coreNo, s.ctx.bank)] = (u, true)) (hb : s.ctx.system = true ∨ s.trailerBusy = false)
    (hc : u.coreNo = s.coreNo) (hk : u.ctx.bank = s.ctx.bank) (ha : u.tendArrived = true) :
    Yields (.tend a) s (fun t => t.ctx = u.ctx.vacated) := by
  have gang : u.ctx.gang = false := ((State.releaseAll_moved hr).same (fun t => t.ctx.gang) fun _ => rfl).trans hg
  have e := tend_released (a := a) hg hw hr hb
  rw [ha, if_pos rfl, ← hc, ← hk] at e
  exact ⟨_, e, State.tendDone_ctx a gang⟩

theorem tend_ends_settled {a : BitVec 6} {s : State} {q : Pending} (hg : s.ctx.gang = false)
    (hw : s.underWay .released = some q) (ha : s.tendArrived = true) (hb : s.ctx.system = true ∨ s.trailerBusy = false) :
    Yields (.tend a) s (fun t => t.ctx = s.ctx.vacated ∧ (s.ctx.system = false → ∀ k : Task,
      s.pkg.task s.ctx.taskh = some k → k.state ≠ .stopping → (insertNat s.ctx.member k.ended).length ≠ k.size → t.pkg.task s.ctx.taskh =
        some { k with exits := k.exits.set s.ctx.member (s.gr a), ended := insertNat s.ctx.member k.ended })) :=
  ⟨_, tend_arrived hg hw ha hb, State.tendDone_ctx (s := s.settle q) a hg, fun hu _ hk hs hl =>
    State.tendDone_task (s := s.settle q) hu hk hs hl⟩

/-! ### tyield, gjoin, gleave, tbank and trec (R125 to R128) -/

/-- A team instruction's wait: the member noted in its task by `f`, and the pair stalled. -/
theorem stallOut_waitFor {s : State} {k : Task} (kind : WaitKind) (f : Task → Task) (hk : s.myTask = some k)
    (hf : ∀ t, (f t).handle = t.handle) :
    ∃ t, stallOut (({ s with pkg := s.pkg.setTask s.ctx.taskh f }).waitFor kind 0 0 s.npc.toNat) 12 = .next t
      ∧ Waits s t ∧ (∃ w, t.ctx.wait = some w ∧ w.kind = kind) ∧ t.myTask = some (f k) :=
  ⟨_, rfl, ⟨rfl, rfl, rfl, rfl, rfl, s.pkg.setTask_mem _ _⟩, ⟨_, rfl, rfl⟩, Pkg.task_setTask_some f hk hf⟩

theorem tyield_waits {s : State} {k : Task} (hk : s.myTask = some k) :
    Yields .tyield s (fun t => Waits s t ∧ (∃ w, t.ctx.wait = some w ∧ w.kind = .tyield)
      ∧ t.myTask = some { k with yielded := insertNat s.ctx.member k.yielded }) := by
  obtain ⟨t, e, waits⟩ :=
    stallOut_waitFor .tyield (fun t => { t with yielded := insertNat s.ctx.member t.yielded }) hk fun _ => rfl
  refine ⟨t, ?_, waits⟩
  change execTyield s = _
  unfold execTyield
  rw [hk]
  exact e

theorem gjoin_waits {s : State} {k : Task} (hk : s.myTask = some k) (hg : k.isGang = true) :
    Yields .gjoin s (fun t => Waits s t ∧ (∃ w, t.ctx.wait = some w ∧ w.kind = .gjoin)
      ∧ t.myTask = some { k with joined := insertNat s.ctx.member k.joined }) := by
  obtain ⟨t, e, waits⟩ :=
    stallOut_waitFor .gjoin (fun t => { t with joined := insertNat s.ctx.member t.joined }) hk fun _ => rfl
  refine ⟨t, ?_, waits⟩
  have handle : k.handle = s.ctx.taskh := Pkg.task_handle hk
  change execGjoin s = _
  unfold execGjoin
  rw [hk]
  dsimp only
  rw [if_neg (by simp [hg]), handle]
  exact e

theorem gjoin_refused {s : State} (h : ∀ k, s.myTask = some k → k.isGang = false) :
    Yields .gjoin s (fun t => Trapped s t 0x07 0x30000) := by
  refine trapOut_yields ?_ (by decide)
  change execGjoin s = _
  unfold execGjoin
  split
  · rfl
  · next k hk => exact if_pos (h k hk)

theorem tyield_alone {s : State} (h : s.myTask = none) : exec .tyield s = .next s := by
  change execTyield s = _
  unfold execTyield
  rw [h]

theorem trec_free {d a : BitVec 6} {s : State} (h : s.myTask = none) :
    Yields (.trec d a) s (fun t => ∃ v, WroteG { s with free := s.free + 1 } t d v) := by
  have e : exec (.trec d a) s = .next (({ s with free := s.free + 1 } : State).setGr d (word (Config.choice s.free))) := by
    change execTrec d a s = _
    unfold execTrec
    rw [h]
    dsimp only
    unfold State.setGr
    split <;> rfl
  exact ⟨_, e, _, State.setGr_wroteG _ _ _⟩

theorem trec_word {d a : BitVec 6} {s : State} {k : Task} (h : s.myTask = some k) :
    Yields (.trec d a) s (fun t => WroteG s t d (k.words.getD ((s.gr a).toNat % 8) 0)) := by
  have low : bits (s.gr a) 2 0 = (s.gr a).toNat % 8 := by simp [bits]
  have e : exec (.trec d a) s = .next (s.setGr d (k.words.getD ((s.gr a).toNat % 8) 0)) := by
    change execTrec d a s = _
    unfold execTrec
    rw [h, ← low]
  exact ⟨_, e, State.setGr_wroteG _ _ _⟩

theorem tbank_switches (s : State) :
    exec .tbank s = .next { s with switch := s.switch || (s.other.ready && !s.ctx.gang) } := by
  change execTbank s = _
  unfold execTbank
  split
  · next h => rw [h, Bool.or_true]
  · next h => rw [Bool.not_eq_true _ |>.mp h, Bool.or_false]

theorem gleave_refused {s : State} (h : s.ctx.seqr = false) : Yields .gleave s (fun t => Trapped s t 0x07 0x30001) :=
  trapOut_yields (if_pos h) (by decide)

/-- A change of the strands of a task that has its one member here. -/
theorem State.forMembers_here {s : State} {f : State → State} (hh : s.ctx.holds = true) (hf : (f s).coreNo = s.coreNo) :
    s.forMembers s.ctx.taskh [s.coreNo] f = s.facingOf (f s) := by
  unfold State.forMembers
  rw [List.foldl_cons, List.foldl_nil, State.bankOf_self hh]
  exact s.inCtx_self f hf

/-- The task of a handle changed. -/
def State.onTask (s : State) (h : Word) (f : Task → Task) : State := { s with pkg := s.pkg.setTask h f }

/-- A member of a gang that leaves it, a follower to go on at `next` (R127). -/
def State.leftGang (next : Word) (s : State) : State :=
  let c := s.ctx
  { s with ctx := { c with
      team := setBit (setBit c.team 10 false) 11 false, follower := false
      pc := if c.follower then next else c.pc
      convoy := if c.follower then [] else c.convoy } }

theorem State.leftGang_team (s : State) (next : Word) :
    (s.leftGang next).ctx.gang = false ∧ (s.leftGang next).ctx.seqr = false := by
  have bit10 : (setBit (setBit s.ctx.team 10 false) 11 false).getLsbD 10 = false := by
    rw [getLsbD_setBit _ _ _ _ (by decide), if_neg (by decide), getLsbD_setBit _ _ _ _ (by decide), if_pos rfl]
  have bit11 : (setBit (setBit s.ctx.team 10 false) 11 false).getLsbD 11 = false := by
    rw [getLsbD_setBit _ _ _ _ (by decide), if_pos rfl]
  exact ⟨bit10, bit11⟩

theorem gleave_dissolves {s : State} {k : Task} (hk : s.myTask = some k) (hs : s.ctx.seqr = true) (hc : k.cores = [s.coreNo])
    (hh : s.ctx.holds = true) : Yields .gleave s (fun t =>
      t.ctx.gang = false ∧ t.ctx.seqr = false ∧ t.ctx.follower = false ∧ t.ctx.g = s.ctx.g
      ∧ t.myTask = some { k with gang := false, joined := [] }) := by
  have handle : k.handle = s.ctx.taskh := Pkg.task_handle hk
  have e : exec .gleave s = .next ((s.forMembers k.handle k.cores (State.leftGang s.npc)).onTask k.handle
      (fun t => { t with gang := false, joined := [] })) := by
    change execGleave s = _
    unfold execGleave
    rw [hk, if_neg (by simp [hs])]
    rfl
  rw [handle, hc, State.forMembers_here hh rfl] at e
  obtain ⟨gang, seqr⟩ := s.leftGang_team s.npc
  exact ⟨_, e, gang, seqr, rfl, rfl, Pkg.task_setTask_some (fun t => { t with gang := false, joined := [] }) hk fun _ => rfl⟩

/-! ### The rendezvous of tyield and gjoin (R107, R125, R127) -/

/-- A context whose wait is over stands at the address `w` it waited for. -/
def State.resumedAt (s : State) (w : WaitRec) : State :=
  { s with ctx := { s.ctx with
      wait := none, pc := word w.value, convoy := [], convoyWords := 0, chained := false, skip1 := false, skip2 := false
      stall := 0 } }

/-- The address lies just past the body of an active loop. -/
def Ctx.pastBody (c : Ctx) (at_ : Word) : Prop :=
  c.lc.getLsbD 42 = true ∧ at_ = c.first + word (4 * (c.lc.toNat / 2 ^ 32 % 2 ^ 6))

/-- `s` but for what the end of a wait, and of an iteration with it, writes in the context, taken from `t`. -/
def State.wentFrom (s t : State) : State :=
  { s with ctx := { s.ctx with
    wait := none, pc := t.ctx.pc, lc := t.ctx.lc, p := t.ctx.p, vrb := t.ctx.vrb
    convoy := [], convoyWords := 0, chained := false, skip1 := false, skip2 := false, stall := 0 } }

def WentOn (s t : State) : Prop := t = s.wentFrom t

theorem WentOn.same {s t : State} (h : WentOn s t) {α : Type} (f : State → α) (hf : ∀ x, f (s.wentFrom x) = f s) :
    f t = f s := by
  rw [h]
  exact hf t

theorem WentOn.wait {s t : State} (h : WentOn s t) : t.ctx.wait = none := congrArg (fun u : State => u.ctx.wait) h

theorem State.endIteration_ctx (s : State) : s.endIteration.ctx =
    { s.ctx with lc := s.endIteration.ctx.lc, p := s.endIteration.ctx.p, vrb := s.endIteration.ctx.vrb } := by
  by_cases h : runsAgain s
  · rw [State.endIteration_again h]
    rfl
  · rw [State.endIteration_leaves h]

theorem setBits_low_getLsbD (x : Word) (v : Nat) : (setBits x 31 0 v).getLsbD 42 = x.getLsbD 42 := by
  have value := setBits_toNat x 31 0 v (by decide) (by decide)
  rw [bits_lc_count] at value
  have high : (setBits x 31 0 v).toNat / 2 ^ 42 = x.toNat / 2 ^ 42 := by omega
  unfold BitVec.getLsbD
  rw [Nat.testBit_eq_decide_div_mod_eq, Nat.testBit_eq_decide_div_mod_eq, high]

theorem Ctx.startIteration_on (c : Ctx) : c.startIteration.lc.getLsbD 42 = c.lc.getLsbD 42 := by
  unfold Ctx.startIteration
  dsimp only
  split
  · exact setBits_low_getLsbD _ _
  · rfl

/-- R107: at the end of the body it runs again from `first`, or the loop is over and issue goes on after it. -/
theorem State.endIteration_goes {s : State} (h : s.ctx.lc.getLsbD 42 = true) :
    (s.endIteration.ctx.lc.getLsbD 42 = true ∧ s.endIteration.npc = s.ctx.first)
      ∨ (s.endIteration.ctx.lc.getLsbD 42 = false
        ∧ s.endIteration.npc = s.ctx.first + word (4 * (s.ctx.lc.toNat / 2 ^ 32 % 2 ^ 6))) := by
  by_cases again : runsAgain s
  · rw [State.endIteration_again again]
    exact .inl ⟨(Ctx.startIteration_on _).trans h, rfl⟩
  · rw [State.endIteration_leaves again]
    refine .inr ⟨?_, rfl⟩
    have off := getLsbD_setBit s.ctx.lc 42 false 42 (by decide)
    rwa [if_pos rfl, setBit_false] at off

/-- The state that has gone on from `u`, at an address past the body of a loop. -/
def State.wrapped (u : State) : State := { u with ctx := { u.endIteration.ctx with pc := u.endIteration.npc } }

theorem State.goOn_eq {s : State} {k : WaitKind} {w : WaitRec} (hw : s.ctx.wait = some w) (hk : w.kind = k) :
    (s.ctx.pastBody (word w.value) → s.goOn k = (s.resumedAt w).wrapped)
      ∧ (¬ s.ctx.pastBody (word w.value) → s.goOn k = s.resumedAt w) := by
  unfold State.goOn
  rw [hw]
  dsimp only
  rw [if_pos hk]
  exact ⟨fun h => if_pos h, fun h => if_neg h⟩

theorem State.goOn_wentOn {s : State} {k : WaitKind} {w : WaitRec} (hw : s.ctx.wait = some w) (hk : w.kind = k) :
    WentOn s (s.goOn k) := by
  obtain ⟨past, before⟩ := State.goOn_eq hw hk
  by_cases h : s.ctx.pastBody (word w.value)
  · rw [past h]
    unfold WentOn State.wentFrom State.wrapped
    rw [State.endIteration_ctx]
    rfl
  · rw [before h]
    rfl

theorem State.goOn_goesOn {s : State} {k : WaitKind} {w : WaitRec} (hw : s.ctx.wait = some w) (hk : w.kind = k) :
    GoesOnAt s (s.goOn k) (word w.value) := by
  obtain ⟨past, before⟩ := State.goOn_eq hw hk
  refine ⟨fun h => ?_, fun h => ?_⟩
  · rw [before h]
    exact ⟨rfl, rfl⟩
  · rw [past h]
    have goes := State.endIteration_goes (s := s.resumedAt w) h.1
    rcases goes with ⟨on, pc⟩ | ⟨off, pc⟩
    · exact .inl ⟨on, pc⟩
    · exact .inr ⟨off, pc.trans h.2.symm⟩

/-- A member that goes on in its gang, with its core's clock set (R127, R268). -/
def State.joinedGang (clock : Nat) (s : State) : State :=
  let s := s.goOn .gjoin
  let c := s.ctx
  let lead := c.member == 0
  { s with ctx := { c with team := setBit (setBit c.team 10 true) 11 lead, follower := !lead }
           core := { s.core with clock := clock } }

/-- A member that goes on from `tyield`, or stops for its save, a follower at the sequencer's address. -/
def State.yieldedOn (more : Bool) (next : Option Word) (s : State) : State :=
  let c := (s.goOn .tyield).ctx
  { s with ctx := { c with stopped := more, pc := if c.follower then next.getD c.pc else c.pc } }

theorem goesOnAt_congr {s s' t t' : State} {at_ : Word} (h : GoesOnAt s t at_) (lc : s'.ctx.lc = s.ctx.lc)
    (first : s'.ctx.first = s.ctx.first) (pc : t'.ctx.pc = t.ctx.pc) (on : t'.ctx.lc = t.ctx.lc) : GoesOnAt s' t' at_ := by
  unfold GoesOnAt at h ⊢
  rw [lc, first, pc, on]
  exact h

theorem State.joinedGang_leads {s : State} {w : WaitRec} (hw : s.ctx.wait = some w) (hk : w.kind = .gjoin)
    (hm : s.ctx.member = 0) (clock : Nat) :
    (s.joinedGang clock).ctx.gang = true ∧ (s.joinedGang clock).ctx.seqr = true ∧ (s.joinedGang clock).ctx.follower = false
      ∧ (s.joinedGang clock).ctx.wait = none ∧ GoesOnAt s (s.joinedGang clock) (word w.value)
      ∧ (s.joinedGang clock).ctx.g = s.ctx.g ∧ (s.joinedGang clock).ctx.taskh = s.ctx.taskh
      ∧ (s.joinedGang clock).coreNo = s.coreNo ∧ (s.joinedGang clock).pkg = s.pkg := by
  have goes := State.goOn_goesOn hw hk
  have went := State.goOn_wentOn hw hk
  have lead : ((s.goOn .gjoin).ctx.member == 0) = true := by
    rw [went.same (fun u => u.ctx.member) fun _ => rfl]
    exact beq_iff_eq.mpr hm
  have bit10 (x : Word) (b : Bool) : (setBit (setBit x 10 true) 11 b).getLsbD 10 = true := by
    rw [getLsbD_setBit _ _ _ _ (by decide), if_neg (by decide), getLsbD_setBit _ _ _ _ (by decide), if_pos rfl]
  have bit11 (x : Word) : (setBit (setBit x 10 true) 11 true).getLsbD 11 = true := by
    rw [getLsbD_setBit _ _ _ _ (by decide), if_pos rfl]
  unfold State.joinedGang
  dsimp only
  rw [lead]
  exact ⟨bit10 _ _, bit11 _, rfl, went.wait, goesOnAt_congr goes rfl rfl rfl rfl, went.same (fun u => u.ctx.g) fun _ => rfl,
    went.same (fun u => u.ctx.taskh) fun _ => rfl, went.same State.coreNo fun _ => rfl, went.same State.pkg fun _ => rfl⟩

theorem gjoinRendezvous_joins {s : State} {k : Task} {w : WaitRec} (hk : s.myTask = some k) (hw : s.ctx.wait = some w)
    (hc : k.cores = [s.coreNo]) (hh : s.ctx.holds = true) (hj : k.size ≤ k.joined.length) (hg : k.gang = false)
    (kind : w.kind = .gjoin) (hm : s.ctx.member = 0) :
    Yields .gjoinRendezvous s (fun t => t.ctx.gang = true ∧ t.ctx.seqr = true ∧ t.ctx.follower = false
      ∧ t.ctx.wait = none ∧ GoesOnAt s t (word w.value) ∧ t.ctx.g = s.ctx.g ∧ t.myTask = some { k with gang := true }) := by
  have handle : k.handle = s.ctx.taskh := Pkg.task_handle hk
  have go : ¬ (k.gang = true ∨ k.joined.length < k.size) := by simp [hg, hj]
  have e : ∃ clock, exec .gjoinRendezvous s = .next (((s.pass (lagOf k.cores)).forMembers k.handle k.cores
      (State.joinedGang clock)).onTask k.handle (fun t => { t with gang := true })) := by
    refine ⟨(k.cores.map (fun j => ((s.pass (lagOf k.cores)).coreAt j).core.clock)).foldl Nat.max 0, ?_⟩
    change execGjoinRendezvous s = _
    unfold execGjoinRendezvous
    rw [hk]
    dsimp only
    rw [if_neg go]
    rfl
  obtain ⟨clock, e⟩ := e
  have passed := s.pass_elapsed (lagOf k.cores)
  generalize s.pass (lagOf k.cores) = u at e passed
  have taskh : u.ctx.taskh = s.ctx.taskh := passed.same (fun t => t.ctx.taskh) fun _ => rfl
  obtain ⟨gang, seqr, follower, wait, goes, g, joinedh, core, pkg⟩ := State.joinedGang_leads (s := u)
    ((passed.same (fun t => t.ctx.wait) fun _ => rfl).trans hw) kind
    ((passed.same (fun t => t.ctx.member) fun _ => rfl).trans hm) clock
  rw [handle, hc, ← taskh, ← passed.coreNo,
    State.forMembers_here ((passed.same (fun t => t.ctx.holds) fun _ => rfl).trans hh) core] at e
  have lc : s.ctx.lc = u.ctx.lc := (passed.same (fun t => t.ctx.lc) fun _ => rfl).symm
  have first : s.ctx.first = u.ctx.first := (passed.same (fun t => t.ctx.first) fun _ => rfl).symm
  have task : (u.joinedGang clock).pkg.task u.ctx.taskh = some k := by
    rw [pkg]
    exact (passed.same State.myTask fun _ => rfl).trans hk
  refine ⟨_, e, gang, seqr, follower, wait, goesOnAt_congr goes lc first rfl rfl, g.trans passed.g, ?_⟩
  exact (congrArg _ joinedh).trans (Pkg.task_setTask_some (fun t => { t with gang := true }) task fun _ => rfl)

theorem State.yieldedOn_goes {s : State} {w : WaitRec} (hw : s.ctx.wait = some w) (hk : w.kind = .tyield)
    (hf : s.ctx.follower = false) (more : Bool) (next : Option Word) :
    (s.yieldedOn more next).ctx.wait = none ∧ GoesOnAt s (s.yieldedOn more next) (word w.value)
      ∧ (s.yieldedOn more next).ctx.stopped = more ∧ (s.yieldedOn more next).ctx.g = s.ctx.g
      ∧ (s.yieldedOn more next).ctx.taskh = s.ctx.taskh := by
  have goes := State.goOn_goesOn hw hk
  have went := State.goOn_wentOn hw hk
  have alone : (s.goOn .tyield).ctx.follower = false := (went.same (fun u => u.ctx.follower) fun _ => rfl).trans hf
  unfold State.yieldedOn
  dsimp only
  rw [alone]
  exact ⟨went.wait, goesOnAt_congr goes rfl rfl rfl rfl, rfl, went.same (fun u => u.ctx.g) fun _ => rfl,
    went.same (fun u => u.ctx.taskh) fun _ => rfl⟩

theorem tyieldRendezvous_other {s : State} {k : Task} (hk : s.myTask = some k) {more : Bool}
    (h : k.state ≠ .running ∨ s.wouldYield k ≠ more) : exec (.tyieldRendezvous more) s = .next s := by
  change execTyieldRendezvous more s = _
  unfold execTyieldRendezvous
  rw [hk]
  refine congrArg _ (if_pos ?_)
  rcases h with h | h
  · exact .inl h
  · exact .inr (.inr h)

/-- No pair that a gang's sequencer has broadcast is left. -/
def State.clearGang (s : State) (h : Word) : State :=
  { s with pkg := { s.pkg with gangs := s.pkg.gangs.filter (fun g => g.handle != h) } }

/-- The task of a team that has met at `tyield`. -/
def Task.afterYield (t : Task) (more : Bool) : Task := if more then { t with state := .saving } else { t with yielded := [] }

theorem Task.afterYield_handle (t : Task) (more : Bool) : (t.afterYield more).handle = t.handle := by
  unfold Task.afterYield
  split <;> rfl

theorem tyieldRendezvous_goes {s : State} {k : Task} {w : WaitRec} (hk : s.myTask = some k) (hw : s.ctx.wait = some w)
    (hc : k.cores = [s.coreNo]) (hh : s.ctx.holds = true) (kind : w.kind = .tyield) (hr : k.state = .running)
    (hy : k.yielded.length = k.size) (hg : s.ctx.gang = false) (hf : s.ctx.follower = false) :
    Yields (.tyieldRendezvous (s.wouldYield k)) s (fun t =>
      t.ctx.wait = none ∧ GoesOnAt s t (word w.value) ∧ t.ctx.stopped = s.wouldYield k ∧ t.ctx.g = s.ctx.g
      ∧ t.myTask = some (if s.wouldYield k then { k with state := .saving } else { k with yielded := [] })) := by
  have handle : k.handle = s.ctx.taskh := Pkg.task_handle hk
  have go : ¬ (k.state ≠ .running
      ∨ (if s.ctx.gang = true then k.yielded.contains 0 else decide (k.yielded.length = k.size)) = false ∨ s.wouldYield k ≠ s.wouldYield k) := by simp [hr, hg, hy]
  have e : ∃ next, exec (.tyieldRendezvous (s.wouldYield k)) s = .next ((State.clearGang (s.forMembers k.handle k.cores
      (State.yieldedOn (s.wouldYield k) next)) k.handle).onTask k.handle
      (fun t => t.afterYield (s.wouldYield k))) := by
    refine ⟨(k.cores.head?).map (fun j =>
      (((s.forMembers k.handle (k.cores.take 1) (fun s => s.goOn .tyield)).coreAt j).bankCtx k.bank).pc), ?_⟩
    change execTyieldRendezvous _ s = _
    unfold execTyieldRendezvous
    rw [hk]
    dsimp only
    rw [if_neg go]
    rfl
  obtain ⟨next, e⟩ := e
  rw [handle, hc, State.forMembers_here (f := State.yieldedOn (s.wouldYield k) next) hh rfl] at e
  obtain ⟨wait, goes, stopped, g, taskh⟩ := State.yieldedOn_goes hw kind hf (s.wouldYield k) next
  have task : ((s.facingOf (s.yieldedOn (s.wouldYield k) next)).clearGang s.ctx.taskh).pkg.task s.ctx.taskh = some k := hk
  exact ⟨_, e, wait, goes, stopped, g, (congrArg _ taskh).trans
    (Pkg.task_setTask_some (fun t => t.afterYield (s.wouldYield k)) task fun t => t.afterYield_handle _)⟩

theorem gjoinRendezvous_waits {s : State} {k : Task} (hk : s.myTask = some k) (h : k.joined.length < k.size) :
    exec .gjoinRendezvous s = .next s := by
  change execGjoinRendezvous s = _
  unfold execGjoinRendezvous
  rw [hk]
  exact congrArg _ (if_pos (.inr h))

theorem taskInstructionsActOnTheirTask : TaskInstructionsActOnTheirTask := by
  intro d a b s
  refine ⟨tspawn_misaligned, fun tr u r h ha ht hm hi hh hg hu hr => ⟨?_, ?_⟩, fun u hg hw hr hb hc hk => ⟨?_, ?_⟩,
    fun q hg hw ha => ⟨fun hs => ?_, fun hs hb => ?_⟩, fun hs hb => ?_, fun h => ⟨?_, ?_, trec_free h⟩,
    fun k hk => ⟨tyield_waits hk, fun hg => ?_, gjoin_waits hk, trec_word hk, gleave_dissolves hk⟩, gleave_refused,
    ⟨_, tbank_switches s, rfl⟩⟩
  · exact tspawn_waits ha ht hm hi hh hg hu hr
  · exact tspawn_sends ha ht hm hi hh hg hu hr
  · exact tend_waits hg hw hr hb
  · exact tend_ends hg hw hr hb hc hk
  · exact yields_mono (tend_ends_settled hg hw ha (.inl hs)) fun t h => h.1
  · exact yields_mono (tend_ends_settled hg hw ha (.inr hb)) fun t h => ⟨h.1, h.2 hs⟩
  · exact ⟨_, tend_busy hs hb, ⟨rfl, rfl, rfl, rfl, rfl, rfl⟩, rfl⟩
  · exact ⟨s, tyield_alone h, rfl⟩
  · exact gjoin_refused fun k hk => absurd (h.symm.trans hk) (by simp)
  · exact gjoin_refused fun j hj => Option.some.inj (hk.symm.trans hj) ▸ hg

theorem rendezvousLetTheirTeamsGoOn : RendezvousLetTheirTeamsGoOn := by
  intro s k hk
  refine ⟨fun h => ⟨s, gjoinRendezvous_waits hk h, rfl⟩, fun w hw hc hh => ⟨?_, fun kind hr hy hg hf => ⟨?_, ?_⟩⟩,
    fun h more => ⟨s, tyieldRendezvous_other hk (.inl h), rfl⟩⟩
  · exact gjoinRendezvous_joins hk hw hc hh
  · exact tyieldRendezvous_goes hk hw hc hh kind hr hy hg hf
  · exact ⟨s, tyieldRendezvous_other hk (.inr (Bool.not_ne_self _).symm), rfl⟩

end Sys2Proof.Machine

section

open Sys2Proof.Machine

/-- Settles O40: each instruction by its own lemma, and the rendezvous by `State.goOn_goesOn`, which says where a member
goes on. -/
theorem taskInstructionsActAndTheirTeamsMeet : Obligations.TaskInstructionsActAndTheirTeamsMeet :=
  ⟨taskInstructionsActOnTheirTask, rendezvousLetTheirTeamsGoOn⟩

end

/-! SUPPORT. An elementwise form named by what each element holds: results that agree modulo the width, the values of
integer codes, and the integer, logical and shift tables (R74, R130, R136). -/

namespace Sys2Proof.Machine

open Sys2Proof.Safety Sys2Proof.Claims

/-! ### Results of elements that agree under a width -/

/-- Two results of an element that an entry of elements of w bits holds alike: codes equal modulo 2^w, and one record. -/
def SameElem (w : Nat) (r q : Nat × Fx) : Prop := r.1 ≡ q.1 [MOD 2 ^ w] ∧ r.2 = q.2

theorem sameElem_of_eq {w : Nat} {r q : Nat × Fx} (h : r = q) : SameElem w r q := h ▸ ⟨rfl, rfl⟩

theorem totalFx_congr {op res : Nat → Nat × Fx} {l : List Nat} (h : ∀ i ∈ l, (op i).2 = (res i).2) :
    totalFx op l = totalFx res l :=
  List.foldl_ext _ _ _ fun _ i hi => congrArg _ (h i hi)

theorem totalFx_none {res : Nat → Nat × Fx} {l : List Nat} (h : ∀ i ∈ l, (res i).2 = Fx.none) : totalFx res l = Fx.none := by
  rw [totalFx_congr (res := fun _ => (0, Fx.none)) h]
  exact List.foldl_fixed' (fun _ => Fx.none_and _) l

/-- What is written depends on the results modulo the width alone. -/
theorem wroteAs_congr {zc : Nat} {u t : State} {d : BitVec 6} {l : List Nat} {tag : BitVec 5} {op res : Nat → Nat × Fx}
    (h : WroteAs zc u t d l tag op) (same : ∀ i ∈ l, SameElem (tagWidth tag) (op i) (res i)) : WroteAs zc u t d l tag res := by
  obtain ⟨v, htag, data, clean, frame⟩ := h
  rw [totalFx_congr fun i hi => (same i hi).2] at frame
  refine ⟨v, htag, fun i hi => (data i hi).trans ?_, clean, frame⟩
  split
  next hl => exact (same i hl).1
  next => rfl

theorem quiet_congr {s : State} {op res : Nat → Nat × Fx} {l : List Nat} (h : ∀ i ∈ l, (op i).2 = (res i).2)
    (still : quiet s res l) : quiet s op l :=
  fun i hi => h i hi ▸ still i hi

theorem quiet_silent (s : State) (f : Nat → Nat) (l : List Nat) : quiet s (fun i => (f i, Fx.none)) l :=
  fun _ _ on => on BitVec.zero_and

/-! ### Widths (R31, R33) -/

theorem vlmaxOf_tagWidth_le : ∀ t : BitVec 5, vlmaxOf (tagWidth t) ≤ 1024 := by decide

theorem tagWidth_pos : ∀ t : BitVec 5, 0 < tagWidth t := by decide

theorem elem_lt (w : Nat) (d : Lanes) (i : Nat) : elem w d i < 2 ^ w := BitVec.isLt _

/-- R130: an elementwise form whose destination can be written holds, element by element, whatever agrees with its
results, where that records no enabled flag. -/
theorem elementwise_yields {i : Instr} {s u : State} {d : BitVec 6} {pr : BitVec 3} {tag : BitVec 5}
    {op res : Nat → Nat × Fx} (run : exec i s = finish s (elementwise s u d pr tag (tagWidth tag) op))
    (hctx : u.ctx = s.ctx) (href : u.checkRef (u.vref d) = .ok ()) (hroom : u.checkRoom (u.vref d) = .ok ())
    (same : ∀ j, SameElem (tagWidth tag) (op j) (res j)) (still : quiet s res (processed s (tagWidth tag) pr)) :
    Yields i s (fun t => WroteV s u t d pr tag res) := by
  obtain ⟨t, done, wrote⟩ := elementwise_writes (pr := pr) hctx href hroom (vlmaxOf_tagWidth_le tag)
    (quiet_congr (fun j _ => (same j).2) still)
  rw [done] at run
  exact ⟨t, run, wroteAs_congr wrote fun j _ => same j⟩

/-! ### The binary frame (R130, R131) -/

/-- Where an element is left to process, a form goes past its test of VL. -/
theorem State.ite_idle {α : Type} {s : State} {w : Nat} (h : startOf s < countOf s w) (x y : α) :
    (if s.idle then x else y) = y := if_neg (by simp [State.not_idle h])

/-- It goes past its test of the element count. -/
theorem State.ite_nothing {α : Type} {s : State} {w : Nat} (h : startOf s < countOf s w) (x y : α) :
    (if s.nothing w then x else y) = y := if_neg (by simp [State.not_nothing h])

theorem ready2_ctx {s u : State} {d a b : BitVec 6} {ea eb : Entry} (h : ready2 s d a b ea eb u) : u.ctx = s.ctx := by
  obtain ⟨⟨s1, ha, hb⟩, -, -⟩ := h
  exact (State.takeV_ctx hb).trans (State.takeV_ctx ha)

/-- A binary form on sources that are ready and carry tags that fit writes each element's result. -/
theorem vbinary_yields {i : Instr} {s u : State} {ea eb : Entry} {d a b : BitVec 6} {pr : BitVec 3} {ok : BitVec 5 → Bool}
    {okb : BitVec 5 → BitVec 5 → Bool} {op : BitVec 5 → Nat → Nat → Nat × Fx} {res : Nat → Nat × Fx}
    (run : exec i s = vbinary d a b pr ok okb op s) (ready : ready2 s d a b ea eb u)
    (h : startOf s < countOf s (tagWidth ea.tag)) (oka : ok ea.tag = true) (okb' : okb ea.tag eb.tag = true)
    (same : ∀ j, SameElem (tagWidth ea.tag)
      (op ea.tag (elem (tagWidth ea.tag) ea.data j) (elem (tagWidth ea.tag) eb.data j)) (res j))
    (still : quiet s res (processed s (tagWidth ea.tag) pr)) : Yields i s (fun t => WroteV s u t d pr ea.tag res) := by
  have hctx := ready2_ctx ready
  obtain ⟨⟨s1, ha, hb⟩, href, hroom⟩ := ready
  rw [vbinary_runs d pr ok okb op ha hb h, oka, okb'] at run
  exact elementwise_yields run hctx href hroom same still

theorem sameTag_of_eq {t u : BitVec 5} (h : u = t) : sameTag t u = true := by simp [sameTag, h]

/-! ### The integers of codes (R74) -/

theorem intValue_of_lt {signed : Bool} {w x : Nat} (h : x < 2 ^ w) : intValue signed w x = readInt signed w x := by
  simp [intValue, readInt, Nat.mod_eq_of_lt h]

theorem tagSigned_of_intTagOk : ∀ {t : BitVec 5}, intTagOk t = true → tagSigned t = signedTag t := by decide

/-- Reading a code as signed changes it by a multiple of 2^w at most. -/
theorem readInt_modEq (signed : Bool) (w x : Nat) : readInt signed w x ≡ x [ZMOD 2 ^ w] := by
  unfold readInt
  split
  · exact Int.modEq_iff_dvd.mpr ⟨1, by ring⟩
  · rfl

theorem readInt_unsigned (w x : Nat) : readInt false w x = x := rfl

theorem readInt_injective {signed : Bool} {w x y : Nat} (hx : x < 2 ^ w) (hy : y < 2 ^ w)
    (h : readInt signed w x = readInt signed w y) : x = y := by
  have congruent : (x : Int) ≡ y [ZMOD (2 ^ w : Nat)] := by
    push_cast
    exact (readInt_modEq signed w x).symm.trans (h ▸ readInt_modEq signed w y)
  exact Nat.ModEq.eq_of_lt_of_lt (Int.natCast_modEq_iff.mp congruent) hx hy

/-- The code of an integer is that of any natural congruent to it. -/
theorem intCode_eq_mod {w n : Nat} {x : Int} (h : x ≡ n [ZMOD 2 ^ w]) : intCode w x = n % 2 ^ w := by
  unfold intCode
  rw [h.eq]
  norm_cast

/-! ### The integer forms (R136) -/

/-- The form is an integer form whose elements are those of its row, on codes of a width and a signed tag or not. -/
def IsIntForm (p : Ctor2 × (Bool → Nat → Nat → Nat → Nat)) : Prop :=
  ∃ op : BitVec 5 → Nat → Nat → Nat × Fx, (∀ d a b pr s, exec (p.1 d a b pr) s = vint d a b pr op s) ∧
    ∀ t x y, intTagOk t = true → x < 2 ^ tagWidth t → y < 2 ^ tagWidth t →
      op t x y = (p.2 (signedTag t) (tagWidth t) x y, Fx.none)

/-- An operation on integers, on elements of an integer tag. -/
theorem vintOp_eq {f : Int → Int → Int} {t : BitVec 5} {x y : Nat} (ht : intTagOk t = true) (hx : x < 2 ^ tagWidth t)
    (hy : y < 2 ^ tagWidth t) : vintOp f t x y =
      (intCode (tagWidth t) (f (readInt (signedTag t) (tagWidth t) x) (readInt (signedTag t) (tagWidth t) y)), Fx.none) := by
  rw [vintOp, tagSigned_of_intTagOk ht, intValue_of_lt hx, intValue_of_lt hy]

/-- A choice between two elements is their choice by order, of which equal ones are the same. -/
theorem vpick_eq {signed : Bool} {t : BitVec 5} {x y : Nat} (hx : x < 2 ^ tagWidth t) (hy : y < 2 ^ tagWidth t) (max : Bool) :
    vpick signed max t x y = (if readInt signed (tagWidth t) x ≤ readInt signed (tagWidth t) y
      then (if max then y else x) else (if max then x else y), Fx.none) := by
  unfold vpick
  dsimp only
  rw [intValue_of_lt hx, intValue_of_lt hy]
  obtain lt | eq | gt := lt_trichotomy (readInt signed (tagWidth t) x) (readInt signed (tagWidth t) y)
  · cases max <;> simp [lt, lt.le]
  · cases readInt_injective hx hy eq
    cases max <;> simp
  · cases max <;> simp [not_lt.mpr gt.le, not_le.mpr gt]

theorem vintForms_elements : ∀ p ∈ vintForms, IsIntForm p := by
  simp only [vintForms, List.forall_mem_cons]
  refine ⟨⟨vintOp (fun x y => x + y), fun _ _ _ _ _ => rfl, fun t x y ht hx hy => (vintOp_eq ht hx hy).trans ?_⟩,
    ⟨vintOp (fun x y => x - y), fun _ _ _ _ _ => rfl, fun t x y ht hx hy => (vintOp_eq ht hx hy).trans ?_⟩,
    ⟨vintOp (fun x y => x * y), fun _ _ _ _ _ => rfl, fun t x y ht hx hy => (vintOp_eq ht hx hy).trans ?_⟩,
    ⟨fun t => vintOp (fun x y => x * y / 2 ^ tagWidth t) t, fun _ _ _ _ _ => rfl, fun t x y ht hx hy => vintOp_eq ht hx hy⟩,
    ⟨vpick true false, fun _ _ _ _ _ => rfl, fun t x y _ hx hy => vpick_eq hx hy false⟩,
    ⟨vpick true true, fun _ _ _ _ _ => rfl, fun t x y _ hx hy => vpick_eq hx hy true⟩,
    ⟨vpick false false, fun _ _ _ _ _ => rfl, fun t x y _ hx hy => (vpick_eq hx hy false).trans ?_⟩,
    ⟨vpick false true, fun _ _ _ _ _ => rfl, fun t x y _ hx hy => (vpick_eq hx hy true).trans ?_⟩, nofun⟩
  · exact congrArg (·, Fx.none) (intCode_eq_mod (by
      push_cast
      exact (readInt_modEq _ _ x).add (readInt_modEq _ _ y)))
  · refine congrArg (·, Fx.none) (intCode_eq_mod (Int.ModEq.trans ((readInt_modEq _ _ x).sub (readInt_modEq _ _ y)) ?_))
    rw [Nat.cast_sub (by omega)]
    push_cast
    exact Int.modEq_iff_dvd.mpr ⟨1, by ring⟩
  · exact congrArg (·, Fx.none) (intCode_eq_mod (by
      push_cast
      exact (readInt_modEq _ _ x).mul (readInt_modEq _ _ y)))
  · simp only [readInt_unsigned, Nat.cast_le, Bool.false_eq_true, if_false]
    exact congrArg (·, Fx.none) (Nat.min_def ..).symm
  · simp only [readInt_unsigned, Nat.cast_le, if_true]
    exact congrArg (·, Fx.none) (Nat.max_def ..).symm

/-! ### The logical forms (R136) -/

theorem logicalTag_of_tagged : ∀ {t : BitVec 5}, t ≠ 0 → t.toNat ≤ 0x12 → logicalTag t = true := by decide

/-- x without the bits of y, as the model and the table write it. -/
theorem xor_and_eq_and_sub {w x y : Nat} (hx : x < 2 ^ w) (hy : y < 2 ^ w) : x ^^^ (x &&& y) = x &&& (2 ^ w - 1 - y) := by
  apply Nat.eq_of_testBit_eq
  intro j
  rw [Nat.testBit_xor, Nat.testBit_and, Nat.testBit_and, show 2 ^ w - 1 - y = 2 ^ w - (y + 1) by omega,
    Nat.testBit_two_pow_sub_succ hy]
  by_cases hj : j < w
  · cases x.testBit j <;> cases y.testBit j <;> simp [hj]
  · simp [hj, Nat.testBit_lt_two_pow (hx.trans_le (Nat.pow_le_pow_right two_pos (not_lt.mp hj)))]

/-- The form is a logical form whose elements are those of its row. -/
def IsLogicForm (p : Ctor2 × (Nat → Nat → Nat → Nat)) : Prop :=
  ∃ f : Nat → Nat → Nat, (∀ d a b pr s, exec (p.1 d a b pr) s = vlogic d a b pr f s) ∧
    ∀ w x y, x < 2 ^ w → y < 2 ^ w → f x y = p.2 w x y

theorem vlogicForms_elements : ∀ p ∈ vlogicForms, IsLogicForm p := by
  simp only [vlogicForms, List.forall_mem_cons]
  exact ⟨⟨fun x y => x &&& y, fun _ _ _ _ _ => rfl, fun _ _ _ _ _ => rfl⟩,
    ⟨fun x y => x ||| y, fun _ _ _ _ _ => rfl, fun _ _ _ _ _ => rfl⟩,
    ⟨fun x y => x ^^^ y, fun _ _ _ _ _ => rfl, fun _ _ _ _ _ => rfl⟩,
    ⟨fun x y => x ^^^ (x &&& y), fun _ _ _ _ _ => rfl, fun _ _ _ => xor_and_eq_and_sub⟩, nofun⟩

/-! ### The shifts (R136) -/

/-- The form is a shift whose elements are those of its row, modulo the width. -/
def IsShiftForm (p : Ctor2 × (Nat → Nat → Nat → Nat)) : Prop :=
  ∃ f : Nat → Nat → Nat → Nat, (∀ d a b pr s, exec (p.1 d a b pr) s = vshift d a b pr f s) ∧
    ∀ w x k, x < 2 ^ w → f w x k ≡ p.2 w x k [MOD 2 ^ w]

theorem vshiftForms_elements : ∀ p ∈ vshiftForms, IsShiftForm p := by
  simp only [vshiftForms, List.forall_mem_cons]
  refine ⟨⟨fun w x k => x * 2 ^ k % 2 ^ w, fun _ _ _ _ _ => rfl, fun _ _ _ _ => rfl⟩,
    ⟨fun _ x k => x / 2 ^ k, fun _ _ _ _ _ => rfl, fun _ _ _ _ => rfl⟩,
    ⟨fun w x k => intCode w (intValue true w x / 2 ^ k), fun _ _ _ _ _ => rfl, fun w x k hx => ?_⟩,
    ⟨fun w x k => x * 2 ^ k % 2 ^ w + x / 2 ^ (w - k), fun _ _ _ _ _ => rfl, fun w x k _ => ?_⟩, nofun⟩
  · simp only [intValue_of_lt hx]
    rfl
  · exact ((Nat.mod_modEq _ _).add_right _).trans (Nat.mod_modEq _ _).symm

theorem shiftTags_ok {t u : BitVec 5} (hu : intTagOk u = true) (h : tagWidth u = tagWidth t) :
    (isInt u && decide (tagWidth t = tagWidth u)) = true := by
  rw [isInt_eq, hu, h]
  simp

end Sys2Proof.Machine

section

open Sys2Proof.Machine Sys2Proof.Claims

/-- Settles O10: the binary frame, with the elements that each table of R136 names. -/
theorem vectorIntegerFormsWriteEachElement : Obligations.VectorIntegerFormsWriteEachElement := by
  intro d a b pr s u ea eb ready h
  refine ⟨fun p hp int same => ?_, fun p hp tagged top same => ?_, fun p hp int intb width => ?_⟩
  · obtain ⟨op, run, elements⟩ := vintForms_elements p hp
    exact vbinary_yields (run d a b pr s) ready h ((isInt_eq _).trans int) (sameTag_of_eq same)
      (fun j => sameElem_of_eq (elements _ _ _ int (elem_lt _ _ _) (elem_lt _ _ _))) (quiet_silent _ _ _)
  · obtain ⟨f, run, elements⟩ := vlogicForms_elements p hp
    exact vbinary_yields (run d a b pr s) ready h (logicalTag_of_tagged tagged top) (sameTag_of_eq same)
      (fun j => sameElem_of_eq (congrArg (·, Fx.none) (elements _ _ _ (elem_lt _ _ _) (elem_lt _ _ _)))) (quiet_silent _ _ _)
  · obtain ⟨f, run, elements⟩ := vshiftForms_elements p hp
    exact vbinary_yields (run d a b pr s) ready h ((isInt_eq _).trans int) (shiftTags_ok intb width)
      (fun j => ⟨elements _ _ _ (elem_lt _ _ _), rfl⟩) (quiet_silent _ _ _)

end

/-! SUPPORT. The floating, fused and unary frames by what each element holds, the unary table, and the run of a compare
over its elements (R130, R137 to R139). -/

namespace Sys2Proof.Machine

open Sys2Proof.Safety Sys2Proof.Claims

/-! ### The fused and the unary frame (R137, R138) -/

/-- A fused form whose sources can be read and carry one floating tag is its elementwise form. -/
theorem vfused_runs {s s1 u v : State} {ea eb ed : Entry} {d a b : BitVec 6} (negp : Bool) (pr : BitVec 3)
    (ha : s.takeV a = .ok (ea, s1)) (hb : s1.takeV b = .ok (eb, u)) (hd : u.takeV d = .ok (ed, v))
    (h : startOf s < countOf s (tagWidth ea.tag)) (ok : s.floatTag ea.tag = true) (same : eb.tag = ea.tag)
    (samed : ed.tag = ea.tag) : vfused negp d a b pr s = finish s (elementwise s v d pr ea.tag (tagWidth ea.tag) (fun i =>
      fpFused negp ea.tag (elem (tagWidth ea.tag) ea.data i) (elem (tagWidth ea.tag) eb.data i)
        (elem (tagWidth ea.tag) ed.data i) s.ctx.rm)) := by
  unfold vfused
  rw [State.ite_idle h, ha]
  dsimp only [bind, Except.bind]
  rw [hb]
  dsimp only
  rw [hd]
  dsimp only
  rw [State.ite_nothing h, ok, same, samed, beq_self_eq_true]
  rfl

theorem vfusedForms_exec : ∀ p ∈ [(Instr.vfmacc, false), (Instr.vfnmacc, true)], ∀ d a b pr s,
    exec (p.1 d a b pr) s = vfused p.2 d a b pr s := by
  simp only [List.forall_mem_cons]
  exact ⟨fun _ _ _ _ _ => rfl, fun _ _ _ _ _ => rfl, nofun⟩

/-- A unary form whose source can be read, carries a tag that fits and has elements to process is its elementwise form. -/
theorem vunary_runs {s u : State} {ea : Entry} {a : BitVec 6} {ok : BitVec 5 → Bool} (d : BitVec 6) (pr : BitVec 3)
    (op : BitVec 5 → Nat → Nat × Fx) (ha : s.takeV a = .ok (ea, u)) (h : startOf s < countOf s (tagWidth ea.tag))
    (oka : ok ea.tag = true) : vunary d a pr ok op s =
      finish s (elementwise s u d pr ea.tag (tagWidth ea.tag) (fun i => op ea.tag (elem (tagWidth ea.tag) ea.data i))) := by
  unfold vunary
  rw [State.ite_idle h, ha]
  dsimp only [bind, Except.bind]
  rw [State.ite_nothing h, oka]
  rfl

/-- A unary form on a source that is ready and carries a tag that fits writes each element's result. -/
theorem vunary_yields {i : Instr} {s u : State} {ea : Entry} {d a : BitVec 6} {pr : BitVec 3} {ok : BitVec 5 → Bool}
    {op : BitVec 5 → Nat → Nat × Fx} {res : Nat → Nat × Fx} (run : exec i s = vunary d a pr ok op s)
    (ready : ready1 s d a ea u) (h : startOf s < countOf s (tagWidth ea.tag)) (oka : ok ea.tag = true)
    (same : ∀ j, SameElem (tagWidth ea.tag) (op ea.tag (elem (tagWidth ea.tag) ea.data j)) (res j))
    (still : quiet s res (processed s (tagWidth ea.tag) pr)) : Yields i s (fun t => WroteV s u t d pr ea.tag res) := by
  obtain ⟨ha, href, hroom⟩ := ready
  rw [vunary_runs d pr op ha h oka] at run
  exact elementwise_yields run (State.takeV_ctx ha) href hroom same still

/-- A form that writes its results wherever they are quiet writes them with no trap enabled. -/
theorem yields_written_of_untrapped {i : Instr} {s u : State} {d : BitVec 6} {pr : BitVec 3} {tag : BitVec 5}
    {res : Nat → Nat × Fx} {l : List Nat} (off : untrapped s)
    (h : quiet s res l → Yields i s (fun t => WroteV s u t d pr tag res)) :
    Yields i s (fun t => ∃ res, WroteV s u t d pr tag res) :=
  yields_mono (h (quiet_of_untrapped off res l)) fun _ wrote => ⟨res, wrote⟩

/-! ### The unary table (R138) -/

theorem wrapTo_natAbs (w : Nat) (v : Int) : wrapTo w v.natAbs = intCode w (if v < 0 then -v else v) := by
  have magnitude : (v.natAbs : Int) = if v < 0 then -v else v := by split <;> omega
  rw [magnitude]
  rfl

/-- The form is a unary form whose elements, on an integer tag, are those of its row. -/
def IsUnaryIntForm (p : Ctor1 × (Bool → Nat → Nat → Nat)) : Prop :=
  ∃ (ok : BitVec 5 → Bool) (op : BitVec 5 → Nat → Nat × Fx), (∀ d a pr s, exec (p.1 d a pr) s = vunary d a pr ok op s)
    ∧ ∀ t, intTagOk t = true → ok t = true ∧ ∀ x, x < 2 ^ tagWidth t →
      op t x = (p.2 (signedTag t) (tagWidth t) x, Fx.none)

theorem vunaryIntForms_elements : ∀ p ∈ vunaryIntForms, IsUnaryIntForm p := by
  simp only [vunaryIntForms, List.forall_mem_cons]
  refine ⟨⟨isInt, fun t x => (intCode (tagWidth t) (if intValue (tagSigned t) (tagWidth t) x < 0
      then -intValue (tagSigned t) (tagWidth t) x else intValue (tagSigned t) (tagWidth t) x), .none),
      fun _ _ _ _ => rfl, fun t ht => ⟨(isInt_eq t).trans ht, fun x hx => ?_⟩⟩,
    ⟨isInt, fun t x => (intCode (tagWidth t) (-(x : Int)), .none),
      fun _ _ _ _ => rfl, fun t ht => ⟨(isInt_eq t).trans ht, fun x hx => congrArg (·, Fx.none) (intCode_eq_mod ?_)⟩⟩,
    ⟨fun t => isInt t || t == tBIT, fun t x => (2 ^ tagWidth t - 1 - x, .none),
      fun _ _ _ _ => rfl, fun t ht => ⟨by simp [isInt_eq, ht], fun x hx => rfl⟩⟩,
    ⟨isInt, fun t x => (clzNat (tagWidth t) x, .none),
      fun _ _ _ _ => rfl, fun t ht => ⟨(isInt_eq t).trans ht, fun x hx => congrArg (·, Fx.none) (clzNat_eq hx)⟩⟩,
    ⟨isInt, fun t x => (popAux (tagWidth t) x, .none),
      fun _ _ _ _ => rfl, fun t ht => ⟨(isInt_eq t).trans ht, fun x _ => congrArg (·, Fx.none) (popAux_eq _ x)⟩⟩, nofun⟩
  · dsimp only
    rw [tagSigned_of_intTagOk ht, intValue_of_lt hx, wrapTo_natAbs]
  · rw [Nat.cast_sub hx.le]
    push_cast
    exact Int.modEq_iff_dvd.mpr ⟨1, by ring⟩

/-- The sign bit of a code of n + 1 bits inverted. -/
theorem invert_sign {n x : Nat} (hx : x < 2 ^ (n + 1)) : x % 2 ^ n + (1 - x / 2 ^ n % 2) * 2 ^ n = x ^^^ 2 ^ n := by
  apply Nat.eq_of_testBit_eq
  intro j
  rw [Nat.add_comm, Nat.mul_comm, Nat.testBit_two_pow_mul_add _ (Nat.mod_lt _ (Nat.two_pow_pos n)), Nat.testBit_xor,
    Nat.testBit_two_pow, Nat.testBit_mod_two_pow]
  obtain below | rfl | above := lt_trichotomy j n
  · simp [below, below.ne']
  · have bit : x.testBit j = decide (x / 2 ^ j % 2 = 1) := Nat.testBit_eq_decide_div_mod_eq
    have two : x / 2 ^ j % 2 < 2 := Nat.mod_lt _ two_pos
    rw [bit]
    interval_cases x / 2 ^ j % 2 <;> simp
  · have top : x.testBit j = false := Nat.testBit_lt_two_pow (hx.trans_le (Nat.pow_le_pow_right two_pos above))
    have small : 1 - x / 2 ^ n % 2 < 2 ^ (j - n) :=
      (Nat.sub_lt_succ 1 _).trans_le (Nat.pow_le_pow_right two_pos (Nat.sub_pos_of_lt above))
    simp [top, Nat.testBit_lt_two_pow small, show ¬ j < n by omega, above.ne]

/-- The element of `vfneg`: the sign inverted, but of a slash zero or NaR. -/
def negElement (t : BitVec 5) (x : Nat) : Nat × Fx :=
  let m := x % 2 ^ (tagWidth t - 1)
  let stay := isSlash t && (match (slashDecode (t = tSL64) x).1 with
    | .nar => true
    | .fin _ n _ => n == 0
    | _ => false)
  (if stay then m else m + (1 - signBitOf (tagWidth t) x) * 2 ^ (tagWidth t - 1), .none)

theorem exec_vfneg (d a : BitVec 6) (pr : BitVec 3) (s : State) :
    exec (.vfneg d a pr) s = vunary d a pr absTag negElement s := rfl

theorem exec_vfabs (d a : BitVec 6) (pr : BitVec 3) (s : State) :
    exec (.vfabs d a pr) s = vunary d a pr absTag (fun t x => (x % 2 ^ (tagWidth t - 1), .none)) s := rfl

theorem exec_vfsqrt (d a : BitVec 6) (pr : BitVec 3) (s : State) :
    exec (.vfsqrt d a pr) s = vunary d a pr s.floatTag (fun t x => fpSqrt t x s.ctx.rm) s := rfl

theorem negElement_of_not_slash {t : BitVec 5} {x : Nat} (h : isSlash t = false) (hx : x < 2 ^ tagWidth t) :
    negElement t x = (x ^^^ 2 ^ (tagWidth t - 1), Fx.none) := by
  obtain ⟨n, width⟩ := Nat.exists_eq_add_one.mpr (tagWidth_pos t)
  rw [width] at hx
  simp [negElement, h, signBitOf, width, invert_sign hx]

/-- The IEEE and FP8 tags, on which the sign is the top bit of the code. -/
theorem absTag_of_ieee_or_fp8 : ∀ {t : BitVec 5}, t.toNat ∈ [0x08, 0x09, 0x0B, 0x0C, 0x0D, 0x0E] →
    absTag t = true ∧ isSlash t = false := by decide

/-! ### The run of a compare over its elements (R139) -/

theorem assignBit_getLsbD (p : Pred) (r : Bool) {i j : Nat} (hj : j < 1024) :
    (if r then p ||| (1#1024 <<< i) else p &&& ~~~(1#1024 <<< i)).getLsbD j = if j = i then r else p.getLsbD j := by
  by_cases h : j = i
  · subst h
    cases r <;> simp [hj]
  · cases r <;> simp [hj, h]
    all_goals omega

/-- R139: a run none of whose selected elements records an enabled flag gives each its bit, and records what they record. -/
theorem cmpLoop_quiet {active : Nat → Bool} {op : Nat → Bool × Fx} {en : BitVec 6} (fuel i : Nat) (p : Pred) (fx : Fx)
    (still : ∀ j ∈ selectedFrom active fuel i, (op j).2.flags &&& en = 0) :
    ∃ q, cmpLoop active op en fuel i p fx = (q, (selectedFrom active fuel i).foldl (fun f j => f.and (op j).2) fx, none)
      ∧ ∀ j, j < 1024 → q.getLsbD j = if j ∈ selectedFrom active fuel i then (op j).1 else p.getLsbD j := by
  induction fuel generalizing i p fx with
  | zero => exact ⟨p, rfl, fun j _ => rfl⟩
  | succ fuel ih =>
    rw [selectedFrom_succ] at still ⊢
    unfold cmpLoop
    by_cases ha : active i = true
    · simp only [ha, if_true, List.forall_mem_cons] at still ⊢
      obtain ⟨here, later⟩ := still
      simp only [here, ne_eq, not_true_eq_false, if_false, List.foldl_cons]
      obtain ⟨q, run, bits⟩ := ih (i + 1) (if (op i).1 then p ||| (1#1024 <<< i) else p &&& ~~~(1#1024 <<< i))
        (fx.and (op i).2) later
      refine ⟨q, run, fun j hj => (bits j hj).trans ?_⟩
      rw [assignBit_getLsbD p _ hj]
      by_cases hji : j = i
      · subst hji
        simp
      · simp [hji]
    · simp only [ha, if_false, Bool.false_eq_true] at still ⊢
      exact ih (i + 1) p fx still

/-- What a write of a p register changes: that register alone, and p0 never. -/
theorem State.setPr_frame (u : State) (d : BitVec 3) (v : Pred) :
    u.setPr d v = { u with ctx := { u.ctx with p := (u.setPr d v).ctx.p } }
    ∧ (∀ k : Fin 8, k.val ≠ d.toNat ∨ d = 0 → (u.setPr d v).ctx.p[k.val] = u.ctx.p[k.val])
    ∧ (d ≠ 0 → (u.setPr d v).ctx.p[d.toNat] = v) := by
  have written : (u.setPr d v).ctx.p = if d = 0 then u.ctx.p else u.ctx.p.set d.toNat v d.isLt :=
    congrArg Ctx.p (State.setPr_ctx u d v)
  refine ⟨?_, fun k hk => ?_, fun hd => ?_⟩
  · unfold State.setPr
    split <;> rfl
  · rw [getElem_congr_coll written]
    split
    · rfl
    next hd => exact Vector.getElem_set_ne _ _ ((hk.resolve_right hd).symm)
  · rw [getElem_congr_coll (written.trans (if_neg hd))]
    exact Vector.getElem_set_self _

/-- A predicate that holds the processed bits is written in the terms of the claims. -/
theorem State.setPr_wroteP {s u : State} {d : BitVec 3} {q : Pred} {w : Nat} {pr : BitVec 3} {res : Nat → Bool} (fx : Fx)
    (hq : ∀ i, i < 1024 → q.getLsbD i = if i ∈ processed s w pr then res i else (u.pr d).getLsbD i) :
    WroteP s u (((u.setPr d q).record fx).setVs 0) d w pr res fx := by
  obtain ⟨frame, others, value⟩ := State.setPr_frame u d q
  refine ⟨?_, others, fun hd i hi => ?_⟩
  · rw [State.record, Ctx.record_eq, frame]
    rfl
  · exact (congrArg (BitVec.getLsbD · i) (value hd)).trans (by rw [hq i hi, State.pr, if_neg hd])

/-! ### The frame of a compare (R139) -/

/-- The form is a compare that accepts a tag, and whose elements on it are these. -/
def IsCompareForm (f : BitVec 3 → BitVec 6 → BitVec 6 → BitVec 3 → Instr) (t : BitVec 5) (res : Nat → Nat → Bool × Fx) : Prop :=
  ∃ (ok : BitVec 5 → Bool) (op : BitVec 5 → Nat → Nat → Bool × Fx),
    (∀ d a b pr s, exec (f d a b pr) s = vcompare d a b pr ok op s) ∧ ok t = true
    ∧ ∀ x y, x < 2 ^ tagWidth t → y < 2 ^ tagWidth t → op t x y = res x y

/-- A compare whose sources can be read, carry one tag that fits and have elements to process is its run over them. -/
theorem vcompare_runs {s s1 u : State} {ea eb : Entry} {a b : BitVec 6} {ok : BitVec 5 → Bool} (d pr : BitVec 3)
    (op : BitVec 5 → Nat → Nat → Bool × Fx) (ha : s.takeV a = .ok (ea, s1)) (hb : s1.takeV b = .ok (eb, u))
    (h : startOf s < countOf s (tagWidth ea.tag)) (oka : ok ea.tag = true) (same : eb.tag = ea.tag) {q : Pred} {fx : Fx}
    (run : cmpLoop (s.active pr) (fun i => op ea.tag (elem (tagWidth ea.tag) ea.data i) (elem (tagWidth ea.tag) eb.data i))
      s.ctx.enables (s.ctx.upTo (countOf s (tagWidth ea.tag)) - startOf s) (startOf s) (s.pr d) .none = (q, fx, none)) :
    vcompare d a b pr ok op s = .next (((u.setPr d q).record fx).setVs 0) := by
  have start : s.ctx.vsn = startOf s := by simp [Ctx.vsn, bits, startOf]
  unfold vcompare
  rw [State.ite_idle h, ha]
  dsimp only [bind, Except.bind]
  rw [hb]
  dsimp only
  rw [State.ite_nothing h, oka, same, beq_self_eq_true, State.count_eq, start, run]
  rfl

/-- R139: a compare of which no element records an enabled flag writes the bits of the processed elements. -/
theorem vcompare_yields {f : BitVec 3 → BitVec 6 → BitVec 6 → BitVec 3 → Instr} {s s1 u : State} {ea eb : Entry}
    {d : BitVec 3} {a b : BitVec 6} {pr : BitVec 3} {elements : Nat → Nat → Bool × Fx} (form : IsCompareForm f ea.tag elements)
    (ha : s.takeV a = .ok (ea, s1)) (hb : s1.takeV b = .ok (eb, u)) (h : startOf s < countOf s (tagWidth ea.tag))
    (same : eb.tag = ea.tag) {res : Nat → Bool × Fx}
    (hres : ∀ i, res i = elements (elem (tagWidth ea.tag) ea.data i) (elem (tagWidth ea.tag) eb.data i))
    (still : ∀ i ∈ processed s (tagWidth ea.tag) pr, ¬ enabledIn s (res i).2) :
    Yields (f d a b pr) s (fun t => WroteP s u t d (tagWidth ea.tag) pr (fun i => (res i).1)
      (totalFx (fun i => (0, (res i).2)) (processed s (tagWidth ea.tag) pr))) := by
  obtain ⟨ok, op, exec_eq, oka, op_eq⟩ := form
  have visited := processed_eq_selectedFrom s pr (vlmaxOf_tagWidth_le ea.tag)
  have ops : (fun i => op ea.tag (elem (tagWidth ea.tag) ea.data i) (elem (tagWidth ea.tag) eb.data i)) = res :=
    funext fun i => (op_eq _ _ (elem_lt _ _ _) (elem_lt _ _ _)).trans (hres i).symm
  obtain ⟨q, run, bits⟩ := cmpLoop_quiet (op := res) _ _ (s.pr d) .none
    (fun j hj => not_not.mp fun on => still j (visited ▸ hj) ((enabledIn_iff s _).mpr on))
  have pred : s.pr d = u.pr d := by
    unfold State.pr
    rw [State.takeV_ctx hb, State.takeV_ctx ha]
  rw [← visited] at run bits
  rw [pred] at bits
  exact ⟨_, (exec_eq d a b pr s).trans (vcompare_runs d pr op ha hb h oka same (ops ▸ run)), State.setPr_wroteP _ bits⟩

/-! ### The tables of compares (R139) -/

theorem vorder_eq {signed le : Bool} {t : BitVec 5} {x y : Nat} (hx : x < 2 ^ tagWidth t) (hy : y < 2 ^ tagWidth t) :
    vorder signed le t x y = (if le then decide (readInt signed (tagWidth t) x ≤ readInt signed (tagWidth t) y)
      else decide (readInt signed (tagWidth t) x < readInt signed (tagWidth t) y), Fx.none) := by
  rw [vorder, intValue_of_lt hx, intValue_of_lt hy]

theorem vequal_of_int {t : BitVec 5} (h : isInt t = true) (x y : Nat) : vequal t x y = (x == y, Fx.none) := if_pos h

theorem vequal_of_not_int {t : BitVec 5} (h : isInt t = false) (x y : Nat) : vequal t x y = fpCompare .eq t x y :=
  if_neg (by simp [h])

theorem vcompareInt_elements {t : BitVec 5} (ht : intTagOk t = true) :
    ∀ p ∈ vcompareInt, IsCompareForm p.1 t (fun x y => (p.2 (tagWidth t) x y, Fx.none)) := by
  have int := (isInt_eq t).trans ht
  have eq : eqTag t = true := by simp [eqTag, int]
  simp only [vcompareInt, List.forall_mem_cons]
  refine ⟨⟨eqTag, vequal, fun _ _ _ _ _ => rfl, eq, fun x y _ _ => ?_⟩,
    ⟨eqTag, fun t x y => (!(vequal t x y).1, (vequal t x y).2), fun _ _ _ _ _ => rfl, eq, fun x y _ _ => ?_⟩,
    ⟨isInt, vorder true false, fun _ _ _ _ _ => rfl, int, fun x y => vorder_eq⟩,
    ⟨isInt, vorder true true, fun _ _ _ _ _ => rfl, int, fun x y => vorder_eq⟩,
    ⟨isInt, vorder false false, fun _ _ _ _ _ => rfl, int, fun x y hx hy => (vorder_eq hx hy).trans ?_⟩,
    ⟨isInt, vorder false true, fun _ _ _ _ _ => rfl, int, fun x y hx hy => (vorder_eq hx hy).trans ?_⟩, nofun⟩
  · rw [vequal_of_int int]
    rfl
  · simp [vequal_of_int int, beq_eq_decide]
  · simp [readInt_unsigned]
  · simp [readInt_unsigned]

theorem comparable_tags : ∀ {t : BitVec 5}, t.toNat ∈ [0x08, 0x09, 0x0B, 0x0C, 0x0D, 0x0E, 0x0F, 0x10] →
    isInt t = false ∧ eqTag t = true ∧ orderTag t = true := by decide

theorem vcompareFloat_elements {t : BitVec 5} (ht : t.toNat ∈ [0x08, 0x09, 0x0B, 0x0C, 0x0D, 0x0E, 0x0F, 0x10]) :
    ∀ p ∈ vcompareFloat, IsCompareForm p.1 t (p.2 t) := by
  obtain ⟨int, eq, order⟩ := comparable_tags ht
  simp only [vcompareFloat, List.forall_mem_cons]
  exact ⟨⟨eqTag, vequal, fun _ _ _ _ _ => rfl, eq, fun x y _ _ => vequal_of_not_int int x y⟩,
    ⟨eqTag, fun t x y => (!(vequal t x y).1, (vequal t x y).2), fun _ _ _ _ _ => rfl, eq,
      fun x y _ _ => congrArg (fun r : Bool × Fx => (!r.1, r.2)) (vequal_of_not_int int x y)⟩,
    ⟨orderTag, fpCompare .lt, fun _ _ _ _ _ => rfl, order, fun _ _ _ _ => rfl⟩,
    ⟨orderTag, fpCompare .le, fun _ _ _ _ _ => rfl, order, fun _ _ _ _ => rfl⟩, nofun⟩

/-! ### The claims of R137 to R139 -/

theorem vectorFloatAndUnaryFormsWriteEachElement : VectorFloatAndUnaryFormsWriteEachElement := by
  refine ⟨fun d a b pr s u ea eb ready h ok same p hp => ?_,
    fun d a b pr s u v ea eb ed ready hd hroom h ok same samed p hp => ?_,
    fun d a pr s u ea ready h => ⟨fun p hp int => ?_, fun ok => ?_, fun tag => ?_⟩⟩
  · have written := vbinary_yields (vfloatForms_exec p hp d a b pr s) ready h ok (sameTag_of_eq same)
      (fun j => sameElem_of_eq rfl)
    exact ⟨written, fun off => yields_written_of_untrapped off written⟩
  · have hctx := (State.takeV_ctx hd).trans (ready2_ctx ready)
    obtain ⟨⟨s1, ha, hb⟩, -, -⟩ := ready
    have written := elementwise_yields ((vfusedForms_exec p hp d a b pr s).trans
      (vfused_runs p.2 pr ha hb hd h ok same samed)) hctx (State.checkRef_of_takeV hd) hroom (fun j => sameElem_of_eq rfl)
    exact ⟨written, fun off => yields_written_of_untrapped off written⟩
  · obtain ⟨_, op, run, elements⟩ := vunaryIntForms_elements p hp
    obtain ⟨oka, op_eq⟩ := elements ea.tag int
    exact vunary_yields (run d a pr s) ready h oka (fun j => sameElem_of_eq (op_eq _ (elem_lt _ _ _)))
      (quiet_silent _ _ _)
  · have written := vunary_yields (exec_vfsqrt d a pr s) ready h ok (fun j => sameElem_of_eq rfl)
    exact ⟨written, fun off => yields_written_of_untrapped off written⟩
  · obtain ⟨oka, plain⟩ := absTag_of_ieee_or_fp8 tag
    exact ⟨vunary_yields (exec_vfabs d a pr s) ready h oka (fun j => sameElem_of_eq rfl) (quiet_silent _ _ _),
      vunary_yields (exec_vfneg d a pr s) ready h oka
        (fun j => sameElem_of_eq (negElement_of_not_slash plain (elem_lt _ _ _))) (quiet_silent _ _ _)⟩

theorem vectorComparesWriteThePredicate : VectorComparesWriteThePredicate := by
  intro d a b pr s s1 u ea eb ha hb h same
  refine ⟨fun p hp int => ?_, fun p hp tag => ?_⟩
  · have written := vcompare_yields (pr := pr) (d := d) (vcompareInt_elements int p hp) ha hb h same (fun _ => rfl)
      (fun i _ => not_enabledIn_none s)
    rwa [totalFx_none fun _ _ => rfl] at written
  · exact vcompare_yields (vcompareFloat_elements tag p hp) ha hb h same (fun _ => rfl)

end Sys2Proof.Machine

section

open Sys2Proof.Machine

/-- Settles O11: the frames of the elementwise forms with the elements of their tables, and `vcompare_yields` for the
predicate. -/
theorem vectorFloatUnaryAndCompareFormsWriteEachElement : Obligations.VectorFloatUnaryAndCompareFormsWriteEachElement :=
  ⟨vectorFloatAndUnaryFormsWriteEachElement, vectorComparesWriteThePredicate⟩

end

/-! SUPPORT. Outside a gang: the gang vector is the core's own, a reduction sees the codes of its processed elements, and
what each reduction makes of them (R144, R271). -/

namespace Sys2Proof.Machine

open Sys2Proof.Safety Sys2Proof.Claims

/-! ### The gang vector of a core alone (R271) -/

section Own

variable {s : State} (own : s.ctx.team.getLsbD 10 = false)

include own

theorem State.gangMembers_own : s.gangMembers = [] := by
  have gang : s.ctx.gang = false := own
  simp [State.gangMembers, gang]

theorem State.crossSources_own (e : Entry) (n : BitVec 6) : s.crossSources e n = [e] := by
  rw [State.crossSources, State.gangMembers_own own]

theorem State.crossSize_own : s.crossSize = 1 := by
  rw [State.crossSize, State.gangMembers_own own]

theorem State.crossBase_own (w : Nat) : s.crossBase w = 0 := by
  rw [State.crossBase, State.gangMembers_own own]

theorem State.crossActive_own (pr : BitVec 3) (w : Nat) : s.crossActive pr w = s.active pr := by
  funext i
  rw [State.crossActive, State.gangMembers_own own]

theorem State.crossCount_own (w : Nat) : s.crossCount w = countOf s w := by
  rw [State.crossCount, State.crossSize_own own, State.count_eq]
  omega

end Own

theorem vlmax_eq (w : Nat) : vlmax w = vlmaxOf w := rfl

theorem vlmaxOf_tagWidth_pos : ∀ t : BitVec 5, 0 < vlmaxOf (tagWidth t) := by decide

/-- Element k of a gang vector of one entry is that of the entry, and the zero code past its end. -/
theorem crossElem_single (e : Entry) (k : Nat) : crossElem [e] (tagWidth e.tag) e.tag k = sourceElem e k := by
  unfold crossElem sourceElem
  rw [vlmax_eq]
  by_cases h : k < vlmaxOf (tagWidth e.tag)
  · rw [if_pos h, Nat.div_eq_of_lt h, Nat.mod_eq_of_lt h]
    rfl
  · have past : 1 ≤ k / vlmaxOf (tagWidth e.tag) := (Nat.one_le_div_iff (vlmaxOf_tagWidth_pos e.tag)).mpr (not_lt.mp h)
    rw [if_neg h, List.getElem?_eq_none past]

/-! ### The elements that are processed (R20, R67, R130) -/

theorem lt_upTo_iff {s : State} {i n : Nat} : i < s.ctx.upTo n ↔ i < n ∧ within s i = true := by
  unfold Ctx.upTo within
  cases s.ctx.cut with
  | none => simp
  | some c => exact lt_min_iff.trans (and_congr_right' decide_eq_true_iff.symm)

theorem mem_processed_iff {s : State} {t : BitVec 5} {pr : BitVec 3} {i : Nat} : i ∈ processed s (tagWidth t) pr ↔
    startOf s ≤ i ∧ i < countOf s (tagWidth t) ∧ within s i = true ∧ s.active pr i = true := by
  rw [mem_processed (vlmaxOf_tagWidth_le t), lt_upTo_iff]
  tauto

theorem processed_sorted (s : State) (w : Nat) (pr : BitVec 3) : (processed s w pr).Pairwise (· < ·) :=
  (List.pairwise_lt_range.filter _).filter _

theorem State.vsn_eq (s : State) : s.ctx.vsn = startOf s := by simp [Ctx.vsn, bits, startOf]

/-! ### Reductions over the processed codes (R144) -/

theorem State.reduced_own {s : State} (own : s.ctx.team.getLsbD 10 = false) (e : Entry) (pr : BitVec 3) :
    s.reduced [e] pr (tagWidth e.tag) e.tag = codesOf s pr e := by
  have visited : (List.range (s.crossSize * vlmax (tagWidth e.tag))).filter (fun i =>
      s.crossInside (tagWidth e.tag) i && decide (s.ctx.vsn ≤ i % vlmax (tagWidth e.tag))
        && decide (i % vlmax (tagWidth e.tag) < s.ctx.upTo (i % vlmax (tagWidth e.tag) + 1))
        && s.crossActive pr (tagWidth e.tag) i) = processed s (tagWidth e.tag) pr := by
    refine (List.pairwise_lt_range.filter _).eq_of_mem_iff (processed_sorted s _ pr) fun i => ?_
    rw [mem_processed_iff, List.mem_filter, List.mem_range, State.crossSize_own own, State.crossActive_own own, Nat.one_mul]
    simp only [State.crossInside, State.count_eq, State.vsn_eq, lt_upTo_iff, Bool.and_eq_true, decide_eq_true_eq]
    constructor
    · rintro ⟨below, ⟨⟨inside, start⟩, -, cut⟩, active⟩
      rw [Nat.mod_eq_of_lt below] at *
      exact ⟨start, inside, cut, active⟩
    · rintro ⟨start, inside, cut, active⟩
      have below : i < vlmax (tagWidth e.tag) := inside.trans_le (Nat.min_le_right _ _)
      rw [Nat.mod_eq_of_lt below]
      exact ⟨below, ⟨⟨inside, start⟩, i.lt_succ_self, cut⟩, active⟩
  unfold State.reduced codesOf
  rw [visited]
  refine List.map_congr_left fun i hi => ?_
  have below : i < vlmaxOf (tagWidth e.tag) := (mem_processed_iff.mp hi).2.1.trans_le (Nat.min_le_right _ _)
  rw [crossElem_single, sourceElem, if_pos below]

/-- A reduction whose source can be read and carries a tag that fits is its operation on the processed codes. -/
theorem vreduce_runs {s u : State} {ea : Entry} {a : BitVec 6} {ok : BitVec 5 → Bool} (d : BitVec 6) (pr : BitVec 3)
    (op : BitVec 5 → List Nat → Word × Fx) (own : s.ctx.team.getLsbD 10 = false) (ha : s.takeV a = .ok (ea, u))
    (h : startOf s < countOf s (tagWidth ea.tag)) (oka : ok ea.tag = true) {r : Word} {fx : Fx}
    (value : op ea.tag (codesOf s pr ea) = (r, fx)) (off : ¬ enabledIn s fx) :
    vreduce d a pr ok op s = .next (((u.setGr d r).record fx).setVs 0) := by
  have silent : ¬ s.ctx.enabled fx = true := by rwa [Ctx.enabled, bne_iff_ne, ← enabledIn_iff]
  unfold vreduce
  rw [State.ite_idle h, ha]
  dsimp only [bind, Except.bind]
  rw [State.ite_nothing h, oka, State.crossSources_own own, State.reduced_own own, value]
  dsimp only [needTag]
  rw [if_pos rfl]
  dsimp only
  rw [if_neg silent]
  rfl

theorem State.setGr_record_setVs (u : State) (d : BitVec 6) (v : Word) (fx : Fx) :
    ((u.setGr d v).record fx).setVs 0 = ((u.setVs 0).setGr d v).record fx := by
  unfold State.setGr
  split <;> rfl

section Reduced

variable {i : Instr} {s u : State} {ea : Entry} {d a : BitVec 6} {pr : BitVec 3} {ok : BitVec 5 → Bool}
  {op : BitVec 5 → List Nat → Word × Fx} (run : exec i s = vreduce d a pr ok op s) (own : s.ctx.team.getLsbD 10 = false)
  (ha : s.takeV a = .ok (ea, u)) (h : startOf s < countOf s (tagWidth ea.tag)) (oka : ok ea.tag = true)

include run own ha h oka

/-- R144: a reduction writes the value of the processed codes, records its flags and ends with VSTART 0. -/
theorem vreduce_yields {r : Word} {fx : Fx} (value : op ea.tag (codesOf s pr ea) = (r, fx)) (off : ¬ enabledIn s fx) :
    Yields i s (fun t => WroteGFlags { u with ctx := { u.ctx with vstart := 0 } } t d r fx) := by
  refine ⟨_, run.trans (vreduce_runs d pr op own ha h oka value off), ?_⟩
  rw [State.setGr_record_setVs]
  exact State.setGr_wroteGFlags (u.setVs 0) d r fx

/-- The same where the value raises nothing. -/
theorem vreduce_reduced {r : Word} (value : op ea.tag (codesOf s pr ea) = (r, Fx.none)) :
    Yields i s (fun t => Reduced u t d r) :=
  yields_mono (vreduce_yields run own ha h oka value (not_enabledIn_none s)) fun _ wrote => wroteG_of_wroteGFlags wrote

end Reduced

/-! ### Sums and extremes of integers (R144) -/

theorem codesOf_lt {s : State} {pr : BitVec 3} {ea : Entry} : ∀ c ∈ codesOf s pr ea, c < 2 ^ tagWidth ea.tag :=
  List.forall_mem_map.mpr fun _ _ => elem_lt _ _ _

theorem map_intValue_codesOf {s : State} {pr : BitVec 3} {ea : Entry} (int : intTagOk ea.tag = true) :
    (codesOf s pr ea).map (intValue (tagSigned ea.tag) (tagWidth ea.tag)) = intsOf s pr ea :=
  List.map_congr_left fun c hc => by rw [intValue_of_lt (codesOf_lt c hc), tagSigned_of_intTagOk int]

theorem foldl_add_map (l : List Nat) (f : Nat → Int) : l.foldl (fun x c => x + f c) 0 = (l.map f).sum := by
  rw [List.sum_eq_foldl, List.foldl_map]

theorem intMin_eq_leastOf {t : BitVec 5} (int : intTagOk t = true) : intMin (tagSigned t) (tagWidth t) = leastOf t := by
  rw [tagSigned_of_intTagOk int]
  rfl

theorem intMax_eq_greatestOf {t : BitVec 5} (int : intTagOk t = true) :
    intMax (tagSigned t) (tagWidth t) = greatestOf t := by
  rw [tagSigned_of_intTagOk int]
  rfl

/-- The maximum that `vrmax` writes: none above it, and one of the integers or the tag's least. -/
theorem vextreme_max {s : State} {pr : BitVec 3} {ea : Entry} (int : intTagOk ea.tag = true) :
    ∃ m, vextreme true ea.tag (codesOf s pr ea) = (wordI m, Fx.none) ∧ (∀ x ∈ intsOf s pr ea, x ≤ m)
      ∧ (intsOf s pr ea = [] ∧ m = leastOf ea.tag ∨ m ∈ intsOf s pr ea) := by
  have choice : (fun a b : Int => if decide (a < b) = true then b else a) = Max.max := by
    funext a b
    simp only [decide_eq_true_eq, max_def_lt]
  unfold vextreme
  dsimp only
  rw [if_pos ((isInt_eq _).trans int), map_intValue_codesOf int]
  cases intsOf s pr ea with
  | nil => exact ⟨_, rfl, nofun, .inl ⟨rfl, intMin_eq_leastOf int⟩⟩
  | cons x r =>
    obtain ⟨mem, above⟩ := List.max?_eq_some_iff.mp (List.max?_cons' (x := x) (xs := r))
    exact ⟨_, by rw [choice], above, .inr mem⟩

/-- The minimum that `vrmin` writes: none below it, and one of the integers or the tag's greatest. -/
theorem vextreme_min {s : State} {pr : BitVec 3} {ea : Entry} (int : intTagOk ea.tag = true) :
    ∃ m, vextreme false ea.tag (codesOf s pr ea) = (wordI m, Fx.none) ∧ (∀ x ∈ intsOf s pr ea, m ≤ x)
      ∧ (intsOf s pr ea = [] ∧ m = greatestOf ea.tag ∨ m ∈ intsOf s pr ea) := by
  have choice : (fun a b : Int => if decide (a < b) = false then b else a) = Min.min := by
    funext a b
    simp only [decide_eq_false_iff_not, min_def_lt, ite_not]
  unfold vextreme
  dsimp only
  rw [if_pos ((isInt_eq _).trans int), map_intValue_codesOf int]
  cases intsOf s pr ea with
  | nil => exact ⟨_, rfl, nofun, .inl ⟨rfl, intMax_eq_greatestOf int⟩⟩
  | cons x r =>
    obtain ⟨mem, below⟩ := List.min?_eq_some_iff.mp (List.min?_cons' (x := x) (xs := r))
    exact ⟨_, by rw [choice], below, .inr mem⟩

/-- The greatest of a list of naturals and 0. -/
theorem foldl_max_zero (l : List Nat) (f : Nat → Nat) :
    (∀ c ∈ l, f c ≤ l.foldl (fun m c => Nat.max m (f c)) 0)
      ∧ (l.foldl (fun m c => Nat.max m (f c)) 0 = 0 ∨ ∃ c ∈ l, f c = l.foldl (fun m c => Nat.max m (f c)) 0) := by
  have greatest : ((0 :: l.map f).max?) = some (l.foldl (fun m c => Nat.max m (f c)) 0) := by
    rw [List.max?_cons', List.foldl_map]
  obtain ⟨mem, above⟩ := List.max?_eq_some_iff.mp greatest
  refine ⟨fun c hc => above _ (List.mem_cons_of_mem _ (List.mem_map_of_mem hc)), ?_⟩
  exact (List.mem_cons.mp mem).imp id List.mem_map.mp

theorem exec_vrsum (d a : BitVec 6) (pr : BitVec 3) (s : State) : exec (.vrsum d a pr) s = vreduce d a pr isInt (fun t l =>
    (wordI (l.foldl (fun x c => x + intValue (tagSigned t) (tagWidth t) c) 0), .none)) s := rfl

theorem exec_vrmax (d a : BitVec 6) (pr : BitVec 3) (s : State) :
    exec (.vrmax d a pr) s = vreduce d a pr maxTag (vextreme true) s := rfl

theorem exec_vrmin (d a : BitVec 6) (pr : BitVec 3) (s : State) :
    exec (.vrmin d a pr) s = vreduce d a pr maxTag (vextreme false) s := rfl

theorem exec_vramax (d a : BitVec 6) (pr : BitVec 3) (s : State) : exec (.vramax d a pr) s = vreduce d a pr maxTag (fun t l =>
    if isInt t then (word (l.foldl (fun m c => Nat.max m (intValue (tagSigned t) (tagWidth t) c).natAbs) 0), .none)
    else if l = [] then (0, .none)
    else vextreme true t (l.map (fun c => c % 2 ^ (tagWidth t - 1)))) s := rfl

/-! ### The bits of all codes (R144) -/

theorem exec_vrand (d a : BitVec 6) (pr : BitVec 3) (s : State) :
    exec (.vrand d a pr) s = vrbits (fun x y => x &&& y) (BitVec.allOnes 64) d a pr s := rfl

theorem exec_vror (d a : BitVec 6) (pr : BitVec 3) (s : State) :
    exec (.vror d a pr) s = vrbits (fun x y => x ||| y) 0 d a pr s := rfl

theorem exec_vrxor (d a : BitVec 6) (pr : BitVec 3) (s : State) :
    exec (.vrxor d a pr) s = vrbits (fun x y => x ^^^ y) 0 d a pr s := rfl

theorem foldl_and_testBit (x : Nat) (l : List Nat) (j : Nat) :
    (l.foldl (fun x y => x &&& y) x).testBit j = (x :: l).all (fun c => c.testBit j) := by
  induction l generalizing x with
  | nil => simp
  | cons y l ih => simp [ih, Bool.and_assoc]

theorem foldl_or_testBit (x : Nat) (l : List Nat) (j : Nat) :
    (l.foldl (fun x y => x ||| y) x).testBit j = (x :: l).any (fun c => c.testBit j) := by
  induction l generalizing x with
  | nil => simp
  | cons y l ih => simp [ih, Bool.or_assoc]

/-- The codes with bit j set, of which the exclusive or of all has the parity. -/
theorem foldl_xor_testBit (x : Nat) (l : List Nat) (j : Nat) : (l.foldl (fun x y => x ^^^ y) x).testBit j =
    decide (((x :: l).filter (fun c => c.testBit j)).length % 2 = 1) := by
  induction l generalizing x with
  | nil => cases h : x.testBit j <;> simp [h]
  | cons y l ih =>
    rw [List.foldl_cons, ih]
    cases hx : x.testBit j <;> cases hy : y.testBit j <;> simp [hx, hy]
    omega

/-- The codes folded into a word, or the word for none. -/
def foldWord (f : Nat → Nat → Nat) (empty : Word) : List Nat → Word
  | [] => empty
  | x :: r => word (r.foldl f x)

theorem vrbits_eq (f : Nat → Nat → Nat) (empty : Word) (d a : BitVec 6) (pr : BitVec 3) (s : State) :
    vrbits f empty d a pr s = vreduce d a pr bitTag (fun _ l => (foldWord f empty l, .none)) s := by
  refine congrArg (fun op => vreduce d a pr bitTag op s) ?_
  funext _ l
  cases l <;> rfl

theorem word_getLsbD (n : Nat) {j : Nat} (hj : j < 64) : (word n).getLsbD j = n.testBit j := by
  rw [word, BitVec.getLsbD_ofNat, decide_eq_true hj, Bool.true_and]

theorem foldWord_and_getLsbD (l : List Nat) {j : Nat} (hj : j < 64) :
    (foldWord (fun x y => x &&& y) (BitVec.allOnes 64) l).getLsbD j =
      if l = [] then true else l.all (fun c => c.testBit j) := by
  cases l with
  | nil => exact BitVec.getLsbD_allOnes.trans (decide_eq_true hj)
  | cons x r => rw [foldWord, word_getLsbD _ hj, foldl_and_testBit, if_neg (List.cons_ne_nil _ _)]

theorem foldWord_or_getLsbD (l : List Nat) {j : Nat} (hj : j < 64) :
    (foldWord (fun x y => x ||| y) 0 l).getLsbD j = l.any (fun c => c.testBit j) := by
  cases l with
  | nil => simp [foldWord]
  | cons x r => rw [foldWord, word_getLsbD _ hj, foldl_or_testBit]

theorem foldWord_xor_getLsbD (l : List Nat) {j : Nat} (hj : j < 64) :
    (foldWord (fun x y => x ^^^ y) 0 l).getLsbD j = decide ((l.filter (fun c => c.testBit j)).length % 2 = 1) := by
  cases l with
  | nil => simp [foldWord]
  | cons x r => rw [foldWord, word_getLsbD _ hj, foldl_xor_testBit]

/-- A fold of the processed codes into a word is written, with what holds of its bits. -/
theorem vrbits_reduced {i : Instr} {s u : State} {ea : Entry} {d a : BitVec 6} {pr : BitVec 3} {f : Nat → Nat → Nat}
    {empty : Word} {bit_ : Nat → Bool} (run : exec i s = vrbits f empty d a pr s) (own : s.ctx.team.getLsbD 10 = false)
    (ha : s.takeV a = .ok (ea, u)) (h : startOf s < countOf s (tagWidth ea.tag)) (ok : bitTag ea.tag = true)
    (bits_eq : ∀ j, j < 64 → (foldWord f empty (codesOf s pr ea)).getLsbD j = bit_ j) :
    Yields i s (fun t => ∃ v, Reduced u t d v ∧ ∀ j, j < 64 → v.getLsbD j = bit_ j) :=
  yields_mono (vreduce_reduced (run.trans (vrbits_eq f empty d a pr s)) own ha h ok rfl) fun _ wrote => ⟨_, wrote, bits_eq⟩

/-! ### The exact sum of floating elements (R144) -/

/-- What `vrfsum` makes of codes of a tag: their exact sum rounded once, the zero code where there is none. -/
def floatSum (s : State) (t : BitVec 5) (l : List Nat) : Word × Fx :=
  if l = [] then (word (zeroCode t false), .none)
  else
    let vs := l.map (fun c => valueOf t false c)
    let f0 := vs.foldl (fun f v => f.and v.2) Fx.none
    let allNeg := vs.all (fun v => v.1.isZero && v.1.sign)
    let (v, f1) := sumVals (isSlash t) (vs.map (fun v => v.1)) (allNeg || decide (s.ctx.rm = .rd))
    let (c, f2) := roundTo t false v s.ctx.rm s.ctx.satinf
    (word c, f0.and (f1.and f2))

theorem exec_vrfsum (d a : BitVec 6) (pr : BitVec 3) (s : State) :
    exec (.vrfsum d a pr) s = vreduce d a pr s.floatTag (floatSum s) s := rfl

/-- Finite IEEE elements: the exact sum, rounded once, with the flags of that rounding. -/
theorem floatSum_of_finite {t : BitVec 5} {l : List Nat} (s : State) (ht : isIeee t = true) (some : l ≠ [])
    (fin : ∀ c ∈ l, finite ((tagFmt t).ieeeValue c) = true) :
    ∃ x : Val, finite x = true ∧ ratOf x = (l.map (fun c => ratOf ((tagFmt t).ieeeValue c))).sum
      ∧ floatSum s t l = (word (roundIeee (tagFmt t) x s.ctx.rm).1, (roundIeee (tagFmt t) x s.ctx.rm).2) := by
  have silent : (l.map (fun c => ((tagFmt t).ieeeValue c, Fx.none))).foldl (fun f v => f.and v.2) Fx.none = Fx.none := by
    rw [List.foldl_map]
    exact List.foldl_fixed' (fun _ => Fx.none_and _) l
  unfold floatSum
  simp only [if_neg some, valueOf_of_isIeee ht, isSlash_of_isIeee ht, roundTo_of_isIeee ht, silent, List.map_map,
    Function.comp_def]
  generalize ((l.map (fun c => ((tagFmt t).ieeeValue c, Fx.none))).all (fun v => v.1.isZero && v.1.sign)
    || decide (s.ctx.rm = .rd)) = zneg
  obtain ⟨hx, total, still⟩ := sumVals_of_finite false zneg (List.forall_mem_map.mpr fin)
    (List.forall_mem_map.mpr fun c _ => Fmt.ieeeValue_den_pos _ _)
  refine ⟨_, hx, total.trans (by rw [List.map_map]; rfl), ?_⟩
  rw [still, Fx.none_and, Fx.none_and]

theorem isIeee_of_mem : ∀ {t : BitVec 5}, t.toNat ∈ [0x0B, 0x0C, 0x0D, 0x0E] → isIeee t = true := by decide

end Sys2Proof.Machine

section

open Sys2Proof Sys2Proof.Machine Sys2Proof.Safety Sys2Proof.Claims

/-- Settles O14: `vreduce_yields` on the codes of the processed elements, with what each reduction makes of them. -/
theorem reductionsCombineTheProcessedElements : Obligations.ReductionsCombineTheProcessedElements := by
  intro d a pr s u ea own ha h
  refine ⟨fun int => ?_, fun ok off => ?_, fun tag some fin => ?_⟩
  · have oki : isInt ea.tag = true := (isInt_eq _).trans int
    have okm : maxTag ea.tag = true := by simp [maxTag, oki]
    have okb : bitTag ea.tag = true := by simp [bitTag, oki]
    have ints := map_intValue_codesOf (s := s) (pr := pr) int
    refine ⟨?_, ?_, ?_, ?_, ?_, ?_, ?_⟩
    · exact vreduce_reduced (exec_vrsum d a pr s) own ha h oki
        (congrArg (fun x => (wordI x, Fx.none)) ((foldl_add_map _ _).trans (congrArg List.sum ints)))
    · obtain ⟨m, value, above, mem⟩ := vextreme_max (s := s) (pr := pr) int
      exact ⟨m, vreduce_reduced (exec_vrmax d a pr s) own ha h okm value, above, mem⟩
    · obtain ⟨m, value, below, mem⟩ := vextreme_min (s := s) (pr := pr) int
      exact ⟨m, vreduce_reduced (exec_vrmin d a pr s) own ha h okm value, below, mem⟩
    · obtain ⟨above, mem⟩ := foldl_max_zero (codesOf s pr ea)
        (fun c => (intValue (tagSigned ea.tag) (tagWidth ea.tag) c).natAbs)
      refine ⟨_, vreduce_reduced (exec_vramax d a pr s) own ha h okm (if_pos oki), ?_, ?_⟩
      · rw [← ints]
        exact List.forall_mem_map.mpr above
      · rw [← ints]
        exact mem.imp id fun ⟨c, hc, e⟩ => ⟨_, List.mem_map_of_mem hc, e⟩
    · exact vrbits_reduced (exec_vrand d a pr s) own ha h okb fun j => foldWord_and_getLsbD _
    · exact vrbits_reduced (exec_vror d a pr s) own ha h okb fun j => foldWord_or_getLsbD _
    · exact vrbits_reduced (exec_vrxor d a pr s) own ha h okb fun j => foldWord_xor_getLsbD _
  · exact yields_mono (vreduce_yields (exec_vrfsum d a pr s) own ha h ok rfl (not_enabledIn_of_untrapped off _))
      fun _ wrote => ⟨_, _, wrote⟩
  · obtain ⟨x, hx, total, value⟩ := floatSum_of_finite s (isIeee_of_mem tag) some fin
    have ok : s.floatTag ea.tag = true := by simp [State.floatTag, isIeee_of_mem tag]
    exact ⟨x, hx, total, vreduce_yields (exec_vrfsum d a pr s) own ha h ok value⟩

end

/-! SUPPORT. An elementwise form over elements that a test of its own selects, and the permutes of one and of two sources
outside a gang (R130, R134, R145). -/

namespace Sys2Proof.Machine

open Sys2Proof.Safety Sys2Proof.Claims

/-! ### Elements that a test selects (R130) -/

/-- A sorted list of the elements that a test selects, from VSTART to the count and below a broken chain, is what the run
visits. -/
theorem eq_selectedFrom {s : State} {w : Nat} {act : Nat → Bool} {l : List Nat} (sorted : l.Pairwise (· < ·))
    (mem : ∀ i, i ∈ l ↔ startOf s ≤ i ∧ i < countOf s w ∧ within s i = true ∧ act i = true) :
    l = selectedFrom act (s.ctx.upTo (countOf s w) - startOf s) (startOf s) := by
  refine sorted.eq_of_mem_iff ((List.pairwise_lt_range' 1).filter _) fun i => ?_
  have inside := lt_upTo_iff (s := s) (i := i) (n := countOf s w)
  rw [mem, selectedFrom, List.mem_filter, List.mem_range'_1, ← and_assoc, ← and_assoc, and_assoc (a := startOf s ≤ i),
    ← inside]
  exact and_congr_left' (by omega)

/-- R130 and R95: such a form whose destination can be written is the run over its elements, from the entry's own bits or
from a fresh queue entry. -/
theorem elementwiseOn_runs {s u : State} {d : BitVec 6} (act : Nat → Bool) (all : Bool) (tag : BitVec 5) (op : Nat → Nat × Fx)
    (hctx : u.ctx = s.ctx) (href : u.checkRef (u.vref d) = .ok ()) (hroom : u.checkRoom (u.vref d) = .ok ()) :
    ∃ full start, (∀ i, i < 8192 / tagWidth tag → elem (tagWidth tag) start i = restOf (zeroOf tag) u d tag i) ∧
      elementwiseOn s u d act all tag (tagWidth tag) op = writeRun s u (u.vref d) tag full
        (elemLoop (tagWidth tag) act op s.ctx.enables
          (s.ctx.upTo (countOf s (tagWidth tag)) - startOf s) (startOf s) start .none) := by
  have count : u.count (tagWidth tag) = countOf s (tagWidth tag) := by
    rw [State.count_eq, countOf, hctx, countOf]
  unfold elementwiseOn elementwiseN elementwiseZ restOf
  dsimp only
  rw [href, hroom, count, hctx, State.vsn_eq]
  cases u.vref d with
  | entry e => exact ⟨_, _, fun _ _ => rfl, rfl⟩
  | queue q => exact ⟨_, _, fun _ hi => elem_zeroData hi, rfl⟩

/-- Such a form whose elements record nothing writes the elements that it visits. -/
theorem elementwiseOn_writes {s u : State} {d : BitVec 6} {act : Nat → Bool} {all : Bool} {tag : BitVec 5} {f : Nat → Nat}
    {l : List Nat} (hctx : u.ctx = s.ctx) (href : u.checkRef (u.vref d) = .ok ()) (hroom : u.checkRoom (u.vref d) = .ok ())
    (visited : l = selectedFrom act (s.ctx.upTo (countOf s (tagWidth tag)) - startOf s) (startOf s)) :
    ∃ t, elementwiseOn s u d act all tag (tagWidth tag) (fun i => (f i, Fx.none)) = .ok t
      ∧ WroteOn u t d l tag (fun i => (f i, Fx.none)) := by
  obtain ⟨full, start, rest, run⟩ := elementwiseOn_runs act all tag (fun i => (f i, Fx.none)) hctx href hroom
  obtain ⟨stop, flags, data⟩ := elemLoop_quiet (w := tagWidth tag) (op := fun i => (f i, Fx.none)) (en := s.ctx.enables)
    (active := act) _ _ start .none (fun _ _ => BitVec.zero_and)
  obtain ⟨v, htag, hdata, clean, written⟩ := writeRun_done (s := s) (u := u) (r := u.vref d) (tag := tag) (full := full) stop
  rw [← visited] at flags data
  refine ⟨_, run.trans written, v, htag, fun i hi => ?_, clean, ?_⟩
  · rw [hdata, data i hi, rest i hi]
  · rw [flags, State.record, Ctx.record_eq]
    rfl

/-! ### The permutes of one source (R145) -/

theorem permTag_of_tagged {t : BitVec 5} (h : taggedOk t) : permTag t = true := logicalTag_of_tagged h.1 h.2

theorem vpermute_runs {s u : State} {ea : Entry} {a : BitVec 6} (d : BitVec 6) (pr : BitVec 3) (act : Nat → Nat → Bool)
    (pick : Nat → Nat → Nat) {needStart0 : Bool} (own : s.ctx.team.getLsbD 10 = false) (ha : s.takeV a = .ok (ea, u))
    (h : startOf s < countOf s (tagWidth ea.tag)) (tagged : taggedOk ea.tag) (whole : needStart0 = true → startOf s = 0) :
    vpermute d a pr act pick needStart0 s = finish s (elementwiseOn s u d (act (tagWidth ea.tag)) (pr == 0 && !needStart0)
      ea.tag (tagWidth ea.tag) (fun i => (sourceElem ea (pick (tagWidth ea.tag) i), Fx.none))) := by
  have goes : ¬ (needStart0 && decide (s.ctx.vsn ≠ 0)) = true := by
    rw [State.vsn_eq, Bool.and_eq_true, decide_eq_true_eq]
    exact fun ⟨need, on⟩ => on (whole need)
  unfold vpermute
  rw [State.ite_idle h, ha]
  dsimp only [bind, Except.bind]
  rw [State.ite_nothing h, if_neg goes, permTag_of_tagged tagged]
  simp only [State.crossSources_own own, State.crossBase_own own, Nat.zero_add, crossElem_single]
  rfl

/-- R145: a permute of one source writes the elements that it visits, each the source element that its table names. -/
theorem vpermute_yields {i : Instr} {s u : State} {ea : Entry} {d a : BitVec 6} {pr : BitVec 3} {act : Nat → Nat → Bool}
    {pick : Nat → Nat → Nat} {needStart0 : Bool} {l : List Nat} (run : exec i s = vpermute d a pr act pick needStart0 s)
    (own : s.ctx.team.getLsbD 10 = false) (ready : ready1 s d a ea u) (h : startOf s < countOf s (tagWidth ea.tag))
    (tagged : taggedOk ea.tag) (whole : needStart0 = true → startOf s = 0) (sorted : l.Pairwise (· < ·))
    (mem : ∀ i, i ∈ l ↔
      startOf s ≤ i ∧ i < countOf s (tagWidth ea.tag) ∧ within s i = true ∧ act (tagWidth ea.tag) i = true) :
    Yields i s (fun t => WroteOn u t d l ea.tag (fun i => (sourceElem ea (pick (tagWidth ea.tag) i), Fx.none))) := by
  obtain ⟨ha, href, hroom⟩ := ready
  obtain ⟨t, done, wrote⟩ := elementwiseOn_writes (s := s) (all := pr == 0 && !needStart0)
    (f := fun i => sourceElem ea (pick (tagWidth ea.tag) i)) (State.takeV_ctx ha) href hroom (eq_selectedFrom sorted mem)
  rw [vpermute_runs d pr act pick own ha h tagged whole, done] at run
  exact ⟨t, run, wrote⟩

/-- The same over the processed elements. -/
theorem vpermute_processed {i : Instr} {s u : State} {ea : Entry} {d a : BitVec 6} {pr : BitVec 3} {pick : Nat → Nat → Nat}
    (run : exec i s = vpermute d a pr (fun w i => s.crossActive pr w i) pick false s)
    (own : s.ctx.team.getLsbD 10 = false) (ready : ready1 s d a ea u) (h : startOf s < countOf s (tagWidth ea.tag))
    (tagged : taggedOk ea.tag) : Yields i s (fun t => WroteOn u t d (processed s (tagWidth ea.tag) pr) ea.tag
      (fun i => (sourceElem ea (pick (tagWidth ea.tag) i), Fx.none))) := by
  refine vpermute_yields run own ready h tagged nofun (processed_sorted _ _ _) fun i => ?_
  rw [State.crossActive_own own, mem_processed_iff]

/-- R134 and R145: the permutes that need VSTART 0 write nothing where it is another, and clear it. -/
theorem vpermute_restart {s u : State} {ea : Entry} {a : BitVec 6} (d : BitVec 6) (pr : BitVec 3) (act : Nat → Nat → Bool)
    (pick : Nat → Nat → Nat) (ha : s.takeV a = .ok (ea, u)) (h : startOf s < countOf s (tagWidth ea.tag))
    (on : startOf s ≠ 0) : vpermute d a pr act pick true s = .next { s with ctx := { s.ctx with vstart := 0 } } := by
  have stops : (true && decide (s.ctx.vsn ≠ 0)) = true := by simpa [State.vsn_eq] using on
  unfold vpermute
  rw [State.ite_idle h, ha]
  dsimp only [bind, Except.bind]
  rw [State.ite_nothing h, if_pos stops]
  rfl

/-! ### The selected elements (R145) -/

theorem mem_selectedOf {s : State} {t : BitVec 5} {pr : BitVec 3} {i : Nat} :
    i ∈ selectedOf s (tagWidth t) pr ↔ i < countOf s (tagWidth t) ∧ s.active pr i = true := by
  rw [selectedOf, List.mem_filter, List.mem_range]
  refine and_congr_right fun hi => ?_
  have small : i < 1024 := (hi.trans_le (Nat.min_le_right _ _)).trans_le (vlmaxOf_tagWidth_le t)
  unfold State.active State.pr
  by_cases h : pr = 0
  · rw [if_pos h, BitVec.getLsbD_allOnes]
    simp [h, small]
  · rw [if_neg h, beq_false_of_ne h, Bool.false_or]

theorem State.selected_own {s : State} (own : s.ctx.team.getLsbD 10 = false) (pr : BitVec 3) (t : BitVec 5) :
    s.selected pr (tagWidth t) = selectedOf s (tagWidth t) pr := by
  refine (List.pairwise_lt_range.filter _).eq_of_mem_iff (List.pairwise_lt_range.filter _) fun i => ?_
  rw [mem_selectedOf, List.mem_filter, List.mem_range, State.crossSize_own own, State.crossActive_own own, Nat.one_mul,
    State.crossInside, State.count_eq, Bool.and_eq_true, decide_eq_true_eq, ← and_assoc]
  refine and_congr_left' ⟨fun ⟨below, inside⟩ => by rwa [Nat.mod_eq_of_lt below] at inside, fun inside => ?_⟩
  have below : i < vlmax (tagWidth t) := inside.trans_le (Nat.min_le_right _ _)
  rw [Nat.mod_eq_of_lt below]
  exact ⟨below, inside⟩

theorem length_selectedOf_le (s : State) (w : Nat) (pr : BitVec 3) : (selectedOf s w pr).length ≤ countOf s w :=
  (List.length_filter_le _ _).trans_eq List.length_range

/-- The element that `vunzip` moves to place i of n: the even ones first, then the odd. -/
def unzipPick (n i : Nat) : Nat := if i < (n + 1) / 2 then 2 * i else 2 * (i - (n + 1) / 2) + 1

theorem exec_vslidedn (d a b : BitVec 6) (pr : BitVec 3) (s : State) : exec (.vslidedn d a b pr) s =
    vpermute d a pr (fun w i => s.crossActive pr w i) (fun _ i => i + (s.gr b).toNat) false s := rfl

theorem exec_vbcast (d a b : BitVec 6) (pr : BitVec 3) (s : State) : exec (.vbcast d a b pr) s =
    vpermute d a pr (fun w i => s.crossActive pr w i) (fun _ _ => (s.gr b).toNat) false s := rfl

theorem exec_vunzip (d a : BitVec 6) (pr : BitVec 3) (s : State) : exec (.vunzip d a pr) s =
    vpermute d a pr (fun w i => s.crossActive pr w i) (fun w i => unzipPick (s.crossCount w) i) false s := rfl

theorem exec_vslideup (d a b : BitVec 6) (pr : BitVec 3) (s : State) : exec (.vslideup d a b pr) s =
    vpermute d a pr (fun w i => s.crossActive pr w i && decide ((s.gr b).toNat ≤ i)) (fun _ i => i - (s.gr b).toNat) false s :=
  rfl

theorem exec_vcompress (d a : BitVec 6) (pr : BitVec 3) (s : State) : exec (.vcompress d a pr) s =
    vpermute d a pr (fun w i => decide (i < (s.selected pr w).length)) (fun w i => (s.selected pr w).getD i 0) true s := rfl

theorem exec_vexpand (d a : BitVec 6) (pr : BitVec 3) (s : State) : exec (.vexpand d a pr) s =
    vpermute d a pr (fun w i => s.crossActive pr w i)
      (fun w i => ((s.selected pr w).filter (fun j => decide (j < i))).length) true s := rfl

section Permuted

variable {s u : State} {ea : Entry} {d a : BitVec 6} {pr : BitVec 3} (own : s.ctx.team.getLsbD 10 = false)
  (ready : ready1 s d a ea u) (h : startOf s < countOf s (tagWidth ea.tag)) (tagged : taggedOk ea.tag)

include own ready h tagged

theorem vunzip_yields : Yields (.vunzip d a pr) s (fun t => WroteOn u t d (processed s (tagWidth ea.tag) pr) ea.tag
    (fun i => (sourceElem ea (unzipPick (countOf s (tagWidth ea.tag)) i), Fx.none))) := by
  simpa only [State.crossCount_own own] using vpermute_processed (exec_vunzip d a pr s) own ready h tagged

theorem vslideup_yields (b : BitVec 6) : Yields (.vslideup d a b pr) s (fun t =>
    WroteOn u t d ((processed s (tagWidth ea.tag) pr).filter (fun i => decide ((s.gr b).toNat ≤ i))) ea.tag
      (fun i => (sourceElem ea (i - (s.gr b).toNat), Fx.none))) := by
  refine vpermute_yields (exec_vslideup d a b pr s) own ready h tagged nofun ((processed_sorted _ _ _).filter _) fun i => ?_
  rw [List.mem_filter, mem_processed_iff, State.crossActive_own own, Bool.and_eq_true]
  tauto

theorem vcompress_yields (whole : startOf s = 0) : Yields (.vcompress d a pr) s (fun t =>
    WroteOn u t d ((List.range (selectedOf s (tagWidth ea.tag) pr).length).filter (within s)) ea.tag
      (fun i => (sourceElem ea ((selectedOf s (tagWidth ea.tag) pr).getD i 0), Fx.none))) := by
  have fits := length_selectedOf_le s (tagWidth ea.tag) pr
  have mem (i : Nat) : i ∈ (List.range (selectedOf s (tagWidth ea.tag) pr).length).filter (within s) ↔
      startOf s ≤ i ∧ i < countOf s (tagWidth ea.tag) ∧ within s i = true
        ∧ decide (i < (s.selected pr (tagWidth ea.tag)).length) = true := by
    rw [List.mem_filter, List.mem_range, State.selected_own own, whole, decide_eq_true_eq]
    exact ⟨fun ⟨below, cut⟩ => ⟨i.zero_le, below.trans_le fits, cut, below⟩, fun ⟨_, _, cut, below⟩ => ⟨below, cut⟩⟩
  simpa only [State.selected_own own] using vpermute_yields (exec_vcompress d a pr s) own ready h tagged (fun _ => whole)
    (List.pairwise_lt_range.filter _) mem

theorem vexpand_yields (whole : startOf s = 0) : Yields (.vexpand d a pr) s (fun t =>
    WroteOn u t d ((selectedOf s (tagWidth ea.tag) pr).filter (within s)) ea.tag (fun i =>
      (sourceElem ea ((selectedOf s (tagWidth ea.tag) pr).filter (fun j => decide (j < i))).length, Fx.none))) := by
  have sorted : (selectedOf s (tagWidth ea.tag) pr).Pairwise (· < ·) := List.pairwise_lt_range.filter _
  have mem (i : Nat) : i ∈ (selectedOf s (tagWidth ea.tag) pr).filter (within s) ↔ startOf s ≤ i
      ∧ i < countOf s (tagWidth ea.tag) ∧ within s i = true ∧ s.crossActive pr (tagWidth ea.tag) i = true := by
    rw [List.mem_filter, mem_selectedOf, State.crossActive_own own, whole]
    exact ⟨fun ⟨⟨below, active⟩, cut⟩ => ⟨i.zero_le, below, cut, active⟩,
      fun ⟨_, below, cut, active⟩ => ⟨⟨below, active⟩, cut⟩⟩
  simpa only [State.selected_own own] using vpermute_yields (exec_vexpand d a pr s) own ready h tagged (fun _ => whole)
    (sorted.filter _) mem

end Permuted

/-! ### The permutes of two sources (R145) -/

theorem vgather_runs {s s1 u : State} {ea eb : Entry} {a b : BitVec 6} (d : BitVec 6) (pr : BitVec 3)
    (own : s.ctx.team.getLsbD 10 = false) (ha : s.takeV a = .ok (ea, s1)) (hb : s1.takeV b = .ok (eb, u))
    (h : startOf s < countOf s (tagWidth ea.tag)) (tagged : taggedOk ea.tag) (int : intTagOk eb.tag = true)
    (same : tagWidth eb.tag = tagWidth ea.tag) : exec (.vgather d a b pr) s = finish s (elementwise s u d pr ea.tag
      (tagWidth ea.tag) (fun i => (sourceElem ea (elem (tagWidth ea.tag) eb.data i), Fx.none))) := by
  have oki : isInt eb.tag = true := (isInt_eq _).trans int
  show execVgather d a b pr s = _
  unfold execVgather
  rw [State.ite_idle h, ha]
  dsimp only [bind, Except.bind]
  rw [hb]
  dsimp only
  rw [State.ite_nothing h, permTag_of_tagged tagged, oki, same, beq_self_eq_true]
  simp only [State.crossSources_own own, crossElem_single]
  rfl

theorem vzip_runs {s s1 u : State} {ea eb : Entry} {a b : BitVec 6} (d : BitVec 6) (pr : BitVec 3)
    (own : s.ctx.team.getLsbD 10 = false) (ha : s.takeV a = .ok (ea, s1)) (hb : s1.takeV b = .ok (eb, u))
    (h : startOf s < countOf s (tagWidth ea.tag)) (tagged : taggedOk ea.tag) (same : eb.tag = ea.tag) :
    exec (.vzip d a b pr) s = finish s (elementwise s u d pr ea.tag (tagWidth ea.tag)
      (fun i => (sourceElem (if i % 2 = 0 then ea else eb) (i / 2), Fx.none))) := by
  have turns (i : Nat) : (if i % 2 = 0 then sourceElem ea (i / 2) else sourceElem eb (i / 2)) =
      sourceElem (if i % 2 = 0 then ea else eb) (i / 2) := by split <;> rfl
  have fromb (i : Nat) : crossElem [eb] (tagWidth ea.tag) ea.tag i = sourceElem eb i := by
    rw [← same, crossElem_single]
  show execVzip d a b pr s = _
  unfold execVzip
  rw [State.ite_idle h, ha]
  dsimp only [bind, Except.bind]
  rw [hb]
  dsimp only
  rw [State.ite_nothing h, permTag_of_tagged tagged, same, beq_self_eq_true]
  simp only [State.crossSources_own own, State.crossBase_own own, Nat.zero_add, crossElem_single, fromb, turns]
  rfl

end Sys2Proof.Machine

section

open Sys2Proof.Machine Sys2Proof.Claims

/-- Settles O15: the frames of the permutes of one and of two sources, with the elements that each visits. -/
theorem permutesMoveTheElementsOfTheirTable : Obligations.PermutesMoveTheElementsOfTheirTable := by
  intro d a b pr s u ea own ready h tagged
  have ha : s.takeV a = .ok (ea, u) := ready.1
  have ctx {eb : Entry} {v : State} (hb : u.takeV b = .ok (eb, v)) : v.ctx = s.ctx :=
    (State.takeV_ctx hb).trans (State.takeV_ctx ha)
  refine ⟨⟨vslideup_yields own ready h tagged b, ?_, ?_, ?_, vcompress_yields own ready h tagged,
    vexpand_yields own ready h tagged, fun on => ?_⟩, fun eb v hb href hroom => ⟨fun int same => ?_, fun same => ?_⟩⟩
  · exact vpermute_processed (exec_vslidedn d a b pr s) own ready h tagged
  · exact vpermute_processed (exec_vbcast d a b pr s) own ready h tagged
  · exact vunzip_yields own ready h tagged
  · simp only [List.forall_mem_cons]
    exact ⟨⟨_, (exec_vcompress d a pr s).trans (vpermute_restart d pr _ _ ha h on), rfl⟩,
      ⟨_, (exec_vexpand d a pr s).trans (vpermute_restart d pr _ _ ha h on), rfl⟩, nofun⟩
  · exact elementwise_yields (vgather_runs d pr own ha hb h tagged int same) (ctx hb) href hroom
      (fun _ => sameElem_of_eq rfl) (quiet_silent _ _ _)
  · exact elementwise_yields (vzip_runs d pr own ha hb h tagged same) (ctx hb) href hroom
      (fun _ => sameElem_of_eq rfl) (quiet_silent _ _ _)

end

/-! SUPPORT. Whole entries and their bits, reversed digits, the moves between entries, registers and predicates, and the
length instructions (R146 to R150). -/

namespace Sys2Proof.Machine

open Sys2Proof.Safety Sys2Proof.Claims

/-! ### The frames of whole entries (R134, R146) -/

/-- A whole-entry form on a source that is ready writes the entry that it makes of it. -/
theorem vwhole_yields {i : Instr} {s u : State} {ea : Entry} {d a : BitVec 6} {ok : BitVec 5 → Bool}
    {op : Entry → BitVec 5 × Lanes} {bit_ : Nat → Bool} (run : exec i s = vwhole d a ok op s) (ready : ready1 s d a ea u)
    (oka : ok ea.tag = true) (bits_eq : ∀ j, j < 8192 → (op ea).2.getLsbD j = bit_ j) :
    Yields i s (fun t => WroteWhole u t d (op ea).1 bit_) := by
  obtain ⟨ha, href, hroom⟩ := ready
  have done : vwhole d a ok op s = .next (u.putRef (u.vref d) ⟨(op ea).1, (op ea).2, false⟩) := by
    unfold vwhole
    rw [ha]
    dsimp only [bind, Except.bind]
    rw [oka, href, hroom]
    rfl
  exact ⟨_, run.trans done, _, rfl, rfl, bits_eq, rfl⟩

/-- A funnel shift whose sources carry one tag writes the bits that it takes from them. -/
theorem vfunnel_yields {i : Instr} {s u v : State} {ea ed : Entry} {d a b : BitVec 6} {f : Nat → Nat → Nat → Nat}
    {bit_ : Nat → Bool} (run : exec i s = vfunnel f d a b s) (ha : s.takeV a = .ok (ea, u)) (hd : u.takeV d = .ok (ed, v))
    (hroom : v.checkRoom (v.vref d) = .ok ()) (tagged : taggedOk ea.tag) (same : ed.tag = ea.tag)
    (bits_eq : ∀ j, j < 8192 → (f ed.data.toNat ea.data.toNat ((s.gr b).toNat % 2 ^ 13)).testBit j = bit_ j) :
    Yields i s (fun t => WroteWhole v t d ea.tag bit_) := by
  have amount : bits (s.gr b) 12 0 = (s.gr b).toNat % 2 ^ 13 := by simp [bits]
  have done : vfunnel f d a b s = .next (v.putRef (v.vref d)
      ⟨ea.tag, BitVec.ofNat 8192 (f ed.data.toNat ea.data.toNat ((s.gr b).toNat % 2 ^ 13)), false⟩) := by
    unfold vfunnel
    rw [ha]
    dsimp only [bind, Except.bind]
    rw [hd]
    dsimp only
    rw [permTag_of_tagged tagged, same, beq_self_eq_true, hroom, amount]
    rfl
  refine ⟨_, run.trans done, ⟨ea.tag, BitVec.ofNat 8192 _, false⟩, rfl, rfl, fun j hj => ?_, rfl⟩
  rw [BitVec.getLsbD_ofNat, decide_eq_true hj, Bool.true_and, bits_eq j hj]

/-! ### The bits of shifted entries (R146) -/

/-- Bit j of two entries side by side. -/
theorem pair_testBit {n : Nat} (hi lo : BitVec n) (j : Nat) : (hi.toNat * 2 ^ n + lo.toNat).testBit j =
    if j < n then lo.getLsbD j else hi.getLsbD (j - n) := by
  rw [Nat.mul_comm, Nat.testBit_two_pow_mul_add _ lo.isLt, BitVec.testBit_toNat, BitVec.testBit_toNat]

theorem funnelLeft_testBit {n k j : Nat} (hi lo : BitVec n) (hk : k < n) :
    ((hi.toNat * 2 ^ n + lo.toNat) / 2 ^ (n - k)).testBit j =
      if k ≤ j then hi.getLsbD (j - k) else lo.getLsbD (n + j - k) := by
  rw [Nat.testBit_div_two_pow, pair_testBit]
  by_cases h : k ≤ j
  · rw [if_pos h, if_neg (by omega)]
    congr 1
    omega
  · rw [if_neg h, if_pos (by omega)]
    congr 1
    omega

theorem funnelRight_testBit {n : Nat} (hi lo : BitVec n) (k j : Nat) : ((hi.toNat * 2 ^ n + lo.toNat) / 2 ^ k).testBit j =
    if j + k < n then lo.getLsbD (j + k) else hi.getLsbD (j + k - n) := by
  rw [Nat.testBit_div_two_pow, pair_testBit]

theorem clzNat_toNat {n : Nat} (x : BitVec n) :
    clzNat n x.toNat = ((List.range n).takeWhile (fun i => !x.getLsbD (n - 1 - i))).length := clzNat_eq x.isLt

theorem popAux_toNat {n : Nat} (x : BitVec n) :
    popAux n x.toNat = ((List.range n).filter (fun i => x.getLsbD i)).length := popAux_eq n x.toNat

/-! ### Reversed digits (R146) -/

/-- Bit j of reversed digits: that of the digit counted from the other end, and above them of what came before. -/
theorem revDigits_testBit {k : Nat} (hk : 0 < k) (n x acc j : Nat) : (revDigits k n x acc).testBit j =
    if j < k * n then x.testBit (k * (n - 1 - j / k) + j % k) else acc.testBit (j - k * n) := by
  induction n generalizing x acc with
  | zero => simp [revDigits]
  | succ n ih =>
    rw [revDigits, ih, Nat.testBit_div_two_pow, Nat.mul_comm acc, Nat.testBit_two_pow_mul_add _ (Nat.mod_lt _ (Nat.two_pow_pos k)),
      Nat.testBit_mod_two_pow, Nat.mul_succ]
    by_cases low : j < k * n
    · have digit : j / k < n := Nat.div_lt_of_lt_mul low
      rw [if_pos low, if_pos (by omega), show n + 1 - 1 - j / k = n - 1 - j / k + 1 by omega, Nat.mul_succ]
      congr 1
      omega
    · rw [if_neg low]
      by_cases top : j < k * n + k
      · have digit : j / k = n := Nat.div_eq_of_lt_le (by rw [Nat.mul_comm]; omega) (by rw [Nat.succ_mul, Nat.mul_comm n]; omega)
        have rest : j % k = j - k * n := by rw [Nat.mod_def, digit]
        simp [top, digit, rest, show j - k * n < k by omega]
      · rw [if_neg top, if_neg (by omega)]
        congr 1
        omega

theorem revBits_testBit (w x : Nat) {j : Nat} (hj : j < w) : (revDigits 1 w x 0).testBit j = x.testBit (w - 1 - j) := by
  rw [revDigits_testBit one_pos, if_pos (by omega)]
  simp [Nat.mod_one]

theorem revBytes_testBit {w : Nat} (x : Nat) (bytes : 8 ∣ w) {j : Nat} (hj : j < w) :
    (revDigits 8 (w / 8) x 0).testBit j = x.testBit (w - 8 - j / 8 * 8 + j % 8) := by
  obtain ⟨n, rfl⟩ := bytes
  rw [revDigits_testBit (by decide), Nat.mul_div_cancel_left n (by decide), if_pos hj]
  congr 1
  omega

theorem byte_dvd_tagWidth : ∀ t : BitVec 5, 8 ∣ tagWidth t := by decide

/-! ### The claims of R146 -/

theorem exec_vshlw (d a b : BitVec 6) (s : State) : exec (.vshlw d a b) s =
    vwhole d a permTag (fun e => (e.tag, e.data <<< bits (s.gr b) 12 0)) s := rfl

theorem exec_vshrw (d a b : BitVec 6) (s : State) : exec (.vshrw d a b) s =
    vwhole d a permTag (fun e => (e.tag, e.data >>> bits (s.gr b) 12 0)) s := rfl

theorem exec_vclzw (d a : BitVec 6) (s : State) : exec (.vclzw d a) s =
    vwhole d a permTag (fun e => (tI64, BitVec.ofNat 8192 (clzNat 8192 e.data.toNat))) s := rfl

theorem exec_vpopw (d a : BitVec 6) (s : State) : exec (.vpopw d a) s =
    vwhole d a permTag (fun e => (tI64, BitVec.ofNat 8192 (popAux 8192 e.data.toNat))) s := rfl

theorem exec_vfunl (d a b : BitVec 6) (s : State) : exec (.vfunl d a b) s =
    vfunnel (fun vd va k => (vd * 2 ^ 8192 + va) / 2 ^ (8192 - k)) d a b s := rfl

theorem exec_vfunr (d a b : BitVec 6) (s : State) : exec (.vfunr d a b) s =
    vfunnel (fun vd va k => (va * 2 ^ 8192 + vd) / 2 ^ k) d a b s := rfl

theorem exec_vrevb (d a : BitVec 6) (pr : BitVec 3) (s : State) : exec (.vrevb d a pr) s =
    vunary d a pr permTag (fun t x => (revDigits 1 (tagWidth t) x 0, .none)) s := rfl

theorem exec_vbswap (d a : BitVec 6) (pr : BitVec 3) (s : State) : exec (.vbswap d a pr) s =
    vunary d a pr permTag (fun t x => (revDigits 8 (tagWidth t / 8) x 0, .none)) s := rfl

theorem bitInstructionsMoveWholeEntries : BitInstructionsMoveWholeEntries := by
  refine ⟨fun d a b s u ea ready tagged => ?_, fun d a pr s u ea ready h tagged => ?_⟩
  · have ok := permTag_of_tagged tagged
    have amount : bits (s.gr b) 12 0 = (s.gr b).toNat % 2 ^ 13 := by simp [bits]
    have small : (s.gr b).toNat % 2 ^ 13 < 8192 := Nat.mod_lt _ (by decide)
    refine ⟨vwhole_yields (exec_vshlw d a b s) ready ok fun j hj => ?_, vwhole_yields (exec_vshrw d a b s) ready ok fun j hj => ?_,
      vwhole_yields (exec_vclzw d a s) ready ok fun j hj => ?_, vwhole_yields (exec_vpopw d a s) ready ok fun j hj => ?_,
      fun ed v hd hroom same => ⟨vfunnel_yields (exec_vfunl d a b s) ready.1 hd hroom tagged same fun j hj => ?_,
        vfunnel_yields (exec_vfunr d a b s) ready.1 hd hroom tagged same fun j hj => ?_⟩⟩
    · rw [amount, BitVec.getLsbD_shiftLeft]
      simp only [hj, decide_true, Bool.true_and, ← Nat.not_lt, decide_not]
    · rw [amount, BitVec.getLsbD_ushiftRight, Nat.add_comm]
    · rw [BitVec.getLsbD_ofNat, decide_eq_true hj, Bool.true_and, clzNat_toNat]
    · rw [BitVec.getLsbD_ofNat, decide_eq_true hj, Bool.true_and, popAux_toNat]
    · exact funnelLeft_testBit _ _ small
    · exact funnelRight_testBit _ _ _ _
  · have ok := permTag_of_tagged tagged
    exact ⟨yields_mono (vunary_yields (exec_vrevb d a pr s) ready h ok (fun _ => sameElem_of_eq rfl)
        (quiet_silent _ _ _)) fun _ wrote => ⟨_, fun i j => revBits_testBit _ _, wrote⟩,
      yields_mono (vunary_yields (exec_vbswap d a pr s) ready h ok (fun _ => sameElem_of_eq rfl)
        (quiet_silent _ _ _)) fun _ wrote => ⟨_, fun i j => revBytes_testBit _ (byte_dvd_tagWidth _), wrote⟩⟩

/-! ### The moves of R147 -/

theorem exec_vmv (d a : BitVec 6) (pr : BitVec 3) (s : State) :
    exec (.vmv d a pr) s = vunary d a pr (fun _ => true) (fun _ x => (x, .none)) s := rfl

/-- `vsplat` gives every processed element the low bits of g[a], under the tag that the destination keeps. -/
theorem vsplat_yields {s : State} {d : BitVec 6} {pr : BitVec 3} (a : BitVec 6) (href : s.checkRef (s.vref d) = .ok ())
    (hroom : s.checkRoom (s.vref d) = .ok ()) (h : startOf s < countOf s (tagWidth (s.keptTag (s.vref d)))) :
    Yields (.vsplat d a pr) s (fun t => WroteV s s t d pr (s.keptTag (s.vref d)) (fun _ => ((s.gr a).toNat, Fx.none))) := by
  have run : exec (.vsplat d a pr) s = finish s (elementwise s s d pr (s.keptTag (s.vref d))
      (tagWidth (s.keptTag (s.vref d)))
      (fun _ => ((s.gr a).toNat % 2 ^ tagWidth (s.keptTag (s.vref d)), Fx.none))) := by
    show execVsplat d a pr s = _
    unfold execVsplat
    dsimp only [bind, Except.bind]
    rw [State.ite_idle h, href, State.ite_nothing h]
  exact elementwise_yields run rfl href hroom (fun _ => ⟨Nat.mod_modEq _ _, rfl⟩) (quiet_silent _ _ _)

/-- The tag of what `vid` writes: the destination's where it is an integer tag, else I64. -/
def State.countingTag (s : State) (r : VRef) : BitVec 5 := if intTagOk (s.keptTag r) then s.keptTag r else tI64

/-- `vid` gives every processed element its own place. -/
theorem vid_yields {s : State} {d : BitVec 6} {pr : BitVec 3} (href : s.checkRef (s.vref d) = .ok ())
    (hroom : s.checkRoom (s.vref d) = .ok ()) (h : startOf s < countOf s (tagWidth (s.countingTag (s.vref d)))) :
    Yields (.vid d pr) s (fun t => WroteV s s t d pr (s.countingTag (s.vref d)) (fun i => (i, Fx.none))) := by
  have run : exec (.vid d pr) s = finish s (elementwise s s d pr (s.countingTag (s.vref d))
      (tagWidth (s.countingTag (s.vref d))) (fun i => (i % 2 ^ tagWidth (s.countingTag (s.vref d)), Fx.none))) := by
    show execVid d pr s = _
    unfold execVid
    dsimp only [bind, Except.bind]
    rw [State.ite_idle h, href, isInt_eq]
    exact congrArg (finish s) (State.ite_nothing h _ _)
  exact elementwise_yields run rfl href hroom (fun _ => ⟨Nat.mod_modEq _ _, rfl⟩) (quiet_silent _ _ _)

/-- The word that `vextg` makes of a code: the integer that an integer tag reads in it, or the code itself. -/
theorem extracted_eq {t : BitVec 5} {x : Nat} (hx : x < 2 ^ tagWidth t) : (if isInt t then intResult t x else word x) =
    if intTagOk t then wordI (readInt (signedTag t) (tagWidth t) x) else word x := by
  rw [isInt_eq]
  split
  next int => rw [intResult, tagSigned_of_intTagOk int, intValue_of_lt hx]
  next => rfl

theorem vextg_yields {s u : State} {ea : Entry} {a : BitVec 6} (d b : BitVec 6) (own : s.ctx.team.getLsbD 10 = false)
    (ha : s.takeV a = .ok (ea, u)) (tagged : taggedOk ea.tag) :
    (let k := (s.gr b).toNat
     let x := if k < vlmaxOf (tagWidth ea.tag) then elem (tagWidth ea.tag) ea.data k else 0
     Yields (.vextg d a b) s (fun t => WroteG u t d
       (if intTagOk ea.tag then wordI (readInt (signedTag ea.tag) (tagWidth ea.tag) x) else word x))) := by
  intro k x
  have code : (if s.crossSize * vlmax (tagWidth ea.tag) ≤ k then 0
      else crossElem (s.crossSources ea a) (tagWidth ea.tag) ea.tag k) = x := by
    rw [State.crossSize_own own, State.crossSources_own own, crossElem_single, sourceElem, Nat.one_mul, vlmax_eq]
    by_cases h : k < vlmaxOf (tagWidth ea.tag)
    · rw [if_neg (not_le.mpr h), if_pos h]
      exact (if_pos h).symm
    · rw [if_pos (not_lt.mp h)]
      exact (if_neg h).symm
  have small : x < 2 ^ tagWidth ea.tag := by
    show (if _ then _ else _) < _
    split
    · exact elem_lt _ _ _
    · exact Nat.two_pow_pos _
  have done : exec (.vextg d a b) s = .next (u.setGr d (if isInt ea.tag then intResult ea.tag x else word x)) := by
    show execVextg d a b s = _
    unfold execVextg
    rw [ha]
    dsimp only [bind, Except.bind]
    rw [permTag_of_tagged tagged, ← code]
    rfl
  rw [extracted_eq small] at done
  exact ⟨_, done, State.setGr_wroteG u d _⟩

/-- An entry with element k of its tag replaced. -/
def withElem (v : Entry) (k x : Nat) : Entry := { v with data := setElem (tagWidth v.tag) v.data k x }

/-- `vinsg` into a lane entry outside a gang: one element of it, or nothing at or past VLMAX. -/
theorem vinsg_yields {s : State} {d : BitVec 6} {e : Nat} (a b : BitVec 6) (own : s.ctx.team.getLsbD 10 = false)
    (hd : s.vref d = .entry e) (href : s.checkRef (.entry e) = .ok ()) :
    (vlmaxOf (tagWidth (s.entry e).tag) ≤ (s.gr b).toNat → Yields (.vinsg d a b) s (fun t => t = s))
    ∧ ((s.gr b).toNat < vlmaxOf (tagWidth (s.entry e).tag) → Yields (.vinsg d a b) s (fun t => ∃ v : Entry,
        v.tag = (s.entry e).tag ∧ t = s.setEntry e v ∧ ∀ i, i < 8192 / tagWidth (s.entry e).tag →
          elem (tagWidth (s.entry e).tag) v.data i = if i = (s.gr b).toNat
            then (s.gr a).toNat % 2 ^ tagWidth (s.entry e).tag else elem (tagWidth (s.entry e).tag) (s.entry e).data i)) := by
  have run : exec (.vinsg d a b) s = finish s (if (s.gr b).toNat < vlmaxOf (tagWidth (s.entry e).tag)
      then .ok (s.setEntry e (withElem (s.entry e) (s.gr b).toNat (s.gr a).toNat)) else .ok s) := by
    show execVinsg d a b s = _
    unfold execVinsg
    dsimp only [bind, Except.bind]
    rw [hd, href, State.crossBase_own own]
    simp only [Nat.zero_le, decide_true, Bool.true_and, Nat.zero_add, Nat.sub_zero, decide_eq_true_eq]
    rfl
  refine ⟨fun past => ⟨s, ?_, rfl⟩, fun inside => ⟨_, ?_, withElem (s.entry e) (s.gr b).toNat (s.gr a).toNat, rfl, rfl,
    fun i hi => elem_setElem _ _ hi⟩⟩
  · rw [run, if_neg (not_lt.mpr past)]
    rfl
  · rw [run, if_pos inside]
    rfl

/-! ### Indirect access and predicates (R147, R148) -/

theorem State.indirect_ok {s : State} {b : BitVec 6}
    (h : (s.gr b).toNat % 2 ^ 8 < s.ctx.alloc.toNat / 2 ^ 8 % 2 ^ 9) : s.indirect b = .ok ((s.gr b).toNat % 2 ^ 8) := by
  have number : bits (s.gr b) 7 0 = (s.gr b).toNat % 2 ^ 8 := by simp [bits]
  unfold State.indirect
  dsimp only
  rw [number]
  exact if_neg (not_le.mpr h)

theorem vmovxRead_yields {s : State} {b : BitVec 6} (d : BitVec 6)
    (h : (s.gr b).toNat % 2 ^ 8 < s.ctx.alloc.toNat / 2 ^ 8 % 2 ^ 9)
    (clean : (s.entry ((s.gr b).toNat % 2 ^ 8)).poison = false) (href : s.checkRef (s.vref d) = .ok ())
    (hroom : s.checkRoom (s.vref d) = .ok ()) :
    Yields (.vmovxRead d b) s (fun t => t = s.putRef (s.vref d) (s.entry ((s.gr b).toNat % 2 ^ 8))) := by
  have taken : s.takeRef (.entry ((s.gr b).toNat % 2 ^ 8)) = .ok (s.entry ((s.gr b).toNat % 2 ^ 8), s) := by
    have here : s.checkRef (.entry ((s.gr b).toNat % 2 ^ 8)) = .ok () := if_neg (not_le.mpr h)
    unfold State.takeRef
    dsimp only [bind, Except.bind]
    rw [here]
    dsimp only
    rw [clean]
    rfl
  refine ⟨_, ?_, rfl⟩
  show execVmovxRead d b s = _
  unfold execVmovxRead
  rw [State.indirect_ok h]
  dsimp only [bind, Except.bind]
  rw [taken]
  dsimp only
  rw [href, hroom]
  rfl

theorem vmovxWrite_yields {s u : State} {b d : BitVec 6} {v : Entry}
    (h : (s.gr b).toNat % 2 ^ 8 < s.ctx.alloc.toNat / 2 ^ 8 % 2 ^ 9) (hd : s.takeV d = .ok (v, u)) :
    Yields (.vmovxWrite d b) s (fun t => t = u.setEntry ((s.gr b).toNat % 2 ^ 8) v) := by
  refine ⟨_, ?_, rfl⟩
  show execVmovxWrite d b s = _
  unfold execVmovxWrite
  rw [State.indirect_ok h]
  dsimp only [bind, Except.bind]
  rw [hd]
  rfl

theorem vmskv_yields {s : State} {d : BitVec 6} (a : BitVec 3) (href : s.checkRef (s.vref d) = .ok ())
    (hroom : s.checkRoom (s.vref d) = .ok ()) :
    Yields (.vmskv d a) s (fun t => WroteWhole s t d tBIT (fun j => decide (j < 1024) && (s.pr a).getLsbD j)) := by
  have done : exec (.vmskv d a) s = .next (s.putRef (s.vref d) ⟨tBIT, (s.pr a).zeroExtend 8192, false⟩) := by
    show execVmskv d a s = _
    unfold execVmskv
    dsimp only [bind, Except.bind]
    rw [href, hroom]
    rfl
  refine ⟨_, done, ⟨tBIT, (s.pr a).zeroExtend 8192, false⟩, rfl, rfl, fun j hj => ?_, rfl⟩
  rw [BitVec.getLsbD_setWidth, decide_eq_true hj, Bool.true_and]
  dsimp only
  by_cases hp : j < 1024
  · rw [decide_eq_true hp, Bool.true_and]
  · rw [decide_eq_false hp, Bool.false_and, BitVec.getLsbD_of_ge _ _ (not_lt.mp hp)]

theorem vmvp_yields {s u : State} {a : BitVec 6} {ea : Entry} (d : BitVec 3) (ha : s.takeV a = .ok (ea, u))
    (bit_ : ea.tag = tBIT) : Yields (.vmvp d a) s (fun t => t = { u with ctx := { u.ctx with p := t.ctx.p } }
      ∧ (∀ k : Fin 8, k.val ≠ d.toNat ∨ d = 0 → t.ctx.p[k.val] = u.ctx.p[k.val])
      ∧ (d ≠ 0 → t.ctx.p[d.toNat] = ea.data.truncate 1024)) := by
  have done : exec (.vmvp d a) s = .next (u.setPr d (ea.data.truncate 1024)) := by
    show execVmvp d a s = _
    unfold execVmvp
    rw [ha]
    dsimp only [bind, Except.bind]
    rw [bit_]
    rfl
  exact ⟨_, done, State.setPr_frame u d _⟩

theorem movesCopyElementsEntriesAndPredicates : MovesCopyElementsEntriesAndPredicates := by
  refine ⟨fun d a pr s u ea ready h => ?_, fun d a pr s href hroom => ⟨fun h => ?_, fun h => ?_⟩,
    fun d a b s u ea own ha tagged => vextg_yields d b own ha tagged,
    fun d a b s e own hd href => vinsg_yields a b own hd href,
    fun d b s u v h => ⟨vmovxRead_yields d h, vmovxWrite_yields h⟩,
    fun d a s => vmskv_yields a, fun d a s u ea => vmvp_yields d⟩
  · exact vunary_yields (exec_vmv d a pr s) ready h rfl (fun _ => sameElem_of_eq rfl) (quiet_silent _ _ _)
  · exact vsplat_yields a href hroom h
  · exact vid_yields href hroom h

/-! ### The lengths (R149, R150) -/

theorem vsetvl_yields (d a b : BitVec 6) (s : State) :
    (let n := Nat.min (s.gr a).toNat (1024 / 2 ^ ((s.gr b).toNat % 4))
     Yields (.vsetvl d a b) s (fun t => WroteG { s with ctx := { s.ctx with vl := word n } } t d (word n))) := by
  intro n
  have size : bits (s.gr b) 1 0 = (s.gr b).toNat % 4 := by simp [bits]
  have done : exec (.vsetvl d a b) s = .next ((s.setVl n).setGr d (word n)) := by
    show execVsetvl d a b s = _
    unfold execVsetvl
    rw [size]
  exact ⟨_, done, State.setGr_wroteG (s.setVl n) d _⟩

/-- A choice of three pairs by two bits is that of their parts. -/
theorem ite_pair (b c : Bool) (x y z : Nat × Nat) : (if b = false then x else if c = false then y else z) =
    (if b = false then x.1 else if c = false then y.1 else z.1, if b = false then x.2 else if c = false then y.2 else z.2) := by
  cases b <;> cases c <;> rfl

/-- R150: where the tensor is at its end VL and g[d] are 0, else the strip and the inner runs that remain. -/
theorem vcoll_yields (d a b : BitVec 6) (s : State) :
    (let g := (s.gr a).toNat
     let e0 := g % 2 ^ 20
     let e1 := g / 2 ^ 20 % 2 ^ 20
     let e2 := g / 2 ^ 40 % 2 ^ 20
     let p := (s.gr b).toNat
     let run := if (s.gr a).getLsbD 62 = false then e0 else if (s.gr a).getLsbD 63 = false then e0 * e1 else e0 * e1 * e2
     let outer := if (s.gr a).getLsbD 62 = false then e1 * e2 else if (s.gr a).getLsbD 63 = false then e2 else 1
     let done := e0 * e1 * e2 ≤ p
     let n := if done then 0 else Nat.min (run - p % run) (1024 / 2 ^ (g / 2 ^ 60 % 4))
     Yields (.vcoll d a b) s (fun t => WroteG { s with ctx := { s.ctx with vl := word n } } t d
       (word (if done then 0 else outer - 1 - p / run)))) := by
  intro g e0 e1 e2 p run outer done n
  have h0 : bits (s.gr a) 19 0 = e0 := by simp [bits, e0, g]
  have h1 : bits (s.gr a) 39 20 = e1 := by simp [bits, e1, g]
  have h2 : bits (s.gr a) 59 40 = e2 := by simp [bits, e2, g]
  have h3 : bits (s.gr a) 61 60 = g / 2 ^ 60 % 4 := by simp [bits, g]
  have dims : (if bit (s.gr a) 62 = false then (e0, e1 * e2)
      else if bit (s.gr a) 63 = false then (e0 * e1, e2) else (e0 * e1 * e2, 1)) = (run, outer) := ite_pair _ _ _ _ _
  have answer : exec (.vcoll d a b) s = .next ((s.setVl n).setGr d (word (if done then 0 else outer - 1 - p / run))) := by
    show execVcoll d a b s = _
    unfold execVcoll
    dsimp only
    rw [h0, h1, h2, h3, dims]
    by_cases past : done
    · rw [if_pos (.inr past), if_pos past, show n = 0 from if_pos past]
      rfl
    · have more : ¬ (e0 * e1 * e2 = 0 ∨ e0 * e1 * e2 ≤ p) :=
        fun h => past (h.elim (fun zero => zero.trans_le p.zero_le) id)
      rw [if_neg more, if_neg past, show n = _ from if_neg past]
  exact ⟨_, answer, State.setGr_wroteG (s.setVl n) d _⟩

theorem lengthInstructionsSetVl : LengthInstructionsSetVl :=
  fun d a b s => ⟨vsetvl_yields d a b s, vcoll_yields d a b s⟩

end Sys2Proof.Machine

section

open Sys2Proof.Machine

/-- Settles O16: whole entries bit by bit, each move by its own lemma, and the lengths as `vsetvl` and `vcoll` count. -/
theorem bitsMovesAndLengthsFollowTheirForms : Obligations.BitsMovesAndLengthsFollowTheirForms :=
  ⟨bitInstructionsMoveWholeEntries, movesCopyElementsEntriesAndPredicates, lengthInstructionsSetVl⟩

end

/-! SUPPORT. Cells, rows and regions of the Hoop (R27, R28, R152): reads after writes, the rows of a region form, and
the records of cells, for the frame that every Hoop form shares. -/

namespace Sys2Proof.Machine

open Sys2Proof.Safety Sys2Proof.Claims

/-! ### Records (R73) -/

theorem Fx.and_none (fx : Fx) : fx.and Fx.none = fx := by
  simp [Fx.and, Fx.none]

theorem Fx.and_assoc (a b c : Fx) : (a.and b).and c = a.and (b.and c) := by
  simp [Fx.and, BitVec.or_assoc, Nat.add_assoc]

theorem Fx.and_left_comm (a b c : Fx) : a.and (b.and c) = b.and (a.and c) := by
  simp [Fx.and, ← BitVec.or_assoc, BitVec.or_comm a.flags, Nat.add_left_comm]

/-- What the elements of a list record after a record is what they record by themselves, joined to it. -/
theorem Fx.foldl_and {α : Type} (g : α → Fx) (l : List α) (fx : Fx) :
    l.foldl (fun f i => f.and (g i)) fx = fx.and (l.foldl (fun f i => f.and (g i)) Fx.none) := by
  induction l generalizing fx with
  | nil => exact fx.and_none.symm
  | cons i l ih => rw [List.foldl_cons, List.foldl_cons, ih, ih (Fx.none.and (g i)), Fx.none_and, Fx.and_assoc]

theorem totalFx_append (res : Nat → Nat × Fx) (k l : List Nat) :
    totalFx res (k ++ l) = (totalFx res k).and (totalFx res l) := by
  rw [totalFx, List.foldl_append, Fx.foldl_and]
  rfl

theorem totalFx_cons (res : Nat → Nat × Fx) (i : Nat) (l : List Nat) :
    totalFx res (i :: l) = (res i).2.and (totalFx res l) := by
  rw [totalFx, List.foldl_cons, Fx.none_and, Fx.foldl_and]
  rfl

theorem cellsFx_append (out : Nat → Nat → Nat × Fx) (k l : List (Nat × Nat)) :
    cellsFx out (k ++ l) = (cellsFx out k).and (cellsFx out l) := by
  rw [cellsFx, List.foldl_append, Fx.foldl_and]
  rfl

theorem cellsFx_cons (out : Nat → Nat → Nat × Fx) (x : Nat × Nat) (l : List (Nat × Nat)) :
    cellsFx out (x :: l) = (out x.1 x.2).2.and (cellsFx out l) := by
  rw [cellsFx, List.foldl_cons, Fx.none_and, Fx.foldl_and]
  rfl

/-- The order in which cells record does not matter. -/
theorem cellsFx_perm (out : Nat → Nat → Nat × Fx) {k l : List (Nat × Nat)} (h : k.Perm l) : cellsFx out k = cellsFx out l := by
  induction h with
  | nil => rfl
  | cons x _ ih => rw [cellsFx_cons, cellsFx_cons, ih]
  | swap x y l => simp only [cellsFx_cons, Fx.and_left_comm]
  | trans _ _ ih jh => exact ih.trans jh

theorem cellsFx_none {out : Nat → Nat → Nat × Fx} {l : List (Nat × Nat)} (h : ∀ x ∈ l, (out x.1 x.2).2 = Fx.none) :
    cellsFx out l = Fx.none := by
  induction l with
  | nil => rfl
  | cons x l ih =>
    obtain ⟨hx, hl⟩ := List.forall_mem_cons.mp h
    rw [cellsFx_cons, hx, ih hl, Fx.none_and]

/-- The cells of one row record what the row's columns do. -/
theorem cellsFx_row (out : Nat → Nat → Nat × Fx) (r : Nat) (cols : List Nat) :
    cellsFx out (cols.map (fun c => (r, c))) = totalFx (out r) cols := by
  rw [cellsFx, List.foldl_map]
  rfl

/-- The cells of a grid record row by row. -/
theorem cellsFx_grid (out : Nat → Nat → Nat × Fx) (rows : List Nat) (n : Nat) :
    cellsFx out (grid rows n) = rows.foldl (fun f r => f.and (totalFx (out r) (List.range n))) Fx.none := by
  induction rows with
  | nil => rfl
  | cons r rows ih =>
    rw [List.foldl_cons, Fx.none_and, Fx.foldl_and, ← ih, ← cellsFx_row, ← cellsFx_append]
    rfl

theorem enabledIn_and (s : State) (a b : Fx) : enabledIn s (a.and b) ↔ enabledIn s a ∨ enabledIn s b := by
  have zero (x y : BitVec 6) : x ||| y = 0 ↔ x = 0 ∧ y = 0 := BitVec.or_eq_zero_iff
  unfold enabledIn Fx.and
  rw [BitVec.and_or_distrib_right, Ne, zero]
  tauto

/-- Where no element of a list records an enabled flag, the list does not. -/
theorem not_enabledIn_totalFx {s : State} {res : Nat → Nat × Fx} {l : List Nat} (h : ∀ i ∈ l, ¬ enabledIn s (res i).2) :
    ¬ enabledIn s (totalFx res l) := by
  induction l with
  | nil => exact not_enabledIn_none s
  | cons i l ih =>
    obtain ⟨hi, hl⟩ := List.forall_mem_cons.mp h
    rw [totalFx_cons, enabledIn_and]
    exact fun k => k.elim hi (ih hl)

/-! ### Cells of a row (R27) -/

/-- Cell c of a row's 64. -/
def cellAt (d : BitVec 4096) (c : Nat) : Nat := (d.extractLsb' (64 * c) 64).toNat

theorem Row.cell_eq (r : Row) (c : Nat) : r.cell c = cellAt r.cells c := rfl

theorem cellAt_testBit (d : BitVec 4096) (c b : Nat) : (cellAt d c).testBit b = (decide (b < 64) && d.getLsbD (64 * c + b)) := by
  rw [cellAt, BitVec.testBit_toNat, BitVec.getLsbD_extractLsb']

theorem setCell_getLsbD (d : BitVec 4096) {i x : Nat} {j b : Nat} (hj : j < 64) (hb : b < 64) :
    (setCell d i x).getLsbD (64 * j + b) = if j = i then x.testBit b else d.getLsbD (64 * j + b) := by
  have inside : 64 * j + b < 4096 := by omega
  unfold setCell
  simp only [BitVec.getLsbD_or, BitVec.getLsbD_and, BitVec.getLsbD_not, BitVec.getLsbD_shiftLeft, BitVec.getLsbD_setWidth,
    BitVec.getLsbD_allOnes, BitVec.getLsbD_ofNat, inside, decide_true, Bool.true_and]
  obtain rfl | h := eq_or_ne j i
  · simp [hb, show b < 4096 by omega]
  · obtain before | after := Nat.lt_or_ge (64 * j + b) (64 * i)
    · simp [h, before]
    · have past : ¬ (64 * j + b - 64 * i < 64) := by omega
      simp [h, past]

theorem cellAt_setCell (d : BitVec 4096) (i x : Nat) {j : Nat} (hj : j < 64) :
    cellAt (setCell d i x) j = if j = i then x % 2 ^ 64 else cellAt d j := by
  apply Nat.eq_of_testBit_eq
  intro b
  rw [cellAt_testBit]
  by_cases hb : b < 64
  · rw [setCell_getLsbD d hj hb]
    split
    · rw [Nat.testBit_mod_two_pow]
    · simp [hb, cellAt_testBit]
  · split
    · rw [Nat.testBit_mod_two_pow]
      simp [hb]
    · simp [hb, cellAt_testBit]

/-- Cells written one after the other, each with its own record: what the fold leaves. -/
theorem foldl_setCell (f : Nat → Nat × Fx) (l : List Nat) (d : BitVec 4096) (fx : Fx) :
    (∀ c, c < 64 → cellAt (l.foldl (fun (x : BitVec 4096 × Fx) c => (setCell x.1 c (f c).1, x.2.and (f c).2)) (d, fx)).1 c =
      if c ∈ l then (f c).1 % 2 ^ 64 else cellAt d c)
    ∧ (l.foldl (fun (x : BitVec 4096 × Fx) c => (setCell x.1 c (f c).1, x.2.and (f c).2)) (d, fx)).2 = fx.and (totalFx f l) := by
  induction l generalizing d fx with
  | nil => exact ⟨fun c _ => rfl, fx.and_none.symm⟩
  | cons i l ih =>
    obtain ⟨cells, record⟩ := ih (setCell d i (f i).1) (fx.and (f i).2)
    refine ⟨fun c hc => (cells c hc).trans ?_, by rw [List.foldl_cons, record, totalFx_cons, Fx.and_assoc]⟩
    rw [cellAt_setCell _ _ _ hc]
    obtain rfl | h := eq_or_ne c i
    · simp
    · simp [h]

/-! ### Rows of the state (R27, R30) -/

theorem State.row_setRow (s : State) (k : Nat) (v : Row) {r : Nat} (h : s.ctx.hBase + r < 128) :
    (s.setRow k v).row r = if r = k then v else s.row r := by
  unfold State.row State.setRow Ctx.hBase at *
  dsimp only
  obtain rfl | ne := eq_or_ne r k
  · simp [h, Vector.getD]
  · simp [ne, ne.symm, Vector.getD]

/-- Rows written in order, the value of each given by its number. -/
theorem State.row_putRows (s : State) (rows : List Nat) (y : Nat → Row) {r : Nat} (h : s.ctx.hBase + r < 128) :
    (s.putRows (rows.map (fun r => (r, y r)))).row r = if r ∈ rows then y r else s.row r := by
  induction rows generalizing s with
  | nil => rfl
  | cons k rows ih =>
    refine (ih (s.setRow k (y k)) h).trans ?_
    rw [State.row_setRow s k _ h]
    obtain rfl | ne := eq_or_ne r k
    · simp
    · simp [ne]

/-- Writing rows touches the Hoop and HDIRTY alone. -/
theorem State.putRows_frame (s : State) (l : List (Nat × Row)) :
    s.putRows l = { s with core := { s.core with hoop := (s.putRows l).core.hoop }
                           ctx := { s.ctx with hdirty := (s.putRows l).ctx.hdirty } } := by
  induction l generalizing s with
  | nil => rfl
  | cons p l ih =>
    refine (ih (s.setRow p.1 p.2)).trans ?_
    rfl

theorem State.takeV_row {s t : State} {n : BitVec 6} {v : Entry} (h : s.takeV n = .ok (v, t)) (r : Nat) : t.row r = s.row r := by
  rw [State.takeRef_frame h]
  rfl

/-! ### The rows of a region form (R152, R157) -/

theorem Ctx.rows_eq (c : Ctx) : c.rows = c.hshape.toNat % 2 ^ 8 := by simp [Ctx.rows, bits]

theorem State.cols_eq (s : State) : s.ctx.cols = columns s := rfl

theorem Ctx.hRows_eq (c : Ctx) : c.hRows = c.alloc.toNat / 2 ^ 24 % 2 ^ 8 := rfl

theorem Ctx.hcurRow_eq (c : Ctx) : c.hcurRow = c.hcur.toNat % 2 ^ 7 := by simp [Ctx.hcurRow, bits]

/-- A region whose encoding is legal and whose rows are all allocated is taken as R152 lists it. -/
theorem State.regionRows_eq {s : State} {sel : BitVec 9} {full : Bool} {l : List Nat} (legal : regionLegal sel)
    (hl : l = regionOf sel (if full then s.ctx.hRows else s.ctx.rows) full) (held : rowsHeld s l) :
    s.regionRows sel full = .ok l := by
  have inside : l.find? (fun r => decide (s.ctx.hRows ≤ r)) = none :=
    List.find?_eq_none.mpr fun r hr => by
      have below : r < s.ctx.hRows := held.1 r hr
      simpa using below
  unfold regionLegal at legal
  unfold State.regionRows
  dsimp only [bind, Except.bind]
  unfold regionOf at hl
  dsimp only at hl
  split at legal
  next band =>
    rw [if_pos band] at hl
    rw [if_pos band, if_neg (by omega)]
    have rows : (if full = true then (List.range ((sel.toNat % 128 % 8 + 1) * 8)).map (fun i => sel.toNat % 128 / 8 * 8 + i)
        else ((List.range ((sel.toNat % 128 % 8 + 1) * 8)).map (fun i => sel.toNat % 128 / 8 * 8 + i)).filter
          (fun r => decide (r < if full = true then s.ctx.hRows else s.ctx.rows))) = l := by
      rw [hl]
      cases full <;> simp
    rw [rows, inside]
  next half =>
    rw [if_neg half] at hl
    rw [if_neg half]
    generalize sel.toNat % 128 = low at legal hl
    match low, legal, hl with
    | 0, _, hl | 1, _, hl | 2, _, hl =>
      simp only [Nat.reduceEqDiff, OfNat.ofNat_ne_zero, if_true, if_false, one_ne_zero] at hl ⊢
      rw [← hl, inside]

/-- R152: the rows of a region form. -/
theorem State.regionRows_form {s : State} {sel : BitVec 9} (legal : regionLegal sel) (held : rowsHeld s (formRows s sel)) :
    s.regionRows sel false = .ok (formRows s sel) :=
  State.regionRows_eq legal (by rw [formRows, ← Ctx.rows_eq]; rfl) held

theorem State.restartRows_of_regionRows {s : State} {sel : BitVec 9} {full : Bool} {l : List Nat}
    (h : s.regionRows sel full = .ok l) : s.restartRows sel full = .ok (laterRows s l) := by
  unfold State.restartRows laterRows
  rw [h, ← Ctx.hcurRow_eq]
  rfl

/-- R157: the rows that a restartable region form has still to process. -/
theorem State.restartRows_form {s : State} {sel : BitVec 9} (legal : regionLegal sel) (held : rowsHeld s (formRows s sel)) :
    s.restartRows sel false = .ok (laterRows s (formRows s sel)) :=
  State.restartRows_of_regionRows (State.regionRows_form legal held)

theorem regionOf_nodup (sel : BitVec 9) (n : Nat) (whole : Bool) : (regionOf sel n whole).Nodup := by
  unfold regionOf
  dsimp only
  split_ifs
  · exact (List.nodup_range.map (fun i j h => Nat.add_left_cancel h)).filter _
  · exact List.nodup_range
  · exact List.nodup_range
  · exact List.nodup_range.filter _

theorem rowsHeld_later {s : State} {l : List Nat} (h : rowsHeld s l) : rowsHeld s (laterRows s l) :=
  ⟨fun r hr => h.1 r (List.mem_of_mem_filter hr), h.2⟩

/-- An allocated row lies in the Hoop. -/
theorem rowsHeld_lt {s : State} {l : List Nat} (h : rowsHeld s l) {r : Nat} (hr : r < s.ctx.hRows) : s.ctx.hBase + r < 128 :=
  (Nat.add_lt_add_left hr _).trans_le h.2

/-! ### What a row must be (R153, R356) -/

theorem State.needClean_ok {s : State} {rows : List Nat} (h : ∀ r ∈ rows, (s.row r).poison = false) :
    s.needClean rows = .ok () := by
  have none : rows.find? (fun r => (s.row r).poison) = none := List.find?_eq_none.mpr fun r hr => by simp [h r hr]
  unfold State.needClean
  rw [none]

theorem State.needRowTags_ok {s : State} {rows : List Nat} {ok : BitVec 5 → Bool} (h : ∀ r ∈ rows, ok (s.row r).tag = true) :
    s.needRowTags rows ok = .ok () := by
  have none : rows.find? (fun r => !ok (s.row r).tag) = none := List.find?_eq_none.mpr fun r hr => by simp [h r hr]
  unfold State.needRowTags
  rw [none]

/-! ### Rows written (R157, R158) -/

/-- The cells that rows given by number leave, where they are as the claims list them. -/
theorem hoopWrote_putRows {u : State} {rows : List Nat} {cells : List (Nat × Nat)} {tag : Nat → BitVec 5}
    {out : Nat → Nat → Nat × Fx} {y : Nat → Row} (held : u.ctx.hBase + u.ctx.hRows ≤ 128)
    (within : ∀ x ∈ cells, x.1 ∈ rows) (tags : ∀ r ∈ rows, (y r).tag = tag r)
    (written : ∀ r ∈ rows, ∀ c, c < 64 → (y r).cell c = if (r, c) ∈ cells then (out r c).1 % 2 ^ 64 else (u.row r).cell c) :
    HoopWrote u ((u.putRows (rows.map (fun r => (r, y r)))).record (cellsFx out cells)) rows cells tag out u.ctx.hcur := by
  refine ⟨?_, fun r hr => ?_⟩
  · rw [State.record, Ctx.record_eq, State.putRows_frame]
    rfl
  · have lies : u.ctx.hBase + r < 128 := (Nat.add_lt_add_left hr _).trans_le held
    have row : ((u.putRows (rows.map (fun r => (r, y r)))).record (cellsFx out cells)).row r =
        if r ∈ rows then y r else u.row r := State.row_putRows u rows y lies
    rw [row]
    by_cases hm : r ∈ rows
    · rw [if_pos hm, if_pos hm]
      exact ⟨tags r hm, written r hm⟩
    · rw [if_neg hm, if_neg hm]
      refine ⟨rfl, fun c _ => ?_⟩
      rw [if_neg fun k => hm (within _ k)]

theorem HoopWrote.setHcur {u t : State} {rows : List Nat} {cells : List (Nat × Nat)} {tag : Nat → BitVec 5}
    {out : Nat → Nat → Nat × Fx} {h : Word} (w : HoopWrote u t rows cells tag out h) (n : Nat) :
    HoopWrote u (t.setHcur n) rows cells tag out (word n) := by
  obtain ⟨frame, cell⟩ := w
  exact ⟨congrArg (fun x : State => x.setHcur n) frame, cell⟩

theorem mem_grid {rows : List Nat} {n r c : Nat} : (r, c) ∈ grid rows n ↔ r ∈ rows ∧ c < n := by
  simp [grid]

theorem mem_rows_of_mem_grid {rows : List Nat} {n : Nat} : ∀ x ∈ grid rows n, x.1 ∈ rows :=
  fun _ hx => (mem_grid.mp hx).1

/-- A row whose active cells are replaced: its tag, its poison, its cells and what they record. -/
theorem mapRow_spec (cols : Nat) (tag : BitVec 5) (row : Row) (f : Nat → Nat → Nat × Fx) :
    (mapRow cols tag row f).1.tag = tag ∧ (mapRow cols tag row f).1.poison = row.poison
    ∧ (∀ c, c < 64 → (mapRow cols tag row f).1.cell c =
        if c < cols then (f c (row.cell c % 2 ^ tagWidth row.tag)).1 % 2 ^ 64 else row.cell c)
    ∧ (mapRow cols tag row f).2 = totalFx (fun c => f c (row.cell c % 2 ^ tagWidth row.tag)) (List.range cols) := by
  obtain ⟨cells, record⟩ := foldl_setCell (fun c => f c (row.cell c % 2 ^ tagWidth row.tag)) (List.range cols) row.cells Fx.none
  refine ⟨rfl, rfl, fun c hc => (cells c hc).trans ?_, record.trans (Fx.none_and _)⟩
  simp only [List.mem_range]
  rfl

end Sys2Proof.Machine

/-! SUPPORT. The rank updates (R153 to R162): the class of two panels, a cell through the steps of its class, the rows of
a form, and the groups of `hrankg`. -/

namespace Sys2Proof.Machine

open Sys2Proof.Safety Sys2Proof.Claims

/-! ### Values of the panels (R154, R160) -/

theorem Fmt.narrowValue_den_pos (f : Fmt) (code : Nat) : 0 < (f.narrowValue code).den := by
  unfold Fmt.narrowValue
  dsimp only
  split_ifs
  · exact Nat.one_pos
  · exact Nat.one_pos
  · exact Nat.one_pos
  · exact f.finite_den_pos _ _

theorem e8m0Value_den_pos (code : Nat) : 0 < (e8m0Value code).den := by
  unfold e8m0Value
  split_ifs
  · exact Nat.one_pos
  · exact Nat.one_pos
  · exact Nat.two_pow_pos _

theorem valueOf_den_pos (t : BitVec 5) (picot : Bool) (code : Nat) : 0 < (valueOf t picot code).1.den := by
  unfold valueOf
  split_ifs
  · exact Nat.one_pos
  · exact Fmt.ieeeValue_den_pos _ _
  · exact Fmt.narrowValue_den_pos _ _
  · exact den_ofFrac_pos _ _ (by decide)
  · exact fmtE2M1.narrowValue_den_pos _
  · exact slashDecode_den_pos _ _
  · exact e8m0Value_den_pos _
  · exact Nat.one_pos

/-- Scaling a finite value by a power of two is exact (R85). -/
theorem scale_of_finite {v : Val} (h : finite v = true) (e : Int) :
    finite (v.scale e) = true ∧ ratOf (v.scale e) = ratOf v * (2 : Rat) ^ e := by
  obtain ⟨neg, n, d, rfl⟩ := finite_iff.mp h
  unfold Val.scale
  dsimp only
  split
  next up =>
    obtain ⟨k, rfl⟩ := Int.eq_ofNat_of_zero_le up
    refine ⟨rfl, ?_⟩
    cases neg <;> simp [ratOf] <;> ring
  next down =>
    obtain ⟨k, rfl⟩ : ∃ k : Nat, e = -k := ⟨(-e).toNat, by omega⟩
    refine ⟨rfl, ?_⟩
    cases neg <;> simp [ratOf] <;> ring

theorem scale_den_pos {v : Val} (h : 0 < v.den) (e : Int) : 0 < (v.scale e).den := by
  cases v with
  | fin neg n d =>
    unfold Val.scale
    dsimp only
    split
    · exact h
    · exact Nat.mul_pos h (Nat.two_pow_pos _)
  | _ => exact h

theorem mxValue_of_finite {v : Val} (h : finite v = true) {x : Nat} (hx : x ≠ 0xFF) :
    finite (mxValue v x) = true ∧ ratOf (mxValue v x) = ratOf v * (2 : Rat) ^ ((x : Int) - 127) := by
  rw [mxValue, if_neg hx]
  exact scale_of_finite h _

theorem mxValue_den_pos {v : Val} (h : 0 < v.den) (x : Nat) : 0 < (mxValue v x).den := by
  unfold mxValue
  split
  · exact Nat.one_pos
  · exact scale_den_pos h _

/-! ### A cell through the steps of its class (R93, R160) -/

/-- One step of a class on a cell. -/
def rankStep (cls : RankClass) (form : RankForm) (picot : Bool) (a b : Entry) (t : BitVec 5) (mode : RMode)
    (rho c j x : Nat) : Nat × Fx :=
  let ks := (List.range cls.r).map (fun i => j * cls.r + i)
  if cls.int then
    let w := tagWidth t
    let sg : Int := if form = .negated then -1 else 1
    let (y, f) := hoopStepI w (intValue true w x) (ks.map (fun k =>
      (sg * intValue (tagSigned a.tag) (tagWidth a.tag) (elem (tagWidth a.tag) a.data (128 * k + rho)),
        intValue (tagSigned b.tag) (tagWidth b.tag) (elem (tagWidth b.tag) b.data (64 * k + c)))))
    (intCode w y, f)
  else hoopStepF t x (ks.map (fun k => (rankA form picot a b k rho, rankB form picot b k c))) mode

/-- A value through numbered steps, with the record of all. -/
def through (step : Nat → Nat → Nat × Fx) (x : Nat) (n : Nat) : Nat × Fx :=
  (List.range n).foldl (fun x j => ((step j x.1).1, x.2.and (step j x.1).2)) (x, Fx.none)

theorem through_succ (step : Nat → Nat → Nat × Fx) (x n : Nat) : through step x (n + 1) =
    ((step n (through step x n).1).1, (through step x n).2.and (step n (through step x n).1).2) := by
  rw [through, List.range_succ, List.foldl_append]
  rfl

theorem through_fx (step : Nat → Nat → Nat × Fx) (x n : Nat) :
    (through step x n).2 = totalFx (fun j => (0, (step j (through step x j).1).2)) (List.range n) := by
  induction n with
  | zero => rfl
  | succ n ih =>
    rw [through_succ, List.range_succ, totalFx_append, ← ih, totalFx_cons]
    exact congrArg ((through step x n).2.and ·) (Fx.and_none _).symm

theorem rankCell_eq_through (cls : RankClass) (form : RankForm) (picot : Bool) (a b : Entry) (t : BitVec 5) (mode : RMode)
    (rho c cell : Nat) : rankCell cls form picot a b t mode rho c cell =
      through (rankStep cls form picot a b t mode rho c) cell (cls.ki / cls.r) := by
  unfold rankCell through rankStep
  congr 1
  funext x j
  dsimp only
  split <;> rfl

/-- The class that the model computes with is the listed one. -/
def ClassIs (cls : RankClass) (x : InputClass) : Prop :=
  cls.ki = x.ki ∧ cls.r = x.step ∧ cls.int = x.int ∧ cls.scaled = x.scaled

theorem ClassIs.int {cls : RankClass} {x : InputClass} (is : ClassIs cls x) : cls.int = x.int := by
  obtain ⟨-, -, int, -⟩ := is
  exact int

theorem ClassIs.scaled {cls : RankClass} {x : InputClass} (is : ClassIs cls x) : cls.scaled = x.scaled := by
  obtain ⟨-, -, -, scaled⟩ := is
  exact scaled

/-- The number of a listed class is its place in the list. -/
theorem rankClass_listed : ∀ p ∈ inputClasses.zipIdx, ClassIs (rankClass p.2) p.1
    ∧ ∀ t : BitVec 5, t.toNat ∈ p.1.tags → rankClassOf p.1.picot t = some p.2 := by
  unfold ClassIs
  decide

/-- The integer classes hold integer tags, the others tags that are not. -/
theorem inputClasses_tags : ∀ x ∈ inputClasses, ∀ t : BitVec 5, t.toNat ∈ x.tags → x.int = true → intTagOk t = true := by
  decide

theorem signed_rowTag : ∀ t : BitVec 5, t.toNat ∈ [0x05, 0x07] → signedTag t = true ∧ isIeee t = false := by decide
theorem ieee_rowTag : ∀ t : BitVec 5, t.toNat ∈ [0x0D, 0x0E] → isIeee t = true := by decide

theorem intCode_lt (w : Nat) (y : Int) : intCode w y < 2 ^ w := by
  have pos : (0 : Int) < 2 ^ w := by positivity
  have low := Int.emod_nonneg y pos.ne'
  have high := Int.emod_lt_of_pos y pos
  unfold intCode
  rw [Int.toNat_lt low]
  exact_mod_cast high

theorem tagWidth_of_int : ∀ t : BitVec 5, intTagOk t = true → panelWidth false t = tagWidth t ∧ panelWidth true t = tagWidth t := by
  decide

/-- R94: a step of an integer class saturates the exact total of the cell and its products. -/
theorem rankStep_int {cls : RankClass} {x : InputClass} (is : ClassIs cls x) (form : RankForm) {ea eb : Entry}
    {t : BitVec 5} (mode : RMode) (rho c j : Nat) {v : Nat} (hx : x.int = true) (ha : intTagOk ea.tag = true)
    (hb : intTagOk eb.tag = true) (ht : signedTag t = true) (hv : v < 2 ^ tagWidth t) :
    (let y := readInt true (tagWidth t) v
        + ((List.range x.step).map (fun i => intProduct form ea eb x rho c (j * x.step + i))).sum
     rankStep cls form x.picot ea eb t mode rho c j v =
       (wrapTo (tagWidth t) (clampTo t y), if clampTo t y = y then Fx.none else Fx.satF)) := by
  obtain ⟨-, hr, hint, -⟩ := is
  have width {u : BitVec 5} (h : intTagOk u = true) : panelBits x u = tagWidth u := by
    obtain ⟨no, yes⟩ := tagWidth_of_int u h
    show panelWidth x.picot u = tagWidth u
    cases x.picot
    · exact no
    · exact yes
  have once (y : Int) : intSat true (tagWidth t) y = (clampTo t y, if clampTo t y = y then Fx.none else Fx.satF) :=
    ht ▸ intSat_eq_clampTo t y
  unfold rankStep
  rw [hint, hx, if_pos rfl, hr]
  dsimp only
  rw [hoopStepI_eq, once, intValue_of_lt hv, tagSigned_of_intTagOk ha, tagSigned_of_intTagOk hb]
  simp only [intValue_elem, List.map_map, Function.comp_def, intProduct, aCode, bCode, width ha, width hb]
  rfl

/-- The factors of a slice, as the form takes them. -/
theorem rankFactors_of_finite {form : RankForm} {ea eb : Entry} {x : InputClass} {rho c : Nat}
    (h : finiteInputs form ea eb x rho c) {k : Nat} (hk : k < x.ki) :
    (finite (rankA form x.picot ea eb k rho) = true ∧ 0 < (rankA form x.picot ea eb k rho).den)
    ∧ (finite (rankB form x.picot eb k c) = true ∧ 0 < (rankB form x.picot eb k c).den)
    ∧ ratOf (rankA form x.picot ea eb k rho) * ratOf (rankB form x.picot eb k c) = ratProduct form ea eb x rho c k := by
  obtain ⟨slices, codes⟩ := h
  obtain ⟨fa, fb⟩ := slices k hk
  have da : 0 < (aValue x ea k rho).den := valueOf_den_pos _ _ _
  have db : 0 < (bValue x eb k c).den := valueOf_den_pos _ _ _
  cases form with
  | plain =>
    refine ⟨⟨fa, da⟩, ⟨fb, db⟩, ?_⟩
    simp only [ratProduct, reduceCtorEq, if_false, one_mul, mul_one]
    rfl
  | negated =>
    refine ⟨⟨finite_neg fa, (den_neg _).symm ▸ da⟩, ⟨fb, db⟩, ?_⟩
    have na : ratOf (rankA .negated x.picot ea eb k rho) = - ratOf (aValue x ea k rho) := ratOf_neg _
    simp only [ratProduct, if_true, reduceCtorEq, if_false, mul_one, na, neg_mul, one_mul]
    rfl
  | scaled =>
    obtain ⟨ca, cb⟩ := codes rfl
    obtain ⟨sa, va⟩ := mxValue_of_finite fa ca
    obtain ⟨sb, vb⟩ := mxValue_of_finite fb cb
    refine ⟨⟨sa, mxValue_den_pos da _⟩, ⟨sb, mxValue_den_pos db _⟩, ?_⟩
    have power (p q : Int) : (2 : Rat) ^ (p + q - 254) = 2 ^ (p - 127) * 2 ^ (q - 127) := by
      rw [← zpow_add₀ two_ne_zero]
      congr 1
      ring
    refine (congrArg₂ (· * ·) va vb).trans ?_
    simp only [ratProduct, reduceCtorEq, if_false, if_true, one_mul, power]
    ring

/-- R93: a step of a floating class on finite values rounds the exact total of the cell and its products once. -/
theorem rankStep_float {cls : RankClass} {x : InputClass} (is : ClassIs cls x) {form : RankForm} {ea eb : Entry}
    {t : BitVec 5} (mode : RMode) {rho c j v : Nat} (hx : x.int = false) (ht : isIeee t = true) (hj : j < x.ki / x.step)
    (inputs : finiteInputs form ea eb x rho c) (hv : finite ((tagFmt t).ieeeValue v) = true) : ∃ y : Val, finite y = true
      ∧ ratOf y = ratOf ((tagFmt t).ieeeValue v)
          + ((List.range x.step).map (fun i => ratProduct form ea eb x rho c (j * x.step + i))).sum
      ∧ rankStep cls form x.picot ea eb t mode rho c j v = roundIeee (tagFmt t) y mode := by
  obtain ⟨-, hr, hint, -⟩ := is
  have slice {i : Nat} (hi : i < x.step) : j * x.step + i < x.ki := by
    have top : (j + 1) * x.step ≤ x.ki := (Nat.le_div_iff_mul_le (by omega)).mp hj
    rw [Nat.succ_mul] at top
    omega
  have factors (i : Nat) (hi : i ∈ List.range x.step) := rankFactors_of_finite inputs (slice (List.mem_range.mp hi))
  obtain ⟨y, hy, total, step⟩ := hoopStepF_of_finite (t := t) (c := v) mode ht hv
    (prods := (List.range x.step).map (fun i => (rankA form x.picot ea eb (j * x.step + i) rho,
      rankB form x.picot eb (j * x.step + i) c)))
    (List.forall_mem_map.mpr fun i hi => ⟨(factors i hi).1, (factors i hi).2.1⟩)
  refine ⟨y, hy, total.trans ?_, ?_⟩
  · rw [List.map_map]
    congr 2
    exact List.map_congr_left fun i hi => (factors i hi).2.2
  · unfold rankStep
    rw [hint, hx, hr]
    dsimp only
    rw [if_neg Bool.false_ne_true, List.map_map]
    exact step

/-- R160: a cell of a row takes the steps of its class. -/
theorem rankCell_steps {cls : RankClass} {x : InputClass} (is : ClassIs cls x) (listed : x ∈ inputClasses) (form : RankForm)
    (s : State) {ea eb : Entry} (ha : ea.tag.toNat ∈ x.tags) (hb : eb.tag.toNat ∈ x.tags) {t : BitVec 5}
    (ht : t.toNat ∈ if x.int then [0x05, 0x07] else [0x0D, 0x0E]) (rho c : Nat) {old : Nat} (hold : old < 2 ^ tagWidth t) :
    CellSteps form s ea eb x t rho c old (rankCell cls form x.picot ea eb t s.ctx.rm rho c old) := by
  have steps : cls.ki / cls.r = x.ki / x.step := by rw [is.1, is.2.1]
  let step := rankStep cls form x.picot ea eb t s.ctx.rm rho c
  have next (j : Nat) : (through step old (j + 1)).1 = (step j (through step old j).1).1 := by rw [through_succ]
  refine ⟨fun j => (through step old j).1, fun j => (step j (through step old j).1).2, rfl, ?_, fun j hj => ⟨fun int => ?_,
    fun float inputs fin => ?_⟩⟩
  · rw [rankCell_eq_through, steps, ← through_fx]
  · rw [if_pos int] at ht
    obtain ⟨signed, -⟩ := signed_rowTag t ht
    have tags := inputClasses_tags x listed
    have saturates {v : Nat} := rankStep_int (v := v) is form s.ctx.rm rho c j int (tags _ ha int) (tags _ hb int) signed
    have small : (through step old j).1 < 2 ^ tagWidth t := by
      cases j with
      | zero => exact hold
      | succ j =>
        rw [next]
        show (rankStep _ _ _ _ _ _ _ _ _ _ _).1 < _
        unfold rankStep
        rw [is.int, int]
        exact intCode_lt _ _
    have value := saturates small
    exact ⟨(next j).trans (congrArg Prod.fst value), congrArg Prod.snd value⟩
  · rw [if_neg (by simp [float])] at ht
    obtain ⟨y, hy, total, value⟩ := rankStep_float is s.ctx.rm float (ieee_rowTag t ht) hj inputs fin
    exact ⟨y, hy, total, value.symm.trans (Prod.ext (next j).symm rfl)⟩

/-! ### The rows of a rank form (R153 to R158) -/

/-- A row under a rank form is its active cells replaced, each by its own steps. -/
theorem rankRow_eq_mapRow (cls : RankClass) (form : RankForm) (picot : Bool) (a b : Entry) (mode : RMode) {cols : Nat}
    (rho : Nat) (row : Row) (h : cols ≤ 64) : rankRow cls form picot a b mode cols rho row =
      mapRow cols row.tag row (fun c x => rankCell cls form picot a b row.tag mode rho c x) := by
  induction cols with
  | zero => rfl
  | succ n ih =>
    obtain ⟨-, -, cell, -⟩ := mapRow_spec n row.tag row (fun c x => rankCell cls form picot a b row.tag mode rho c x)
    have kept := (cell n h).trans (if_neg (lt_irrefl n))
    have before := ih (Nat.le_of_succ_le h)
    unfold rankRow at before ⊢
    rw [List.range_succ, List.foldl_append, before, List.foldl_cons, List.foldl_nil]
    dsimp only
    rw [kept]
    unfold mapRow
    dsimp only
    rw [List.range_succ, List.foldl_append]
    rfl

/-- A fold that lists a value and joins a record for each element. -/
theorem foldl_list_and {α β : Type} (g : α → β × Fx) (l : List α) (k : List (α × β)) (fx : Fx) :
    l.foldl (fun (x : List (α × β) × Fx) i => (x.1 ++ [(i, (g i).1)], x.2.and (g i).2)) (k, fx) =
      (k ++ l.map (fun i => (i, (g i).1)), l.foldl (fun f i => f.and (g i).2) fx) := by
  induction l generalizing k fx with
  | nil => simp
  | cons i l ih => rw [List.foldl_cons, ih]; simp

/-- Row r as a rank form leaves it with the B panel b, and what it records. -/
def State.ranked (s : State) (cls : RankClass) (form : RankForm) (picot : Bool) (a b : Entry) (r : Nat) : Row × Fx :=
  rankRow cls form picot a b s.ctx.rm s.ctx.cols r (s.row r)

theorem State.rankRows_eq (s : State) (cls : RankClass) (form : RankForm) (picot : Bool) (a b : Entry) (rows : List Nat) :
    s.rankRows cls form picot a b rows = (rows.map (fun r => (r, (s.ranked cls form picot a b r).1)),
      rows.foldl (fun f r => f.and (s.ranked cls form picot a b r).2) Fx.none) :=
  (foldl_list_and (s.ranked cls form picot a b) rows [] Fx.none).trans (by rw [List.nil_append])

/-- R160: the cell (r, c) that a rank form leaves with the B panel b. -/
def State.rankOut (s : State) (cls : RankClass) (form : RankForm) (picot : Bool) (a b : Entry) (r c : Nat) : Nat × Fx :=
  rankCell cls form picot a b (s.row r).tag s.ctx.rm r c ((s.row r).cell c % 2 ^ tagWidth (s.row r).tag)

theorem State.ranked_spec (s : State) (cls : RankClass) (form : RankForm) (picot : Bool) (a b : Entry) (r : Nat)
    (h : columns s ≤ 64) : (s.ranked cls form picot a b r).1.tag = (s.row r).tag
    ∧ (∀ c, c < 64 → (s.ranked cls form picot a b r).1.cell c =
        if c < columns s then (s.rankOut cls form picot a b r c).1 % 2 ^ 64 else (s.row r).cell c)
    ∧ (s.ranked cls form picot a b r).2 = totalFx (s.rankOut cls form picot a b r) (List.range (columns s)) := by
  unfold State.ranked
  rw [rankRow_eq_mapRow cls form picot a b _ r _ (State.cols_eq s ▸ h)]
  obtain ⟨tag, -, cells, record⟩ := mapRow_spec s.ctx.cols (s.row r).tag (s.row r)
    (fun c x => rankCell cls form picot a b (s.row r).tag s.ctx.rm r c x)
  exact ⟨tag, cells, record⟩

/-- The rows of a list record what their active cells do, the B panel of each row given by its number. -/
theorem State.ranked_record (s : State) (cls : RankClass) (form : RankForm) (picot : Bool) (a : Entry) (b : Nat → Entry)
    (rows : List Nat) (h : columns s ≤ 64) :
    rows.foldl (fun f r => f.and (s.ranked cls form picot a (b r) r).2) Fx.none =
      cellsFx (fun r => s.rankOut cls form picot a (b r) r) (grid rows (columns s)) := by
  rw [cellsFx_grid]
  exact congrArg (fun g => rows.foldl g Fx.none) (funext₂ fun f r => congrArg f.and (s.ranked_spec cls form picot a (b r) r h).2.2)

/-- R158: the rows that a rank form writes where no enabled flag stops it. -/
theorem hoopWrote_ranked {s u : State} (ctx : u.ctx = s.ctx) (row : ∀ r, u.row r = s.row r)
    (room : s.ctx.hBase + s.ctx.hRows ≤ 128) (cls : RankClass) (form : RankForm) (picot : Bool) (a : Entry) (b : Nat → Entry)
    (rows : List Nat) (h : columns s ≤ 64) :
    HoopWrote u ((u.putRows (rows.map (fun r => (r, (s.ranked cls form picot a (b r) r).1)))).record
        (cellsFx (fun r => s.rankOut cls form picot a (b r) r) (grid rows (columns s))))
      rows (grid rows (columns s)) (fun r => (s.row r).tag) (fun r => s.rankOut cls form picot a (b r) r) s.ctx.hcur := by
  have spec (r : Nat) := s.ranked_spec cls form picot a (b r) r h
  rw [← ctx]
  refine hoopWrote_putRows (ctx ▸ room) mem_rows_of_mem_grid (fun r _ => (spec r).1) fun r hr c hc => ?_
  rw [(spec r).2.1 c hc, row]
  simp [mem_grid, hr]

theorem enabled_iff (s : State) (fx : Fx) : s.ctx.enabled fx = true ↔ enabledIn s fx := by
  rw [enabledIn_iff, Ctx.enabled, bne_iff_ne]

theorem hoopDone_quiet {s u : State} {l : List (Nat × Row)} {fx : Fx} (h : ¬ enabledIn s fx) :
    hoopDone s u l fx = .ok ((u.putRows l).record fx) := if_neg (mt (enabled_iff s fx).mp h)

/-- R158: an enabled flag stops an all-or-nothing Hoop form with nothing changed. -/
theorem hoopDone_traps {i : Instr} {s u : State} {l : List (Nat × Row)} {fx : Fx} (run : exec i s = finish s (hoopDone s u l fx))
    (h : enabledIn s fx) : Yields i s (fun t => Trapped s t 0x09 (fx.flags.zeroExtend 64)
      ∧ (s.ctx.live = [] → s.ctx.resume = false → t.core = s.core)) :=
  ⟨_, run.trans (congrArg (finish s) (if_pos ((enabled_iff s fx).mpr h))), State.takeTrap_trapped s cArith _ true (by decide),
    fun hl hr => (State.takeTrap_sameLanes hl (.inr hr) _ _ _).1⟩

/-! ### The forms (R160) -/

/-- R153: two panels whose tags are of one listed class are taken in it. -/
theorem rankCheck_listed {x : InputClass} (listed : x ∈ inputClasses) : ∃ k, ClassIs (rankClass k) x ∧
    ∀ {scaled : Bool} {ta tb : BitVec 5}, ta.toNat ∈ x.tags → tb.toNat ∈ x.tags → (scaled = true → x.scaled = true) →
      rankCheck false x.picot scaled ta tb = .ok (rankClass k) := by
  obtain ⟨k, hk⟩ := List.mem_iff_getElem?.mp listed
  obtain ⟨is, tags⟩ := rankClass_listed (x, k) (List.mk_mem_zipIdx_iff_getElem?.mpr hk)
  refine ⟨k, is, fun ha hb hs => ?_⟩
  have fits : ∀ b : Bool, (b = true → x.scaled = true) → (b && !(rankClass k).scaled) = false := by
    intro b hb
    rw [is.scaled]
    cases b with
    | false => rfl
    | true => rw [hb rfl]; rfl
  unfold rankCheck
  rw [tags _ ha, tags _ hb]
  simp [fits _ hs]

theorem rankRowTag_listed {cls : RankClass} {x : InputClass} (is : ClassIs cls x) : ∀ t : BitVec 5,
    t.toNat ∈ (if x.int then [0x05, 0x07] else [0x0D, 0x0E]) → rankRowTag cls t = true := by
  intro t ht
  unfold rankRowTag
  rw [is.int]
  have int : ∀ t : BitVec 5, t.toNat ∈ [0x05, 0x07] → (t == tI32 || t == tI64) = true := by decide
  have float : ∀ t : BitVec 5, t.toNat ∈ [0x0D, 0x0E] → (t == tF32 || t == tF64) = true := by decide
  split at ht
  next h => rw [if_pos h]; exact int t ht
  next h => rw [if_neg h]; exact float t ht

/-- A rank form on panels of one listed class is its rows, done together. -/
theorem rank_runs {form : RankForm} {sel : BitVec 9} {a b : BitVec 6} {s s1 u : State} {ea eb : Entry} {rows : List Nat}
    {cls : RankClass} (hrows : s.regionRows sel false = .ok rows) (ha : s.takeV a = .ok (ea, s1)) (hb : s1.takeV b = .ok (eb, u))
    (hcls : rankCheck (decide (s.pkg.mgmt.level = 2)) (sel.getLsbD 8) (decide (form = .scaled)) ea.tag eb.tag = .ok cls)
    (tags : ∀ r ∈ rows, rankRowTag cls (s.row r).tag = true) (clean : ∀ r ∈ rows, (s.row r).poison = false) :
    rank form sel a b s = finish s (hoopDone s u (rows.map (fun r => (r, (s.ranked cls form (sel.getLsbD 8) ea eb r).1)))
      (rows.foldl (fun f r => f.and (s.ranked cls form (sel.getLsbD 8) ea eb r).2) Fx.none)) := by
  unfold rank
  dsimp only [bind, Except.bind]
  rw [hrows]
  dsimp only
  rw [ha]
  dsimp only
  rw [hb]
  dsimp only
  rw [hcls]
  dsimp only
  rw [State.needRowTags_ok tags, State.needClean_ok clean, State.rankRows_eq]

/-- The rank forms are the shared one. -/
theorem rankForms_exec : ∀ p ∈ [(Instr.hrank, RankForm.plain), (.hranks, .negated), (.hrankx, .scaled)], ∀ sel a b s,
    exec (p.1 sel a b) s = rank p.2 sel a b s := by
  simp only [List.forall_mem_cons]
  exact ⟨fun _ _ _ _ => rfl, fun _ _ _ _ => rfl, fun _ _ _ _ => rfl, nofun⟩

theorem cell_mod_lt (x : Nat) (t : BitVec 5) : x % 2 ^ tagWidth t < 2 ^ tagWidth t := Nat.mod_lt _ (Nat.two_pow_pos _)

theorem rankFormsUpdateEachActiveCell : RankFormsUpdateEachActiveCell := by
  intro p hp x listed sel a b s s1 u ea eb legal held ha hb hsel ta tb scaled level rowTags cols
  obtain ⟨k, is, check⟩ := rankCheck_listed listed
  have reduced : decide (s.pkg.mgmt.level = 2) = false := decide_eq_false level
  have checked := check ta tb (scaled := decide (p.2 = .scaled)) (fun h => scaled (of_decide_eq_true h))
  rw [← hsel, ← reduced] at checked
  have run := (rankForms_exec p hp sel a b s).trans (rank_runs (State.regionRows_form legal held) ha hb checked
    (fun r hr => rankRowTag_listed is _ (rowTags r hr).2) (fun r hr => (rowTags r hr).1))
  have ctx : u.ctx = s.ctx := (State.takeV_ctx hb).trans (State.takeV_ctx ha)
  have row (r : Nat) : u.row r = s.row r := (State.takeV_row hb r).trans (State.takeV_row ha r)
  have wrote := hoopWrote_ranked ctx row held.2 (rankClass k) p.2 (sel.getLsbD 8) ea (fun _ => eb) (formRows s sel) cols
  rw [s.ranked_record _ _ _ _ (fun _ => eb) _ cols] at run
  have done (h : ¬ enabledIn s (cellsFx (s.rankOut (rankClass k) p.2 (sel.getLsbD 8) ea eb) (grid (formRows s sel) (columns s)))) :=
    run.trans (congrArg (finish s) (hoopDone_quiet h))
  refine ⟨s.rankOut (rankClass k) p.2 (sel.getLsbD 8) ea eb, fun r hr c _ => ?_, fun quiet => ⟨_, done quiet, wrote⟩,
    hoopDone_traps run, fun off => ⟨_, done (not_enabledIn_of_untrapped off _), wrote⟩⟩
  rw [hsel]
  exact rankCell_steps is listed p.2 s ta tb (rowTags r hr).2 r c (cell_mod_lt _ _)

/-! ### The groups of `hrankg` (R161) -/

/-- R161: the row count of group g, from the group record in the first B entry. -/
def groupCount (d : Entry) (g : Nat) : Nat := elem 8 d.data (514 + 2 * g) + 256 * elem 8 d.data (515 + 2 * g)

/-- The first row of group g of a set that begins at row `first`. -/
def groupBase (d : Entry) (first g : Nat) : Nat := first + ((List.range g).map (groupCount d)).sum

/-- The rows of group g that lie in the set. -/
def groupRows (d : Entry) (first last g : Nat) : List Nat :=
  (List.range (Nat.min (groupCount d g) (last + 1 - groupBase d first g))).map (fun i => groupBase d first g + i)

/-- The rows of group g beyond the set. -/
def groupClipped (d : Entry) (first last g : Nat) : Nat := groupCount d g - (groupRows d first last g).length

theorem groupBase_succ (d : Entry) (first g : Nat) : groupBase d first (g + 1) = groupBase d first g + groupCount d g := by
  simp [groupBase, List.range_succ, Nat.add_assoc]

theorem groupBase_mono (d : Entry) (first : Nat) : Monotone (groupBase d first) :=
  monotone_nat_of_le_succ fun g => (groupBase_succ d first g).symm ▸ Nat.le_add_right _ _

theorem mem_groupRows {d : Entry} {first last g r : Nat} (h : r ∈ groupRows d first last g) :
    groupBase d first g ≤ r ∧ r < groupBase d first (g + 1) ∧ r ≤ last := by
  unfold groupRows at h
  obtain ⟨i, hi, rfl⟩ := List.mem_map.mp h
  have bound : i < groupCount d g ∧ i < last + 1 - groupBase d first g := lt_min_iff.mp (List.mem_range.mp hi)
  rw [groupBase_succ]
  omega

/-- No row lies in two groups. -/
theorem groupRows_inj {d : Entry} {first last g h r : Nat} (hg : r ∈ groupRows d first last g)
    (hh : r ∈ groupRows d first last h) : g = h := by
  obtain ⟨lowg, highg, -⟩ := mem_groupRows hg
  obtain ⟨lowh, highh, -⟩ := mem_groupRows hh
  obtain lt | rfl | lt := lt_trichotomy g h
  · have := groupBase_mono d first (show g + 1 ≤ h from lt)
    omega
  · rfl
  · have := groupBase_mono d first (show h + 1 ≤ g from lt)
    omega

/-- What the rows of a list record under a rank form with the B panel e. -/
def State.rankedFx (s : State) (cls : RankClass) (picot : Bool) (a : Entry) (panel : Nat → Entry) (rows : List Nat) : Fx :=
  rows.foldl (fun f r => f.and (s.ranked cls .plain picot a (panel r) r).2) Fx.none

/-- The rows of a list as a rank form leaves them, the B panel of each given by its number. -/
def State.rankedRows (s : State) (cls : RankClass) (picot : Bool) (a : Entry) (panel : Nat → Entry) (rows : List Nat) :
    List (Nat × Row) :=
  rows.map (fun r => (r, (s.ranked cls .plain picot a (panel r) r).1))

theorem State.rankedFx_append (s : State) (cls : RankClass) (picot : Bool) (a : Entry) (panel : Nat → Entry)
    (k l : List Nat) : s.rankedFx cls picot a panel (k ++ l) =
      (s.rankedFx cls picot a panel k).and (s.rankedFx cls picot a panel l) := by
  unfold State.rankedFx
  rw [List.foldl_append, Fx.foldl_and]

theorem State.rankRows_of_panel {s : State} {panel : Nat → Entry} {e : Entry} {rows : List Nat} (h : ∀ r ∈ rows, panel r = e)
    (cls : RankClass) (picot : Bool) (a : Entry) : s.rankRows cls .plain picot a e rows =
      (s.rankedRows cls picot a panel rows, s.rankedFx cls picot a panel rows) := by
  rw [State.rankRows_eq]
  refine Prod.ext ?_ ?_
  · exact List.map_congr_left fun r hr => by rw [h r hr]
  · exact List.foldl_ext _ _ _ fun f r hr => by rw [h r hr]

/-- A group of no rows counts as skipped. -/
theorem State.groupRun_skips {d : Entry} {g : Nat} (none : groupCount d g = 0) (s : State) (cls : RankClass) (picot : Bool)
    (a e : Entry) (last : Nat) (l : List Entry) (x : GroupRun) : s.groupRun cls picot a d last (e :: l) g x =
      s.groupRun cls picot a d last l (g + 1) { x with skipped := x.skipped + 1 } := by
  conv_lhs => unfold State.groupRun
  rw [← groupCount, if_pos none]

/-- A group of some rows adds those that lie in the set, and counts the others as clipped. -/
theorem State.groupRun_takes {d e : Entry} {first last g : Nat} {panel : Nat → Entry} (some : groupCount d g ≠ 0)
    (panels : ∀ r ∈ groupRows d first last g, panel r = e) {x : GroupRun} (hbase : x.base = groupBase d first g) (s : State)
    (cls : RankClass) (picot : Bool) (a : Entry) (l : List Entry) : ∃ y : GroupRun, y.base = groupBase d first (g + 1)
      ∧ y.clipped = x.clipped + groupClipped d first last g ∧ y.skipped = x.skipped
      ∧ y.rows = x.rows ++ s.rankedRows cls picot a panel (groupRows d first last g)
      ∧ y.fx = x.fx.and (s.rankedFx cls picot a panel (groupRows d first last g))
      ∧ s.groupRun cls picot a d last (e :: l) g x = s.groupRun cls picot a d last l (g + 1) y := by
  have list : (List.range (Nat.min (groupCount d g) (last + 1 - x.base))).map (fun i => x.base + i) =
      groupRows d first last g := by
    rw [hbase]
    rfl
  refine ⟨{ base := _, clipped := _, skipped := _, rows := _, fx := _ }, rfl, rfl, rfl, rfl, rfl, ?_⟩
  conv_lhs => unfold State.groupRun
  rw [← groupCount, if_neg some, list]
  dsimp only
  rw [State.rankRows_of_panel panels, hbase, ← groupBase_succ]
  rfl

/-- R161: what a run over the panels `l` of the groups from g on adds to what came before, the B panel of each row given by
its number. -/
theorem State.groupRun_eq {s : State} {cls : RankClass} {picot : Bool} {a d : Entry} {first last : Nat} {panel : Nat → Entry}
    (l : List Entry) (g : Nat) (x : GroupRun) (hbase : x.base = groupBase d first g)
    (panels : ∀ i e, l[i]? = some e → ∀ r ∈ groupRows d first last (g + i), panel r = e) :
    (s.groupRun cls picot a d last l g x).clipped =
        x.clipped + ((List.range' g l.length).map (groupClipped d first last)).sum
    ∧ (s.groupRun cls picot a d last l g x).skipped =
        x.skipped + ((List.range' g l.length).filter (fun g => decide (groupCount d g = 0))).length
    ∧ (s.groupRun cls picot a d last l g x).rows = x.rows ++
        s.rankedRows cls picot a panel ((List.range' g l.length).flatMap (groupRows d first last))
    ∧ (s.groupRun cls picot a d last l g x).fx =
        x.fx.and (s.rankedFx cls picot a panel ((List.range' g l.length).flatMap (groupRows d first last))) := by
  induction l generalizing g x with
  | nil => simp [State.groupRun, State.rankedRows, State.rankedFx, Fx.and_none]
  | cons e l ih =>
    have later : ∀ i e', l[i]? = some e' → ∀ r ∈ groupRows d first last (g + 1 + i), panel r = e' := fun i e' he r hr =>
      panels (i + 1) e' (by simpa using he) r (by rwa [Nat.add_assoc, Nat.add_comm 1 i] at hr)
    rw [List.length_cons, List.range'_succ, List.flatMap_cons, List.map_cons, List.sum_cons]
    by_cases none : groupCount d g = 0
    · have empty : groupRows d first last g = [] := by
        unfold groupRows
        rw [none, show Nat.min 0 (last + 1 - groupBase d first g) = 0 from Nat.zero_min _]
        rfl
      rw [State.groupRun_skips none, empty, List.nil_append, List.filter_cons, decide_eq_true none, if_pos rfl, List.length_cons]
      obtain ⟨clipped, skipped, rows, fx⟩ := ih (g + 1) { x with skipped := x.skipped + 1 }
        (by rw [groupBase_succ, none]; exact hbase) later
      refine ⟨clipped.trans ?_, skipped.trans ?_, rows, fx⟩
      · rw [groupClipped, none, Nat.zero_sub, Nat.zero_add]
      · exact Nat.succ_add_eq_add_succ _ _
    · obtain ⟨y, base, clip, skip, row, record, step⟩ := State.groupRun_takes none (panels 0 e rfl) hbase s cls picot a l
      obtain ⟨clipped, skipped, rows, fx⟩ := ih (g + 1) y base later
      rw [step, List.filter_cons, decide_eq_false none, if_neg Bool.false_ne_true, clipped, skipped, rows, fx, clip, skip, row,
        record, State.rankedFx_append]
      refine ⟨Nat.add_assoc _ _ _, rfl, ?_, Fx.and_assoc _ _ _⟩
      rw [List.append_assoc, State.rankedRows, State.rankedRows, State.rankedRows, List.map_append]

/-! ### The rank status word (R162) -/

theorem setBit_true_toNat_div {x : Word} {k : Nat} (hk : k < 8) : (setBit x k true).toNat / 2 ^ 8 = x.toNat / 2 ^ 8 := by
  apply Nat.eq_of_testBit_eq
  intro j
  rw [Nat.testBit_div_two_pow, Nat.testBit_div_two_pow, BitVec.testBit_toNat, BitVec.testBit_toNat,
    getLsbD_setBit x k true _ (by omega), if_neg (by omega)]

/-- A field replaced, and the bits below and above it. -/
theorem setBits_fields {x : Word} {h l v : Nat} (hl : l ≤ h) (hh : h < 64) (hv : v < 2 ^ (h - l + 1)) :
    (setBits x h l v).toNat / 2 ^ l % 2 ^ (h - l + 1) = v ∧ (setBits x h l v).toNat % 2 ^ l = x.toNat % 2 ^ l
    ∧ (setBits x h l v).toNat / 2 ^ (h + 1) = x.toNat / 2 ^ (h + 1) := by
  have top : (2 : Nat) ^ (h + 1) = 2 ^ l * 2 ^ (h - l + 1) := by rw [← Nat.pow_add]; congr 1; omega
  have value : (setBits x h l v).toNat =
      2 ^ l * (2 ^ (h - l + 1) * (x.toNat / 2 ^ (h + 1)) + v) + x.toNat % 2 ^ l := by
    rw [setBits_toNat x h l v hl hh, Nat.mod_eq_of_lt hv, bits, top, ← Nat.div_div_eq_div_mul]
    have d1 := Nat.div_add_mod (x.toNat / 2 ^ l) (2 ^ (h - l + 1))
    have d2 := Nat.div_add_mod x.toNat (2 ^ l)
    generalize x.toNat / 2 ^ l / 2 ^ (h - l + 1) = q at *
    generalize x.toNat / 2 ^ l % 2 ^ (h - l + 1) = m at *
    generalize x.toNat % 2 ^ l = r at *
    rw [← d2, ← d1, Nat.mul_add, Nat.mul_add, Nat.mul_comm m, Nat.mul_comm v]
    omega
  have low : x.toNat % 2 ^ l < 2 ^ l := Nat.mod_lt _ (Nat.two_pow_pos l)
  have quotient : (setBits x h l v).toNat / 2 ^ l = 2 ^ (h - l + 1) * (x.toNat / 2 ^ (h + 1)) + v := by
    rw [value, Nat.mul_add_div (Nat.two_pow_pos l), Nat.div_eq_of_lt low, Nat.add_zero]
  refine ⟨?_, ?_, ?_⟩
  · rw [quotient, Nat.mul_add_mod, Nat.mod_eq_of_lt hv]
  · rw [value, Nat.mul_add_mod, Nat.mod_mod]
  · conv_lhs => rw [top, ← Nat.div_div_eq_div_mul, quotient, Nat.mul_add_div (Nat.two_pow_pos _), Nat.div_eq_of_lt hv]
    rfl

/-- The two counts stop at their fields' largest values, and bits 0 and 1 say that anything was clipped or skipped. -/
theorem rankStatusAfter_fields (w : Word) (clipped skipped : Nat) :
    (rankStatusAfter w clipped skipped).toNat / 2 ^ 16 % 2 ^ 16 = Nat.min 0xFFFF (w.toNat / 2 ^ 16 % 2 ^ 16 + clipped)
    ∧ (rankStatusAfter w clipped skipped).toNat / 2 ^ 8 % 2 ^ 8 = Nat.min 0xFF (w.toNat / 2 ^ 8 % 2 ^ 8 + skipped)
    ∧ (rankStatusAfter w clipped skipped).getLsbD 0 = (w.getLsbD 0 || decide (0 < clipped))
    ∧ (rankStatusAfter w clipped skipped).getLsbD 1 = (w.getLsbD 1 || decide (0 < skipped)) := by
  obtain ⟨x, ex⟩ : ∃ x, x = setBits w 31 16 (Nat.min 0xFFFF (bits w 31 16 + clipped)) := ⟨_, rfl⟩
  obtain ⟨y, ey⟩ : ∃ y, y = setBits x 15 8 (Nat.min 0xFF (bits x 15 8 + skipped)) := ⟨_, rfl⟩
  have word : rankStatusAfter w clipped skipped =
      if 0 < clipped then setBit (if 0 < skipped then setBit y 1 true else y) 0 true
      else if 0 < skipped then setBit y 1 true else y := by rw [ey, ex]; rfl
  have hx := setBits_fields (x := w) (v := Nat.min 0xFFFF (bits w 31 16 + clipped)) (h := 31) (l := 16) (by decide) (by decide)
    (Nat.lt_succ_of_le (Nat.min_le_left _ _))
  have hy := setBits_fields (x := x) (v := Nat.min 0xFF (bits x 15 8 + skipped)) (h := 15) (l := 8) (by decide) (by decide)
    (Nat.lt_succ_of_le (Nat.min_le_left _ _))
  rw [← ex] at hx
  rw [← ey] at hy
  obtain ⟨field, below, above⟩ := hx
  obtain ⟨field', below', above'⟩ := hy
  have low16 : x.toNat / 2 ^ 8 % 2 ^ 8 = w.toNat / 2 ^ 8 % 2 ^ 8 := by omega
  have upper : y.toNat / 2 ^ 16 % 2 ^ 16 = Nat.min 0xFFFF (w.toNat / 2 ^ 16 % 2 ^ 16 + clipped) :=
    (congrArg (· % 2 ^ 16) above').trans field
  have middle : y.toNat / 2 ^ 8 % 2 ^ 8 = Nat.min 0xFF (w.toNat / 2 ^ 8 % 2 ^ 8 + skipped) := by
    rw [← low16]
    exact field'
  have lower : y.toNat % 2 ^ 2 = w.toNat % 2 ^ 2 := by omega
  have low (j : Nat) (hj : j < 2) : y.getLsbD j = w.getLsbD j := by
    rw [← BitVec.testBit_toNat, ← BitVec.testBit_toNat]
    have inside (n : Nat) : n.testBit j = (n % 2 ^ 2).testBit j := by rw [Nat.testBit_mod_two_pow]; simp [hj]
    rw [inside, lower, ← inside]
  have counts : (rankStatusAfter w clipped skipped).toNat / 2 ^ 8 = y.toNat / 2 ^ 8 := by
    rw [word]
    split_ifs <;> simp only [setBit_true_toNat_div (show 0 < 8 by decide), setBit_true_toNat_div (show 1 < 8 by decide)]
  refine ⟨?_, ?_, ?_, ?_⟩
  · exact Eq.trans (by omega) upper
  · exact (congrArg (· % 2 ^ 8) counts).trans middle
  · rw [← low 0 (by decide), word]
    split_ifs with c k <;> simp [getLsbD_setBit, -BitVec.getLsbD_eq_getElem, c]
  · rw [← low 1 (by decide), word]
    split_ifs with c k k <;> simp [getLsbD_setBit, -BitVec.getLsbD_eq_getElem, k]

/-! ### The form (R161, R162) -/

theorem State.takeGroups_spec {b : Nat} {l : List Nat} {s u : State} {es : List Entry} (h : s.takeGroups b l = .ok (es, u)) :
    es.length = l.length ∧ u.ctx = s.ctx ∧ ∀ r, u.row r = s.row r := by
  induction l generalizing s es with
  | nil =>
    cases h
    exact ⟨rfl, rfl, fun _ => rfl⟩
  | cons g l ih =>
    unfold State.takeGroups at h
    dsimp only [bind, Except.bind] at h
    split at h
    · cases h
    next p first =>
      split at h
      · cases h
      next q later =>
        cases h
        obtain ⟨length, ctx, row⟩ := ih later
        have frame := State.takeRef_frame first
        exact ⟨congrArg Nat.succ length, ctx.trans (by rw [frame]), fun r => (row r).trans (by rw [frame]; rfl)⟩

/-- A consecutive row set begins and ends where it says. -/
theorem consecutive_eq_cons {first last : Nat} (h : first ≤ last) :
    ∃ rest, (List.range (last + 1 - first)).map (fun i => first + i) = first :: rest ∧ rest.getLastD first = last := by
  obtain ⟨n, rfl⟩ := Nat.exists_eq_add_of_le h
  refine ⟨(List.range n).map (fun i => first + (i + 1)), ?_, ?_⟩
  · rw [show first + n + 1 - first = n + 1 by omega, List.range_succ_eq_map, List.map_cons, List.map_map]
    rfl
  · cases n with
    | zero => rfl
    | succ n => simp [List.range_succ, List.getLastD_eq_getLast?]

/-- The panel of a row: that of the group in which it lies. -/
def panelOf (d : Entry) (first last : Nat) (l : List Entry) (r : Nat) : Entry :=
  (l[((List.range l.length).find? (fun g => decide (r ∈ groupRows d first last g))).getD 0]?).getD d

theorem panelOf_eq {d : Entry} {first last g r : Nat} {l : List Entry} {e : Entry} (he : l[g]? = some e)
    (hr : r ∈ groupRows d first last g) : panelOf d first last l r = e := by
  have bound : g < l.length := (List.getElem?_eq_some_iff.mp he).1
  have found : (List.range l.length).find? (fun g => decide (r ∈ groupRows d first last g)) = some g := by
    obtain ⟨k, hk⟩ := Option.isSome_iff_exists.mp
      (List.find?_isSome.mpr ⟨g, List.mem_range.mpr bound, decide_eq_true hr⟩ :
        ((List.range l.length).find? (fun g => decide (r ∈ groupRows d first last g))).isSome)
    have inside : decide (r ∈ groupRows d first last k) = true :=
      List.find?_some (p := fun g => decide (r ∈ groupRows d first last g)) hk
    rw [hk, groupRows_inj (of_decide_eq_true inside) hr]
  rw [panelOf, found, Option.getD_some, he, Option.getD_some]

/-- A grouped update, its panels taken and its rows checked. -/
def State.groupsDone (s u : State) (cls : RankClass) (picot : Bool) (a b : Entry) (es : List Entry) : List Nat → M State
  | [] => .ok u
  | first :: rest => do
    let g := s.groupRun cls picot a b (rest.getLastD first) (b :: es) 0
      { base := first, clipped := 0, skipped := 0, rows := [], fx := Fx.none }
    let t ← hoopDone s u g.rows g.fx
    .ok { t with ctx := { t.ctx with rankStatus := rankStatusAfter t.ctx.rankStatus g.clipped g.skipped } }

theorem hrankg_runs {sel : BitVec 9} {a b : BitVec 6} {s s1 s2 u : State} {ea eb : Entry} {es : List Entry} {rows : List Nat}
    {cls : RankClass} (hrows : s.regionRows sel false = .ok rows) (ha : s.takeV a = .ok (ea, s1)) (hb : s1.takeV b = .ok (eb, s2))
    (hes : s2.takeGroups b.toNat ((List.range (elem 8 eb.data 512 % 8 + 1)).drop 1) = .ok (es, u))
    (level : s.pkg.mgmt.level ≠ 2)
    (hcls : ∀ e ∈ eb :: es, rankCheck false (sel.getLsbD 8) false ea.tag e.tag = .ok cls)
    (tags : ∀ r ∈ rows, rankRowTag cls (s.row r).tag = true) (clean : ∀ r ∈ rows, (s.row r).poison = false) :
    exec (.hrankg sel a b) s = finish s (s.groupsDone u cls (sel.getLsbD 8) ea eb es rows) := by
  show execHrankg sel a b s = _
  unfold execHrankg
  dsimp only [bind, Except.bind]
  rw [hrows]
  dsimp only
  rw [ha]
  dsimp only
  rw [hb]
  dsimp only
  rw [hes]
  dsimp only
  rw [decide_eq_false level, hcls eb List.mem_cons_self]
  dsimp only
  split
  next e found =>
    have bad := List.find?_some found
    rw [hcls e (List.mem_cons_of_mem _ (List.mem_of_find?_eq_some found))] at bad
    exact absurd bad Bool.false_ne_true
  · rw [State.needRowTags_ok tags, State.needClean_ok clean]
    cases rows <;> rfl

theorem groupedRankUpdatesItsGroups : GroupedRankUpdatesItsGroups := by
  intro x listed sel a b s s1 s2 u ea eb es legal held ha hb hes hsel ta tes level rowTags cols
  obtain ⟨k, is, check⟩ := rankCheck_listed listed
  obtain ⟨length, ctx3, row3⟩ := State.takeGroups_spec hes
  have ctx : u.ctx = s.ctx := ctx3.trans ((State.takeV_ctx hb).trans (State.takeV_ctx ha))
  have row (r : Nat) : u.row r = s.row r := (row3 r).trans ((State.takeV_row hb r).trans (State.takeV_row ha r))
  have run := hrankg_runs (State.regionRows_form legal held) ha hb hes level
    (fun e he => hsel.symm ▸ check ta (tes e he) (scaled := false) nofun)
    (fun r hr => rankRowTag_listed is _ (rowTags r hr).2) (fun r hr => (rowTags r hr).1)
  refine ⟨fun empty => ⟨u, run.trans (by rw [empty]; rfl), rfl⟩, fun first last set order => ?_⟩
  let n := elem 8 eb.data 512 % 8 + 1
  have count : (eb :: es).length = n := by
    rw [List.length_cons, length]
    simp [n]
  let panel := panelOf eb first last (eb :: es)
  have panels (g : Nat) (e : Entry) (he : (eb :: es)[g]? = some e) (r : Nat) (hr : r ∈ groupRows eb first last g) : panel r = e :=
    panelOf_eq he hr
  obtain ⟨clipped, skipped, rows, fx⟩ := State.groupRun_eq (s := s) (cls := rankClass k) (picot := sel.getLsbD 8) (a := ea)
    (d := eb) (first := first) (last := last) (panel := panel) (eb :: es) 0
    { base := first, clipped := 0, skipped := 0, rows := [], fx := Fx.none } rfl
    (fun i e he => by rw [Nat.zero_add]; exact panels i e he)
  rw [count, ← List.range_eq_range'] at clipped skipped rows fx
  obtain ⟨rest, cons, final⟩ := consecutive_eq_cons order
  rw [set, cons, State.groupsDone, final] at run
  dsimp only at run
  rw [rows, fx, clipped, skipped] at run
  have wrote := hoopWrote_ranked ctx row held.2 (rankClass k) .plain (sel.getLsbD 8) ea panel
    ((List.range n).flatMap (groupRows eb first last)) cols
  have record : s.rankedFx (rankClass k) (sel.getLsbD 8) ea panel ((List.range n).flatMap (groupRows eb first last)) = _ :=
    s.ranked_record _ _ _ _ panel _ cols
  have inSet {g r : Nat} (hr : r ∈ groupRows eb first last g) : r ∈ formRows s sel := by
    obtain ⟨low, -, high⟩ := mem_groupRows hr
    have : first ≤ r := (Nat.le_add_right _ _).trans low
    rw [set]
    exact List.mem_map.mpr ⟨r - first, List.mem_range.mpr (by omega), by omega⟩
  refine ⟨fun r => s.rankOut (rankClass k) .plain (sel.getLsbD 8) ea (panel r) r, fun g hg r hr c _ e he => ?_, fun quiet => ?_⟩
  · dsimp only
    rw [panels g e he r hr, hsel]
    exact rankCell_steps is listed .plain s ta (tes e (List.mem_of_getElem? he)) (rowTags r (inSet hr)).2 r c (cell_mod_lt _ _)
  · have still : ¬ enabledIn s (s.rankedFx (rankClass k) (sel.getLsbD 8) ea panel
        ((List.range n).flatMap (groupRows eb first last))) := by
      rw [record]
      exact quiet.elim id fun off => not_enabledIn_of_untrapped off _
    rw [Fx.none_and, List.nil_append, Nat.zero_add, Nat.zero_add, hoopDone_quiet still, record] at run
    refine ⟨_, run, _, wrote, rfl, ?_⟩
    have status (l : List (Nat × Row)) (f : Fx) : ((u.putRows l).record f).ctx.rankStatus = s.ctx.rankStatus := by
      rw [← ctx, State.putRows_frame]
      rfl
    dsimp only
    rw [status]
    exact rankStatusAfter_fields _ _ _

end Sys2Proof.Machine

section

open Sys2Proof.Machine

/-- Settles O35: each form is its rows through `rankCell_steps`, and a grouped one the same rows group by group. -/
theorem rankFormsUpdateTheirActiveCells : Obligations.RankFormsUpdateTheirActiveCells :=
  ⟨rankFormsUpdateEachActiveCell, groupedRankUpdatesItsGroups⟩

end

/-! SUPPORT. Slices of the Hoop (R28): their cells, the rows they touch, and what a write of some of their elements leaves. -/

namespace Sys2Proof.Machine

open Sys2Proof.Safety Sys2Proof.Claims

/-! ### The cells of a slice (R28) -/

theorem State.sliceCells_eq {s : State} {sel : BitVec 9} (held : sliceHeld s sel) : s.sliceCells sel = .ok (sliceOf s sel) := by
  obtain ⟨row, -⟩ := held
  unfold State.sliceCells sliceOf
  rw [← Ctx.hRows_eq]
  dsimp only
  split
  next k => rw [if_neg (not_le.mpr (row k)), if_pos k]
  next k => simp [k]
  next k => simp [k]
  next n0 n1 n2 => simp only [if_neg n0, if_neg n1, if_neg n2]

theorem sliceOf_nodup (s : State) (sel : BitVec 9) : (sliceOf s sel).Nodup := by
  unfold sliceOf
  dsimp only
  split_ifs
  · exact List.nodup_range.map fun i j h => (Prod.mk.inj h).2
  all_goals exact List.nodup_range.map fun i j h => (Prod.mk.inj h).1

theorem movedCells_nodup (s : State) (sel : BitVec 9) (w : Nat) : (movedCells s sel w).Nodup := (sliceOf_nodup s sel).take

theorem sliceRow_isNone (sel : BitVec 9) : (sliceRow sel).isNone = true ↔ sel.toNat / 128 ≠ 0 := by
  unfold sliceRow
  split <;> simp_all

/-- The elements of a slice that move, each with its number. -/
theorem zip_movedCells (s : State) (sel : BitVec 9) (w : Nat) :
    (List.range (movedCells s sel w).length).zip (movedCells s sel w) =
      (movedCells s sel w).map (fun x => (cellIndex s sel x.1 x.2, x)) := by
  refine List.ext_getElem (by simp) fun i hi _ => ?_
  have inside : i < (movedCells s sel w).length := by simpa using hi
  have whole : i < (sliceOf s sel).length := inside.trans_le (List.length_take_le' _ _)
  have number : (sliceOf s sel).findIdx (fun x => x == (sliceOf s sel)[i]) = i := (sliceOf_nodup s sel).idxOf_getElem i whole
  rw [List.getElem_zip, List.getElem_range, List.getElem_map]
  have here : (movedCells s sel w)[i] = (sliceOf s sel)[i] := List.getElem_take
  rw [here]
  exact Prod.ext number.symm rfl

/-! ### The rows of a list of cells (R163) -/

theorem mem_insertNat {a b : Nat} {l : List Nat} : b ∈ insertNat a l ↔ b = a ∨ b ∈ l := by
  induction l with
  | nil => simp [insertNat]
  | cons k l ih =>
    unfold insertNat
    split_ifs with lt eq
    · simp
    · simp [eq]
    · simp [ih, or_left_comm]

theorem insertNat_sorted {a : Nat} {l : List Nat} (h : l.Pairwise (· < ·)) : (insertNat a l).Pairwise (· < ·) := by
  induction l with
  | nil => simp [insertNat]
  | cons k l ih =>
    obtain ⟨first, rest⟩ := List.pairwise_cons.mp h
    unfold insertNat
    split_ifs with lt eq
    · exact List.pairwise_cons.mpr ⟨List.forall_mem_cons.mpr ⟨lt, fun b hb => lt.trans (first b hb)⟩, h⟩
    · exact h
    · refine List.pairwise_cons.mpr ⟨fun b hb => ?_, ih rest⟩
      obtain rfl | old := mem_insertNat.mp hb
      · omega
      · exact first b old

theorem foldl_insertNat (l : List (Nat × Nat)) (m : List Nat) (h : m.Pairwise (· < ·)) :
    (l.foldl (fun m c => insertNat c.1 m) m).Pairwise (· < ·)
    ∧ ∀ r, r ∈ l.foldl (fun m c => insertNat c.1 m) m ↔ r ∈ m ∨ r ∈ l.map (fun x => x.1) := by
  induction l generalizing m with
  | nil => exact ⟨h, by simp⟩
  | cons x l ih =>
    obtain ⟨sorted, mem⟩ := ih (insertNat x.1 m) (insertNat_sorted h)
    refine ⟨sorted, fun r => (mem r).trans ?_⟩
    rw [mem_insertNat, List.map_cons, List.mem_cons, or_assoc, or_left_comm]

theorem mem_cellRows {l : List (Nat × Nat)} {r : Nat} : r ∈ cellRows l ↔ r ∈ l.map (fun x => x.1) :=
  (foldl_insertNat l [] List.Pairwise.nil).2 r |>.trans (by simp)

theorem cellRows_nodup (l : List (Nat × Nat)) : (cellRows l).Nodup :=
  (foldl_insertNat l [] List.Pairwise.nil).1.imp fun h => Nat.ne_of_lt h

/-- What holds of the row of each cell holds of each row touched. -/
theorem forall_cellRows {l : List (Nat × Nat)} {P : Nat → Prop} (h : ∀ x ∈ l, P x.1) : ∀ r ∈ cellRows l, P r :=
  fun r hr => by
    obtain ⟨x, hx, rfl⟩ := List.mem_map.mp (mem_cellRows.mp hr)
    exact h x hx

/-- The columns that a list of cells has in row r. -/
def columnsOf (l : List (Nat × Nat)) (r : Nat) : List Nat := (l.filter (fun x => decide (x.1 = r))).map (fun x => x.2)

theorem mem_columnsOf {l : List (Nat × Nat)} {r c : Nat} : c ∈ columnsOf l r ↔ (r, c) ∈ l := by
  simp only [columnsOf, List.mem_map, List.mem_filter, decide_eq_true_eq]
  exact ⟨fun ⟨x, ⟨hx, hr⟩, hc⟩ => hr ▸ hc ▸ hx, fun h => ⟨(r, c), ⟨h, rfl⟩, rfl⟩⟩

theorem columnsOf_cells (l : List (Nat × Nat)) (r : Nat) :
    l.filter (fun x => decide (x.1 = r)) = (columnsOf l r).map (fun c => (r, c)) := by
  rw [columnsOf, List.map_map]
  refine (List.map_id _).symm.trans (List.map_congr_left fun x hx => ?_)
  exact Prod.ext (of_decide_eq_true (List.mem_filter.mp hx).2) rfl

/-- Distinct cells record the same row by row. -/
theorem cellsFx_by_rows (out : Nat → Nat → Nat × Fx) {l : List (Nat × Nat)} (distinct : l.Nodup) :
    (cellRows l).foldl (fun f r => f.and (totalFx (out r) (columnsOf l r))) Fx.none = cellsFx out l := by
  have split (rows : List Nat) (fx : Fx) : rows.foldl (fun f r => f.and (totalFx (out r) (columnsOf l r))) fx =
      fx.and (cellsFx out (rows.flatMap (fun r => l.filter (fun x => decide (x.1 = r))))) := by
    induction rows generalizing fx with
    | nil => exact fx.and_none.symm
    | cons r rows ih =>
      rw [List.foldl_cons, ih, List.flatMap_cons, cellsFx_append, ← Fx.and_assoc, columnsOf_cells, cellsFx_row]
  rw [split, Fx.none_and]
  apply cellsFx_perm
  refine (List.perm_ext_iff_of_nodup (List.nodup_flatMap.mpr ⟨fun r _ => distinct.filter _, ?_⟩) distinct).mpr fun x => ?_
  · refine (cellRows_nodup l).imp fun {r q} ne x hr hq => ne ?_
    exact (of_decide_eq_true (List.mem_filter.mp hr).2).symm.trans (of_decide_eq_true (List.mem_filter.mp hq).2)
  · simp only [List.mem_flatMap, List.mem_filter, decide_eq_true_eq]
    exact ⟨fun ⟨_, _, hx, _⟩ => hx, fun hx => ⟨x.1, mem_cellRows.mpr (List.mem_map_of_mem hx), hx, rfl⟩⟩

/-! ### Elements written into a slice (R164, R166) -/

/-- Row r with the columns of a list written, under a tag; the poison of a row not wholly written stays. -/
def writtenRow (row : Row) (tag : BitVec 5) (out : Nat → Nat × Fx) (cols : List Nat) : Row :=
  { tag := tag, poison := row.poison && decide (cols.length < 64)
    cells := (cols.foldl (fun (x : BitVec 4096 × Fx) c => (setCell x.1 c (out c).1, x.2.and (out c).2)) (row.cells, Fx.none)).1 }

theorem writtenRow_cell (row : Row) (tag : BitVec 5) (out : Nat → Nat × Fx) (cols : List Nat) {c : Nat} (hc : c < 64) :
    (writtenRow row tag out cols).cell c = if c ∈ cols then (out c).1 % 2 ^ 64 else row.cell c :=
  (foldl_setCell out cols row.cells Fx.none).1 c hc

/-- A write of numbered cells, row by row. -/
theorem State.sliceWrite_eq {s : State} {cells : List (Nat × Nat)} {num : Nat → Nat → Nat} (distinct : cells.Nodup)
    (numbered : (List.range cells.length).zip cells = cells.map (fun x => (num x.1 x.2, x))) (tag : BitVec 5)
    (f : Nat → Nat → Nat × Fx) : s.sliceWrite cells tag f =
      ((cellRows cells).map (fun r => (r, writtenRow (s.row r) tag (fun c => f (num r c) ((s.row r).cell c)) (columnsOf cells r))),
        cellsFx (fun r c => f (num r c) ((s.row r).cell c)) cells) := by
  have mine (r : Nat) : (cells.map (fun x => (num x.1 x.2, x))).filter (fun c => decide (c.2.1 = r)) =
      (columnsOf cells r).map (fun c => (num r c, (r, c))) := by
    rw [List.filter_map]
    refine (congrArg (List.map _) (columnsOf_cells cells r)).trans ?_
    rw [List.map_map]
    rfl
  rw [← cellsFx_by_rows _ distinct]
  unfold State.sliceWrite
  dsimp only
  rw [numbered]
  simp only [mine, List.foldl_map, List.map_map, List.length_map]
  refine Prod.ext rfl ?_
  refine congrArg (fun g => (cellRows cells).foldl g Fx.none) (funext₂ fun fx r => congrArg fx.and ?_)
  exact (foldl_setCell (fun c => f (num r c) ((s.row r).cell c)) (columnsOf cells r) (s.row r).cells Fx.none).2.trans (Fx.none_and _)

theorem HoopWrote.of_mem_iff {u t : State} {rows others : List Nat} {cells : List (Nat × Nat)} {tag : Nat → BitVec 5}
    {out : Nat → Nat → Nat × Fx} {h : Word} (w : HoopWrote u t rows cells tag out h) (same : ∀ r, r ∈ rows ↔ r ∈ others) :
    HoopWrote u t others cells tag out h := by
  obtain ⟨frame, row⟩ := w
  refine ⟨frame, fun r hr => ?_⟩
  rw [← if_congr (same r) rfl rfl]
  exact row r hr

/-- The cells that a write of the moved elements of a slice leaves. -/
theorem hoopWrote_slice {s u : State} {sel : BitVec 9} {w : Nat} (ctx : u.ctx = s.ctx) (row : ∀ r, u.row r = s.row r)
    (room : s.ctx.hBase + s.ctx.hRows ≤ 128) (tag : BitVec 5) (f : Nat → Nat → Nat × Fx) :
    HoopWrote u ((u.putRows (s.sliceWrite (movedCells s sel w) tag f).1).record (s.sliceWrite (movedCells s sel w) tag f).2)
      ((movedCells s sel w).map (fun x => x.1)) (movedCells s sel w) (fun _ => tag)
      (fun r c => f (cellIndex s sel r c) ((s.row r).cell c)) s.ctx.hcur := by
  rw [State.sliceWrite_eq (movedCells_nodup s sel w) (zip_movedCells s sel w), ← ctx]
  refine HoopWrote.of_mem_iff ?_ fun r => mem_cellRows
  refine hoopWrote_putRows (ctx ▸ room) (fun x hx => mem_cellRows.mpr (List.mem_map_of_mem hx)) (fun r _ => rfl) fun r _ c hc => ?_
  rw [writtenRow_cell _ _ _ _ hc, row]
  exact if_congr mem_columnsOf rfl rfl

theorem State.record_none (s : State) : s.record Fx.none = s := by
  rw [State.record, Ctx.record_eq, recorded_none]

/-! ### The slice forms (R163, R164, R166) -/

/-- The common tag of a slice whose rows agree. -/
theorem State.commonTag_eq {s : State} {rows : List Nat} {tag : BitVec 5} (some : rows ≠ [])
    (same : ∀ r ∈ rows, (s.row r).tag = tag) : s.commonTag rows = .some tag := by
  cases rows with
  | nil => exact absurd rfl some
  | cons r l =>
    obtain ⟨first, rest⟩ := List.forall_mem_cons.mp same
    have all : (l.all fun k => (s.row k).tag == (s.row r).tag) = true :=
      List.all_eq_true.mpr fun k hk => beq_iff_eq.mpr ((rest k hk).trans first.symm)
    unfold State.commonTag
    dsimp only
    rw [if_pos all, first]

/-- Elements written in order from number k on. -/
theorem elem_foldl_numbered {α : Type} (w : Nat) (v : α → Nat) (l : List α) (d : Lanes) (k : Nat) {i : Nat} (hi : i < 8192 / w) :
    elem w (l.foldl (fun x c => (setElem w x.1 x.2 (v c), x.2 + 1)) (d, k)).1 i =
      if k ≤ i then (l[i - k]?.map (fun c => v c % 2 ^ w)).getD (elem w d i) else elem w d i := by
  induction l generalizing d k with
  | nil => simp
  | cons c l ih =>
    rw [List.foldl_cons, ih (setElem w d k (v c)) (k + 1), elem_setElem _ _ hi]
    obtain lt | rfl | gt := Nat.lt_trichotomy i k
    · rw [if_neg (by omega), if_neg (by omega), if_neg (by omega)]
    · simp
    · rw [if_pos (by omega), if_neg (by omega), if_pos gt.le, show i - k = i - (k + 1) + 1 by omega]
      rfl

theorem movedCells_eq (s : State) (sel : BitVec 9) (w : Nat) : (sliceOf s sel).take (vlmax w) = movedCells s sel w := rfl

theorem hget_yields {sel : BitVec 9} {a : BitVec 6} {s : State} {tag : BitVec 5} (held : sliceHeld s sel)
    (href : s.checkRef (s.vref a) = .ok ()) (hroom : s.checkRoom (s.vref a) = .ok ())
    (same : ∀ x ∈ sliceOf s sel, (s.row x.1).tag = tag) (some : sliceOf s sel ≠ [])
    (clean : ∀ x ∈ movedCells s sel (tagWidth tag), (s.row x.1).poison = false) :
    Yields (.hget sel a) s (fun t => ∃ v : Entry, t = s.putRef (s.vref a) v ∧ v.tag = tag ∧ v.poison = false
      ∧ ∀ i, i < 8192 / tagWidth tag → elem (tagWidth tag) v.data i =
        ((movedCells s sel (tagWidth tag))[i]?.map (fun x => (s.row x.1).cell x.2 % 2 ^ tagWidth tag)).getD
          (zeroOf tag % 2 ^ tagWidth tag)) := by
  let v : Entry :=
    { tag := tag, poison := false
      data := ((movedCells s sel (tagWidth tag)).foldl
        (fun x c => (setElem (tagWidth tag) x.1 x.2 ((s.row c.1).cell c.2 % 2 ^ tagWidth tag), x.2 + 1)) (zeroData tag, 0)).1 }
  obtain ⟨x, hx⟩ := List.exists_mem_of_ne_nil _ some
  have touched : cellRows (sliceOf s sel) ≠ [] := List.ne_nil_of_mem (mem_cellRows.mpr (List.mem_map_of_mem hx))
  have run : exec (.hget sel a) s = .next (s.putRef (s.vref a) v) := by
    show execHget sel a s = _
    unfold execHget
    rw [finish_bind_ok (State.sliceCells_eq held), State.commonTag_eq touched (forall_cellRows same)]
    dsimp only [Option.getD_some]
    rw [movedCells_eq]
    rw [finish_bind_ok (State.needClean_ok (forall_cellRows clean)), finish_bind_ok href, finish_bind_ok hroom]
    rfl
  refine ⟨_, run, v, rfl, rfl, rfl, fun i hi => ?_⟩
  have zero : zeroOf tag % 2 ^ tagWidth tag = zeroOf tag := Nat.mod_eq_of_lt (zeroCode_lt tag _)
  rw [elem_foldl_numbered _ _ _ _ _ hi, if_pos (Nat.zero_le i), elem_zeroData hi, Nat.sub_zero, zero]
  simp only [Nat.mod_mod]

/-- R29: tags of the same element size lay their cells out the same. -/
theorem cellLayout_eq {t u : BitVec 5} (h : tagWidth u = tagWidth t ∨ (tagWidth t < 32 ∧ tagWidth u < 32)) :
    cellLayout u = cellLayout t := by
  unfold cellLayout
  obtain h | ⟨ht, hu⟩ := h
  · rw [h]
  · dsimp only
    rw [if_neg (by omega), if_neg (by omega), if_neg (by omega), if_neg (by omega)]

section Written

variable {sel : BitVec 9} {a : BitVec 6} {s u : State} {ea : Entry} (held : sliceHeld s sel) (ha : s.takeV a = .ok (ea, u))

include held ha

theorem hput_yields (known : ea.tag.toNat ≤ 0x11)
    (layout : sel.toNat / 128 ≠ 0 → ∀ x ∈ movedCells s sel (tagWidth ea.tag),
      tagWidth (s.row x.1).tag = tagWidth ea.tag ∨ (tagWidth ea.tag < 32 ∧ tagWidth (s.row x.1).tag < 32)) :
    Yields (.hput sel a) s (fun t => HoopWrote u t ((movedCells s sel (tagWidth ea.tag)).map (fun x => x.1))
      (movedCells s sel (tagWidth ea.tag)) (fun _ => ea.tag)
      (fun r c => (elem (tagWidth ea.tag) ea.data (cellIndex s sel r c), Fx.none)) s.ctx.hcur) := by
  have writable : ∀ t : BitVec 5, t.toNat ≤ 0x11 → (t != tBIT && !tagReserved t) = true := by decide
  have wrote := hoopWrote_slice (sel := sel) (w := tagWidth ea.tag) (State.takeV_ctx ha) (State.takeV_row ha) held.2 ea.tag
    (fun i _ => (elem (tagWidth ea.tag) ea.data i, Fx.none))
  have silent : (s.sliceWrite (movedCells s sel (tagWidth ea.tag)) ea.tag
      (fun i _ => (elem (tagWidth ea.tag) ea.data i, Fx.none))).2 = Fx.none := by
    rw [State.sliceWrite_eq (movedCells_nodup s sel _) (zip_movedCells s sel _)]
    dsimp only
    exact cellsFx_none fun _ _ => rfl
  rw [silent, State.record_none] at wrote
  refine ⟨_, ?_, wrote⟩
  show execHput sel a s = _
  unfold execHput
  rw [finish_bind_ok (State.sliceCells_eq held), finish_bind_ok ha]
  dsimp only
  rw [movedCells_eq, writable _ known]
  refine (finish_bind_ok (m := needTag true 0 ea.tag) rfl).trans ?_
  split
  next other =>
    exact finish_bind_ok (State.needRowTags_ok (forall_cellRows fun x hx =>
      beq_iff_eq.mpr (cellLayout_eq (layout ((sliceRow_isNone sel).mp other) x hx))))
  next => rfl

theorem hacc_yields (accumulates : ea.tag.toNat ∈ accTags) (same : ∀ x ∈ sliceOf s sel, (s.row x.1).tag = ea.tag)
    (clean : ∀ x ∈ movedCells s sel (tagWidth ea.tag), (s.row x.1).poison = false) :
    let out := fun r c => hoopAdd ea.tag ((s.row r).cell c)
      (valueOf ea.tag false (elem (tagWidth ea.tag) ea.data (cellIndex s sel r c))).1 s.ctx.rm
    ¬ enabledIn s (cellsFx out (movedCells s sel (tagWidth ea.tag))) → Yields (.hacc sel a) s (fun t =>
      HoopWrote u t ((movedCells s sel (tagWidth ea.tag)).map (fun x => x.1)) (movedCells s sel (tagWidth ea.tag))
        (fun _ => ea.tag) out s.ctx.hcur) := by
  intro out calm
  have listed : ∀ t : BitVec 5, t.toNat ∈ accTags → accTag t = true := by decide
  let add := fun i x => hoopAdd ea.tag x (valueOf ea.tag false (elem (tagWidth ea.tag) ea.data i)).1 s.ctx.rm
  have record : (s.sliceWrite (movedCells s sel (tagWidth ea.tag)) ea.tag add).2 =
      cellsFx out (movedCells s sel (tagWidth ea.tag)) :=
    congrArg Prod.snd (State.sliceWrite_eq (movedCells_nodup s sel _) (zip_movedCells s sel _) ea.tag add)
  refine ⟨_, ?_, hoopWrote_slice (State.takeV_ctx ha) (State.takeV_row ha) held.2 ea.tag add⟩
  show execHacc sel a s = _
  unfold execHacc
  rw [finish_bind_ok (State.sliceCells_eq held), finish_bind_ok ha]
  dsimp only
  rw [movedCells_eq, listed _ accumulates]
  refine (finish_bind_ok (m := needTag true 0 ea.tag) rfl).trans ?_
  refine (finish_bind_ok (State.needRowTags_ok (ok := fun t => t == ea.tag)
    (forall_cellRows fun x hx => beq_iff_eq.mpr (same x hx)))).trans ?_
  refine (finish_bind_ok (State.needClean_ok (forall_cellRows clean))).trans ?_
  exact congrArg (finish s) (hoopDone_quiet (record ▸ calm))

end Written

/-! ### Restartable forms (R157, R158) -/

/-- The rows of a restartable form none of which stops it. -/
theorem rowLoop_calm {s : State} {reads : Bool} {op : Nat → Row → Row × Fx} {rows : List Nat}
    (clean : ∀ r ∈ rows, (reads && (s.row r).poison) = false) (calm : ∀ r ∈ rows, ¬ enabledIn s (op r (s.row r)).2) (x : RowRun) :
    rowLoop s reads op rows x = { x with rows := x.rows ++ rows.map (fun r => (r, (op r (s.row r)).1))
                                         fx := rows.foldl (fun f r => f.and (op r (s.row r)).2) x.fx } := by
  induction rows generalizing x with
  | nil => simp [rowLoop]
  | cons r rows ih =>
    obtain ⟨cleanHere, cleanLater⟩ := List.forall_mem_cons.mp clean
    obtain ⟨calmHere, calmLater⟩ := List.forall_mem_cons.mp calm
    unfold rowLoop
    dsimp only
    rw [cleanHere, if_neg Bool.false_ne_true, if_neg (mt (enabledIn_iff s _).mpr calmHere), ih cleanLater calmLater]
    simp

theorem restartable_calm {s : State} {reads : Bool} {op : Nat → Row → Row × Fx} {rows : List Nat} (u : State)
    (clean : ∀ r ∈ rows, (reads && (s.row r).poison) = false) (calm : ∀ r ∈ rows, ¬ enabledIn s (op r (s.row r)).2) :
    restartable s u rows reads op = .ok (((u.putRows (rows.map (fun r => (r, (op r (s.row r)).1)))).record
      (rows.foldl (fun f r => f.and (op r (s.row r)).2) Fx.none)).setHcur 0) := by
  unfold restartable
  rw [rowLoop_calm clean calm]
  rfl

/-- Sixty-four cells of one code. -/
theorem cellAt_filled (z : Nat) {c : Nat} (hc : c < 64) :
    cellAt ((List.range 64).foldl (fun d c => setCell d c z) (0 : BitVec 4096)) c = z % 2 ^ 64 := by
  have same : ((List.range 64).foldl (fun (x : BitVec 4096 × Fx) c => (setCell x.1 c z, x.2.and Fx.none)) (0, Fx.none)).1 =
      (List.range 64).foldl (fun d c => setCell d c z) (0 : BitVec 4096) :=
    (List.foldl_hom Prod.fst fun _ _ => rfl).symm
  rw [← same]
  exact ((foldl_setCell (fun _ => (z, Fx.none)) (List.range 64) 0 Fx.none).1 c hc).trans (if_pos (List.mem_range.mpr hc))

theorem hzero_yields {sel : BitVec 9} {tag : BitVec 5} {s : State} (legal : regionLegal sel) (held : rowsHeld s (formRows s sel))
    (known : tag.toNat ≤ 0x12) (narrow : sel.getLsbD 8 = true → tag = tNarrow) :
    Yields (.hzero sel tag) s (fun t => HoopWrote s t (laterRows s (formRows s sel)) (grid (laterRows s (formRows s sel)) 64)
      (fun _ => tag) (fun _ _ => (zeroCode tag (sel.getLsbD 8), Fx.none)) 0) := by
  have allowed : (tagReserved tag || (sel.getLsbD 8 && tag != tNarrow)) = false := by
    have reserved : tagReserved tag = false := decide_eq_false (not_le.mpr (Nat.lt_succ_of_le known))
    rw [reserved, Bool.false_or]
    cases bit : sel.getLsbD 8 with
    | false => rfl
    | true => simp [narrow bit]
  have record : (laterRows s (formRows s sel)).foldl (fun f _ => f.and Fx.none) Fx.none =
      cellsFx (fun _ _ => (zeroCode tag (sel.getLsbD 8), Fx.none)) (grid (laterRows s (formRows s sel)) 64) := by
    rw [cellsFx_none fun _ _ => rfl]
    exact List.foldl_fixed' (fun _ => rfl) _
  let zeroed : Row :=
    { tag := tag, cells := (List.range 64).foldl (fun d c => setCell d c (zeroCode tag (sel.getLsbD 8))) 0, poison := false }
  refine ⟨_, ?_, HoopWrote.setHcur (hoopWrote_putRows (y := fun _ => zeroed) held.2 mem_rows_of_mem_grid (fun _ _ => rfl)
    fun r hr c hc => ?_) 0⟩
  · show execHzero sel tag s = _
    unfold execHzero
    dsimp only
    rw [allowed, ← record]
    refine (finish_bind_ok (State.restartRows_form legal held)).trans ?_
    rw [restartable_calm s (fun _ _ => rfl) fun _ _ => not_enabledIn_none s]
    rfl
  · rw [if_pos (mem_grid.mpr ⟨hr, hc⟩)]
    exact cellAt_filled _ hc

end Sys2Proof.Machine

section

open Sys2Proof.Machine

/-- Settles O36: a slice's elements are its cells, each once, and a row is written from those it holds. -/
theorem sliceMovesAndZeroWriteTheirCells : Obligations.SliceMovesAndZeroWriteTheirCells := by
  refine ⟨fun sel a s tag held href hroom same some clean => ?_, fun sel a s u ea held ha => ?_,
    fun sel tag s legal held known narrow => hzero_yields legal held known narrow⟩
  · obtain ⟨t, run, v, put, htag, poison, data⟩ := hget_yields held href hroom same some clean
    refine ⟨t, run, v, put, htag, poison, fun i hi => (data i hi).trans ?_⟩
    split
    next h => rw [h]; rfl
    next h => rw [h]; rfl
  · exact ⟨hput_yields held ha, hacc_yields held ha⟩

end

/-! SUPPORT. The epilogue (R157, R167, R168): the rows of one tag that a restartable form replaces in place. -/

namespace Sys2Proof.Machine

open Sys2Proof.Safety Sys2Proof.Claims

/-- R167: rows that share a tag that fits. -/
theorem State.epilogueTag_ok {s : State} {rows : List Nat} {t0 : BitVec 5} {ok : BitVec 5 → Bool} (some : rows ≠ [])
    (same : ∀ r ∈ rows, (s.row r).tag = t0) (fits : ok t0 = true) : s.epilogueTag rows ok = .ok t0 := by
  cases rows with
  | nil => exact absurd rfl some
  | cons r l =>
    have first : (s.row r).tag = t0 := same r List.mem_cons_self
    unfold State.epilogueTag
    dsimp only
    rw [State.needRowTags_ok fun q hq => by rw [same q hq, first, fits]; exact beq_self_eq_true t0, first]
    rfl

/-- R157: rows of one tag whose active cells are replaced, where no cell records an enabled flag. -/
theorem restartable_mapRow {s u : State} {rows : List Nat} {t0 : BitVec 5} (ctx : u.ctx = s.ctx) (row : ∀ r, u.row r = s.row r)
    (room : s.ctx.hBase + s.ctx.hRows ≤ 128)
    (uniform : ∀ r ∈ rows, (s.row r).tag = t0 ∧ (s.row r).poison = false) (tag : BitVec 5) (f : Nat → Nat → Nat → Nat × Fx)
    (calm : ∀ x ∈ grid rows (columns s), ¬ enabledIn s (f x.1 x.2 ((s.row x.1).cell x.2 % 2 ^ tagWidth t0)).2) :
    ∃ t, restartable s u rows true (fun r row => mapRow s.ctx.cols tag row (f r)) = .ok t
      ∧ HoopWrote u t rows (grid rows (columns s)) (fun _ => tag)
          (fun r c => f r c ((s.row r).cell c % 2 ^ tagWidth t0)) 0 := by
  let out := fun r c => f r c ((s.row r).cell c % 2 ^ tagWidth t0)
  have spec (r : Nat) (hr : r ∈ rows) : (mapRow s.ctx.cols tag (s.row r) (f r)).1.tag = tag
      ∧ (∀ c, c < 64 → (mapRow s.ctx.cols tag (s.row r) (f r)).1.cell c =
          if c < columns s then (out r c).1 % 2 ^ 64 else (s.row r).cell c)
      ∧ (mapRow s.ctx.cols tag (s.row r) (f r)).2 = totalFx (out r) (List.range (columns s)) := by
    obtain ⟨htag, -, cell, record⟩ := mapRow_spec s.ctx.cols tag (s.row r) (f r)
    rw [(uniform r hr).1] at cell record
    exact ⟨htag, cell, record⟩
  have quiet (r : Nat) (hr : r ∈ rows) : ¬ enabledIn s (mapRow s.ctx.cols tag (s.row r) (f r)).2 := by
    rw [(spec r hr).2.2]
    exact not_enabledIn_totalFx fun c hc => calm (r, c) (mem_grid.mpr ⟨hr, List.mem_range.mp hc⟩)
  have record : rows.foldl (fun a r => a.and (mapRow s.ctx.cols tag (s.row r) (f r)).2) Fx.none =
      cellsFx out (grid rows (columns s)) := by
    rw [cellsFx_grid]
    exact List.foldl_ext _ _ _ fun a r hr => congrArg a.and (spec r hr).2.2
  refine ⟨_, restartable_calm u (fun r hr => by rw [(uniform r hr).2]; rfl) quiet, ?_⟩
  rw [record]
  refine HoopWrote.setHcur (hoopWrote_putRows (ctx ▸ room) mem_rows_of_mem_grid (fun r hr => (spec r hr).1) fun r hr c hc => ?_) 0
  rw [(spec r hr).2.1 c hc, row]
  simp [mem_grid, hr]

section Epilogue

variable {sel : BitVec 9} {s : State} {t0 : BitVec 5} (legal : regionLegal sel) (held : rowsHeld s (formRows s sel))
  (uniform : ∀ r ∈ laterRows s (formRows s sel), (s.row r).tag = t0 ∧ (s.row r).poison = false)
  (some : laterRows s (formRows s sel) ≠ [])

include legal held uniform some

/-- An epilogue form with an operand, on rows of one tag that fits beside an operand that does. -/
theorem hepi_yields {i : Instr} {a : BitVec 6} {u : State} {ea : Entry} {ok : BitVec 5 → Bool} {okv : BitVec 5 → BitVec 5 → Bool}
    {dt : BitVec 5 → BitVec 5} {op : BitVec 5 → Entry → Nat → Nat → Nat → Nat × Fx} (run : exec i s = hepi sel a ok okv dt op s)
    (ha : s.takeV a = .ok (ea, u)) (fits : ok t0 = true) (beside : okv t0 ea.tag = true) {out : Nat → Nat → Nat × Fx}
    (cell : ∀ r c, op t0 ea r c ((s.row r).cell c % 2 ^ tagWidth t0) = out r c)
    (calm : ∀ x ∈ grid (laterRows s (formRows s sel)) (columns s), ¬ enabledIn s (out x.1 x.2).2) :
    Yields i s (fun t => HoopWrote u t (laterRows s (formRows s sel)) (grid (laterRows s (formRows s sel)) (columns s))
      (fun _ => dt t0) out 0) := by
  obtain rfl : (fun r c => op t0 ea r c ((s.row r).cell c % 2 ^ tagWidth t0)) = out := funext₂ cell
  obtain ⟨t, done, wrote⟩ := restartable_mapRow (State.takeV_ctx ha) (State.takeV_row ha) held.2 uniform (dt t0) (op t0 ea) calm
  refine ⟨t, run.trans ?_, wrote⟩
  unfold hepi
  rw [finish_bind_ok (State.restartRows_form legal held), finish_bind_ok ha]
  dsimp only
  rw [finish_bind_ok (State.epilogueTag_ok some (fun r hr => (uniform r hr).1) fits), if_pos some, beside]
  exact congrArg (finish s) done

theorem hrelu_yields (fits : reluTag t0 = true) : Yields (.hrelu sel) s (fun t =>
    HoopWrote s t (laterRows s (formRows s sel)) (grid (laterRows s (formRows s sel)) (columns s)) (fun _ => t0) (fun r c =>
      (let code := (s.row r).cell c % 2 ^ tagWidth t0
       let v := (valueOf t0 false code).1
       if v.isNan = false ∧ v.sign = true then 0 else code, Fx.none)) 0) := by
  obtain ⟨t, done, wrote⟩ := restartable_mapRow rfl (fun _ => rfl) held.2 uniform t0
    (fun _ _ x => (if !(valueOf t0 false x).1.isNan && (valueOf t0 false x).1.sign then 0 else x, Fx.none))
    (fun _ _ => not_enabledIn_none s)
  refine ⟨t, ?_, ?_⟩
  · show execHrelu sel s = _
    unfold execHrelu
    rw [finish_bind_ok (State.restartRows_form legal held),
      finish_bind_ok (State.epilogueTag_ok some (fun r hr => (uniform r hr).1) fits)]
    exact congrArg (finish s) done
  · simpa only [Bool.and_eq_true, Bool.not_eq_true'] using wrote

end Epilogue

/-! ### What the model's tests of tags say (R93, R167) -/

theorem accTag_of_mem : ∀ {t : BitVec 5}, t.toNat ∈ accTags → accTag t = true := by decide

theorem familyTag_eq (t u : BitVec 5) : familyTag t u = if intTagOk t then intTagOk u else wideTag u := by
  rw [familyTag, isInt_eq, isInt_eq]
  rfl

theorem signed_of_accTag : ∀ {t : BitVec 5}, t.toNat ∈ accTags → intTagOk t = true → signedTag t = true := by decide

/-- R74: an integer saturated into an accumulating tag. -/
theorem intSat_accTag {t : BitVec 5} (h : t.toNat ∈ accTags) (int : intTagOk t = true) (y : Int) :
    intSat true (tagWidth t) y = (clampTo t y, if clampTo t y = y then Fx.none else Fx.satF) :=
  signed_of_accTag h int ▸ intSat_eq_clampTo t y

/-- R167: a cell times an operand, as `hscalc` forms it. -/
def hscalcCell (t : BitVec 5) (x : Nat) (v : Val) (mode : RMode) : Nat × Fx :=
  if isInt t then
    let (y, f) := intSat true (tagWidth t) (intValue true (tagWidth t) x * v.num)
    (intCode (tagWidth t) y, f)
  else scaledTo t t false x v mode false

theorem hscalcCell_eq {t : BitVec 5} (h : t.toNat ∈ accTags) {x : Nat} (hx : x < 2 ^ tagWidth t) (v : Val) (mode : RMode) :
    hscalcCell t x v mode = if intTagOk t then
      (let y := readInt true (tagWidth t) x * v.num
       (wrapTo (tagWidth t) (clampTo t y), if clampTo t y = y then Fx.none else Fx.satF))
    else scaledTo t t false x v mode false := by
  unfold hscalcCell
  rw [isInt_eq]
  split
  next int =>
    rw [intSat_accTag h int, intValue_of_lt hx]
    rfl
  next => rfl

/-- The shared form of an epilogue form with an operand that keeps the rows' tag: the tags it takes, those of its operand,
and its new cells. -/
def EpilogueIs (p : (BitVec 9 → BitVec 6 → Instr) × List Nat × (BitVec 5 → BitVec 5 → Bool) × (Nat → Nat → Nat)
    × (RMode → BitVec 5 → Val → Nat → Nat × Fx)) : Prop :=
  ∃ (ok : BitVec 5 → Bool) (okv : BitVec 5 → BitVec 5 → Bool) (op : RMode → BitVec 5 → Entry → Nat → Nat → Nat → Nat × Fx),
    (∀ sel a s, exec (p.1 sel a) s = hepi sel a ok okv id (op s.ctx.rm) s) ∧ (∀ t : BitVec 5, t.toNat ∈ p.2.1 → ok t = true)
    ∧ (∀ t u, okv t u = p.2.2.1 t u)
    ∧ ∀ m t e r c x, t.toNat ∈ p.2.1 → x < 2 ^ tagWidth t → op m t e r c x = p.2.2.2.2 m t (operandOf e (p.2.2.2.1 r c)) x

theorem exec_hbiasc (sel : BitVec 9) (a : BitVec 6) (s : State) : exec (.hbiasc sel a) s =
    hepi sel a accTag familyTag id (fun t e _ c x => hoopAdd t x (operandOf e c) s.ctx.rm) s := rfl

theorem exec_hbiasr (sel : BitVec 9) (a : BitVec 6) (s : State) : exec (.hbiasr sel a) s =
    hepi sel a accTag familyTag id (fun t e r _ x => hoopAdd t x (operandOf e r) s.ctx.rm) s := rfl

theorem exec_hscalc (sel : BitVec 9) (a : BitVec 6) (s : State) : exec (.hscalc sel a) s =
    hepi sel a accTag familyTag id (fun t e _ c x => hscalcCell t x (operandOf e c) s.ctx.rm) s := rfl

theorem exec_hnorm (sel : BitVec 9) (a : BitVec 6) (s : State) : exec (.hnorm sel a) s =
    hepi sel a (fun t => t == tF32 || t == tF64) (fun _ u => u == tF32) id
      (fun t e r _ x => scaledTo t t false x (operandOf e r) s.ctx.rm false) s := rfl

theorem exec_hclamp (sel : BitVec 9) (a : BitVec 6) (s : State) : exec (.hclamp sel a) s =
    hepi sel a accTag familyTag id (fun t e _ _ x => clampCell t x (operandOf e 0) (operandOf e 1) s.ctx.rm) s := rfl

/-- R168: `hrq` to a tag that it rounds to. -/
theorem exec_hrq {sel : BitVec 9} {tag : BitVec 5} (allowed : (!hrqTag tag || (sel.getLsbD 8 && tag != tNarrow)) = false)
    (a : BitVec 6) (s : State) : exec (.hrq sel a tag) s = hepi sel a accTag (fun _ u => u == tF32) (fun _ => tag)
      (fun t e _ c x => scaledTo tag t (sel.getLsbD 8) x (operandOf e c) s.ctx.rm s.ctx.satinf) s := by
  show execHrq sel a tag s = _
  unfold execHrq
  rw [allowed]
  rfl

theorem epilogueForms_listed : ∀ p ∈ epilogueForms, EpilogueIs p := by
  have float : ∀ t : BitVec 5, t.toNat ∈ [0x0D, 0x0E] → (t == tF32 || t == tF64) = true := by decide
  refine List.forall_mem_cons.mpr ⟨?_, List.forall_mem_cons.mpr ⟨?_, List.forall_mem_cons.mpr ⟨?_,
    List.forall_mem_cons.mpr ⟨?_, nofun⟩⟩⟩⟩
  · exact ⟨_, _, fun m t e _ c x => hoopAdd t x (operandOf e c) m, exec_hbiasc, fun _ => accTag_of_mem, familyTag_eq,
      fun _ _ _ _ _ _ _ _ => rfl⟩
  · exact ⟨_, _, fun m t e r _ x => hoopAdd t x (operandOf e r) m, exec_hbiasr, fun _ => accTag_of_mem, familyTag_eq,
      fun _ _ _ _ _ _ _ _ => rfl⟩
  · exact ⟨_, _, fun m t e _ c x => hscalcCell t x (operandOf e c) m, exec_hscalc, fun _ => accTag_of_mem, familyTag_eq,
      fun m _ e _ c _ ht hx => hscalcCell_eq ht hx (operandOf e c) m⟩
  · exact ⟨_, _, fun m t e r _ x => scaledTo t t false x (operandOf e r) m false, exec_hnorm, float, fun _ _ => rfl,
      fun _ _ _ _ _ _ _ _ => rfl⟩

end Sys2Proof.Machine

section

open Sys2Proof.Machine Sys2Proof.Claims

/-- Settles O37: every form replaces the cells of its rows, whose values are those of its operation. -/
theorem epilogueFormsProcessTheirRows : Obligations.EpilogueFormsProcessTheirRows := by
  intro sel a s t0 legal held _ rows cells code quiet uniform some
  refine ⟨fun u ea ha => ⟨?_, ?_, ?_⟩, fun tags => ?_⟩
  · intro p listed tags family out calm
    obtain ⟨ok, okv, op, run, fits, beside, cell⟩ := epilogueForms_listed p listed
    exact hepi_yields legal held uniform some (run sel a s) ha (fits t0 tags) ((beside _ _).trans family)
      (fun r c => cell _ t0 ea r c _ tags (cell_mod_lt _ _)) calm
  · intro acc family out calm
    exact hepi_yields legal held uniform some (exec_hclamp sel a s) ha (accTag_of_mem acc)
      ((familyTag_eq _ _).trans family) (fun _ _ => rfl) calm
  · intro tag acc operand target narrow out calm
    have listed : ∀ t : BitVec 5, t.toNat ∈ [1, 2, 3, 4, 5, 8, 9, 0x0A, 0x0B, 0x0C, 0x0D] → hrqTag t = true := by decide
    have allowed : (!hrqTag tag || (sel.getLsbD 8 && tag != tNarrow)) = false := by
      rw [listed _ target]
      cases bit : sel.getLsbD 8 with
      | false => rfl
      | true => rw [narrow bit]; rfl
    exact hepi_yields legal held uniform some (exec_hrq allowed a s) ha (accTag_of_mem acc) (beq_iff_eq.mpr operand)
      (fun _ _ => rfl) calm
  · have listed : ∀ t : BitVec 5, t.toNat ∈ accTags ++ [0x0B, 0x0C] → reluTag t = true := by decide
    exact hrelu_yields legal held uniform some (listed _ tags)

end

/-! SUPPORT. Row sums (R169), the special functions in place (R170) and the rank status word (R175). -/

namespace Sys2Proof.Machine

open Sys2Proof.Safety Sys2Proof.Claims

/-! ### Row sums (R169) -/

/-- R169: the sum of the squares of row r's active cells under a tag, rounded, and what it records. -/
def State.sumsqOut (s : State) (t : BitVec 5) (r : Nat) : Nat × Fx :=
  let v := sumVals false ((List.range s.ctx.cols).map (fun c =>
    let u := (valueOf t false ((s.row r).cell c % 2 ^ tagWidth t)).1
    (stepProduct (u, u)).1)) false
  let y := roundTo t false v.1 s.ctx.rm false
  (y.1, v.2.and y.2)

/-- The squares of finite cells are summed exactly and rounded once. -/
theorem State.sumsqOut_of_finite {s : State} {t : BitVec 5} {r : Nat} (ht : isIeee t = true)
    (fin : ∀ c, c < columns s → finite ((tagFmt t).ieeeValue ((s.row r).cell c % 2 ^ tagWidth t)) = true) :
    ∃ y : Val, finite y = true
      ∧ ratOf y = ((List.range (columns s)).map (fun c => ratOf ((tagFmt t).ieeeValue ((s.row r).cell c % 2 ^ tagWidth t))
          * ratOf ((tagFmt t).ieeeValue ((s.row r).cell c % 2 ^ tagWidth t)))).sum
      ∧ roundIeee (tagFmt t) y s.ctx.rm = s.sumsqOut t r := by
  let v := fun c => (tagFmt t).ieeeValue ((s.row r).cell c % 2 ^ tagWidth t)
  have squares : (List.range s.ctx.cols).map (fun c => (stepProduct ((valueOf t false ((s.row r).cell c % 2 ^ tagWidth t)).1,
      (valueOf t false ((s.row r).cell c % 2 ^ tagWidth t)).1)).1) = (List.range (columns s)).map (fun c => (v c).mulFin (v c)) :=
    List.map_congr_left fun c hc => by
      have here := fin c (List.mem_range.mp hc)
      rw [valueOf_of_isIeee ht, stepProduct_of_finite here here]
  obtain ⟨finite, total, silent⟩ := sumVals_of_finite false (l := (List.range (columns s)).map (fun c => (v c).mulFin (v c))) false
    (List.forall_mem_map.mpr fun c _ => finite_mulFin _ _)
    (List.forall_mem_map.mpr fun c _ => den_ofFrac_pos _ _ (Nat.mul_pos (Fmt.ieeeValue_den_pos _ _) (Fmt.ieeeValue_den_pos _ _)))
  refine ⟨_, finite, ?_, ?_⟩
  · rw [total, List.map_map]
    exact congrArg List.sum (List.map_congr_left fun c _ => ratOf_mulFin _ _)
  · unfold State.sumsqOut
    dsimp only
    rw [squares, silent, Fx.none_and, roundTo_of_isIeee ht]

/-- Elements written by number, each with its own record: what the fold leaves. -/
theorem foldl_setElem (w : Nat) (f : Nat → Nat × Fx) (l : List Nat) (d : Lanes) (fx : Fx) :
    (∀ i, i < 8192 / w → elem w (l.foldl (fun (x : Lanes × Fx) i => (setElem w x.1 i (f i).1, x.2.and (f i).2)) (d, fx)).1 i =
      if i ∈ l then (f i).1 % 2 ^ w else elem w d i)
    ∧ (l.foldl (fun (x : Lanes × Fx) i => (setElem w x.1 i (f i).1, x.2.and (f i).2)) (d, fx)).2 = fx.and (totalFx f l) := by
  induction l generalizing d fx with
  | nil => exact ⟨fun i _ => rfl, fx.and_none.symm⟩
  | cons k l ih =>
    obtain ⟨elems, record⟩ := ih (setElem w d k (f k).1) (fx.and (f k).2)
    refine ⟨fun i hi => (elems i hi).trans ?_, by rw [List.foldl_cons, record, totalFx_cons, Fx.and_assoc]⟩
    rw [elem_setElem _ _ hi]
    obtain rfl | h := eq_or_ne i k
    · simp
    · simp [h]

/-- The data and the poison that v[a] holds before elements are written to it: those of its entry, or zeros for a push. -/
def State.startOfRef (s : State) (t : BitVec 5) : VRef → Lanes × Bool
  | .entry e => ((s.entry e).data, (s.entry e).poison)
  | .queue _ => (zeroData t, false)

/-- Row sums onto what v[a] holds. -/
def State.sumsqRun (s : State) (t : BitVec 5) (a : BitVec 6) (rows : List Nat) : Lanes × Fx :=
  rows.foldl (fun (x : Lanes × Fx) r => (setElem (tagWidth t) x.1 r (s.sumsqOut t r).1, x.2.and (s.sumsqOut t r).2))
    ((s.startOfRef t (s.vref a)).1, Fx.none)

def State.sumsqEntry (s : State) (t : BitVec 5) (a : BitVec 6) (rows : List Nat) : Entry :=
  { tag := t, data := (s.sumsqRun t a rows).1, poison := (s.startOfRef t (s.vref a)).2 }

theorem State.sumsqRun_record (s : State) (t : BitVec 5) (a : BitVec 6) (rows : List Nat) :
    (s.sumsqRun t a rows).2 = totalFx (s.sumsqOut t) rows :=
  (foldl_setElem _ _ _ _ _).2.trans (Fx.none_and _)

theorem State.sumsqEntry_with (s : State) (t : BitVec 5) (a : BitVec 6) (rows : List Nat) :
    EntryWith (zeroOf t) (tagWidth t) s a rows t (fun r => (s.sumsqOut t r).1) (s.sumsqEntry t a rows) := by
  have elems := (foldl_setElem (tagWidth t) (s.sumsqOut t) rows (s.startOfRef t (s.vref a)).1 Fx.none).1
  refine ⟨rfl, fun i hi => (elems i hi).trans ?_, fun sound => ?_⟩
  · cases s.vref a with
    | entry e => rfl
    | queue q =>
      refine if_congr Iff.rfl rfl ?_
      show elem (tagWidth t) (zeroData t) i = zeroOf t / 2 ^ (tagWidth t * i % tagWidth t) % 2 ^ tagWidth t
      rw [elem_zeroData hi, Nat.mul_mod_right, pow_zero, Nat.div_one]
      exact (Nat.mod_eq_of_lt (zeroCode_lt t _)).symm
  · show (s.startOfRef t (s.vref a)).2 = false
    cases h : s.vref a with
    | entry e => exact sound e h
    | queue q => rfl

/-- Row sums written to v[a], where no enabled flag stops them. -/
def State.sumsqDone (s : State) (t : BitVec 5) (a : BitVec 6) (rows : List Nat) : M State :=
  if s.ctx.enabled (s.sumsqRun t a rows).2 then .error (.late s cArith ((s.sumsqRun t a rows).2.flags.zeroExtend 64))
  else .ok ((s.putRef (s.vref a) (s.sumsqEntry t a rows)).record (s.sumsqRun t a rows).2)

section Sums

variable {sel : BitVec 9} {a : BitVec 6} {s : State} {t0 : BitVec 5} (legal : regionLegal sel)
  (held : rowsHeld s (formRows s sel)) (href : s.checkRef (s.vref a) = .ok ()) (hroom : s.checkRoom (s.vref a) = .ok ())
  (float : t0 = tF32 ∨ t0 = tF64) (some : formRows s sel ≠ [])
  (uniform : ∀ r ∈ formRows s sel, (s.row r).tag = t0 ∧ (s.row r).poison = false)

include legal held href hroom float some uniform

theorem hsumsq_runs : exec (.hsumsq sel a) s =
    finish s (s.sumsqDone t0 a ((formRows s sel).filter (fun r => decide (r < vlmaxOf (tagWidth t0))))) := by
  have fits : (t0 == tF32 || t0 == tF64) = true := by simpa using float
  show execHsumsq sel a s = _
  unfold execHsumsq
  rw [finish_bind_ok (State.regionRows_form legal held), if_neg some,
    finish_bind_ok (State.epilogueTag_ok some (fun r hr => (uniform r hr).1) fits)]
  dsimp only
  rw [finish_bind_ok (State.needClean_ok fun r hr => (uniform r (List.mem_of_mem_filter hr)).2), finish_bind_ok href,
    finish_bind_ok hroom]
  unfold State.sumsqDone State.sumsqEntry State.sumsqRun State.startOfRef
  cases s.vref a with
  | entry e => rfl
  | queue q => rfl

theorem hsumsq_yields :
    let rows := (formRows s sel).filter (fun r => decide (r < vlmaxOf (tagWidth t0)))
    ¬ enabledIn s (totalFx (s.sumsqOut t0) rows) →
    Yields (.hsumsq sel a) s (fun t => ∃ w, EntryWith (zeroOf t0) (tagWidth t0) s a rows t0 (fun r => (s.sumsqOut t0 r).1) w
      ∧ t = (let p := s.putRef (s.vref a) w
             { p with ctx := recorded p.ctx (totalFx (s.sumsqOut t0) rows) })) := by
  intro rows calm
  have quiet : ¬ s.ctx.enabled (s.sumsqRun t0 a rows).2 = true := by
    rw [s.sumsqRun_record]
    exact mt (enabled_iff s _).mp calm
  refine ⟨_, (hsumsq_runs legal held href hroom float some uniform).trans (congrArg (finish s) (if_neg quiet)), _,
    s.sumsqEntry_with t0 a rows, ?_⟩
  rw [State.record, Ctx.record_eq, s.sumsqRun_record]

end Sums

/-! ### The special functions in place (R170) -/

/-- R170: row r with its active cells replaced by their function, and what they record. -/
def State.sfuRow (s : State) (form : SfuForm) (r : Nat) : Row × Fx :=
  mapRow s.ctx.cols (s.row r).tag (s.row r) (fun _ x => sfu form (s.row r).tag.toNat (tagFmt (s.row r).tag) x)

/-- R170: the result of row r as it is posted, with the record of the instruction, whose counts go with the first row. -/
def State.sfuPost (s : State) (form : SfuForm) (fx : Fx) (first : Option Nat) (r : Nat) : Shadow :=
  { kind := .hsfu r, at_ := s.now + 16, tag := (s.sfuRow form r).1.tag, flags := fx.flags
    sat := if decide (some r = first) then fx.sat else 0, und := if decide (some r = first) then fx.und else 0
    data := (s.sfuRow form r).1.cells.zeroExtend 8192, lmask := 0, amax := 0, codes := 0, poison := false }

/-- R170: the results that a function posts for its rows. -/
def State.sfuPosts (s : State) (form : SfuForm) (rows : List Nat) : List Shadow :=
  rows.map (s.sfuPost form (rows.foldl (fun f r => f.and (s.sfuRow form r).2) Fx.none) rows.head?)

theorem hsfu_runs {form : SfuForm} {sel : BitVec 9} {s : State} (legal : regionLegal sel) (held : rowsHeld s (formRows s sel))
    (uniform : ∀ r ∈ formRows s sel, (s.row r).tag.toNat ∈ [0x0B, 0x0C, 0x0D] ∧ (s.row r).poison = false) :
    hsfu form sel s = .next { s with ctx := { s.ctx with live := s.ctx.live ++ s.sfuPosts form (formRows s sel) } } := by
  have listed : ∀ t : BitVec 5, t.toNat ∈ [0x0B, 0x0C, 0x0D] → sfuTag t = true := by decide
  unfold hsfu
  rw [finish_bind_ok (State.regionRows_form legal held),
    finish_bind_ok (State.needRowTags_ok fun r hr => listed _ (uniform r hr).1),
    finish_bind_ok (State.needClean_ok fun r hr => (uniform r hr).2)]
  dsimp only
  rw [List.map_map, List.foldl_map]
  rfl

/-- A row posted at the width of an entry keeps its cells. -/
theorem elem_zeroExtend (d : BitVec 4096) {c : Nat} (hc : c < 64) : elem 64 (d.zeroExtend 8192) c = cellAt d c := by
  apply Nat.eq_of_testBit_eq
  intro b
  rw [elem_testBit, cellAt_testBit]
  by_cases hb : b < 64
  · have inside : 64 * c + b < 8192 := by omega
    simp [hb, inside, -BitVec.getLsbD_eq_getElem]
  · simp [hb]

theorem sfuPost_data (s : State) (form : SfuForm) (fx : Fx) (first : Option Nat) (r : Nat) {c : Nat} (hc : c < 64) :
    elem 64 (s.sfuPost form fx first r).data c = if c < columns s then (sfu form (s.row r).tag.toNat (tagFmt (s.row r).tag)
      ((s.row r).cell c % 2 ^ tagWidth (s.row r).tag)).1 % 2 ^ 64 else (s.row r).cell c := by
  obtain ⟨-, -, cells, -⟩ := mapRow_spec s.ctx.cols (s.row r).tag (s.row r)
    (fun _ x => sfu form (s.row r).tag.toNat (tagFmt (s.row r).tag) x)
  exact (elem_zeroExtend _ hc).trans (cells c hc)

/-- The special functions in place are the shared one. -/
theorem sfuForms_exec : ∀ p ∈ [(Instr.hexp2, SfuForm.exp2), (.hrcp, .rcp), (.htanh, .tanh), (.hrsq, .rsq)], ∀ sel s,
    exec (p.1 sel) s = hsfu p.2 sel s := by
  simp only [List.forall_mem_cons]
  exact ⟨fun _ _ => rfl, fun _ _ => rfl, fun _ _ => rfl, fun _ _ => rfl, nofun⟩

/-! ### HDIRTY as it stands (R30) -/

/-- Where every write has committed, HDIRTY shows its bits. -/
theorem hdirtyNow_of_due {s : State} (h : ∀ x ∈ s.ctx.board, x.due ≤ s.core.clock) : s.hdirtyNow = s.ctx.hdirty := by
  unfold State.hdirtyNow
  refine (List.foldl_ext _ (fun m _ => m) _ fun m b hb => ?_).trans (List.foldl_fixed' (fun _ => rfl) _)
  have done : decide (s.now < b.due) = false := decide_eq_false (not_lt.mpr (h b hb))
  rw [done]
  split
  · simp
  · rfl

end Sys2Proof.Machine

section

open Sys2Proof.Machine Sys2Proof.Claims Sys2Proof.Safety

/-- Settles O38: a row sum is the exact sum of the model's squares, and a posted row the row that its function maps. -/
theorem rowSumsFunctionsAndStatus : Obligations.RowSumsFunctionsAndStatus := by
  refine ⟨fun sel a s t0 legal held href hroom float => ⟨?_, ?_⟩, ?_, fun a s => ⟨?_, ?_, fun due => ⟨?_, ?_⟩⟩⟩
  · intro rows v some uniform fin
    have ieee : isIeee t0 = true := by
      obtain rfl | rfl := float
      · rfl
      · rfl
    exact ⟨s.sumsqOut t0, fun r hr => State.sumsqOut_of_finite ieee (fin r hr),
      hsumsq_yields legal held href hroom float some uniform⟩
  · intro rows some uniform off
    obtain ⟨t, run, wrote⟩ := hsumsq_yields legal held href hroom float some uniform (not_enabledIn_of_untrapped off _)
    exact ⟨t, run, s.sumsqOut t0, wrote⟩
  · intro p hp sel s legal held _ uniform
    refine ⟨_, (sfuForms_exec p hp sel s).trans (hsfu_runs legal held uniform), _, rfl, ?_, ?_⟩
    · rw [State.sfuPosts, List.map_map]
      exact List.map_congr_left fun r _ => rfl
    · refine List.forall_mem_map.mpr fun q _ r kind c hc => ?_
      obtain rfl : q = r := ShadowKind.hsfu.inj kind
      exact sfuPost_data s p.2 _ _ q hc
  · exact ⟨_, rfl, State.setGr_wroteG _ _ _⟩
  · exact ⟨_, rfl, State.setGr_wroteG _ _ _⟩
  · refine ⟨_, rfl, ?_⟩
    rw [hdirtyNow_of_due due]
    exact State.setGr_wroteG _ _ _
  · refine ⟨_, rfl, ?_⟩
    rw [hdirtyNow_of_due due]
    exact State.setGr_wroteG _ _ _

end

/-! SUPPORT. What saves and restores need of memory (R171 to R174): banks touched, image slots reached, the bytes of an
image, and stores of the running strand to its own die. -/

namespace Sys2Proof.Machine

open Sys2Proof.Safety Sys2Proof.Claims

/-! ### Banks (R252) -/

theorem SameButBanks.refl (p : Pkg) : SameButBanks p p := ⟨rfl, fun _ => rfl⟩

theorem SameButBanks.trans {p q r : Pkg} (h : SameButBanks p q) (k : SameButBanks q r) : SameButBanks p r := by
  obtain ⟨hframe, hdie⟩ := h
  obtain ⟨kframe, kdie⟩ := k
  refine ⟨?_, fun d => ?_⟩
  · have through : ({ q with dies := r.dies } : Pkg) = { p with dies := r.dies } :=
      congrArg (fun x : Pkg => { x with dies := r.dies }) hframe
    exact kframe.trans through
  · have here : { q.die d with retaining := (r.die d).retaining, waking := (r.die d).waking, touched := (r.die d).touched } =
        ({ p.die d with retaining := (r.die d).retaining, waking := (r.die d).waking, touched := (r.die d).touched } : Die) :=
      congrArg (fun x : Die => { x with retaining := (r.die d).retaining, waking := (r.die d).waking, touched := (r.die d).touched })
        (hdie d)
    exact (kdie d).trans here

theorem Pkg.die_setIfInBounds (p : Pkg) (k d : Nat) (x : Die) :
    ({ p with dies := p.dies.setIfInBounds k x } : Pkg).die d = if k = d ∧ d < 10 then x else p.die d := by
  unfold Pkg.die
  by_cases hd : d < 10
  · simp only [Vector.getD, hd, and_true]
    by_cases h : k = d
    · subst h
      simp [Nat.not_le.mpr hd]
    · simp [h]
  · simp [Vector.getD, hd]

theorem Pkg.touchSram_banks (p : Pkg) (pa : Nat) : SameButBanks p (p.touchSram pa).1 := by
  unfold Pkg.touchSram
  dsimp only
  split
  · refine ⟨rfl, fun d => ?_⟩
    dsimp only
    rw [Pkg.die_setIfInBounds]
    split
    next h => rw [← h.1]; rfl
    · rfl
  · exact SameButBanks.refl p

theorem SameButBanks.v {p q : Pkg} (h : SameButBanks p q) (d : Nat) : (q.die d).v = (p.die d).v := by
  obtain ⟨-, die⟩ := h
  rw [die d]

/-- What a die has delivered decides what it knows. -/
theorem Pkg.knows_congr {p q : Pkg} (h : ∀ d : Nat, (q.die d).v = (p.die d).v) (e : Nat) (kn : Knot) : q.knows e kn = p.knows e kn := by
  unfold Pkg.knows
  rw [h e]

/-! ### The slots of an image (R171, R242) -/

/-- Where every slot is reached as the state stands, all are, and nothing is written. -/
theorem State.reachSlots_all {s : State} {base : Nat} {k : ImageKind} {acc : Acc} {d t : Nat → Nat} {l : List Nat}
    (h : ∀ n ∈ l, SlotAt s acc base k n (d n) (t n)) : ∃ slots, s.reachSlots base k acc l = (slots, s, none)
      ∧ slots.map (fun z => z.1) = l ∧ ∀ z ∈ slots, z.2.1.pa = d z.1 ∧ z.2.2.pa = t z.1 := by
  induction l with
  | nil => exact ⟨[], rfl, rfl, nofun⟩
  | cons n l ih =>
    obtain ⟨⟨x, y, data, tag, hd, ht⟩, later⟩ := List.forall_mem_cons.mp h
    obtain ⟨slots, run, names, places⟩ := ih later
    have slot : s.reachSlot base k n acc = .ok (x, y, s) := by
      unfold State.reachSlot
      dsimp only
      rw [data, tag]
      dsimp only
      rw [data, tag, ite_self]
    refine ⟨(n, x, y) :: slots, ?_, congrArg (List.cons n) names, List.forall_mem_cons.mpr ⟨⟨hd, ht⟩, places⟩⟩
    unfold State.reachSlots
    rw [slot]
    dsimp only
    rw [run]

/-! ### The bytes of a number (R13) -/

theorem mem_wordBytes_iff {pa n x : Nat} {c : Nat × Byte} :
    c ∈ wordBytes pa n x ↔ ∃ i, i < n ∧ c = (pa + i, BitVec.ofNat 8 (x / 256 ^ i)) := by
  induction n generalizing pa x with
  | zero => simp [wordBytes]
  | succ n ih =>
    have shift (i : Nat) : x / 256 / 256 ^ i = x / 256 ^ (i + 1) := by rw [Nat.div_div_eq_div_mul, Nat.pow_succ']
    rw [wordBytes, List.mem_cons, ih]
    constructor
    · rintro (rfl | ⟨i, hi, rfl⟩)
      · exact ⟨0, n.succ_pos, by simp⟩
      · exact ⟨i + 1, Nat.succ_lt_succ hi, by rw [shift, Nat.add_assoc, Nat.add_comm 1]⟩
    · rintro ⟨i, hi, rfl⟩
      cases i with
      | zero => exact .inl (by simp)
      | succ i => exact .inr ⟨i, Nat.lt_of_succ_lt_succ hi, by rw [shift, Nat.add_assoc, Nat.add_comm 1]⟩

/-- The writes of a row or entry carry its bytes. -/
theorem mem_lineWrites_iff {pa n x : Nat} {poison : Bool} {c : Nat × Byte} :
    (∃ b ∈ lineWrites pa n x poison, c ∈ b.1) ↔ ∃ i, i < n ∧ c = (pa + i, BitVec.ofNat 8 (x / 256 ^ i)) := by
  have line (i j : Nat) : x / 2 ^ (512 * i) / 256 ^ j = x / 256 ^ (64 * i + j) := by
    rw [Nat.div_div_eq_div_mul, pow_add, show 512 * i = 8 * (64 * i) by omega, pow_mul 2 8]
    rfl
  unfold lineWrites
  simp only [List.mem_map, List.mem_range, exists_exists_and_eq_and, mem_wordBytes_iff, line]
  constructor
  · rintro ⟨i, -, j, hj, rfl⟩
    obtain ⟨-, inside⟩ := lt_min_iff.mp hj
    exact ⟨64 * i + j, by omega, by rw [Nat.add_assoc]⟩
  · rintro ⟨i, hi, rfl⟩
    refine ⟨i / 64, by omega, i % 64, lt_min_iff.mpr ⟨by omega, by omega⟩, ?_⟩
    rw [Nat.add_assoc, Nat.div_add_mod]

/-- Bytes that agree with a number give it back. -/
theorem littleAt_of_bytes {p : Pkg} {pa n x : Nat} (h : ∀ i, i < n → p.mem.read (pa + i) = BitVec.ofNat 8 (x / 256 ^ i)) :
    littleAt p pa n = x % 256 ^ n := by
  induction n with
  | zero => simp [littleAt, Nat.mod_one]
  | succ n ih =>
    have before := ih fun i hi => h i (hi.trans n.lt_succ_self)
    unfold littleAt at before ⊢
    rw [List.range_succ, List.map_append, List.sum_append, before, Nat.mod_pow_succ, List.map_singleton, List.sum_singleton,
      h n n.lt_succ_self, BitVec.toNat_ofNat, Nat.mul_comm]

/-- A byte that every listed write of its address gives the same value. -/
theorem Memory.read_writeCells_listed {m : Memory} (wf : m.wf = true) {l : List (Nat × Byte)} {a : Nat} {v : Byte}
    (listed : (a, v) ∈ l) (agree : ∀ c ∈ l, c.1 = a → c.2 = v) : (m.writeCells l).read a = v := by
  induction l generalizing m with
  | nil => exact absurd listed List.not_mem_nil
  | cons c l ih =>
    obtain ⟨here, later⟩ := List.forall_mem_cons.mp agree
    have after := Memory.wf_write wf c.1 c.2
    by_cases again : (a, v) ∈ l
    · exact ih after again later
    · obtain rfl := (List.mem_cons.mp listed).resolve_right again
      have others : ∀ x ∈ l, x.1 ≠ a := fun x hx ha => again (by
        have := later x hx ha
        rwa [show ((a, v) : Nat × Byte) = x from Prod.ext ha.symm this.symm])
      exact (Memory.read_writeCells_other after l others).trans (Memory.read_write_same wf _ _)

theorem Memory.writeCells_append (m : Memory) (k l : List (Nat × Byte)) : m.writeCells (k ++ l) = (m.writeCells k).writeCells l := by
  induction k generalizing m with
  | nil => rfl
  | cons c k ih => exact ih _

/-! ### Stores of the running strand to its own die (R277, R289) -/

/-- `t` is `s` after stores of bytes at home: of the core the scalar data cache, of the package memory, its poison, a
snapshot and the banks alone may differ, and every die knows what it knew. -/
def Stores (s t : State) (bytes : List (Nat × Byte)) : Prop :=
  t = { s with core := { s.core with cache := t.core.cache }, pkg := s.pkg.storedFrom t.pkg }
  ∧ t.pkg.mem = s.pkg.mem.writeCells bytes ∧ ∀ d : Nat, (t.pkg.die d).v = (s.pkg.die d).v

theorem Stores.refl (s : State) : Stores s s [] := ⟨rfl, rfl, fun _ => rfl⟩

theorem Stores.trans {s t u : State} {k l : List (Nat × Byte)} (h : Stores s t k) (g : Stores t u l) : Stores s u (k ++ l) := by
  obtain ⟨hframe, hmem, hv⟩ := h
  obtain ⟨gframe, gmem, gv⟩ := g
  refine ⟨?_, by rw [gmem, hmem, Memory.writeCells_append], fun d => (gv d).trans (hv d)⟩
  have through : ({ t with core := { t.core with cache := u.core.cache }, pkg := t.pkg.storedFrom u.pkg } : State) =
      { s with core := { s.core with cache := u.core.cache }, pkg := s.pkg.storedFrom u.pkg } :=
    congrArg (fun x : State => { x with core := { x.core with cache := u.core.cache }, pkg := x.pkg.storedFrom u.pkg }) hframe
  exact gframe.trans through

/-- A write of whole bytes at its home. -/
theorem Pkg.homeStore_whole (p : Pkg) (bytes : List (Nat × Byte)) (poison : List Nat) (snap preCut : Bool) :
    p.Stored (p.homeStore bytes [] poison snap preCut) ∧ (p.homeStore bytes [] poison snap preCut).mem = p.mem.writeCells bytes
    ∧ ∀ d : Nat, ((p.homeStore bytes [] poison snap preCut).die d).v = (p.die d).v :=
  ⟨p.homeWrite_stored _ _ _ _, rfl, fun d => SameButBanks.v (p.touchSram_banks _) d⟩

theorem State.cacheStore_frame (s : State) (bytes masks : List (Nat × Byte)) :
    s.cacheStore bytes masks = { s with core := { s.core with cache := (s.cacheStore bytes masks).core.cache } } := by
  unfold State.cacheStore
  split <;> rfl

/-- A strand's bytes that no buffered write holds are stored at once where their home is its die, which has delivered what
the strand knows. -/
theorem State.storeBytes_own {s : State} {bytes : List (Nat × Byte)} (poison : List Nat) (snap : Bool)
    (clear : ∀ c ∈ bytes, ∀ e ∈ s.pkg.buffer (clusterOf s.coreNo), ∀ b ∈ e.bytes, b.1 ≠ c.1) (fences : s.ctx.fences = [])
    (knows : s.pkg.knows s.core.die s.core.knotv = true) :
    Stores s (s.storeBytes bytes poison snap s.core.die none) bytes := by
  have unheld : s.buffered bytes = false := by
    refine List.any_eq_false.mpr fun e he => ?_
    simp only [List.any_eq_true, beq_iff_eq, not_exists, not_and]
    exact fun b hb c hc same => clear c hc e he b hb same.symm
  unfold State.storeBytes
  dsimp only
  rw [s.cacheStore_frame bytes []]
  generalize (s.cacheStore bytes []).core.cache = cache
  rw [if_pos ⟨rfl, rfl, unheld, fences, knows⟩]
  obtain ⟨stored, mem, v⟩ := s.pkg.homeStore_whole bytes poison snap (s.pkg.die s.core.die).cut.isNone
  refine ⟨?_, mem, v⟩
  dsimp only
  exact congrArg (fun p => ({ s with core := { s.core with cache := cache }, pkg := p } : State)) stored

/-! ### The stores of a save (R172, R312) -/

/-- A store of a save: its bytes, its poisoned words and SNAP. -/
abbrev SaveStore := List (Nat × Byte) × List Nat × Bool

/-- The home of a store of a save, from its lowest byte. -/
def State.saveHome (s : State) (b : List (Nat × Byte)) : Nat :=
  match b with
  | [] => s.core.die
  | c :: _ => (s.pkg.homeOf c.1).getD s.core.die

theorem State.saveHome_own {s : State} {b : List (Nat × Byte)} (h : ∀ c ∈ b, s.pkg.homeOf c.1 = some s.core.die) :
    s.saveHome b = s.core.die := by
  cases b with
  | nil => rfl
  | cons c b =>
    unfold State.saveHome
    dsimp only
    rw [h c List.mem_cons_self]
    rfl

/-- A save whose stores have several homes forms one ordered store. -/
def State.manyHomes (s : State) (l : List SaveStore) : Bool :=
  l.any (fun x => l.any (fun y => s.saveHome x.1 != s.saveHome y.1))

theorem State.performSave_eq (s : State) (l : List SaveStore) : s.performSave l =
    l.foldl (fun u x => u.storeBytes x.1 x.2.1 x.2.2 (s.saveHome x.1) (if s.manyHomes l then some (s.core.nextId % 256) else none))
      (if s.manyHomes l then { s with core := { s.core with nextId := s.core.nextId + 1 } } else s) := rfl

/-- No buffered write of the cluster holds one of the bytes. -/
def State.Unheld (s : State) (bytes : List (Nat × Byte)) : Prop :=
  ∀ c ∈ bytes, ∀ e ∈ s.pkg.buffer (clusterOf s.coreNo), ∀ b ∈ e.bytes, b.1 ≠ c.1

theorem Stores.unheld {s t : State} {k l : List (Nat × Byte)} (h : Stores s t k) (clear : s.Unheld l) : t.Unheld l := by
  obtain ⟨frame, -, -⟩ := h
  unfold State.Unheld State.coreNo
  rw [frame]
  exact clear

/-- The stores of a save whose homes are all the strand's own die perform there in order. -/
theorem State.performSave_own {s : State} {l : List SaveStore}
    (home : ∀ x ∈ l, ∀ c ∈ x.1, s.pkg.homeOf c.1 = some s.core.die) (clear : ∀ x ∈ l, s.Unheld x.1)
    (fences : s.ctx.fences = []) (knows : s.pkg.knows s.core.die s.core.knotv = true) :
    Stores s (s.performSave l) (l.flatMap (fun x => x.1)) := by
  have own (x) (hx : x ∈ l) : s.saveHome x.1 = s.core.die := State.saveHome_own (home x hx)
  have single : s.manyHomes l = false := by
    refine List.any_eq_false.mpr fun x hx => ?_
    rw [Bool.not_eq_true, List.any_eq_false]
    intro y hy
    simp [own x hx, own y hy]
  have run (k : List SaveStore) (sub : ∀ x ∈ k, x ∈ l) (u : State) (b : List (Nat × Byte)) (before : Stores s u b) :
      Stores s (k.foldl (fun u x => u.storeBytes x.1 x.2.1 x.2.2 (s.saveHome x.1) none) u) (b ++ k.flatMap (fun x => x.1)) := by
    induction k generalizing u b with
    | nil => simpa using before
    | cons x k ih =>
      obtain ⟨hx, hk⟩ := List.forall_mem_cons.mp sub
      have ⟨frame, _, v⟩ := before
      have die : u.core.die = s.core.die := by rw [frame]
      have stored : Stores u (u.storeBytes x.1 x.2.1 x.2.2 u.core.die none) x.1 := by
        refine State.storeBytes_own _ _ (before.unheld (clear x hx)) (by rw [frame]; exact fences) ?_
        rw [Pkg.knows_congr v, frame]
        exact knows
      rw [List.foldl_cons, List.flatMap_cons, ← List.append_assoc, own x hx, ← die]
      exact ih hk _ _ (before.trans stored)
  rw [State.performSave_eq, single]
  exact run l (fun _ h => h) s [] (Stores.refl s)

/-! ### A save (R172, R174) -/

/-- The stores of one slot: the data of a row or entry, then its tag byte. -/
def slotLines (k : ImageKind) (held : BitVec 5 × Nat × Bool) (z : Nat × Trans × Trans) : List SaveStore :=
  (lineWrites z.2.1.pa k.size held.2.1 held.2.2).map (fun b => (b.1, b.2, z.2.1.tlb.snap))
def slotTag (held : BitVec 5 × Nat × Bool) (z : Nat × Trans × Trans) : SaveStore :=
  ([(z.2.2.pa, BitVec.ofNat 8 (tagByte held.1))], [], z.2.2.tlb.snap)

/-- One slot of a save: what it still has to commit, its stores, and its bit cleared. -/
def saveStep (k : ImageKind) (look : State → Nat → BitVec 5 × Nat × Bool) (dirty : State → Nat → Bool)
    (clean : State → Nat → State) (mine : Nat → Shadow → Bool) (step : Nat) (acc : State × List SaveStore × Nat)
    (z : Nat × Trans × Trans) : State × List SaveStore × Nat :=
  let s := acc.1.commitBefore (mine z.1) (acc.1.now + 1 + step * acc.2.2)
  if dirty s z.1 then (clean s z.1, acc.2.1 ++ slotLines k (look s z.1) z ++ [slotTag (look s z.1) z], acc.2.2 + 1)
  else (s, acc.2.1, acc.2.2)

theorem saveForm_of_slots {s : State} {base : Nat} {k : ImageKind} {all : List Nat} {may : Nat → Bool}
    {look : State → Nat → BitVec 5 × Nat × Bool} {dirty : State → Nat → Bool} {clean : State → Nat → State}
    {mine : Nat → Shadow → Bool} {step : Nat} {slots : List (Nat × Trans × Trans)} (cursor : State → Nat → State)
    (reach : s.reachSlots base k .write (all.filter may) = (slots, s, none)) {t : State} {w : List SaveStore} {j : Nat}
    (fold : slots.foldl (saveStep k look dirty clean mine step) (s, [], 0) = (t, w, j)) :
    saveForm s base k all may look dirty clean cursor mine step = .ok (cursor (t.performSave w) 0) := by
  unfold saveForm
  rw [reach]
  exact congrArg (fun x : State × List SaveStore × Nat => (.ok (cursor (x.1.performSave x.2.1) 0) : M State)) fold

/-- `v` is `u` with bits of DIRTY and HDIRTY changed. -/
def Cleaned (u v : State) : Prop := v = { u with ctx := { u.ctx with dirty := v.ctx.dirty, hdirty := v.ctx.hdirty } }

theorem Cleaned.trans {u v w : State} (h : Cleaned u v) (g : Cleaned v w) : Cleaned u w := by
  have through : ({ v with ctx := { v.ctx with dirty := w.ctx.dirty, hdirty := w.ctx.hdirty } } : State) =
      { u with ctx := { u.ctx with dirty := w.ctx.dirty, hdirty := w.ctx.hdirty } } :=
    congrArg (fun x : State => { x with ctx := { x.ctx with dirty := w.ctx.dirty, hdirty := w.ctx.hdirty } }) h
  exact Eq.trans g through

/-- What a save needs of its kind: clearing a bit shows in that bit alone. -/
structure ClearsOneBit (look : State → Nat → BitVec 5 × Nat × Bool) (dirty : State → Nat → Bool)
    (clean : State → Nat → State) : Prop where
  frame : ∀ u n, Cleaned u (clean u n)
  look : ∀ u m n, look (clean u m) n = look u n
  dirty : ∀ u m n, m ≠ n → dirty (clean u m) n = dirty u n

theorem State.commitBefore_none_live {s : State} (h : s.ctx.live = []) (p : Shadow → Bool) (n : Nat) :
    s.commitBefore p n = s := by
  unfold State.commitBefore
  simp only [h, List.filter_nil, List.foldl_nil]
  rw [← h]

theorem mem_slotLines {k : ImageKind} {held : BitVec 5 × Nat × Bool} {z : Nat × Trans × Trans} {c : Nat × Byte} :
    (∃ x ∈ slotLines k held z, c ∈ x.1) ↔ ∃ i, i < k.size ∧ c = (z.2.1.pa + i, BitVec.ofNat 8 (held.2.1 / 256 ^ i)) := by
  rw [← mem_lineWrites_iff (poison := held.2.2)]
  simp [slotLines]

/-- The bytes of the stores of a save, by slot. -/
theorem mem_slotBytes {k : ImageKind} {held : Nat → BitVec 5 × Nat × Bool} {slots : List (Nat × Trans × Trans)} {c : Nat × Byte} :
    c ∈ (slots.flatMap (fun z => slotLines k (held z.1) z ++ [slotTag (held z.1) z])).flatMap (fun x => x.1) ↔
      ∃ z ∈ slots, (∃ i, i < k.size ∧ c = (z.2.1.pa + i, BitVec.ofNat 8 ((held z.1).2.1 / 256 ^ i)))
        ∨ c = (z.2.2.pa, BitVec.ofNat 8 (tagByte (held z.1).1)) := by
  simp only [← mem_slotLines, List.mem_flatMap, List.mem_append, List.mem_singleton, slotTag]
  constructor
  · rintro ⟨x, ⟨z, hz, hx | rfl⟩, hc⟩
    · exact ⟨z, hz, .inl ⟨x, hx, hc⟩⟩
    · exact ⟨z, hz, .inr (List.mem_singleton.mp hc)⟩
  · rintro ⟨z, hz, ⟨x, hx, hc⟩ | rfl⟩
    · exact ⟨x, ⟨z, hz, .inl hx⟩, hc⟩
    · exact ⟨_, ⟨z, hz, .inr rfl⟩, List.mem_singleton.mpr rfl⟩

/-- The bytes that an image of the rows or entries of a list takes. -/
def ImageByte (size : Nat) (d t : Nat → Nat) (held : Nat → BitVec 5 × Nat × Bool) (l : List Nat) (c : Nat × Byte) : Prop :=
  ∃ n ∈ l, (∃ i, i < size ∧ c = (d n + i, BitVec.ofNat 8 ((held n).2.1 / 256 ^ i))) ∨ c = (t n, BitVec.ofNat 8 (tagByte (held n).1))

section Image

variable {size : Nat} {d t : Nat → Nat} {held : Nat → BitVec 5 × Nat × Bool} {l : List Nat} {c : Nat × Byte}

theorem imageByte_home {p : Pkg} {h : Nat} (home : ∀ n ∈ l, (∀ i, i < size → p.homeOf (d n + i) = some h) ∧ p.homeOf (t n) = some h)
    (listed : ImageByte size d t held l c) : p.homeOf c.1 = some h := by
  obtain ⟨n, hn, ⟨i, hi, rfl⟩ | rfl⟩ := listed
  · exact (home n hn).1 i hi
  · exact (home n hn).2

theorem imageByte_unbuffered {p : Pkg} {cl : Nat} (clear : ∀ n ∈ l, p.overlay cl (d n) size = [] ∧ p.overlay cl (t n) 1 = [])
    (listed : ImageByte size d t held l c) : ∀ e ∈ p.buffer cl, ∀ b ∈ e.bytes, b.1 ≠ c.1 := by
  intro e he b hb same
  obtain ⟨n, hn, place⟩ := listed
  obtain ⟨data, tag⟩ := clear n hn
  rw [Pkg.overlay_eq_nil_iff] at data tag
  obtain ⟨i, hi, rfl⟩ | rfl := place
  · exact data e he b hb (by dsimp only at same; omega)
  · exact tag e he b hb (by dsimp only at same; omega)

/-- The slots of an image do not overlap. -/
def Apart (size : Nat) (d t : Nat → Nat) (l : List Nat) : Prop :=
  ∀ m ∈ l, ∀ n ∈ l, (m ≠ n → d m + size ≤ d n ∨ d n + size ≤ d m) ∧ (t m < d n ∨ d n + size ≤ t m) ∧ (m ≠ n → t m ≠ t n)

/-- Memory holds the image: the data and the tag byte of each, and every other byte as it was. -/
def HoldsImage (size : Nat) (d t : Nat → Nat) (held : Nat → BitVec 5 × Nat × Bool) (l : List Nat) (p q : Pkg) : Prop :=
  (∀ n ∈ l, littleAt q (d n) size = (held n).2.1 ∧ (q.mem.read (t n)).toNat = 128 + (held n).1.toNat)
  ∧ ∀ pa, (∀ n ∈ l, (pa < d n ∨ d n + size ≤ pa) ∧ pa ≠ t n) → q.mem.read pa = p.mem.read pa

/-- Stores of the bytes of slots that do not overlap leave the image. -/
theorem holdsImage_of_bytes {p q : Pkg} {cells : List (Nat × Byte)} (wf : p.mem.wf = true) (mem : q.mem = p.mem.writeCells cells)
    (listed : ∀ c, c ∈ cells ↔ ImageByte size d t held l c) (apart : Apart size d t l)
    (fits : ∀ n ∈ l, (held n).2.1 < 256 ^ size) : HoldsImage size d t held l p q := by
  have byte {n i : Nat} (hn : n ∈ l) (hi : i < size) : q.mem.read (d n + i) = BitVec.ofNat 8 ((held n).2.1 / 256 ^ i) := by
    rw [mem]
    refine Memory.read_writeCells_listed wf ((listed _).mpr ⟨n, hn, .inl ⟨i, hi, rfl⟩⟩) fun c hc here => ?_
    obtain ⟨m, hm, ⟨j, hj, rfl⟩ | rfl⟩ := (listed c).mp hc
    · dsimp only at here ⊢
      obtain rfl : m = n := by
        by_contra other
        have := (apart m hm n hn).1 other
        omega
      obtain rfl : j = i := Nat.add_left_cancel here
      rfl
    · have := (apart m hm n hn).2.1
      dsimp only at here
      omega
  have tag {n : Nat} (hn : n ∈ l) : q.mem.read (t n) = BitVec.ofNat 8 (tagByte (held n).1) := by
    rw [mem]
    refine Memory.read_writeCells_listed wf ((listed _).mpr ⟨n, hn, .inr rfl⟩) fun c hc here => ?_
    obtain ⟨m, hm, ⟨j, hj, rfl⟩ | rfl⟩ := (listed c).mp hc
    · have := (apart n hn m hm).2.1
      dsimp only at here
      omega
    · obtain rfl : m = n := by
        by_contra other
        exact (apart m hm n hn).2.2 other here
      rfl
  refine ⟨fun n hn => ⟨?_, ?_⟩, fun pa outside => ?_⟩
  · rw [littleAt_of_bytes fun i hi => byte hn hi, Nat.mod_eq_of_lt (fits n hn)]
  · have small := (held n).1.isLt
    rw [tag hn, BitVec.toNat_ofNat, tagByte]
    exact Nat.mod_eq_of_lt (by omega)
  · rw [mem]
    refine Memory.read_writeCells_other wf cells fun c hc same => ?_
    obtain ⟨n, hn, ⟨i, hi, rfl⟩ | rfl⟩ := (listed c).mp hc
    · have := (outside n hn).1
      dsimp only at same
      omega
    · exact (outside n hn).2 same.symm

end Image

section Save

variable {k : ImageKind} {look : State → Nat → BitVec 5 × Nat × Bool} {dirty : State → Nat → Bool} {clean : State → Nat → State}
  (bits : ClearsOneBit look dirty clean)

include bits

/-- Slots that are all dirty are stored as they stand, one after the other. -/
theorem foldl_saveStep (mine : Nat → Shadow → Bool) (step : Nat) (slots : List (Nat × Trans × Trans)) (u : State)
    (w : List SaveStore) (j : Nat) (live : u.ctx.live = []) (distinct : (slots.map (fun z => z.1)).Nodup)
    (marked : ∀ z ∈ slots, dirty u z.1 = true) : slots.foldl (saveStep k look dirty clean mine step) (u, w, j) =
      ((slots.map (fun z => z.1)).foldl clean u,
        w ++ slots.flatMap (fun z => slotLines k (look u z.1) z ++ [slotTag (look u z.1) z]), j + slots.length) := by
  induction slots generalizing u w j with
  | nil => simp
  | cons z slots ih =>
    obtain ⟨fresh, rest⟩ := List.nodup_cons.mp distinct
    obtain ⟨here, later⟩ := List.forall_mem_cons.mp marked
    have once : saveStep k look dirty clean mine step (u, w, j) z =
        (clean u z.1, w ++ slotLines k (look u z.1) z ++ [slotTag (look u z.1) z], j + 1) := by
      unfold saveStep
      dsimp only
      rw [State.commitBefore_none_live live, if_pos here]
    have quiet : (clean u z.1).ctx.live = [] := by
      rw [bits.frame]
      exact live
    have still (y) (hy : y ∈ slots) : dirty (clean u z.1) y.1 = true := by
      rw [bits.dirty _ _ _ fun same => fresh (List.mem_map.mpr ⟨y, hy, same.symm⟩)]
      exact later y hy
    rw [List.foldl_cons, once, ih _ _ _ quiet rest still]
    simp only [bits.look, List.map_cons, List.foldl_cons, List.flatMap_cons, List.append_assoc, List.length_cons,
      Nat.add_assoc, Nat.add_comm 1]

theorem ClearsOneBit.foldl (l : List Nat) (u : State) : Cleaned u (l.foldl clean u) := by
  induction l generalizing u with
  | nil => rfl
  | cons n l ih => exact (bits.frame u n).trans (ih (clean u n))

/-- R172: a save of rows or entries whose slots are reached and lie at home stores their bytes and clears their bits. -/
theorem saveForm_stores {s : State} {base : Nat} {all saved : List Nat} {may : Nat → Bool} {d t : Nat → Nat}
    (chosen : all.filter may = saved) (distinct : saved.Nodup) (marked : ∀ n ∈ saved, dirty s n = true)
    (slots : ∀ n ∈ saved, SlotAt s .write base k n (d n) (t n))
    (clear : ∀ n ∈ saved, s.pkg.overlay (clusterOf s.coreNo) (d n) k.size = [] ∧ s.pkg.overlay (clusterOf s.coreNo) (t n) 1 = [])
    (home : ∀ n ∈ saved, (∀ i, i < k.size → s.pkg.homeOf (d n + i) = some s.core.die) ∧ s.pkg.homeOf (t n) = some s.core.die)
    (live : s.ctx.live = []) (fences : s.ctx.fences = []) (knows : s.pkg.knows s.core.die s.core.knotv = true)
    (cursor : State → Nat → State) (mine : Nat → Shadow → Bool) (step : Nat) :
    ∃ v cells, saveForm s base k all may look dirty clean cursor mine step = .ok (cursor v 0)
      ∧ Stores (saved.foldl clean s) v cells ∧ ∀ c, c ∈ cells ↔ ImageByte k.size d t (look s) saved c := by
  obtain ⟨slots, reach, names, places⟩ := State.reachSlots_all slots
  rw [← chosen] at reach
  have dirtySlots (z) (hz : z ∈ slots) : dirty s z.1 = true := marked _ (names ▸ List.mem_map_of_mem hz)
  have fold := foldl_saveStep (k := k) bits mine step slots s [] 0 live (names.symm ▸ distinct) dirtySlots
  rw [names, List.nil_append] at fold
  have listed (c : Nat × Byte) : c ∈ (slots.flatMap (fun z => slotLines k (look s z.1) z ++ [slotTag (look s z.1) z])).flatMap
      (fun x => x.1) ↔ ImageByte k.size d t (look s) saved c := by
    rw [mem_slotBytes, ImageByte, ← names]
    constructor
    · rintro ⟨z, hz, h⟩
      rw [(places z hz).1, (places z hz).2] at h
      exact ⟨z.1, List.mem_map_of_mem hz, h⟩
    · rintro ⟨n, hn, h⟩
      obtain ⟨z, hz, rfl⟩ := List.mem_map.mp hn
      rw [← (places z hz).1, ← (places z hz).2] at h
      exact ⟨z, hz, h⟩
  have stored {x : SaveStore} (hx : x ∈ slots.flatMap (fun z => slotLines k (look s z.1) z ++ [slotTag (look s z.1) z]))
      {c : Nat × Byte} (hc : c ∈ x.1) : ImageByte k.size d t (look s) saved c := (listed c).mp (List.mem_flatMap.mpr ⟨x, hx, hc⟩)
  have cleaned : Cleaned s (saved.foldl clean s) := bits.foldl saved s
  have pkg : (saved.foldl clean s).pkg = s.pkg := by rw [cleaned]
  have core : (saved.foldl clean s).core = s.core := by rw [cleaned]
  have number : (saved.foldl clean s).coreNo = s.coreNo := by rw [State.coreNo, core]; rfl
  refine ⟨_, _, saveForm_of_slots cursor reach fold, State.performSave_own (fun x hx c hc => ?_) (fun x hx c hc => ?_) ?_ ?_, listed⟩
  · rw [pkg, core]
    exact imageByte_home home (stored hx hc)
  · rw [pkg, number]
    exact imageByte_unbuffered clear (stored hx hc)
  · rw [cleaned]
    exact fences
  · rw [pkg, core]
    exact knows

end Save

/-! ### Saves of rows and of entries (R172, R174) -/

theorem getLsbD_clear {w : Nat} (x : BitVec w) (m n : Nat) :
    (x &&& ~~~(1#w <<< m)).getLsbD n = (x.getLsbD n && decide (n ≠ m)) := by
  by_cases h : n < w
  · obtain lt | rfl | gt := Nat.lt_trichotomy n m
    · simp [h, lt, lt.ne, -BitVec.getLsbD_eq_getElem]
    · simp [h, Nat.zero_lt_of_lt h, -BitVec.getLsbD_eq_getElem]
    · have apart : n - m ≠ 0 := by omega
      simp [h, gt.ne', apart, -BitVec.getLsbD_eq_getElem]
  · simp [BitVec.getLsbD_of_ge x n (not_lt.mp h)]

theorem hdirty_foldl_cleanRow (l : List Nat) (s : State) (r : Nat) :
    (l.foldl State.cleanRow s).ctx.hdirty.getLsbD r = (s.ctx.hdirty.getLsbD r && decide (r ∉ l)) := by
  induction l generalizing s with
  | nil => simp
  | cons m l ih =>
    have once : (s.cleanRow m).ctx.hdirty.getLsbD r = (s.ctx.hdirty.getLsbD r && decide (r ≠ m)) := getLsbD_clear _ m r
    rw [List.foldl_cons, ih, once, Bool.and_assoc, ← Bool.decide_and]
    simp

theorem dirty_foldl_cleanEntry (l : List Nat) (s : State) (e : Nat) :
    (l.foldl State.cleanEntry s).ctx.dirty.getLsbD e = (s.ctx.dirty.getLsbD e && decide (e ∉ l)) := by
  induction l generalizing s with
  | nil => simp
  | cons m l ih =>
    have once : (s.cleanEntry m).ctx.dirty.getLsbD e = (s.ctx.dirty.getLsbD e && decide (e ≠ m)) := getLsbD_clear _ m e
    rw [List.foldl_cons, ih, once, Bool.and_assoc, ← Bool.decide_and]
    simp

/-- What an image holds of a row, and of an entry. -/
def heldRow (s : State) (r : Nat) : BitVec 5 × Nat × Bool := ((s.row r).tag, (s.row r).cells.toNat, (s.row r).poison)
def heldEntry (s : State) (e : Nat) : BitVec 5 × Nat × Bool := ((s.entry e).tag, (s.entry e).data.toNat, (s.entry e).poison)

theorem clearsOneBit_row (full : Bool) :
    ClearsOneBit heldRow (fun s r => full || s.ctx.hdirty.getLsbD r) State.cleanRow where
  frame _ _ := rfl
  look _ _ _ := rfl
  dirty u m n other := by
    have once : (u.cleanRow m).ctx.hdirty.getLsbD n = (u.ctx.hdirty.getLsbD n && decide (n ≠ m)) := getLsbD_clear _ m n
    simp [once, other.symm]

theorem clearsOneBit_entry (full : Bool) :
    ClearsOneBit heldEntry (fun s e => full || s.ctx.dirty.getLsbD e) State.cleanEntry where
  frame _ _ := rfl
  look _ _ _ := rfl
  dirty u m n other := by
    have once : (u.cleanEntry m).ctx.dirty.getLsbD n = (u.ctx.dirty.getLsbD n && decide (n ≠ m)) := getLsbD_clear _ m n
    simp [once, other.symm]

theorem toNat_lt_bytes {w n : Nat} (h : w = 8 * n) (x : BitVec w) : x.toNat < 256 ^ n := by
  subst h
  exact x.isLt.trans_eq (pow_mul 2 8 n)

theorem imageBase_aligned {s : State} {a : BitVec 6} (h : (s.gr a).toNat % 1024 = 0) : imageBase s a = .ok (s.gr a) := if_pos h

theorem imageBase_misaligned {s : State} {a : BitVec 6} (h : (s.gr a).toNat % 1024 ≠ 0) :
    imageBase s a = .error (.trap cMisaligned (s.gr a)) := if_neg h

/-- R171: a base that is not a multiple of 1,024 traps. -/
theorem imageForms_misaligned {sel : BitVec 9} {a b : BitVec 6} {s : State} (h : (s.gr a).toNat % 1024 ≠ 0) :
    ∀ i ∈ [Instr.hsave sel a b, .hrest sel a b, .vsave a b, .vrest a b], Yields i s (fun u => Trapped s u 0x05 (s.gr a)) := by
  have stops (i : Instr) (f : Word → M State) (run : exec i s = finish s (imageBase s a >>= f)) :
      Yields i s (fun u => Trapped s u 0x05 (s.gr a)) :=
    ⟨_, run.trans (finish_bind_error (imageBase_misaligned h)), State.takeTrap_trapped s cMisaligned _ false (by decide)⟩
  simp only [List.forall_mem_cons]
  exact ⟨stops _ _ rfl, stops _ _ rfl, stops _ _ rfl, stops _ _ rfl, nofun⟩

section Saves

variable {s : State} {a b : BitVec 6} {d t : Nat → Nat}

/-- What a save of rows or entries asks of the slots of a list (R171). -/
def SlotsAtHome (s : State) (base : Nat) (k : ImageKind) (d t : Nat → Nat) (l : List Nat) : Prop :=
  ∀ n ∈ l, SlotAt s .write base k n (d n) (t n) ∧ s.pkg.overlay (clusterOf s.coreNo) (d n) k.size = []
    ∧ s.pkg.overlay (clusterOf s.coreNo) (t n) 1 = [] ∧ (∀ i, i < k.size → s.pkg.homeOf (d n + i) = some s.core.die)
    ∧ s.pkg.homeOf (t n) = some s.core.die

/-- R172: a save whose slots are reached at home leaves the image and clears the bits of what it saved. -/
theorem saveForm_holdsImage {k : ImageKind} {look : State → Nat → BitVec 5 × Nat × Bool} {dirty : State → Nat → Bool}
    {clean : State → Nat → State} (bits : ClearsOneBit look dirty clean) {base : Nat} {all saved : List Nat} {may : Nat → Bool}
    (chosen : all.filter may = saved) (distinct : all.Nodup) (marked : ∀ n ∈ saved, dirty s n = true)
    (slots : SlotsAtHome s base k d t saved) (apart : Apart k.size d t saved) (fits : ∀ n ∈ saved, (look s n).2.1 < 256 ^ k.size)
    (live : s.ctx.live = []) (inv : Inv s) (fences : s.ctx.fences = []) (knows : s.pkg.knows s.core.die s.core.knotv = true)
    (cursor : State → Nat → State) (mine : Nat → Shadow → Bool) (step : Nat) :
    ∃ v, saveForm s base k all may look dirty clean cursor mine step = .ok (cursor v 0)
      ∧ HoldsImage k.size d t (look s) saved s.pkg v.pkg ∧ v.ctx = (saved.foldl clean s).ctx
      ∧ v.core = { s.core with cache := v.core.cache } := by
  have cleaned : Cleaned s (saved.foldl clean s) := bits.foldl saved s
  have clear (n) (hn : n ∈ saved) : s.pkg.overlay (clusterOf s.coreNo) (d n) k.size = []
      ∧ s.pkg.overlay (clusterOf s.coreNo) (t n) 1 = [] := by
    obtain ⟨-, data, tag, -⟩ := slots n hn
    exact ⟨data, tag⟩
  have home (n) (hn : n ∈ saved) : (∀ i, i < k.size → s.pkg.homeOf (d n + i) = some s.core.die)
      ∧ s.pkg.homeOf (t n) = some s.core.die := by
    obtain ⟨-, -, -, home⟩ := slots n hn
    exact home
  obtain ⟨v, cells, run, ⟨frame, mem, -⟩, listed⟩ := saveForm_stores bits chosen (chosen ▸ distinct.filter _) marked
    (fun n hn => (slots n hn).1) clear home live fences knows cursor mine step
  have pkg : (saved.foldl clean s).pkg = s.pkg := by rw [cleaned]
  have core : (saved.foldl clean s).core = s.core := by rw [cleaned]
  refine ⟨v, run, holdsImage_of_bytes inv (pkg ▸ mem) listed apart fits, by rw [frame], ?_⟩
  rw [← core]
  exact congrArg State.core frame

/-- The rows that a save or restore of the Hoop visits, and the entries of one of the lane file. -/
def imageRows (s : State) (sel : BitVec 9) : List Nat := laterRows s (regionOf sel s.ctx.hRows true)
def imageEntries (s : State) : List Nat := (List.range s.ctx.lfSize).filter (fun e => decide (startOf s ≤ e))

theorem State.restartRows_image {sel : BitVec 9} (legal : regionLegal sel) (held : rowsHeld s (regionOf sel s.ctx.hRows true)) :
    s.restartRows sel true = .ok (imageRows s sel) :=
  State.restartRows_of_regionRows (State.regionRows_eq legal rfl held)

theorem State.restartEntries_eq : s.restartEntries = imageEntries s := by
  unfold State.restartEntries imageEntries
  rw [State.vsn_eq]

variable (aligned : (s.gr a).toNat % 1024 = 0) (live : s.ctx.live = []) (inv : Inv s) (fences : s.ctx.fences = [])
  (knows : s.pkg.knows s.core.die s.core.knotv = true)

include aligned live inv fences knows

theorem hsave_yields {sel : BitVec 9} (legal : regionLegal sel) (held : rowsHeld s (regionOf sel s.ctx.hRows true)) :
    let saved := (imageRows s sel).filter (fun r => (s.gr b).getLsbD 0 || s.ctx.hdirty.getLsbD r)
    SlotsAtHome s (s.gr a).toNat hoopImage d t saved → Apart 512 d t saved →
    Yields (.hsave sel a b) s (fun u => HoldsImage 512 d t (heldRow s) saved s.pkg u.pkg
      ∧ (∀ r, r < 128 → u.ctx.hdirty.getLsbD r = (s.ctx.hdirty.getLsbD r && decide (r ∉ saved)))
      ∧ u.ctx.hcur = 0 ∧ u.ctx.g = s.ctx.g ∧ u.core.hoop = s.core.hoop) := by
  intro saved slots apart
  have chosen : (imageRows s sel).filter (fun r => s.full b || s.ctx.hdirty.getLsbD r || s.ctx.live.any (Shadow.onRow r)) = saved := by
    rw [live]
    simp only [List.any_nil, Bool.or_false]
    rfl
  obtain ⟨v, run, image, ctx, core⟩ := saveForm_holdsImage (clearsOneBit_row (s.full b)) chosen
    ((regionOf_nodup _ _ _).filter _) (fun r hr => (List.mem_filter.mp hr).2) slots apart
    (fun r _ => toNat_lt_bytes (n := hoopImage.size) rfl _) live inv fences knows State.setHcur Shadow.onRow 2
  have cleaned : Cleaned s (saved.foldl State.cleanRow s) := (clearsOneBit_row (s.full b)).foldl saved s
  refine ⟨v.setHcur 0, ?_, image, fun r _ => ?_, rfl, ?_, ?_⟩
  · show execHsave sel a b s = _
    unfold execHsave
    rw [finish_bind_ok (imageBase_aligned aligned), finish_bind_ok (State.restartRows_image legal held)]
    exact congrArg (finish s) run
  · show v.ctx.hdirty.getLsbD r = _
    rw [ctx, hdirty_foldl_cleanRow]
  · show v.ctx.g = _
    rw [ctx, cleaned]
  · show v.core.hoop = _
    rw [core]

theorem vsave_yields :
    let saved := (imageEntries s).filter (fun e => (s.gr b).getLsbD 0 || s.ctx.dirty.getLsbD e)
    SlotsAtHome s (s.gr a).toNat laneImage d t saved → Apart 1024 d t saved →
    Yields (.vsave a b) s (fun u => HoldsImage 1024 d t (heldEntry s) saved s.pkg u.pkg
      ∧ (∀ e, e < 256 → u.ctx.dirty.getLsbD e = (s.ctx.dirty.getLsbD e && decide (e ∉ saved)))
      ∧ u.ctx.vstart = 0 ∧ u.ctx.g = s.ctx.g ∧ u.core.lane = s.core.lane) := by
  intro saved slots apart
  have chosen : (imageEntries s).filter (fun e => s.full b || s.ctx.dirty.getLsbD e || s.ctx.live.any (Shadow.onEntry e)) = saved := by
    rw [live]
    simp only [List.any_nil, Bool.or_false]
    rfl
  obtain ⟨v, run, image, ctx, core⟩ := saveForm_holdsImage (clearsOneBit_entry (s.full b)) chosen
    (List.nodup_range.filter _) (fun e he => (List.mem_filter.mp he).2) slots apart
    (fun e _ => toNat_lt_bytes (n := laneImage.size) rfl _) live inv fences knows State.setVs Shadow.onEntry 4
  have cleaned : Cleaned s (saved.foldl State.cleanEntry s) := (clearsOneBit_entry (s.full b)).foldl saved s
  refine ⟨v.setVs 0, ?_, image, fun e _ => ?_, rfl, ?_, ?_⟩
  · show execVsave a b s = _
    unfold execVsave
    rw [finish_bind_ok (imageBase_aligned aligned), State.restartEntries_eq]
    exact congrArg (finish s) run
  · show v.ctx.dirty.getLsbD e = _
    rw [ctx, dirty_foldl_cleanEntry]
  · show v.ctx.g = _
    rw [ctx, cleaned]
  · show v.core.lane = _
    rw [core]

end Saves

/-! ### A restore (R173, R174) -/

/-- A read of n bytes that no buffered write holds and no word of which is poisoned touches banks alone. -/
theorem State.readDirect_banks {s : State} {pa n : Nat} (clear : s.pkg.overlay (clusterOf s.coreNo) pa n = [])
    (clean : s.pkg.poisonIn pa n = []) : ∃ t, s.readDirect pa n = (littleAt s.pkg pa n, false, t) ∧ Touched s t
      ∧ SameButBanks s.pkg t.pkg := by
  obtain ⟨t, run, touched⟩ := State.readDirect_clear ((s.pkg.overlay_eq_nil_iff _ _ _).mp clear) clean
  refine ⟨t, run, touched, ?_⟩
  have after : (s.readDirect pa n).2.2 = s.touchSram pa 20 := by
    unfold State.readDirect
    dsimp only
    rw [clear]
    rfl
  rw [run] at after
  dsimp only at after
  rw [after]
  exact s.pkg.touchSram_banks pa

theorem littleAt_one (p : Pkg) (pa : Nat) : littleAt p pa 1 = (p.mem.read pa).toNat := by simp [littleAt]

theorem littleAt_lt (p : Pkg) (pa n : Nat) : littleAt p pa n < 256 ^ n := by
  induction n with
  | zero => simp [littleAt]
  | succ n ih =>
    have byte := (p.mem.read (pa + n)).isLt
    unfold littleAt at ih ⊢
    rw [List.range_succ, List.map_append, List.sum_append, List.map_singleton, List.sum_singleton, Nat.pow_succ]
    have top := Nat.mul_le_mul_right (256 ^ n) (Nat.le_of_lt_succ byte)
    linarith

/-- One slot of a restore, its tag byte given. -/
def restoreStep (k : ImageKind) (put : State → Nat → BitVec 5 → Nat → Bool → State) (tag : Nat × Trans × Trans → Nat) (u : State)
    (z : Nat × Trans × Trans) : State :=
  let r := u.readDirect z.2.2.pa 1
  if tag z < 128 then put r.2.2 z.1 0 0 r.2.1
  else
    let q := r.2.2.readDirect z.2.1.pa k.size
    put q.2.2 z.1 (BitVec.ofNat 5 (tag z)) q.1 (r.2.1 || q.2.1)

theorem restoreForm_of_slots {s : State} {base : Nat} {k : ImageKind} {all : List Nat}
    {put : State → Nat → BitVec 5 → Nat → Bool → State} {slots : List (Nat × Trans × Trans)} (cursor : State → Nat → State)
    (reach : s.reachSlots base k .read all = (slots, s, none))
    (known : ∀ z ∈ slots, ¬ (128 ≤ (s.readDirect z.2.2.pa 1).1 ∧ tagReserved (BitVec.ofNat 5 (s.readDirect z.2.2.pa 1).1) = true)) :
    restoreForm s base k all put cursor =
      .ok (cursor (slots.foldl (restoreStep k put (fun z => (s.readDirect z.2.2.pa 1).1)) s) 0) := by
  have none : slots.find? (fun z => decide (128 ≤ (s.readDirect z.2.2.pa 1).1)
      && tagReserved (BitVec.ofNat 5 (s.readDirect z.2.2.pa 1).1)) = none :=
    List.find?_eq_none.mpr fun z hz => by
      rw [Bool.and_eq_true, decide_eq_true_eq]
      exact known z hz
  unfold restoreForm
  rw [reach]
  dsimp only
  rw [none]
  rfl

/-- What a restore needs of its kind: one row or entry is written, and nothing of the package. -/
structure PutsOne (put : State → Nat → BitVec 5 → Nat → Bool → State) : Prop where
  pkg : ∀ u n g x p, (put u n g x p).pkg = u.pkg
  number : ∀ u n g x p, (put u n g x p).coreNo = u.coreNo
  touched : ∀ u v n g x p, Touched u v → Touched (put u n g x p) (put v n g x p)

/-- What the image at the slots of a list holds of row or entry n: its tag and its data, zeros where it does not hold it. -/
def storedTag (p : Pkg) (t : Nat → Nat) (n : Nat) : BitVec 5 :=
  if (p.mem.read (t n)).toNat < 128 then 0 else BitVec.ofNat 5 (p.mem.read (t n)).toNat
def storedData (p : Pkg) (size : Nat) (d t : Nat → Nat) (n : Nat) : Nat :=
  if (p.mem.read (t n)).toNat < 128 then 0 else littleAt p (d n) size

/-- What a restore asks of the slots of a list (R171, R173). -/
def SlotsReadable (s : State) (base : Nat) (k : ImageKind) (d t : Nat → Nat) (l : List Nat) : Prop :=
  ∀ n ∈ l, SlotAt s .read base k n (d n) (t n) ∧ s.pkg.overlay (clusterOf s.coreNo) (d n) k.size = []
    ∧ s.pkg.overlay (clusterOf s.coreNo) (t n) 1 = [] ∧ s.pkg.poisonIn (d n) k.size = [] ∧ s.pkg.poisonIn (t n) 1 = []
    ∧ ((s.pkg.mem.read (t n)).toNat < 128 ∨ (s.pkg.mem.read (t n)).toNat % 32 ≤ 0x12)

/-- A read of n bytes after reads. -/
theorem SameButBanks.readDirect {s u : State} (banks : SameButBanks s.pkg u.pkg) (number : u.coreNo = s.coreNo) {pa n : Nat}
    (clear : s.pkg.overlay (clusterOf s.coreNo) pa n = []) (clean : s.pkg.poisonIn pa n = []) :
    ∃ v, u.readDirect pa n = (littleAt s.pkg pa n, false, v) ∧ Touched u v ∧ SameButBanks s.pkg v.pkg ∧ v.coreNo = s.coreNo := by
  obtain ⟨v, run, touched, after⟩ := State.readDirect_banks (s := u) (pa := pa) (n := n)
    (by rw [number, banks.1]; exact clear) (by rw [banks.1]; exact clean)
  refine ⟨v, ?_, touched, SameButBanks.trans banks after, (touched.same State.coreNo fun _ _ => rfl).trans number⟩
  rw [run, banks.1]
  rfl

/-- One slot of a restore puts what the image holds. -/
theorem restoreStep_puts {s u : State} {base : Nat} {k : ImageKind} {d t : Nat → Nat} {l : List Nat}
    (put : State → Nat → BitVec 5 → Nat → Bool → State) {tag : Nat × Trans × Trans → Nat} {z : Nat × Trans × Trans}
    (slots : SlotsReadable s base k d t l) (hz : z.1 ∈ l) (data : z.2.1.pa = d z.1) (place : z.2.2.pa = t z.1)
    (byte : tag z = (s.pkg.mem.read (t z.1)).toNat) (banks : SameButBanks s.pkg u.pkg) (number : u.coreNo = s.coreNo) :
    ∃ r, restoreStep k put tag u z = put r z.1 (storedTag s.pkg t z.1) (storedData s.pkg k.size d t z.1) false
      ∧ Touched u r ∧ SameButBanks s.pkg r.pkg ∧ r.coreNo = s.coreNo := by
  obtain ⟨-, dataClear, tagClear, dataClean, tagClean, -⟩ := slots z.1 hz
  obtain ⟨v, first, touched, banks, number⟩ := SameButBanks.readDirect banks number tagClear tagClean
  unfold restoreStep storedTag storedData
  rw [byte, place, data, first]
  dsimp only
  split
  · exact ⟨v, rfl, touched, banks, number⟩
  · obtain ⟨r, second, after, banks, number⟩ := SameButBanks.readDirect banks number dataClear dataClean
    rw [second]
    exact ⟨r, rfl, touched.trans after, banks, number⟩

/-- R173: a restore whose slots are reached gives each row or entry what the image holds, and but for banks writes nothing
else. -/
theorem restoreForm_puts {s : State} {base : Nat} {k : ImageKind} {all : List Nat} {d t : Nat → Nat}
    {put : State → Nat → BitVec 5 → Nat → Bool → State} (one : PutsOne put) (slots : SlotsReadable s base k d t all)
    (cursor : State → Nat → State) : ∃ v, restoreForm s base k all put cursor = .ok (cursor v 0)
      ∧ Touched (all.foldl (fun u n => put u n (storedTag s.pkg t n) (storedData s.pkg k.size d t n) false) s) v
      ∧ SameButBanks s.pkg v.pkg := by
  obtain ⟨cells, reach, names, places⟩ := State.reachSlots_all fun n hn => (slots n hn).1
  have readable (z) (hz : z ∈ cells) := slots z.1 (names ▸ List.mem_map_of_mem hz)
  have byte (z) (hz : z ∈ cells) : (s.readDirect z.2.2.pa 1).1 = (s.pkg.mem.read (t z.1)).toNat := by
    obtain ⟨-, -, tagClear, -, tagClean, -⟩ := readable z hz
    obtain ⟨v, run, -⟩ := State.readDirect_banks tagClear tagClean
    rw [(places z hz).2, run]
    exact littleAt_one _ _
  refine ⟨_, restoreForm_of_slots cursor reach fun z hz => ?_, ?_⟩
  · obtain ⟨-, -, -, -, -, known⟩ := readable z hz
    rw [byte z hz]
    rintro ⟨high, bad⟩
    have inside := known.resolve_left (not_lt.mpr high)
    have reserved : 0x13 ≤ (s.pkg.mem.read (t z.1)).toNat % 2 ^ 5 := by simpa [tagReserved] using bad
    omega
  rw [← names, List.foldl_map]
  have run (l : List (Nat × Trans × Trans)) (sub : ∀ z ∈ l, z ∈ cells) (w u : State) (touched : Touched w u)
      (banks : SameButBanks s.pkg u.pkg) (number : u.coreNo = s.coreNo) :
      Touched (l.foldl (fun u z => put u z.1 (storedTag s.pkg t z.1) (storedData s.pkg k.size d t z.1) false) w)
        (l.foldl (restoreStep k put (fun z => (s.readDirect z.2.2.pa 1).1)) u)
      ∧ SameButBanks s.pkg (l.foldl (restoreStep k put (fun z => (s.readDirect z.2.2.pa 1).1)) u).pkg := by
    induction l generalizing w u with
    | nil => exact ⟨touched, banks⟩
    | cons z l ih =>
      obtain ⟨hz, hl⟩ := List.forall_mem_cons.mp sub
      obtain ⟨r, step, reads, banks, number⟩ := restoreStep_puts put (tag := fun z => (s.readDirect z.2.2.pa 1).1) slots
        (names ▸ List.mem_map_of_mem hz) (places z hz).1 (places z hz).2 (byte z hz) banks number
      rw [List.foldl_cons, List.foldl_cons, step]
      exact ih hl _ _ (one.touched _ _ _ _ _ _ (touched.trans reads)) (by rw [one.pkg]; exact banks)
        ((one.number _ _ _ _ _).trans number)
  exact run cells (fun _ h => h) s s rfl (SameButBanks.refl _) rfl

/-! ### Rows and entries restored (R173, R174) -/

theorem getLsbD_set_clear {w : Nat} (x : BitVec w) (m n : Nat) :
    ((x ||| (1#w <<< m)) &&& ~~~(1#w <<< m)).getLsbD n = (x.getLsbD n && decide (n ≠ m)) := by
  rw [getLsbD_clear]
  obtain rfl | other := eq_or_ne n m
  · simp
  · have off : (1#w <<< m).getLsbD n = false := by
      obtain lt | gt := Nat.lt_or_gt_of_ne other
      · simp [lt]
      · simp [show n - m ≠ 0 by omega]
    rw [BitVec.getLsbD_or, off, Bool.or_false]

/-- Row n restored, its HDIRTY bit clear; and entry n, its DIRTY bit clear. -/
def State.restoreRow (s : State) (n : Nat) (tag : BitVec 5) (x : Nat) (poison : Bool) : State :=
  (s.setRow n { tag := tag, cells := BitVec.ofNat 4096 x, poison := poison }).cleanRow n
def State.restoreEntry (s : State) (n : Nat) (tag : BitVec 5) (x : Nat) (poison : Bool) : State :=
  (s.setEntry n { tag := tag, data := BitVec.ofNat 8192 x, poison := poison }).cleanEntry n

theorem putsOne_row : PutsOne State.restoreRow where
  pkg _ _ _ _ _ := rfl
  number _ _ _ _ _ := rfl
  touched _ _ n g x p h := congrArg (fun u : State => u.restoreRow n g x p) h

theorem putsOne_entry : PutsOne State.restoreEntry where
  pkg _ _ _ _ _ := rfl
  number _ _ _ _ _ := rfl
  touched _ _ n g x p h := congrArg (fun u : State => u.restoreEntry n g x p) h

theorem foldl_restoreRow (tag : Nat → BitVec 5) (x : Nat → Nat) (l : List Nat) (s : State) :
    (∀ r, s.ctx.hBase + r < 128 → (l.foldl (fun u n => u.restoreRow n (tag n) (x n) false) s).row r =
      if r ∈ l then { tag := tag r, cells := BitVec.ofNat 4096 (x r), poison := false } else s.row r)
    ∧ (∀ r, (l.foldl (fun u n => u.restoreRow n (tag n) (x n) false) s).ctx.hdirty.getLsbD r =
      (s.ctx.hdirty.getLsbD r && decide (r ∉ l)))
    ∧ (l.foldl (fun u n => u.restoreRow n (tag n) (x n) false) s).ctx.g = s.ctx.g := by
  induction l generalizing s with
  | nil => simp
  | cons n l ih =>
    obtain ⟨row, bits, g⟩ := ih (s.restoreRow n (tag n) (x n) false)
    refine ⟨fun r hr => (row r hr).trans ?_, fun r => (bits r).trans ?_, g⟩
    · have once : (s.restoreRow n (tag n) (x n) false).row r =
          if r = n then { tag := tag n, cells := BitVec.ofNat 4096 (x n), poison := false } else s.row r := s.row_setRow n _ hr
      rw [once]
      obtain rfl | other := eq_or_ne r n
      · simp
      · simp [other]
    · have once : (s.restoreRow n (tag n) (x n) false).ctx.hdirty.getLsbD r = (s.ctx.hdirty.getLsbD r && decide (r ≠ n)) :=
        getLsbD_set_clear _ n r
      rw [once, Bool.and_assoc, ← Bool.decide_and]
      simp

theorem State.entry_setEntry (s : State) (k : Nat) (v : Entry) {e : Nat} (h : s.ctx.lfBase + e < 256) :
    (s.setEntry k v).entry e = if e = k then v else s.entry e := by
  obtain rfl | other := eq_or_ne e k
  · rw [if_pos rfl, s.setEntry_entry v h]
  · rw [if_neg other]
    show (s.core.lane.setIfInBounds (s.ctx.lfBase + k) v).getD (s.ctx.lfBase + e) Entry.zero =
      s.core.lane.getD (s.ctx.lfBase + e) Entry.zero
    simp [Vector.getD, other.symm]

theorem foldl_restoreEntry (tag : Nat → BitVec 5) (x : Nat → Nat) (l : List Nat) (s : State) :
    (∀ e, s.ctx.lfBase + e < 256 → (l.foldl (fun u n => u.restoreEntry n (tag n) (x n) false) s).entry e =
      if e ∈ l then { tag := tag e, data := BitVec.ofNat 8192 (x e), poison := false } else s.entry e)
    ∧ (∀ e, (l.foldl (fun u n => u.restoreEntry n (tag n) (x n) false) s).ctx.dirty.getLsbD e =
      (s.ctx.dirty.getLsbD e && decide (e ∉ l)))
    ∧ (l.foldl (fun u n => u.restoreEntry n (tag n) (x n) false) s).ctx.g = s.ctx.g := by
  induction l generalizing s with
  | nil => simp
  | cons n l ih =>
    obtain ⟨entry, bits, g⟩ := ih (s.restoreEntry n (tag n) (x n) false)
    refine ⟨fun e he => (entry e he).trans ?_, fun e => (bits e).trans ?_, g⟩
    · have once : (s.restoreEntry n (tag n) (x n) false).entry e =
          if e = n then { tag := tag n, data := BitVec.ofNat 8192 (x n), poison := false } else s.entry e :=
        s.entry_setEntry n _ he
      rw [once]
      obtain rfl | other := eq_or_ne e n
      · simp
      · simp [other]
    · have once : (s.restoreEntry n (tag n) (x n) false).ctx.dirty.getLsbD e = (s.ctx.dirty.getLsbD e && decide (e ≠ n)) :=
        getLsbD_set_clear _ n e
      rw [once, Bool.and_assoc, ← Bool.decide_and]
      simp

/-- The tag and the data that the image holds of a row or entry, where it holds it. -/
theorem stored_of_held {p : Pkg} {size w : Nat} {d t : Nat → Nat} {n : Nat} (hw : w = 8 * size)
    (held : ¬ (p.mem.read (t n)).toNat < 128) : (storedTag p t n).toNat = (p.mem.read (t n)).toNat % 32
      ∧ (BitVec.ofNat w (storedData p size d t n)).toNat = littleAt p (d n) size := by
  unfold storedTag storedData
  rw [if_neg held, if_neg held, BitVec.toNat_ofNat, BitVec.toNat_ofNat, hw, pow_mul]
  exact ⟨rfl, Nat.mod_eq_of_lt (littleAt_lt p (d n) size)⟩

theorem stored_of_absent {p : Pkg} {size : Nat} {d t : Nat → Nat} {n : Nat} (absent : (p.mem.read (t n)).toNat < 128) :
    storedTag p t n = 0 ∧ storedData p size d t n = 0 := ⟨if_pos absent, if_pos absent⟩

section Restores

variable {s : State} {a b : BitVec 6} {d t : Nat → Nat} (aligned : (s.gr a).toNat % 1024 = 0)

include aligned

theorem hrest_yields {sel : BitVec 9} (legal : regionLegal sel) (held : rowsHeld s (regionOf sel s.ctx.hRows true))
    (slots : SlotsReadable s (s.gr a).toNat hoopImage d t (imageRows s sel)) :
    Yields (.hrest sel a b) s (fun u =>
      (∀ r ∈ imageRows s sel, if (s.pkg.mem.read (t r)).toNat < 128 then u.row r = Row.zero
        else (u.row r).tag.toNat = (s.pkg.mem.read (t r)).toNat % 32 ∧ (u.row r).poison = false
          ∧ (u.row r).cells.toNat = littleAt s.pkg (d r) 512)
      ∧ (∀ r, r < s.ctx.hRows → r ∉ imageRows s sel → u.row r = s.row r)
      ∧ (∀ r ∈ imageRows s sel, u.ctx.hdirty.getLsbD r = false)
      ∧ u.ctx.hcur = 0 ∧ u.ctx.g = s.ctx.g ∧ SameButBanks s.pkg u.pkg) := by
  obtain ⟨v, run, touched, banks⟩ := restoreForm_puts putsOne_row slots State.setHcur
  obtain ⟨rows, bits, g⟩ := foldl_restoreRow (storedTag s.pkg t) (storedData s.pkg hoopImage.size d t) (imageRows s sel) s
  have row (r : Nat) (hr : r < s.ctx.hRows) : (v.setHcur 0).row r = if r ∈ imageRows s sel then
      { tag := storedTag s.pkg t r, cells := BitVec.ofNat 4096 (storedData s.pkg hoopImage.size d t r), poison := false } else s.row r :=
    (touched.same (fun u => u.row r) fun _ _ => rfl).trans (rows r (rowsHeld_lt held hr))
  have bit (r : Nat) : (v.setHcur 0).ctx.hdirty.getLsbD r = (s.ctx.hdirty.getLsbD r && decide (r ∉ imageRows s sel)) :=
    (touched.same (fun u => u.ctx.hdirty.getLsbD r) fun _ _ => rfl).trans (bits r)
  refine ⟨v.setHcur 0, ?_, fun r hr => ?_, fun r hr other => (row r hr).trans (if_neg other), fun r hr => ?_, rfl, ?_, banks⟩
  · show execHrest sel a b s = _
    unfold execHrest
    rw [finish_bind_ok (imageBase_aligned aligned), finish_bind_ok (State.restartRows_image legal held)]
    exact congrArg (finish s) run
  · rw [row r ((rowsHeld_later held).1 r hr), if_pos hr]
    split
    next absent =>
      obtain ⟨tag, data⟩ := stored_of_absent (size := hoopImage.size) (d := d) absent
      rw [tag, data]
      rfl
    next here =>
      obtain ⟨tag, data⟩ := stored_of_held (w := 4096) (size := hoopImage.size) (d := d) rfl here
      exact ⟨tag, rfl, data⟩
  · rw [bit]
    simp [hr]
  · exact (touched.same (fun u => u.ctx.g) fun _ _ => rfl).trans g

theorem vrest_yields (room : s.ctx.lfBase + s.ctx.lfSize ≤ 256)
    (slots : SlotsReadable s (s.gr a).toNat laneImage d t (imageEntries s)) :
    Yields (.vrest a b) s (fun u =>
      (∀ e ∈ imageEntries s, if (s.pkg.mem.read (t e)).toNat < 128 then u.entry e = Entry.zero
        else (u.entry e).tag.toNat = (s.pkg.mem.read (t e)).toNat % 32 ∧ (u.entry e).poison = false
          ∧ (u.entry e).data.toNat = littleAt s.pkg (d e) 1024)
      ∧ (∀ e ∈ imageEntries s, u.ctx.dirty.getLsbD e = false)
      ∧ u.ctx.vstart = 0 ∧ u.ctx.g = s.ctx.g ∧ SameButBanks s.pkg u.pkg) := by
  obtain ⟨v, run, touched, banks⟩ := restoreForm_puts putsOne_entry slots State.setVs
  obtain ⟨entries, bits, g⟩ := foldl_restoreEntry (storedTag s.pkg t) (storedData s.pkg laneImage.size d t) (imageEntries s) s
  have entry (e : Nat) (he : e ∈ imageEntries s) : (v.setVs 0).entry e =
      { tag := storedTag s.pkg t e, data := BitVec.ofNat 8192 (storedData s.pkg laneImage.size d t e), poison := false } := by
    have below : e < s.ctx.lfSize := List.mem_range.mp (List.mem_of_mem_filter he)
    exact (touched.same (fun u => u.entry e) fun _ _ => rfl).trans ((entries e (by omega)).trans (if_pos he))
  have bit (e : Nat) : (v.setVs 0).ctx.dirty.getLsbD e = (s.ctx.dirty.getLsbD e && decide (e ∉ imageEntries s)) :=
    (touched.same (fun u => u.ctx.dirty.getLsbD e) fun _ _ => rfl).trans (bits e)
  refine ⟨v.setVs 0, ?_, fun e he => ?_, fun e he => ?_, rfl, ?_, banks⟩
  · show execVrest a b s = _
    unfold execVrest
    rw [finish_bind_ok (imageBase_aligned aligned), State.restartEntries_eq]
    exact congrArg (finish s) run
  · rw [entry e he]
    split
    next absent =>
      obtain ⟨tag, data⟩ := stored_of_absent (size := laneImage.size) (d := d) absent
      rw [tag, data]
      rfl
    next here =>
      obtain ⟨tag, data⟩ := stored_of_held (w := 8192) (size := laneImage.size) (d := d) rfl here
      exact ⟨tag, rfl, data⟩
  · rw [bit]
    simp [he]
  · exact (touched.same (fun u => u.ctx.g) fun _ _ => rfl).trans g

end Restores

end Sys2Proof.Machine

section

open Sys2Proof.Machine Sys2Proof.Claims

/-- Settles O39: a save stores the bytes of its slots at home, and a restore puts what its slots hold. -/
theorem savesAndRestoresMoveTheirImage : Obligations.SavesAndRestoresMoveTheirImage := by
  intro sel a b s d t live inv fences knows base full rows entries own home apart
  refine ⟨imageForms_misaligned, fun aligned legal held => ⟨fun slots disjoint => ?_, fun slots => ?_⟩,
    fun aligned room => ⟨fun slots disjoint => ?_, fun slots => ?_⟩⟩
  · obtain ⟨u, run, ⟨image, others⟩, bits, cursor, g, hoop⟩ := hsave_yields (b := b) aligned live inv fences knows legal held slots disjoint
    exact ⟨u, run, image, others, bits, cursor, g, hoop⟩
  · exact hrest_yields aligned legal held slots
  · obtain ⟨u, run, ⟨image, others⟩, bits, cursor, g, lane⟩ := vsave_yields (b := b) aligned live inv fences knows slots disjoint
    exact ⟨u, run, image, others, bits, cursor, g, lane⟩
  · exact vrest_yields aligned room slots

end
